-- ==== Sys2Proof/Word.lean ====
section
/-!
DEFINITION. Word.lean: the widths the spec works in (00 R4) and the one table type that holds sparse state.
-/
namespace Sys2Proof

/-- One byte. -/
abbrev Byte := BitVec 8

/-- A set of lanes of a cohort: bit l is lane l (02 R22). -/
abbrev Lanes := BitVec 32

/-- A table in canonical form: keys strictly rising, no entry equal to what an unlisted key reads as. -/
abbrev Tab (α : Type) := List (Nat × α)

end Sys2Proof
end

