-- ==== Sys2Proof/Config.lean ====
section
/-!
DEFINITION. Config.lean: the values the spec leaves open. Each is a constant without a body: no proof can see its value, so a
claim is true whatever it is.
-/
namespace Sys2Proof.Config

/-- The reset key pair that the firmware draws at a module reset (18 R274), the n-th drawn value. Log entry 8. -/
opaque resetKey (n : Nat) : BitVec 512

/-- The bytes a corrupted tile leaves in its destination (20 R304), the n-th free value. Log entry 3. -/
opaque freeByte (n i : Nat) : BitVec 8

/-- The public key, a point of P-384, whose hash is fused in the module (25 R353). Log entry 10. -/
opaque fusedKey : Nat × Nat

/-- An open 64-bit value, the n-th that is drawn. Log entry 3. -/
opaque freeWord (n : Nat) : BitVec 64

end Sys2Proof.Config
end

