-- ==== Sys2Proof/Machine/Aes.lean ====
section
/-!
DEFINITION. Aes.lean: the memory controllers' cipher, AES-256-XTS over a data unit of 128 bytes (10 R181; 18 R274, which names IEEE 1619). The
tables and steps of AES itself are the standard's (FIPS 197), which the spec names and does not repeat (log entry 9).
-/
namespace Sys2Proof.Machine.Aes

/-- The substitution table and its inverse, 32 bytes a row, the lowest byte first. -/
def subRows : List Nat := [
  0xc072a49cafa2d4adf04759fa7dc982ca76abd7fe2b670130c56f6bf27b777c63,
  0x75b227ebe28012079a059618c323c7041531d871f1e5a534ccf73f362693fdb7,
  0xcf584c4a39becb6a5bb1fc20ed00d153842fe329b3d63b52a05a6e1b1a2c8309,
  0xd2f3ff1021dab6bcf5389d928f40a351a89f3c507f02f94585334d43fbaaefd0,
  0xdb0b5ede14b8ee4688902a22dc4f816073195d643d7ea7c41744975fec130ccd,
  0x8ae7a65eaf4566ca94ed58d6d37c8e779e4959162acd3c25c2406490a3a32e0,
  0x9e1dc186b95735610ef6034866b53e708a8bbd4b1f74dde8c6b4a61c2e2578ba,
  0x16bb54b00f2d99416842e6bf0d89a18cdf2855cee9871e9b948ed9691198f8e1]
def invRows : List Nat := [
  0xcbe9dec444438e3487ff2f9b8239e37cfbd7f3819ea340bf38a53630d56a0952,
  0x25d18b6d49a25b76b224d92866a12e084ec3fa420b954cee3d23c2a632947b54,
  0x849d8da75746155edab9edfd5048706c92b6655dcc5ca4d41698688664f6f872,
  0x6b8a130103bdafc1020f3fca8f1e2cd00645b3b80558e4f70ad3bc8c00abd890,
  0x6edf751ce837f9e28535ade72274ac9673e6b4f0cecff297eadc674f4111913a,
  0xf45acd78fec0db9a2079d2c64b3e56fc1bbe18aa0e62b76f89c5291d711af147,
  0xef9cc9939f7ae52d0d4ab519a97f51605fec8027591012b131c7078833a8dd1f,
  0x7d0c2155631469e126d677ba7e042b17619953833cbbebc8b0f52aae4d3be0a0]

def look (rows : List Nat) (x : Nat) : Nat := rows.getD (x / 32) 0 / 2 ^ (8 * (x % 32)) % 256

/-- Multiply by x, and by a number below 16, in the field of AES. -/
def dbl (a : Nat) : Nat := if a < 128 then 2 * a else (2 * a % 256) ^^^ 0x1B

def mulBy (k a : Nat) : Nat :=
  let pick (i v : Nat) : Nat := if k / 2 ^ i % 2 = 1 then v else 0
  pick 0 a ^^^ pick 1 (dbl a) ^^^ pick 2 (dbl (dbl a)) ^^^ pick 3 (dbl (dbl (dbl a)))

def xors (a b : List Nat) : List Nat := a.zipWith (· ^^^ ·) b

/-- The round constants. -/
def rcon : Nat → Nat
  | 0 => 1
  | n + 1 => dbl (rcon n)

/-- The key schedule's words from word i on, the newest first: `n` more of them. -/
def expand : Nat → Nat → List (List Nat) → List (List Nat)
  | 0, _, ws => ws
  | n + 1, i, ws =>
    let t := ws.headD []
    let u := if i % 8 = 0 then xors ((t.drop 1 ++ t.take 1).map (look subRows)) [rcon (i / 8 - 1), 0, 0, 0]
      else if i % 8 = 4 then t.map (look subRows) else t
    expand n (i + 1) (xors u (ws.getD 7 []) :: ws)

/-- The fifteen round keys of a 32-byte key. -/
def roundKeys (key : List Nat) : List (List Nat) :=
  let ws := (expand 52 8 (((List.range 8).map (fun i => (key.drop (4 * i)).take 4)).reverse)).reverse
  (List.range 15).map (fun r => ((ws.drop (4 * r)).take 4).flatten)

/-- The rows of a block turn: row r by k * r columns. -/
def shiftRows (k : Nat) (b : List Nat) : List Nat :=
  (List.range 16).map (fun i => b.getD (i % 4 + 4 * ((i / 4 + k * (i % 4)) % 4)) 0)

/-- The columns of a block are multiplied by the matrix whose first row is m. -/
def mixCols (m b : List Nat) : List Nat :=
  (List.range 16).map (fun i =>
    (List.range 4).foldl (fun x k => x ^^^ mulBy (m.getD ((k + 4 - i % 4) % 4) 0) (b.getD (i / 4 * 4 + k) 0)) 0)

/-- Encrypt one block of 16 bytes. -/
def encBlock (ks : List (List Nat)) (b : List Nat) : List Nat :=
  let b := (List.range 13).foldl (fun b r =>
    xors (mixCols [2, 3, 1, 1] (shiftRows 1 (b.map (look subRows)))) (ks.getD (r + 1) [])) (xors b (ks.headD []))
  xors (shiftRows 1 (b.map (look subRows))) (ks.getD 14 [])

/-- Decrypt one. -/
def decBlock (ks : List (List Nat)) (b : List Nat) : List Nat :=
  let b := (List.range 13).foldl (fun b r =>
    mixCols [14, 11, 13, 9] (xors ((shiftRows 3 b).map (look invRows)) (ks.getD (13 - r) []))) (xors b (ks.getD 14 []))
  xors ((shiftRows 3 b).map (look invRows)) (ks.headD [])

/-- The bytes of a number, the lowest first. -/
def bytes (n x : Nat) : List Nat := (List.range n).map (fun i => x / 2 ^ (8 * i) % 256)

def number (bs : List Nat) : Nat := bs.foldr (fun b a => b + 256 * a) 0

/-- The tweaks of n successive blocks from a block's own on. -/
def tweaks : Nat → Nat → List Nat
  | 0, _ => []
  | n + 1, t => t :: tweaks n (2 * t % 2 ^ 128 ^^^ (if 2 ^ 127 ≤ t then 0x87 else 0))

/-- A data unit of eight blocks under a data key and a tweak key, with the tweak value `tw`: encrypted, or decrypted. -/
def xts (enc : Bool) (keys : BitVec 512) (tw : Nat) (x : BitVec 1024) : BitVec 1024 :=
  let ks := roundKeys (bytes 32 (keys.toNat % 2 ^ 256))
  let ts := roundKeys (bytes 32 (keys.toNat / 2 ^ 256))
  let t0 := number (encBlock ts (bytes 16 tw))
  let run (b : List Nat) : List Nat := if enc then encBlock ks b else decBlock ks b
  BitVec.ofNat 1024 (number (((tweaks 8 t0).zipIdx.map (fun e =>
    let t := bytes 16 e.1
    xors (run (xors (bytes 16 (x.toNat / 2 ^ (128 * e.2))) t)) t)).flatten))

end Sys2Proof.Machine.Aes

namespace Sys2Proof.Machine

/-- The tweak of a line under a KGEN (18 R274). -/
def lineTweak (line kgen : Nat) : Nat := line % 2 ^ 45 + kgen % 16 * 2 ^ 48

/-- What a line written under some keys and a tweak reads as under others: the stored ciphertext, decrypted (18 R274). -/
def garbled (x : BitVec 1024) (old : BitVec 512) (oldTw : Nat) (new : BitVec 512) (newTw : Nat) : BitVec 1024 :=
  Aes.xts false new newTw (Aes.xts true old oldTw x)

end Sys2Proof.Machine
end

