-- ==== Sys2Proof/Syntax.lean ====
section
/-!
DEFINITION. Syntax.lean: every row of spec/opcode_table.json as one constructor of Instr. The arguments of an encoded
instruction word are its fields, as numbers; Instr.wf (WellFormed.lean) bounds them. A pumphouse move and a bank
microcommand carry their fields in Move and Micro, which every port and every operation share; an event
(spec/95_what_each_step_holds.md) has no encoding. Their constructors name the row alone, and the step latches the fields,
or the items that an event acts on, in State (log entry 12).
-/
namespace Sys2Proof

/-- The fields of a 32-bit pumphouse move (15 R229): guard G and GS, ports DST and SRC, I, IMM17. -/
structure Move where
  g : Nat
  e : Nat
  d : Nat
  s : Nat
  i : Nat
  m : Nat
deriving DecidableEq, Repr

/-- The fields of a bank microcommand (15 R226). -/
structure Micro where
  op : Nat
  wr : Nat
  acc : Nat
  fmt : Nat
  h : Nat
deriving DecidableEq, Repr

/-- The instructions and events of the module. Classes alu to sys are instruction words (03 R64 to R73); pump moves are
the moves of a pumphouse bundle (15 R229, R230); micro are bank microcommands (15 R226); the rest are events. -/
inductive Instr where
  /-- CLAUSE_HEADER, R46. -/
  | clauseHeader (y b a w e c : Nat)
  /-- ADD, R107. -/
  | add (w d a b h g : Nat)
  /-- SUB, R107. -/
  | sub (w d a b h g : Nat)
  /-- MUL, R107. -/
  | mul (w d a b h g : Nat)
  /-- MULHI_I, R107. -/
  | mulhiI (w d a b h g : Nat)
  /-- MULHI_N, R107. -/
  | mulhiN (w d a b h g : Nat)
  /-- MIN_I, R107. -/
  | minI (w d a b h g : Nat)
  /-- MIN_N, R107. -/
  | minN (w d a b h g : Nat)
  /-- MAX_I, R107. -/
  | maxI (w d a b h g : Nat)
  /-- MAX_N, R107. -/
  | maxN (w d a b h g : Nat)
  /-- SHL, R107. -/
  | shl (w d a b h g : Nat)
  /-- SHR_N, R107. -/
  | shrN (w d a b h g : Nat)
  /-- SHR_I, R107. -/
  | shrI (w d a b h g : Nat)
  /-- ADDS_I, R107. -/
  | addsI (w d a b h g : Nat)
  /-- ADDS_N, R107. -/
  | addsN (w d a b h g : Nat)
  /-- SUBS_I, R107. -/
  | subsI (w d a b h g : Nat)
  /-- SUBS_N, R107. -/
  | subsN (w d a b h g : Nat)
  /-- AND, R108. -/
  | and (d a b h g : Nat)
  /-- OR, R108. -/
  | or (d a b h g : Nat)
  /-- XOR, R108. -/
  | xor (d a b h g : Nat)
  /-- ANDN, R108. -/
  | andn (d a b h g : Nat)
  /-- POPC_W, R109. -/
  | popcW (d a h g : Nat)
  /-- CLZ_W, R109. -/
  | clzW (d a h g : Nat)
  /-- BREV_W, R109. -/
  | brevW (d a h g : Nat)
  /-- BFX_N32, R110. -/
  | bfxN32 (d a b h g : Nat)
  /-- BFX_I32, R110. -/
  | bfxI32 (d a b h g : Nat)
  /-- BFI_W, R110. -/
  | bfiW (d a b h g : Nat)
  /-- LEA, R111. -/
  | lea (d a b h g : Nat)
  /-- SEL, R112. -/
  | sel (d a b h g : Nat)
  /-- CMP_I32, R114. -/
  | cmpI32 (d c a b h g : Nat)
  /-- CMP_N32, R114. -/
  | cmpN32 (d c a b h g : Nat)
  /-- CMP_I64, R114. -/
  | cmpI64 (d c a b h g : Nat)
  /-- CMP_N64, R114. -/
  | cmpN64 (d c a b h g : Nat)
  /-- CMP_F32, R114. -/
  | cmpF32 (d c a b h g : Nat)
  /-- CMP_F16, R114. -/
  | cmpF16 (d c a b h g : Nat)
  /-- CMP_BF16, R114. -/
  | cmpBf16 (d c a b h g : Nat)
  /-- PAND, R115. -/
  | pand (d a b g : Nat)
  /-- POR, R115. -/
  | por (d a b g : Nat)
  /-- PXOR, R115. -/
  | pxor (d a b g : Nat)
  /-- PANDN, R115. -/
  | pandn (d a b g : Nat)
  /-- PMOV, R115. -/
  | pmov (d a g : Nat)
  /-- PNOT, R115. -/
  | pnot (d a g : Nat)
  /-- MOV, R113. -/
  | mov (d a h g : Nat)
  /-- MVS, R113. -/
  | mvs (d s g : Nat)
  /-- MFV, R113. -/
  | mfv (a s h g : Nat)
  /-- FADD, R116. -/
  | fadd (t d a b h g : Nat)
  /-- FSUB, R116. -/
  | fsub (t d a b h g : Nat)
  /-- FMUL, R116. -/
  | fmul (t d a b h g : Nat)
  /-- FMA, R116. -/
  | fma (t d a b h g : Nat)
  /-- FMIN, R116. -/
  | fmin (t d a b h g : Nat)
  /-- FMAX, R116. -/
  | fmax (t d a b h g : Nat)
  /-- FABS, R116. -/
  | fabs (t d a h g : Nat)
  /-- FNEG, R116. -/
  | fneg (t d a h g : Nat)
  /-- FRCP_F32, R117. -/
  | frcpF32 (d a h g : Nat)
  /-- FRSQ_F32, R117. -/
  | frsqF32 (d a h g : Nat)
  /-- FEX2_F32, R117. -/
  | fex2F32 (d a h g : Nat)
  /-- FLG2_F32, R117. -/
  | flg2F32 (d a h g : Nat)
  /-- CVT_F32_F16, R118. -/
  | cvtF32F16 (d a r i h g : Nat)
  /-- CVT_F16_F32, R118. -/
  | cvtF16F32 (d a r i h g : Nat)
  /-- CVT_F32_BF16, R118. -/
  | cvtF32Bf16 (d a r i h g : Nat)
  /-- CVT_BF16_F32, R118. -/
  | cvtBf16F32 (d a r i h g : Nat)
  /-- CVT_F32_I32, R118. -/
  | cvtF32I32 (d a r i h g : Nat)
  /-- CVT_F32_N32, R118. -/
  | cvtF32N32 (d a r i h g : Nat)
  /-- CVT_I32_F32, R118. -/
  | cvtI32F32 (d a r i h g : Nat)
  /-- CVT_N32_F32, R118. -/
  | cvtN32F32 (d a r i h g : Nat)
  /-- CVT_E2M3_F32, R118. -/
  | cvtE2m3F32 (d a r i h g : Nat)
  /-- CVT_E3M2_F32, R118. -/
  | cvtE3m2F32 (d a r i h g : Nat)
  /-- CVT_E2M1_F32, R118. -/
  | cvtE2m1F32 (d a r i h g : Nat)
  /-- CVT_F32_E2M3, R118. -/
  | cvtF32E2m3 (d a r i h g : Nat)
  /-- CVT_F32_E3M2, R118. -/
  | cvtF32E3m2 (d a r i h g : Nat)
  /-- CVT_F32_E2M1, R118. -/
  | cvtF32E2m1 (d a r i h g : Nat)
  /-- CVT_S8PN_F32, R118. -/
  | cvtS8pnF32 (n d a r i h g : Nat)
  /-- CVT_N8PN_F32, R118. -/
  | cvtN8pnF32 (n d a r i h g : Nat)
  /-- CVT_F32_S8PN, R118. -/
  | cvtF32S8pn (n d a r i h g : Nat)
  /-- CVT_F32_N8PN, R118. -/
  | cvtF32N8pn (n d a r i h g : Nat)
  /-- SHFL_IDX, R120. -/
  | shflIdx (d a b h g : Nat)
  /-- SHFL_UP, R120. -/
  | shflUp (d a s h g : Nat)
  /-- SHFL_DOWN, R120. -/
  | shflDown (d a s h g : Nat)
  /-- SHFL_XOR, R120. -/
  | shflXor (d a s h g : Nat)
  /-- VOTE_BALLOT, R122. -/
  | voteBallot (p s g : Nat)
  /-- VOTE_ANY, R122. -/
  | voteAny (p s g : Nat)
  /-- VOTE_ALL, R122. -/
  | voteAll (p s g : Nat)
  /-- VOTE_UNI, R122. -/
  | voteUni (p s g : Nat)
  /-- REDADD_I32, R123. -/
  | redaddI32 (a s h g : Nat)
  /-- REDADD_F32, R123. -/
  | redaddF32 (a s h g : Nat)
  /-- REDMIN_I32, R123. -/
  | redminI32 (a s h g : Nat)
  /-- REDMAX_I32, R123. -/
  | redmaxI32 (a s h g : Nat)
  /-- REDMIN_F32, R123. -/
  | redminF32 (a s h g : Nat)
  /-- REDMAX_F32, R123. -/
  | redmaxF32 (a s h g : Nat)
  /-- BCAST, R121. -/
  | bcast (d a s h g : Nat)
  /-- EXT_N8, R124. -/
  | extN8 (d a x : Nat)
  /-- EXT_N16, R124. -/
  | extN16 (d a x : Nat)
  /-- EXT_W, R124. -/
  | extW (d a x : Nat)
  /-- INS_N8, R124. -/
  | insN8 (d a x : Nat)
  /-- INS_N16, R124. -/
  | insN16 (d a x : Nat)
  /-- INS_W, R124. -/
  | insW (d a x : Nat)
  /-- ADDI_I32, R125. -/
  | addiI32 (d a i : Nat)
  /-- ANDI, R125. -/
  | andi (d a i : Nat)
  /-- ORI, R125. -/
  | ori (d a i : Nat)
  /-- XORI, R125. -/
  | xori (d a i : Nat)
  /-- SHLI_W, R125. -/
  | shliW (d a i : Nat)
  /-- SHRI_N32, R125. -/
  | shriN32 (d a i : Nat)
  /-- SHRI_I32, R125. -/
  | shriI32 (d a i : Nat)
  /-- MOVI_I32, R125. -/
  | moviI32 (d i : Nat)
  /-- SADD, R126. -/
  | sadd (d a b : Nat)
  /-- SSUB, R126. -/
  | ssub (d a b : Nat)
  /-- SMUL, R126. -/
  | smul (d a b : Nat)
  /-- SMULHI_I, R126. -/
  | smulhiI (d a b : Nat)
  /-- SMULHI_N, R126. -/
  | smulhiN (d a b : Nat)
  /-- SAND, R126. -/
  | sand (d a b : Nat)
  /-- SOR, R126. -/
  | sor (d a b : Nat)
  /-- SXOR, R126. -/
  | sxor (d a b : Nat)
  /-- SSHL, R126. -/
  | sshl (d a b : Nat)
  /-- SSHR_N, R126. -/
  | sshrN (d a b : Nat)
  /-- SSHR_I, R126. -/
  | sshrI (d a b : Nat)
  /-- SMIN_I, R126. -/
  | sminI (d a b : Nat)
  /-- SMAX_I, R126. -/
  | smaxI (d a b : Nat)
  /-- SMIN_N, R126. -/
  | sminN (d a b : Nat)
  /-- SMAX_N, R126. -/
  | smaxN (d a b : Nat)
  /-- SMOV, R126. -/
  | smov (d a : Nat)
  /-- SSLT_I, R126. -/
  | ssltI (d a b : Nat)
  /-- SSLT_N, R126. -/
  | ssltN (d a b : Nat)
  /-- SSEQ, R126. -/
  | sseq (d a b : Nat)
  /-- SADDI, R127. -/
  | saddi (d a i : Nat)
  /-- SLUI, R127. -/
  | slui (d a i : Nat)
  /-- LD_N8, R188. -/
  | ldN8 (d a p o g : Nat)
  /-- LD_I8, R188. -/
  | ldI8 (d a p o g : Nat)
  /-- LD_N16, R188. -/
  | ldN16 (d a p o g : Nat)
  /-- LD_I16, R188. -/
  | ldI16 (d a p o g : Nat)
  /-- LD_W, R188. -/
  | ldW (d a p o g : Nat)
  /-- LD_D, R188. -/
  | ldD (d a p o g : Nat)
  /-- LD_Q, R188. -/
  | ldQ (d a p o g : Nat)
  /-- ST_N8, R188. -/
  | stN8 (s a p o g : Nat)
  /-- ST_N16, R188. -/
  | stN16 (s a p o g : Nat)
  /-- ST_W, R188. -/
  | stW (s a p o g : Nat)
  /-- ST_D, R188. -/
  | stD (s a p o g : Nat)
  /-- ST_Q, R188. -/
  | stQ (s a p o g : Nat)
  /-- STNIB, R190. -/
  | stnib (s a p o g : Nat)
  /-- STSIX, R190. -/
  | stsix (s a p o g : Nat)
  /-- LDU_D, R191. -/
  | lduD (d a p o : Nat)
  /-- STU_D, R191. -/
  | stuD (s a p o : Nat)
  /-- LDACQ_W, R192. -/
  | ldacqW (d a p s g : Nat)
  /-- LDACQ_D, R192. -/
  | ldacqD (d a p s g : Nat)
  /-- LDACQ_Q, R192. -/
  | ldacqQ (d a p s g : Nat)
  /-- STREL_W, R192. -/
  | strelW (s a p sc g : Nat)
  /-- STREL_D, R192. -/
  | strelD (s a p sc g : Nat)
  /-- STREL_Q, R192. -/
  | strelQ (s a p sc g : Nat)
  /-- ATOM_ADD_I32, R195. -/
  | atomAddI32 (d a p o g : Nat)
  /-- ATOM_ADD_I64, R195. -/
  | atomAddI64 (d a p o g : Nat)
  /-- ATOM_ADD_F32, R195. -/
  | atomAddF32 (d a p o g : Nat)
  /-- ATOM_MIN_I32, R195. -/
  | atomMinI32 (d a p o g : Nat)
  /-- ATOM_MIN_N32, R195. -/
  | atomMinN32 (d a p o g : Nat)
  /-- ATOM_MAX_I32, R195. -/
  | atomMaxI32 (d a p o g : Nat)
  /-- ATOM_MAX_N32, R195. -/
  | atomMaxN32 (d a p o g : Nat)
  /-- ATOM_AND_W, R195. -/
  | atomAndW (d a p o g : Nat)
  /-- ATOM_OR_W, R195. -/
  | atomOrW (d a p o g : Nat)
  /-- ATOM_XOR_W, R195. -/
  | atomXorW (d a p o g : Nat)
  /-- ATOM_XCHG_W, R195. -/
  | atomXchgW (d a p o g : Nat)
  /-- ATOM_XCHG_D, R195. -/
  | atomXchgD (d a p o g : Nat)
  /-- ATOM_CAS_W, R195. -/
  | atomCasW (d a p o g : Nat)
  /-- ATOM_CAS_D, R195. -/
  | atomCasD (d a p o g : Nat)
  /-- MRED_ADD_I32, R197. -/
  | mredAddI32 (s a p o g : Nat)
  /-- MRED_ADD_I64, R197. -/
  | mredAddI64 (s a p o g : Nat)
  /-- MRED_ADD_F32, R197. -/
  | mredAddF32 (s a p o g : Nat)
  /-- MRED_MIN_I32, R197. -/
  | mredMinI32 (s a p o g : Nat)
  /-- MRED_MIN_N32, R197. -/
  | mredMinN32 (s a p o g : Nat)
  /-- MRED_MAX_I32, R197. -/
  | mredMaxI32 (s a p o g : Nat)
  /-- MRED_MAX_N32, R197. -/
  | mredMaxN32 (s a p o g : Nat)
  /-- MRED_AND_W, R197. -/
  | mredAndW (s a p o g : Nat)
  /-- MRED_OR_W, R197. -/
  | mredOrW (s a p o g : Nat)
  /-- MRED_XOR_W, R197. -/
  | mredXorW (s a p o g : Nat)
  /-- FENCE, R193. -/
  | fence (s k g : Nat)
  /-- CCLEAN, R198. -/
  | cclean (a p o g : Nat)
  /-- CFLUSH, R198. -/
  | cflush (a p o g : Nat)
  /-- PFETCH, R198. -/
  | pfetch (a p o g : Nat)
  /-- CPIN, R200. -/
  | cpin (d a b c : Nat)
  /-- CPOUT, R200. -/
  | cpout (d a b c : Nat)
  /-- CPWAIT, R204. -/
  | cpwait (d a c : Nat)
  /-- BANKMODE, R205. -/
  | bankmode (a m : Nat)
  /-- TRESV, R144. -/
  | tresv (t l o : Nat)
  /-- TFREE, R144. -/
  | tfree (t : Nat)
  /-- TSET, R144. -/
  | tset (t i : Nat)
  /-- TSET_ROWS, R144. -/
  | tsetRows (t n : Nat)
  /-- KSET_ARM, R148. -/
  | ksetArm (k n : Nat)
  /-- KSET_SIGN, R148. -/
  | ksetSign (k : Nat)
  /-- KSET_OFF, R148. -/
  | ksetOff (k : Nat)
  /-- WLOAD, R151. -/
  | wload (t : Nat)
  /-- WSWAP, R152. -/
  | wswap
  /-- MSTREAM, R154. -/
  | mstream (t a k v g o m : Nat)
  /-- MBATCH, R155. -/
  | mbatch (t k v g m : Nat)
  /-- AREAD, R156. -/
  | aread (r a q c d h e : Nat)
  /-- ASTORE, R156. -/
  | astore (t a o m : Nat)
  /-- AZERO, R156. -/
  | azero (a o m : Nat)
  /-- BR, R131. -/
  | br (o g : Nat)
  /-- BRA, R131. -/
  | bra (o g : Nat)
  /-- CALL, R131. -/
  | call (o g : Nat)
  /-- RET, R131. -/
  | ret (g : Nat)
  /-- JMPI, R131. -/
  | jmpi (a h g : Nat)
  /-- CALLI, R131. -/
  | calli (a h g : Nat)
  /-- JOIN, R134. -/
  | join (a b : Nat)
  /-- LEAVE, R134. -/
  | leave (a : Nat)
  /-- WAITM, R134. -/
  | waitm (a b p n : Nat)
  /-- BAR, R137. -/
  | bar (a b n : Nat)
  /-- EXIT, R132. -/
  | exit (g : Nat)
  /-- NOP, R132. -/
  | nop (g : Nat)
  /-- YIELD, R132. -/
  | yield (g : Nat)
  /-- BRK, R132. -/
  | brk (c g : Nat)
  /-- DONATE, R140. -/
  | donate (g c : Nat)
  /-- ACCEPT, R140. -/
  | accept (g c : Nat)
  /-- QINIT, R289. -/
  | qinit (a b : Nat)
  /-- QPUSH, R289. -/
  | qpush (s b r g : Nat)
  /-- QPOP, R289. -/
  | qpop (d b r g : Nat)
  /-- SARR, R291. -/
  | sarr (a b : Nat)
  /-- SWT, R291. -/
  | swt (a b p : Nat)
  /-- TSPAWN, R294. -/
  | tspawn (s g : Nat)
  /-- TTAKE, R294. -/
  | ttake (d g : Nat)
  /-- TSTEAL, R294. -/
  | tsteal (d g : Nat)
  /-- LLOCK, R325. -/
  | llock (d a b g : Nat)
  /-- LTRY, R325. -/
  | ltry (d a g : Nat)
  /-- LUNLOCK, R325. -/
  | lunlock (a g : Nat)
  /-- LUNLOCK_W, R325. -/
  | lunlockW (s a g : Nat)
  /-- LUNLOCK_D, R325. -/
  | lunlockD (s a g : Nat)
  /-- LUNLOCK_Q, R325. -/
  | lunlockQ (s a g : Nat)
  /-- LSTAT, R326. -/
  | lstat (d a g : Nat)
  /-- LSTAT_LIST, R326. -/
  | lstatList (d b g : Nat)
  /-- UNFOLD, R332. -/
  | unfold (d a b : Nat)
  /-- SPAWNF, R337. -/
  | spawnf (s g : Nat)
  /-- FRET, R338. -/
  | fret (s : Nat)
  /-- CRES, R339. -/
  | cres (d g : Nat)
  /-- SECOPEN, R245. -/
  | secopen (a b : Nat)
  /-- SECABORT, R256. -/
  | secabort (a : Nat)
  /-- SECSTAT, R257. -/
  | secstat (d a : Nat)
  /-- PUMPGO, R234. -/
  | pumpgo (a b : Nat)
  /-- PUMPWAIT, R235. -/
  | pumpwait (d a : Nat)
  /-- MVSPLIT, R236. -/
  | mvsplit (d a b : Nat)
  /-- BOARD_SHADOW, R302. -/
  | boardShadow (a : Nat)
  /-- BOARD_TILE, R302. -/
  | boardTile (a t : Nat)
  /-- UNBOARD, R306. -/
  | unboard (a : Nat)
  /-- BOARDSTAT, R307. -/
  | boardstat (d a : Nat)
  /-- MFSR, R166. -/
  | mfsr (r s : Nat)
  /-- MTSR, R166. -/
  | mtsr (r s : Nat)
  /-- TRAP, R166. -/
  | trap (c : Nat)
  /-- TRET, R166. -/
  | tret
  /-- FENCEI, R166. -/
  | fencei
  /-- PUMP_MOVE, R229. -/
  | pumpMove
  /-- ALUADD, R230. -/
  | aluadd
  /-- ALUSUB, R230. -/
  | alusub
  /-- ALUAND, R230. -/
  | aluand
  /-- ALUOR, R230. -/
  | aluor
  /-- ALUXOR, R230. -/
  | aluxor
  /-- ALUSHL, R230. -/
  | alushl
  /-- ALUSHR, R230. -/
  | alushr
  /-- ALUSRA, R230. -/
  | alusra
  /-- ALUMUL, R230. -/
  | alumul
  /-- CMPEQ, R230. -/
  | cmpeq
  /-- CMPLT, R230. -/
  | cmplt
  /-- CMPLTU, R230. -/
  | cmpltu
  /-- SFUFMA, R230. -/
  | sfufma
  /-- SFUCVT, R230. -/
  | sfucvt
  /-- LDG, R230. -/
  | ldg
  /-- LDS, R230. -/
  | lds
  /-- STG, R230. -/
  | stg
  /-- STS, R230. -/
  | sts
  /-- BKC, R230. -/
  | bkc
  /-- SLUICE, R249. -/
  | sluice
  /-- PUMP_DONE, R230. -/
  | pumpDone
  /-- JUMP, R230. -/
  | jump
  /-- JREL, R230. -/
  | jrel
  /-- DRAIN, R230. -/
  | drain
  /-- MICRO_ACT, R227. -/
  | microAct
  /-- MICRO_MAC, R227. -/
  | microMac
  /-- MICRO_WB, R227. -/
  | microWb
  /-- MICRO_PRE, R227. -/
  | microPre
  /-- MICRO_CLR, R227. -/
  | microClr
  /-- BANK_SUSPENSION, R238. -/
  | bankSuspension
  /-- BANK_RESUMPTION, R238. -/
  | bankResumption
  /-- NORMAL_REQUEST_ADMISSION, R238. -/
  | normalRequestAdmission
  /-- PUMP_LAUNCH_START, R231. -/
  | pumpLaunchStart
  /-- PUMP_LIMIT_TIMEOUT, R232. -/
  | pumpLimitTimeout
  /-- PUMP_LAUNCH_END, R232. -/
  | pumpLaunchEnd
  /-- SECTION_START, R246. -/
  | sectionStart
  /-- SLICE_CLAIM, R246. -/
  | sliceClaim
  /-- SLICE_SNAPSHOT, R249. -/
  | sliceSnapshot
  /-- SLUICE_OUTCOME, R244. -/
  | sluiceOutcome
  /-- SEGMENT_COMMIT, R250. -/
  | segmentCommit
  /-- SEGMENT_REPLAY, R251. -/
  | segmentReplay
  /-- SPILL_REQUEST, R253. -/
  | spillRequest
  /-- SLICE_READ, R208. -/
  | sliceRead
  /-- SLICE_WRITE, R178. -/
  | sliceWrite
  /-- SLICE_ATOMIC, R196. -/
  | sliceAtomic
  /-- INVALIDATION, R178. -/
  | invalidation
  /-- LOAD_RETURN, R186. -/
  | loadReturn
  /-- WRITE_ACKNOWLEDGEMENT, R186. -/
  | writeAcknowledgement
  /-- L1_EVICTION, R187. -/
  | l1Eviction
  /-- WALK_COMPLETION, R267. -/
  | walkCompletion
  /-- FAULT_RECORD_DEFERRED, R162. -/
  | faultRecordDeferred
  /-- COPY_PIECE_DELIVERY, R202. -/
  | copyPieceDelivery
  /-- BANKMODE_DRAIN_COMPLETE, R205. -/
  | bankmodeDrainComplete
  /-- GATE_ACCEPT, R149. -/
  | gateAccept
  /-- WLOAD_FILL, R151. -/
  | wloadFill
  /-- WSWAP_EXECUTE, R152. -/
  | wswapExecute
  /-- MSTREAM_EXECUTE, R154. -/
  | mstreamExecute
  /-- MBATCH_EXECUTE, R155. -/
  | mbatchExecute
  /-- AREAD_EXECUTE, R156. -/
  | areadExecute
  /-- ASTORE_EXECUTE, R156. -/
  | astoreExecute
  /-- AZERO_EXECUTE, R156. -/
  | azeroExecute
  /-- DONATION_COMPLETE, R96. -/
  | donationComplete
  /-- WAITM_TIMEOUT, R134. -/
  | waitmTimeout
  /-- BARRIER_TIMEOUT, R138. -/
  | barrierTimeout
  /-- HANG_REPORT, R40. -/
  | hangReport
  /-- GRANULE_RETURN, R43. -/
  | granuleReturn
  /-- TEAM_RELEASE, R44. -/
  | teamRelease
  /-- DISPATCH_DECISION, R282. -/
  | dispatchDecision
  /-- TEAM_STOP, R167. -/
  | teamStop
  /-- TEAM_SAVE, R168. -/
  | teamSave
  /-- TEAM_RESTORE, R170. -/
  | teamRestore
  /-- SLOT_ISSUE, R299. -/
  | slotIssue
  /-- BOARD_ARM, R302. -/
  | boardArm
  /-- SLOT_PASSAGE, R303. -/
  | slotPassage
  /-- DELIVERY_CRC_CHECK, R304. -/
  | deliveryCrcCheck
  /-- CORRUPTED_TILE_FAULT, R305. -/
  | corruptedTileFault
  /-- LOCK_REQUEST, R314. -/
  | lockRequest
  /-- LOCK_GRANT, R315. -/
  | lockGrant
  /-- UNLOCK_STEP, R318. -/
  | unlockStep
  /-- LOCK_TIMEOUT, R319. -/
  | lockTimeout
  /-- ROUTINE_DISPATCH, R333. -/
  | routineDispatch
  /-- LEVEL_END, R337. -/
  | levelEnd
  /-- SUBMIT_GRAPH, R280. -/
  | submitGraph
  /-- RESUME, R163. -/
  | resume
  /-- PREEMPT, R350. -/
  | preempt
  /-- PREEMPT_HOLD, R350. -/
  | preemptHold
  /-- PREEMPT_RELEASE, R350. -/
  | preemptRelease
  /-- POLDER_SET_ENTRY, R271. -/
  | polderSetEntry
  /-- POLDER_SET_ACCESS, R269. -/
  | polderSetAccess
  /-- POLDER_SET_TROOT, R264. -/
  | polderSetTroot
  /-- POLDER_SET_ROWS, R273. -/
  | polderSetRows
  /-- RING_LOAD, R298. -/
  | ringLoad
  /-- KEY_INSTALL, R274. -/
  | keyInstall
  /-- KEY_DESTROY, R275. -/
  | keyDestroy
  /-- RESET_VF, R350. -/
  | resetVf
  /-- CQTAIL_DOORBELL, R351. -/
  | cqtailDoorbell
  /-- CQLGD_WRITE, R348. -/
  | cqlgdWrite
  /-- FQLGD_WRITE, R348. -/
  | fqlgdWrite
  /-- RQLGD_WRITE, R348. -/
  | rqlgdWrite
  /-- FQRD_WRITE, R348. -/
  | fqrdWrite
  /-- REGISTER_WRITE, R348. -/
  | registerWrite
  /-- LDCTL_FIRMWARE, R354. -/
  | ldctlFirmware
  /-- LDCTL_BLOB, R354. -/
  | ldctlBlob
  /-- PERFSEL_WRITE, R346. -/
  | perfselWrite
  /-- MODULE_RESET, R353. -/
  | moduleReset
  /-- GOVERNOR_INTERVAL, R357. -/
  | governorInterval
  /-- THERMAL_TRIP, R358. -/
  | thermalTrip
  /-- NORMAL_COMMAND_ISSUE, R238. -/
  | normalCommandIssue
  /-- OUTCOME_AT_WINDOW_SLICE, R251. -/
  | outcomeAtWindowSlice
  /-- MESH_OPERATION_AT_QUEUE_ARBITER, R295. -/
  | meshOperationAtQueueArbiter
  /-- UNFOLD_RELEASE, R332. -/
  | unfoldRelease
  /-- LINK_LEVEL_REPLAY, R356. -/
  | linkLevelReplay
  /-- PLODOR_BREAKPOINT_ARM, R132. -/
  | plodorBreakpointArm
deriving DecidableEq, Repr

end Sys2Proof
end

