-- ==== Sys2Proof/WellFormed.lean ====
section
/-!
DEFINITION. WellFormed.lean: when the fields of an instruction are an instruction of the spec. The bounds are the widths of
the fields; the further conditions are the reserved codes, element indexes and system register numbers of 03 R58 order 1
and 2. Register numbers outside the allocation (R57) are checked by the meanings, since they depend on the state.
-/
namespace Sys2Proof

/-- System register numbers that R92 assigns and `mfsr` reads (05 R92; 03 R73). -/
def sysregAssigned (n : Nat) : Bool :=
  n ≤ 6 || (8 ≤ n && n ≤ 10) || (0x10 ≤ n && n ≤ 0x17) || (0x20 ≤ n && n ≤ 0x26) || (0x30 ≤ n && n ≤ 0x37) ||
  (0x40 ≤ n && n ≤ 0x4F) || n == 0x70 || n == 0x71

/-- System register numbers whose access is RW (05 R92): the others refuse `mtsr` (03 R73). -/
def sysregWritable (n : Nat) : Bool :=
  (8 ≤ n && n ≤ 10) || n == 0x21 || n == 0x70

/-- The conversion control field of 03 R67: RM is a code 0 to 5, RM 4 only where `sr`, INF only where `b8`. -/
def cvtControl (r i : Nat) (sr b8 : Bool) : Bool :=
  r ≤ 5 && (sr || r != 4) && i ≤ 1 && (b8 || i == 0)

/-- The ports that a move may read (15 R230: kinds R, and R and W). -/
def portReadable (s : Nat) : Bool :=
  s ≤ 15 || s == 26 || s == 31 || s == 36 || s == 39 || s == 46 || (51 ≤ s && s ≤ 54) || s == 56

/-- The ports that trigger a unit (15 R230: kind T). -/
def portTrigger (d : Nat) : Bool :=
  (17 ≤ d && d ≤ 25) || (28 ≤ d && d ≤ 30) || d == 34 || d == 35 || d == 37 || d == 38 || d == 41 || d == 42 || d == 45 ||
  (47 ≤ d && d ≤ 50) || d == 55

/-- The ports that a move may write (15 R230: kinds W, R and W, and T). -/
def portWritable (d : Nat) : Bool :=
  d ≤ 16 || d == 27 || d == 32 || d == 33 || d == 40 || d == 43 || d == 44 || d == 56 || portTrigger d

/-- The conditions of 15 R231 on one move: no reserved port, no read of a W or T port, no write of an R-only port, SRC zero
with I = 1 and IMM17 zero with I = 0. -/
def Move.wf (x : Move) : Bool :=
  x.g < 2 && x.e < 2 && portWritable x.d &&
  ((x.i == 1 && x.s == 0 && x.m < 131072) || (x.i == 0 && x.m == 0 && portReadable x.s))

/-- A microcommand whose OP, WR, FMT and H are what the operation allows (15 R226, R227). -/
def Micro.wf (x : Micro) : Bool :=
  x.op ≤ 4 && x.wr ≤ 1 && x.acc ≤ 3 && x.fmt ≤ 3 && x.h ≤ 3 &&
  (x.op == 0 || x.wr == 0) &&
  (x.op == 1 || x.op == 2 || (x.fmt == 0 && x.h == 0)) &&
  (x.op != 1 || (x.fmt ≤ 1 && x.h == 0)) &&
  (x.op != 2 || 2 ≤ x.fmt || x.h == 0)

/-- The instruction is one of the spec's: every field in its width, no reserved code (03 R58). -/
def Instr.wf : Instr → Bool
  | .clauseHeader y b a w e c => y < 2 && b < 16 && a < 16 && w < 4096 && e ≤ 6 && 1 ≤ c && c ≤ 15
  | .add w d a b h g => w < 4 && d < 64 && a < 64 && b < 64 && h < 4 && g < 8
  | .sub w d a b h g => w < 4 && d < 64 && a < 64 && b < 64 && h < 4 && g < 8
  | .mul w d a b h g => w < 4 && d < 64 && a < 64 && b < 64 && h < 4 && g < 8
  | .mulhiI w d a b h g => w < 4 && d < 64 && a < 64 && b < 64 && h < 4 && g < 8
  | .mulhiN w d a b h g => w < 4 && d < 64 && a < 64 && b < 64 && h < 4 && g < 8
  | .minI w d a b h g => w < 4 && d < 64 && a < 64 && b < 64 && h < 4 && g < 8
  | .minN w d a b h g => w < 4 && d < 64 && a < 64 && b < 64 && h < 4 && g < 8
  | .maxI w d a b h g => w < 4 && d < 64 && a < 64 && b < 64 && h < 4 && g < 8
  | .maxN w d a b h g => w < 4 && d < 64 && a < 64 && b < 64 && h < 4 && g < 8
  | .shl w d a b h g => w < 4 && d < 64 && a < 64 && b < 64 && h < 4 && g < 8
  | .shrN w d a b h g => w < 4 && d < 64 && a < 64 && b < 64 && h < 4 && g < 8
  | .shrI w d a b h g => w < 4 && d < 64 && a < 64 && b < 64 && h < 4 && g < 8
  | .addsI w d a b h g => w < 4 && d < 64 && a < 64 && b < 64 && h < 4 && g < 8
  | .addsN w d a b h g => w < 4 && d < 64 && a < 64 && b < 64 && h < 4 && g < 8
  | .subsI w d a b h g => w < 4 && d < 64 && a < 64 && b < 64 && h < 4 && g < 8
  | .subsN w d a b h g => w < 4 && d < 64 && a < 64 && b < 64 && h < 4 && g < 8
  | .and d a b h g => d < 64 && a < 64 && b < 64 && h < 4 && g < 8
  | .or d a b h g => d < 64 && a < 64 && b < 64 && h < 4 && g < 8
  | .xor d a b h g => d < 64 && a < 64 && b < 64 && h < 4 && g < 8
  | .andn d a b h g => d < 64 && a < 64 && b < 64 && h < 4 && g < 8
  | .popcW d a h g => d < 64 && a < 64 && h < 2 && g < 8
  | .clzW d a h g => d < 64 && a < 64 && h < 2 && g < 8
  | .brevW d a h g => d < 64 && a < 64 && h < 2 && g < 8
  | .bfxN32 d a b h g => d < 64 && a < 64 && b < 64 && h < 4 && g < 8
  | .bfxI32 d a b h g => d < 64 && a < 64 && b < 64 && h < 4 && g < 8
  | .bfiW d a b h g => d < 64 && a < 64 && b < 64 && h < 8 && g < 8
  | .lea d a b h g => d < 64 && a < 64 && b < 64 && h < 4 && g < 8
  | .sel d a b h g => d < 64 && a < 64 && b < 64 && h < 4 && g < 8
  | .cmpI32 d c a b h g => d < 8 && c ≤ 5 && a < 64 && b < 64 && h < 4 && g < 8
  | .cmpN32 d c a b h g => d < 8 && c ≤ 5 && a < 64 && b < 64 && h < 4 && g < 8
  | .cmpI64 d c a b h g => d < 8 && c ≤ 5 && a < 64 && b < 64 && h < 4 && g < 8
  | .cmpN64 d c a b h g => d < 8 && c ≤ 5 && a < 64 && b < 64 && h < 4 && g < 8
  | .cmpF32 d c a b h g => d < 8 && c ≤ 6 && a < 64 && b < 64 && h < 4 && g < 8
  | .cmpF16 d c a b h g => d < 8 && c ≤ 6 && a < 64 && b < 64 && h < 4 && g < 8
  | .cmpBf16 d c a b h g => d < 8 && c ≤ 6 && a < 64 && b < 64 && h < 4 && g < 8
  | .pand d a b g => d < 8 && a < 8 && b < 8 && g < 8
  | .por d a b g => d < 8 && a < 8 && b < 8 && g < 8
  | .pxor d a b g => d < 8 && a < 8 && b < 8 && g < 8
  | .pandn d a b g => d < 8 && a < 8 && b < 8 && g < 8
  | .pmov d a g => d < 8 && a < 8 && g < 8
  | .pnot d a g => d < 8 && a < 8 && g < 8
  | .mov d a h g => d < 64 && a < 64 && h < 2 && g < 8
  | .mvs d s g => d < 64 && s < 64 && g < 8
  | .mfv a s h g => a < 64 && s < 64 && h < 2 && g < 8
  | .fadd t d a b h g => t ≤ 2 && d < 64 && a < 64 && b < 64 && h < 4 && g < 8
  | .fsub t d a b h g => t ≤ 2 && d < 64 && a < 64 && b < 64 && h < 4 && g < 8
  | .fmul t d a b h g => t ≤ 2 && d < 64 && a < 64 && b < 64 && h < 4 && g < 8
  | .fma t d a b h g => t ≤ 2 && d < 64 && a < 64 && b < 64 && h < 8 && g < 8
  | .fmin t d a b h g => t ≤ 2 && d < 64 && a < 64 && b < 64 && h < 4 && g < 8
  | .fmax t d a b h g => t ≤ 2 && d < 64 && a < 64 && b < 64 && h < 4 && g < 8
  | .fabs t d a h g => t ≤ 2 && d < 64 && a < 64 && h < 2 && g < 8
  | .fneg t d a h g => t ≤ 2 && d < 64 && a < 64 && h < 2 && g < 8
  | .frcpF32 d a h g => d < 64 && a < 64 && h < 2 && g < 8
  | .frsqF32 d a h g => d < 64 && a < 64 && h < 2 && g < 8
  | .fex2F32 d a h g => d < 64 && a < 64 && h < 2 && g < 8
  | .flg2F32 d a h g => d < 64 && a < 64 && h < 2 && g < 8
  | .cvtF32F16 d a r i h g => d < 64 && a < 64 && h < 2 && g < 8 && cvtControl r i false false
  | .cvtF16F32 d a r i h g => d < 64 && a < 64 && h < 8 && h / 2 % 2 == 0 && g < 8 && cvtControl r i true false
  | .cvtF32Bf16 d a r i h g => d < 64 && a < 64 && h < 2 && g < 8 && cvtControl r i false false
  | .cvtBf16F32 d a r i h g => d < 64 && a < 64 && h < 8 && h / 2 % 2 == 0 && g < 8 && cvtControl r i true false
  | .cvtF32I32 d a r i h g => d < 64 && a < 64 && h < 2 && g < 8 && cvtControl r i false false
  | .cvtF32N32 d a r i h g => d < 64 && a < 64 && h < 2 && g < 8 && cvtControl r i false false
  | .cvtI32F32 d a r i h g => d < 64 && a < 64 && h < 2 && g < 8 && cvtControl r i false false
  | .cvtN32F32 d a r i h g => d < 64 && a < 64 && h < 2 && g < 8 && cvtControl r i false false
  | .cvtE2m3F32 d a r i h g => d < 64 && a < 64 && h < 8 && h / 2 % 2 == 0 && g < 8 && cvtControl r i true false
  | .cvtE3m2F32 d a r i h g => d < 64 && a < 64 && h < 8 && h / 2 % 2 == 0 && g < 8 && cvtControl r i true false
  | .cvtE2m1F32 d a r i h g => d < 64 && a < 64 && h < 8 && h / 2 % 2 == 0 && g < 8 && cvtControl r i true false
  | .cvtF32E2m3 d a r i h g => d < 64 && a < 64 && h < 2 && g < 8 && cvtControl r i false false
  | .cvtF32E3m2 d a r i h g => d < 64 && a < 64 && h < 2 && g < 8 && cvtControl r i false false
  | .cvtF32E2m1 d a r i h g => d < 64 && a < 64 && h < 2 && g < 8 && cvtControl r i false false
  | .cvtS8pnF32 n d a r i h g => 1 ≤ n && n ≤ 7 && d < 64 && a < 64 && h < 8 && h / 2 % 2 == 0 && g < 8 && cvtControl r i true true
  | .cvtN8pnF32 n d a r i h g => 1 ≤ n && n ≤ 7 && d < 64 && a < 64 && h < 8 && h / 2 % 2 == 0 && g < 8 && cvtControl r i true true
  | .cvtF32S8pn n d a r i h g => 1 ≤ n && n ≤ 7 && d < 64 && a < 64 && h < 2 && g < 8 && cvtControl r i false true
  | .cvtF32N8pn n d a r i h g => 1 ≤ n && n ≤ 7 && d < 64 && a < 64 && h < 2 && g < 8 && cvtControl r i false true
  | .shflIdx d a b h g => d < 64 && a < 64 && b < 64 && h < 4 && g < 8
  | .shflUp d a s h g => d < 64 && a < 64 && s < 64 && h < 2 && g < 8
  | .shflDown d a s h g => d < 64 && a < 64 && s < 64 && h < 2 && g < 8
  | .shflXor d a s h g => d < 64 && a < 64 && s < 64 && h < 2 && g < 8
  | .voteBallot p s g => p < 8 && s < 64 && g < 8
  | .voteAny p s g => p < 8 && s < 64 && g < 8
  | .voteAll p s g => p < 8 && s < 64 && g < 8
  | .voteUni p s g => p < 8 && s < 64 && g < 8
  | .redaddI32 a s h g => a < 64 && s < 64 && h < 2 && g < 8
  | .redaddF32 a s h g => a < 64 && s < 64 && h < 2 && g < 8
  | .redminI32 a s h g => a < 64 && s < 64 && h < 2 && g < 8
  | .redmaxI32 a s h g => a < 64 && s < 64 && h < 2 && g < 8
  | .redminF32 a s h g => a < 64 && s < 64 && h < 2 && g < 8
  | .redmaxF32 a s h g => a < 64 && s < 64 && h < 2 && g < 8
  | .bcast d a s h g => d < 64 && a < 64 && s < 64 && h < 2 && g < 8
  | .extN8 d a x => d < 64 && a < 64 && x < 16
  | .extN16 d a x => d < 64 && a < 64 && x < 8
  | .extW d a x => d < 64 && a < 64 && x < 4
  | .insN8 d a x => d < 64 && a < 64 && x < 16
  | .insN16 d a x => d < 64 && a < 64 && x < 8
  | .insW d a x => d < 64 && a < 64 && x < 4
  | .addiI32 d a i => d < 64 && a < 64 && i < 4096
  | .andi d a i => d < 64 && a < 64 && i < 4096
  | .ori d a i => d < 64 && a < 64 && i < 4096
  | .xori d a i => d < 64 && a < 64 && i < 4096
  | .shliW d a i => d < 64 && a < 64 && i < 32
  | .shriN32 d a i => d < 64 && a < 64 && i < 32
  | .shriI32 d a i => d < 64 && a < 64 && i < 32
  | .moviI32 d i => d < 64 && i < 4096
  | .sadd d a b => d < 64 && a < 64 && b < 64
  | .ssub d a b => d < 64 && a < 64 && b < 64
  | .smul d a b => d < 64 && a < 64 && b < 64
  | .smulhiI d a b => d < 64 && a < 64 && b < 64
  | .smulhiN d a b => d < 64 && a < 64 && b < 64
  | .sand d a b => d < 64 && a < 64 && b < 64
  | .sor d a b => d < 64 && a < 64 && b < 64
  | .sxor d a b => d < 64 && a < 64 && b < 64
  | .sshl d a b => d < 64 && a < 64 && b < 64
  | .sshrN d a b => d < 64 && a < 64 && b < 64
  | .sshrI d a b => d < 64 && a < 64 && b < 64
  | .sminI d a b => d < 64 && a < 64 && b < 64
  | .smaxI d a b => d < 64 && a < 64 && b < 64
  | .sminN d a b => d < 64 && a < 64 && b < 64
  | .smaxN d a b => d < 64 && a < 64 && b < 64
  | .smov d a => d < 64 && a < 64
  | .ssltI d a b => d < 64 && a < 64 && b < 64
  | .ssltN d a b => d < 64 && a < 64 && b < 64
  | .sseq d a b => d < 64 && a < 64 && b < 64
  | .saddi d a i => d < 64 && a < 64 && i < 4096
  | .slui d a i => d < 64 && a < 64 && i < 4096
  | .ldN8 d a p o g => d < 64 && a < 64 && p < 8 && o < 64 && g < 8
  | .ldI8 d a p o g => d < 64 && a < 64 && p < 8 && o < 64 && g < 8
  | .ldN16 d a p o g => d < 64 && a < 64 && p < 8 && o < 64 && g < 8
  | .ldI16 d a p o g => d < 64 && a < 64 && p < 8 && o < 64 && g < 8
  | .ldW d a p o g => d < 64 && a < 64 && p < 8 && o < 64 && g < 8
  | .ldD d a p o g => d < 64 && a < 64 && p < 8 && o < 64 && g < 8
  | .ldQ d a p o g => d < 64 && a < 64 && p < 8 && o < 64 && g < 8
  | .stN8 s a p o g => s < 64 && a < 64 && p < 8 && o < 64 && g < 8
  | .stN16 s a p o g => s < 64 && a < 64 && p < 8 && o < 64 && g < 8
  | .stW s a p o g => s < 64 && a < 64 && p < 8 && o < 64 && g < 8
  | .stD s a p o g => s < 64 && a < 64 && p < 8 && o < 64 && g < 8
  | .stQ s a p o g => s < 64 && a < 64 && p < 8 && o < 64 && g < 8
  | .stnib s a p o g => s < 64 && a < 64 && p < 8 && o < 64 && g < 8
  | .stsix s a p o g => s < 64 && a < 64 && p < 8 && o < 64 && g < 8
  | .lduD d a p o => d < 64 && a < 64 && p < 8 && o < 64
  | .stuD s a p o => s < 64 && a < 64 && p < 8 && o < 64
  | .ldacqW d a p s g => d < 64 && a < 64 && p < 8 && 1 ≤ s && s ≤ 6 && g < 8
  | .ldacqD d a p s g => d < 64 && a < 64 && p < 8 && 1 ≤ s && s ≤ 6 && g < 8
  | .ldacqQ d a p s g => d < 64 && a < 64 && p < 8 && 1 ≤ s && s ≤ 6 && g < 8
  | .strelW s a p sc g => s < 64 && a < 64 && p < 8 && 1 ≤ sc && sc ≤ 6 && g < 8
  | .strelD s a p sc g => s < 64 && a < 64 && p < 8 && 1 ≤ sc && sc ≤ 6 && g < 8
  | .strelQ s a p sc g => s < 64 && a < 64 && p < 8 && 1 ≤ sc && sc ≤ 6 && g < 8
  | .atomAddI32 d a p o g => d < 64 && a < 64 && p < 8 && o < 64 && g < 8
  | .atomAddI64 d a p o g => d < 64 && a < 64 && p < 8 && o < 64 && g < 8
  | .atomAddF32 d a p o g => d < 64 && a < 64 && p < 8 && o < 64 && g < 8
  | .atomMinI32 d a p o g => d < 64 && a < 64 && p < 8 && o < 64 && g < 8
  | .atomMinN32 d a p o g => d < 64 && a < 64 && p < 8 && o < 64 && g < 8
  | .atomMaxI32 d a p o g => d < 64 && a < 64 && p < 8 && o < 64 && g < 8
  | .atomMaxN32 d a p o g => d < 64 && a < 64 && p < 8 && o < 64 && g < 8
  | .atomAndW d a p o g => d < 64 && a < 64 && p < 8 && o < 64 && g < 8
  | .atomOrW d a p o g => d < 64 && a < 64 && p < 8 && o < 64 && g < 8
  | .atomXorW d a p o g => d < 64 && a < 64 && p < 8 && o < 64 && g < 8
  | .atomXchgW d a p o g => d < 64 && a < 64 && p < 8 && o < 64 && g < 8
  | .atomXchgD d a p o g => d < 64 && a < 64 && p < 8 && o < 64 && g < 8
  | .atomCasW d a p o g => d < 64 && a < 64 && p < 8 && o < 64 && g < 8
  | .atomCasD d a p o g => d < 64 && a < 64 && p < 8 && o < 64 && g < 8
  | .mredAddI32 s a p o g => s < 64 && a < 64 && p < 8 && o < 64 && g < 8
  | .mredAddI64 s a p o g => s < 64 && a < 64 && p < 8 && o < 64 && g < 8
  | .mredAddF32 s a p o g => s < 64 && a < 64 && p < 8 && o < 64 && g < 8
  | .mredMinI32 s a p o g => s < 64 && a < 64 && p < 8 && o < 64 && g < 8
  | .mredMinN32 s a p o g => s < 64 && a < 64 && p < 8 && o < 64 && g < 8
  | .mredMaxI32 s a p o g => s < 64 && a < 64 && p < 8 && o < 64 && g < 8
  | .mredMaxN32 s a p o g => s < 64 && a < 64 && p < 8 && o < 64 && g < 8
  | .mredAndW s a p o g => s < 64 && a < 64 && p < 8 && o < 64 && g < 8
  | .mredOrW s a p o g => s < 64 && a < 64 && p < 8 && o < 64 && g < 8
  | .mredXorW s a p o g => s < 64 && a < 64 && p < 8 && o < 64 && g < 8
  | .fence s k g => 1 ≤ s && s ≤ 6 && k ≤ 2 && g < 8
  | .cclean a p o g => a < 64 && p < 8 && o < 64 && g < 8
  | .cflush a p o g => a < 64 && p < 8 && o < 64 && g < 8
  | .pfetch a p o g => a < 64 && p < 8 && o < 64 && g < 8
  | .cpin d a b c => d < 64 && a < 64 && b < 64 && c < 8
  | .cpout d a b c => d < 64 && a < 64 && b < 64 && c < 8
  | .cpwait d a c => d < 64 && a < 64 && c < 8
  | .bankmode a m => a < 64 && m ≤ 2
  | .tresv t l o => t < 16 && l ≤ 9 && o < 512
  | .tfree t => t < 16
  | .tset t i => t < 16 && i < 1024
  | .tsetRows t n => t < 16 && 1 ≤ n && n < 1024
  | .ksetArm k n => k < 8 && n < 1024
  | .ksetSign k => k < 8
  | .ksetOff k => k < 8
  | .wload t => t < 16
  | .wswap => true
  | .mstream t a k v g o m => t < 16 && a < 8 && k < 8 && v < 2 && g < 2 && o < 8 && m < 128
  | .mbatch t k v g m => t < 16 && k < 8 && v < 2 && g < 2 && m < 128
  | .aread r a q c d h e => r < 16 && a < 8 && q < 8 && c ≤ 7 && (h == 0 || c ≤ 1) && d < 64 && h < 2 && e < 8
  | .astore t a o m => t < 16 && a < 8 && o < 8 && m < 128
  | .azero a o m => a < 8 && o < 8 && m < 128
  | .br o g => o < 2097152 && g < 8
  | .bra o g => o < 2097152 && g < 8
  | .call o g => o < 2097152 && g < 8
  | .ret g => g < 8
  | .jmpi a h g => a < 64 && h < 2 && g < 8
  | .calli a h g => a < 64 && h < 2 && g < 8
  | .join a b => a < 16 && b < 16
  | .leave a => a < 16
  | .waitm a b p n => a < 16 && b < 16 && p < 8 && n < 4096
  | .bar a b n => a < 16 && b < 16 && n < 4096
  | .exit g => g < 8
  | .nop g => g < 8
  | .yield g => g < 8
  | .brk c g => c < 2097152 && g < 8
  | .donate g c => g < 16 && c < 32
  | .accept g c => g < 16 && c < 32
  | .qinit a b => a < 64 && b < 64
  | .qpush s b r g => s < 64 && b < 64 && r < 2 && g < 8
  | .qpop d b r g => d < 64 && b < 64 && r < 2 && g < 8
  | .sarr a b => a < 64 && b < 64
  | .swt a b p => a < 64 && b < 64 && p < 2
  | .tspawn s g => s < 32 && g < 8
  | .ttake d g => d < 32 && g < 8
  | .tsteal d g => d < 32 && g < 8
  | .llock d a b g => d < 64 && a < 64 && b < 64 && g < 8
  | .ltry d a g => d < 64 && a < 64 && g < 8
  | .lunlock a g => a < 64 && g < 8
  | .lunlockW s a g => s < 64 && a < 64 && g < 8
  | .lunlockD s a g => s < 64 && a < 64 && g < 8
  | .lunlockQ s a g => s < 64 && a < 64 && g < 8
  | .lstat d a g => d < 64 && a < 64 && g < 8
  | .lstatList d b g => d < 64 && b < 64 && g < 8
  | .unfold d a b => d < 64 && a < 64 && b < 64
  | .spawnf s g => s < 64 && g < 8
  | .fret s => s < 64
  | .cres d g => d < 64 && g < 8
  | .secopen a b => a < 64 && b < 64
  | .secabort a => a < 64
  | .secstat d a => d < 64 && a < 64
  | .pumpgo a b => a < 64 && b < 64
  | .pumpwait d a => d < 64 && a < 64
  | .mvsplit d a b => d < 64 && a < 64 && b < 64
  | .boardShadow a => a < 64
  | .boardTile a t => a < 64 && t < 16
  | .unboard a => a < 64
  | .boardstat d a => d < 64 && a < 64
  | .mfsr r s => r < 64 && sysregAssigned s
  | .mtsr r s => r < 64 && sysregWritable s
  | .trap c => c < 4096
  | .tret => true
  | .fencei => true
  | .pumpMove => true
  | .aluadd => true
  | .alusub => true
  | .aluand => true
  | .aluor => true
  | .aluxor => true
  | .alushl => true
  | .alushr => true
  | .alusra => true
  | .alumul => true
  | .cmpeq => true
  | .cmplt => true
  | .cmpltu => true
  | .sfufma => true
  | .sfucvt => true
  | .ldg => true
  | .lds => true
  | .stg => true
  | .sts => true
  | .bkc => true
  | .sluice => true
  | .pumpDone => true
  | .jump => true
  | .jrel => true
  | .drain => true
  | .microAct => true
  | .microMac => true
  | .microWb => true
  | .microPre => true
  | .microClr => true
  | .bankSuspension => true
  | .bankResumption => true
  | .normalRequestAdmission => true
  | .pumpLaunchStart => true
  | .pumpLimitTimeout => true
  | .pumpLaunchEnd => true
  | .sectionStart => true
  | .sliceClaim => true
  | .sliceSnapshot => true
  | .sluiceOutcome => true
  | .segmentCommit => true
  | .segmentReplay => true
  | .spillRequest => true
  | .sliceRead => true
  | .sliceWrite => true
  | .sliceAtomic => true
  | .invalidation => true
  | .loadReturn => true
  | .writeAcknowledgement => true
  | .l1Eviction => true
  | .walkCompletion => true
  | .faultRecordDeferred => true
  | .copyPieceDelivery => true
  | .bankmodeDrainComplete => true
  | .gateAccept => true
  | .wloadFill => true
  | .wswapExecute => true
  | .mstreamExecute => true
  | .mbatchExecute => true
  | .areadExecute => true
  | .astoreExecute => true
  | .azeroExecute => true
  | .donationComplete => true
  | .waitmTimeout => true
  | .barrierTimeout => true
  | .hangReport => true
  | .granuleReturn => true
  | .teamRelease => true
  | .dispatchDecision => true
  | .teamStop => true
  | .teamSave => true
  | .teamRestore => true
  | .slotIssue => true
  | .boardArm => true
  | .slotPassage => true
  | .deliveryCrcCheck => true
  | .corruptedTileFault => true
  | .lockRequest => true
  | .lockGrant => true
  | .unlockStep => true
  | .lockTimeout => true
  | .routineDispatch => true
  | .levelEnd => true
  | .submitGraph => true
  | .resume => true
  | .preempt => true
  | .preemptHold => true
  | .preemptRelease => true
  | .polderSetEntry => true
  | .polderSetAccess => true
  | .polderSetTroot => true
  | .polderSetRows => true
  | .ringLoad => true
  | .keyInstall => true
  | .keyDestroy => true
  | .resetVf => true
  | .cqtailDoorbell => true
  | .cqlgdWrite => true
  | .fqlgdWrite => true
  | .rqlgdWrite => true
  | .fqrdWrite => true
  | .registerWrite => true
  | .ldctlFirmware => true
  | .ldctlBlob => true
  | .perfselWrite => true
  | .moduleReset => true
  | .governorInterval => true
  | .thermalTrip => true
  | .normalCommandIssue => true
  | .outcomeAtWindowSlice => true
  | .meshOperationAtQueueArbiter => true
  | .unfoldRelease => true
  | .linkLevelReplay => true
  | .plodorBreakpointArm => true

end Sys2Proof
end

