-- ==== Sys2Proof/Decode.lean ====
section
/-!
DEFINITION. Decode.lean: instruction words to instructions and back (03 R45, R51 to R73; 15 R229, R230). encode gives the
word of an instruction from the layouts of the spec; decoding picks the shape by the opcode, takes the fields, and accepts
only if the word is exactly that instruction's word and the instruction is well formed, so that a bit which the row marks
zero is never dropped (R58). The meaning of an opcode depends on the clause's class (R51): one shape function for each.
-/
namespace Sys2Proof

/-- Why a word is no instruction (03 R58 order 1 and 2; R46). -/
inductive DecodeError where
  /-- Opcode 0x00, 0xF0 to 0xFF, or unassigned in the class: R58 order 1. -/
  | unassigned
  /-- A nonzero field that is marked zero, or a reserved code: R58 order 2. -/
  | badField
  /-- The word is no clause header: R46. -/
  | badHeader
deriving DecidableEq, Repr

/-- The words, by the class that reads them: 0 alu to 6 sys (03 R45), 7 the clause header, 8 a pumphouse move,
9 a bank microcommand, 10 an event. -/
def Instr.cls : Instr → Nat
  | .clauseHeader _ _ _ _ _ _ => 7
  | .add _ _ _ _ _ _ => 0
  | .sub _ _ _ _ _ _ => 0
  | .mul _ _ _ _ _ _ => 0
  | .mulhiI _ _ _ _ _ _ => 0
  | .mulhiN _ _ _ _ _ _ => 0
  | .minI _ _ _ _ _ _ => 0
  | .minN _ _ _ _ _ _ => 0
  | .maxI _ _ _ _ _ _ => 0
  | .maxN _ _ _ _ _ _ => 0
  | .shl _ _ _ _ _ _ => 0
  | .shrN _ _ _ _ _ _ => 0
  | .shrI _ _ _ _ _ _ => 0
  | .addsI _ _ _ _ _ _ => 0
  | .addsN _ _ _ _ _ _ => 0
  | .subsI _ _ _ _ _ _ => 0
  | .subsN _ _ _ _ _ _ => 0
  | .and _ _ _ _ _ => 0
  | .or _ _ _ _ _ => 0
  | .xor _ _ _ _ _ => 0
  | .andn _ _ _ _ _ => 0
  | .popcW _ _ _ _ => 0
  | .clzW _ _ _ _ => 0
  | .brevW _ _ _ _ => 0
  | .bfxN32 _ _ _ _ _ => 0
  | .bfxI32 _ _ _ _ _ => 0
  | .bfiW _ _ _ _ _ => 0
  | .lea _ _ _ _ _ => 0
  | .sel _ _ _ _ _ => 0
  | .cmpI32 _ _ _ _ _ _ => 0
  | .cmpN32 _ _ _ _ _ _ => 0
  | .cmpI64 _ _ _ _ _ _ => 0
  | .cmpN64 _ _ _ _ _ _ => 0
  | .cmpF32 _ _ _ _ _ _ => 0
  | .cmpF16 _ _ _ _ _ _ => 0
  | .cmpBf16 _ _ _ _ _ _ => 0
  | .pand _ _ _ _ => 0
  | .por _ _ _ _ => 0
  | .pxor _ _ _ _ => 0
  | .pandn _ _ _ _ => 0
  | .pmov _ _ _ => 0
  | .pnot _ _ _ => 0
  | .mov _ _ _ _ => 0
  | .mvs _ _ _ => 0
  | .mfv _ _ _ _ => 0
  | .fadd _ _ _ _ _ _ => 0
  | .fsub _ _ _ _ _ _ => 0
  | .fmul _ _ _ _ _ _ => 0
  | .fma _ _ _ _ _ _ => 0
  | .fmin _ _ _ _ _ _ => 0
  | .fmax _ _ _ _ _ _ => 0
  | .fabs _ _ _ _ _ => 0
  | .fneg _ _ _ _ _ => 0
  | .frcpF32 _ _ _ _ => 0
  | .frsqF32 _ _ _ _ => 0
  | .fex2F32 _ _ _ _ => 0
  | .flg2F32 _ _ _ _ => 0
  | .cvtF32F16 _ _ _ _ _ _ => 0
  | .cvtF16F32 _ _ _ _ _ _ => 0
  | .cvtF32Bf16 _ _ _ _ _ _ => 0
  | .cvtBf16F32 _ _ _ _ _ _ => 0
  | .cvtF32I32 _ _ _ _ _ _ => 0
  | .cvtF32N32 _ _ _ _ _ _ => 0
  | .cvtI32F32 _ _ _ _ _ _ => 0
  | .cvtN32F32 _ _ _ _ _ _ => 0
  | .cvtE2m3F32 _ _ _ _ _ _ => 0
  | .cvtE3m2F32 _ _ _ _ _ _ => 0
  | .cvtE2m1F32 _ _ _ _ _ _ => 0
  | .cvtF32E2m3 _ _ _ _ _ _ => 0
  | .cvtF32E3m2 _ _ _ _ _ _ => 0
  | .cvtF32E2m1 _ _ _ _ _ _ => 0
  | .cvtS8pnF32 _ _ _ _ _ _ _ => 0
  | .cvtN8pnF32 _ _ _ _ _ _ _ => 0
  | .cvtF32S8pn _ _ _ _ _ _ _ => 0
  | .cvtF32N8pn _ _ _ _ _ _ _ => 0
  | .shflIdx _ _ _ _ _ => 0
  | .shflUp _ _ _ _ _ => 0
  | .shflDown _ _ _ _ _ => 0
  | .shflXor _ _ _ _ _ => 0
  | .voteBallot _ _ _ => 0
  | .voteAny _ _ _ => 0
  | .voteAll _ _ _ => 0
  | .voteUni _ _ _ => 0
  | .redaddI32 _ _ _ _ => 0
  | .redaddF32 _ _ _ _ => 0
  | .redminI32 _ _ _ _ => 0
  | .redmaxI32 _ _ _ _ => 0
  | .redminF32 _ _ _ _ => 0
  | .redmaxF32 _ _ _ _ => 0
  | .bcast _ _ _ _ _ => 0
  | .extN8 _ _ _ => 0
  | .extN16 _ _ _ => 0
  | .extW _ _ _ => 0
  | .insN8 _ _ _ => 0
  | .insN16 _ _ _ => 0
  | .insW _ _ _ => 0
  | .addiI32 _ _ _ => 0
  | .andi _ _ _ => 0
  | .ori _ _ _ => 0
  | .xori _ _ _ => 0
  | .shliW _ _ _ => 0
  | .shriN32 _ _ _ => 0
  | .shriI32 _ _ _ => 0
  | .moviI32 _ _ => 0
  | .sadd _ _ _ => 0
  | .ssub _ _ _ => 0
  | .smul _ _ _ => 0
  | .smulhiI _ _ _ => 0
  | .smulhiN _ _ _ => 0
  | .sand _ _ _ => 0
  | .sor _ _ _ => 0
  | .sxor _ _ _ => 0
  | .sshl _ _ _ => 0
  | .sshrN _ _ _ => 0
  | .sshrI _ _ _ => 0
  | .sminI _ _ _ => 0
  | .smaxI _ _ _ => 0
  | .sminN _ _ _ => 0
  | .smaxN _ _ _ => 0
  | .smov _ _ => 0
  | .ssltI _ _ _ => 0
  | .ssltN _ _ _ => 0
  | .sseq _ _ _ => 0
  | .saddi _ _ _ => 0
  | .slui _ _ _ => 0
  | .ldN8 _ _ _ _ _ => 1
  | .ldI8 _ _ _ _ _ => 1
  | .ldN16 _ _ _ _ _ => 1
  | .ldI16 _ _ _ _ _ => 1
  | .ldW _ _ _ _ _ => 1
  | .ldD _ _ _ _ _ => 1
  | .ldQ _ _ _ _ _ => 1
  | .stN8 _ _ _ _ _ => 1
  | .stN16 _ _ _ _ _ => 1
  | .stW _ _ _ _ _ => 1
  | .stD _ _ _ _ _ => 1
  | .stQ _ _ _ _ _ => 1
  | .stnib _ _ _ _ _ => 1
  | .stsix _ _ _ _ _ => 1
  | .lduD _ _ _ _ => 1
  | .stuD _ _ _ _ => 1
  | .ldacqW _ _ _ _ _ => 1
  | .ldacqD _ _ _ _ _ => 1
  | .ldacqQ _ _ _ _ _ => 1
  | .strelW _ _ _ _ _ => 1
  | .strelD _ _ _ _ _ => 1
  | .strelQ _ _ _ _ _ => 1
  | .atomAddI32 _ _ _ _ _ => 1
  | .atomAddI64 _ _ _ _ _ => 1
  | .atomAddF32 _ _ _ _ _ => 1
  | .atomMinI32 _ _ _ _ _ => 1
  | .atomMinN32 _ _ _ _ _ => 1
  | .atomMaxI32 _ _ _ _ _ => 1
  | .atomMaxN32 _ _ _ _ _ => 1
  | .atomAndW _ _ _ _ _ => 1
  | .atomOrW _ _ _ _ _ => 1
  | .atomXorW _ _ _ _ _ => 1
  | .atomXchgW _ _ _ _ _ => 1
  | .atomXchgD _ _ _ _ _ => 1
  | .atomCasW _ _ _ _ _ => 1
  | .atomCasD _ _ _ _ _ => 1
  | .mredAddI32 _ _ _ _ _ => 1
  | .mredAddI64 _ _ _ _ _ => 1
  | .mredAddF32 _ _ _ _ _ => 1
  | .mredMinI32 _ _ _ _ _ => 1
  | .mredMinN32 _ _ _ _ _ => 1
  | .mredMaxI32 _ _ _ _ _ => 1
  | .mredMaxN32 _ _ _ _ _ => 1
  | .mredAndW _ _ _ _ _ => 1
  | .mredOrW _ _ _ _ _ => 1
  | .mredXorW _ _ _ _ _ => 1
  | .fence _ _ _ => 1
  | .cclean _ _ _ _ => 1
  | .cflush _ _ _ _ => 1
  | .pfetch _ _ _ _ => 1
  | .cpin _ _ _ _ => 1
  | .cpout _ _ _ _ => 1
  | .cpwait _ _ _ => 1
  | .bankmode _ _ => 1
  | .tresv _ _ _ => 2
  | .tfree _ => 2
  | .tset _ _ => 2
  | .tsetRows _ _ => 2
  | .ksetArm _ _ => 2
  | .ksetSign _ => 2
  | .ksetOff _ => 2
  | .wload _ => 2
  | .wswap => 2
  | .mstream _ _ _ _ _ _ _ => 2
  | .mbatch _ _ _ _ _ => 2
  | .aread _ _ _ _ _ _ _ => 2
  | .astore _ _ _ _ => 2
  | .azero _ _ _ => 2
  | .br _ _ => 3
  | .bra _ _ => 3
  | .call _ _ => 3
  | .ret _ => 3
  | .jmpi _ _ _ => 3
  | .calli _ _ _ => 3
  | .join _ _ => 3
  | .leave _ => 3
  | .waitm _ _ _ _ => 3
  | .bar _ _ _ => 3
  | .exit _ => 3
  | .nop _ => 3
  | .yield _ => 3
  | .brk _ _ => 3
  | .donate _ _ => 3
  | .accept _ _ => 3
  | .qinit _ _ => 4
  | .qpush _ _ _ _ => 4
  | .qpop _ _ _ _ => 4
  | .sarr _ _ => 4
  | .swt _ _ _ => 4
  | .tspawn _ _ => 4
  | .ttake _ _ => 4
  | .tsteal _ _ => 4
  | .llock _ _ _ _ => 4
  | .ltry _ _ _ => 4
  | .lunlock _ _ => 4
  | .lunlockW _ _ _ => 4
  | .lunlockD _ _ _ => 4
  | .lunlockQ _ _ _ => 4
  | .lstat _ _ _ => 4
  | .lstatList _ _ _ => 4
  | .unfold _ _ _ => 4
  | .spawnf _ _ => 4
  | .fret _ => 4
  | .cres _ _ => 4
  | .secopen _ _ => 5
  | .secabort _ => 5
  | .secstat _ _ => 5
  | .pumpgo _ _ => 5
  | .pumpwait _ _ => 5
  | .mvsplit _ _ _ => 5
  | .boardShadow _ => 5
  | .boardTile _ _ => 5
  | .unboard _ => 5
  | .boardstat _ _ => 5
  | .mfsr _ _ => 6
  | .mtsr _ _ => 6
  | .trap _ => 6
  | .tret => 6
  | .fencei => 6
  | .pumpMove => 8
  | .aluadd => 8
  | .alusub => 8
  | .aluand => 8
  | .aluor => 8
  | .aluxor => 8
  | .alushl => 8
  | .alushr => 8
  | .alusra => 8
  | .alumul => 8
  | .cmpeq => 8
  | .cmplt => 8
  | .cmpltu => 8
  | .sfufma => 8
  | .sfucvt => 8
  | .ldg => 8
  | .lds => 8
  | .stg => 8
  | .sts => 8
  | .bkc => 8
  | .sluice => 8
  | .pumpDone => 8
  | .jump => 8
  | .jrel => 8
  | .drain => 8
  | .microAct => 9
  | .microMac => 9
  | .microWb => 9
  | .microPre => 9
  | .microClr => 9
  | .bankSuspension => 10
  | .bankResumption => 10
  | .normalRequestAdmission => 10
  | .pumpLaunchStart => 10
  | .pumpLimitTimeout => 10
  | .pumpLaunchEnd => 10
  | .sectionStart => 10
  | .sliceClaim => 10
  | .sliceSnapshot => 10
  | .sluiceOutcome => 10
  | .segmentCommit => 10
  | .segmentReplay => 10
  | .spillRequest => 10
  | .sliceRead => 10
  | .sliceWrite => 10
  | .sliceAtomic => 10
  | .invalidation => 10
  | .loadReturn => 10
  | .writeAcknowledgement => 10
  | .l1Eviction => 10
  | .walkCompletion => 10
  | .faultRecordDeferred => 10
  | .copyPieceDelivery => 10
  | .bankmodeDrainComplete => 10
  | .gateAccept => 10
  | .wloadFill => 10
  | .wswapExecute => 10
  | .mstreamExecute => 10
  | .mbatchExecute => 10
  | .areadExecute => 10
  | .astoreExecute => 10
  | .azeroExecute => 10
  | .donationComplete => 10
  | .waitmTimeout => 10
  | .barrierTimeout => 10
  | .hangReport => 10
  | .granuleReturn => 10
  | .teamRelease => 10
  | .dispatchDecision => 10
  | .teamStop => 10
  | .teamSave => 10
  | .teamRestore => 10
  | .slotIssue => 10
  | .boardArm => 10
  | .slotPassage => 10
  | .deliveryCrcCheck => 10
  | .corruptedTileFault => 10
  | .lockRequest => 10
  | .lockGrant => 10
  | .unlockStep => 10
  | .lockTimeout => 10
  | .routineDispatch => 10
  | .levelEnd => 10
  | .submitGraph => 10
  | .resume => 10
  | .preempt => 10
  | .preemptHold => 10
  | .preemptRelease => 10
  | .polderSetEntry => 10
  | .polderSetAccess => 10
  | .polderSetTroot => 10
  | .polderSetRows => 10
  | .ringLoad => 10
  | .keyInstall => 10
  | .keyDestroy => 10
  | .resetVf => 10
  | .cqtailDoorbell => 10
  | .cqlgdWrite => 10
  | .fqlgdWrite => 10
  | .rqlgdWrite => 10
  | .fqrdWrite => 10
  | .registerWrite => 10
  | .ldctlFirmware => 10
  | .ldctlBlob => 10
  | .perfselWrite => 10
  | .moduleReset => 10
  | .governorInterval => 10
  | .thermalTrip => 10
  | .normalCommandIssue => 10
  | .outcomeAtWindowSlice => 10
  | .meshOperationAtQueueArbiter => 10
  | .unfoldRelease => 10
  | .linkLevelReplay => 10
  | .plodorBreakpointArm => 10

/-- The 32-bit word of an instruction word's constructor; 0, which is no instruction (03 R58), for the others. -/
def encode : Instr → Nat
  | .clauseHeader y b a w e c => 0xA0000000 + y * 134217728 + b * 8388608 + a * 524288 + w * 128 + e * 16 + c
  | .add w d a b h g => 0x04000000 + w * 16777216 + d * 262144 + a * 4096 + b * 64 + h * 8 + g
  | .sub w d a b h g => 0x08000000 + w * 16777216 + d * 262144 + a * 4096 + b * 64 + h * 8 + g
  | .mul w d a b h g => 0x0C000000 + w * 16777216 + d * 262144 + a * 4096 + b * 64 + h * 8 + g
  | .mulhiI w d a b h g => 0x10000000 + w * 16777216 + d * 262144 + a * 4096 + b * 64 + h * 8 + g
  | .mulhiN w d a b h g => 0x14000000 + w * 16777216 + d * 262144 + a * 4096 + b * 64 + h * 8 + g
  | .minI w d a b h g => 0x18000000 + w * 16777216 + d * 262144 + a * 4096 + b * 64 + h * 8 + g
  | .minN w d a b h g => 0x1C000000 + w * 16777216 + d * 262144 + a * 4096 + b * 64 + h * 8 + g
  | .maxI w d a b h g => 0x20000000 + w * 16777216 + d * 262144 + a * 4096 + b * 64 + h * 8 + g
  | .maxN w d a b h g => 0x24000000 + w * 16777216 + d * 262144 + a * 4096 + b * 64 + h * 8 + g
  | .shl w d a b h g => 0x28000000 + w * 16777216 + d * 262144 + a * 4096 + b * 64 + h * 8 + g
  | .shrN w d a b h g => 0x2C000000 + w * 16777216 + d * 262144 + a * 4096 + b * 64 + h * 8 + g
  | .shrI w d a b h g => 0x30000000 + w * 16777216 + d * 262144 + a * 4096 + b * 64 + h * 8 + g
  | .addsI w d a b h g => 0x34000000 + w * 16777216 + d * 262144 + a * 4096 + b * 64 + h * 8 + g
  | .addsN w d a b h g => 0x38000000 + w * 16777216 + d * 262144 + a * 4096 + b * 64 + h * 8 + g
  | .subsI w d a b h g => 0x3C000000 + w * 16777216 + d * 262144 + a * 4096 + b * 64 + h * 8 + g
  | .subsN w d a b h g => 0x40000000 + w * 16777216 + d * 262144 + a * 4096 + b * 64 + h * 8 + g
  | .and d a b h g => 0x44000000 + d * 262144 + a * 4096 + b * 64 + h * 8 + g
  | .or d a b h g => 0x45000000 + d * 262144 + a * 4096 + b * 64 + h * 8 + g
  | .xor d a b h g => 0x46000000 + d * 262144 + a * 4096 + b * 64 + h * 8 + g
  | .andn d a b h g => 0x47000000 + d * 262144 + a * 4096 + b * 64 + h * 8 + g
  | .popcW d a h g => 0x48000000 + d * 262144 + a * 4096 + h * 8 + g
  | .clzW d a h g => 0x49000000 + d * 262144 + a * 4096 + h * 8 + g
  | .brevW d a h g => 0x4A000000 + d * 262144 + a * 4096 + h * 8 + g
  | .bfxN32 d a b h g => 0x4B000000 + d * 262144 + a * 4096 + b * 64 + h * 8 + g
  | .bfxI32 d a b h g => 0x4C000000 + d * 262144 + a * 4096 + b * 64 + h * 8 + g
  | .bfiW d a b h g => 0x4D000000 + d * 262144 + a * 4096 + b * 64 + h * 8 + g
  | .lea d a b h g => 0x4E000000 + d * 262144 + a * 4096 + b * 64 + h * 8 + g
  | .sel d a b h g => 0x4F000000 + d * 262144 + a * 4096 + b * 64 + h * 8 + g
  | .cmpI32 d c a b h g => 0x50000000 + d * 2097152 + c * 262144 + a * 4096 + b * 64 + h * 8 + g
  | .cmpN32 d c a b h g => 0x51000000 + d * 2097152 + c * 262144 + a * 4096 + b * 64 + h * 8 + g
  | .cmpI64 d c a b h g => 0x52000000 + d * 2097152 + c * 262144 + a * 4096 + b * 64 + h * 8 + g
  | .cmpN64 d c a b h g => 0x53000000 + d * 2097152 + c * 262144 + a * 4096 + b * 64 + h * 8 + g
  | .cmpF32 d c a b h g => 0x54000000 + d * 2097152 + c * 262144 + a * 4096 + b * 64 + h * 8 + g
  | .cmpF16 d c a b h g => 0x55000000 + d * 2097152 + c * 262144 + a * 4096 + b * 64 + h * 8 + g
  | .cmpBf16 d c a b h g => 0x56000000 + d * 2097152 + c * 262144 + a * 4096 + b * 64 + h * 8 + g
  | .pand d a b g => 0x57000000 + d * 2097152 + a * 4096 + b * 64 + g
  | .por d a b g => 0x57040000 + d * 2097152 + a * 4096 + b * 64 + g
  | .pxor d a b g => 0x57080000 + d * 2097152 + a * 4096 + b * 64 + g
  | .pandn d a b g => 0x570C0000 + d * 2097152 + a * 4096 + b * 64 + g
  | .pmov d a g => 0x57100000 + d * 2097152 + a * 4096 + g
  | .pnot d a g => 0x57140000 + d * 2097152 + a * 4096 + g
  | .mov d a h g => 0x58000000 + d * 262144 + a * 4096 + h * 8 + g
  | .mvs d s g => 0x59000000 + d * 262144 + s * 64 + g
  | .mfv a s h g => 0x5A000000 + a * 4096 + s * 64 + h * 8 + g
  | .fadd t d a b h g => 0x60000000 + t * 16777216 + d * 262144 + a * 4096 + b * 64 + h * 8 + g
  | .fsub t d a b h g => 0x64000000 + t * 16777216 + d * 262144 + a * 4096 + b * 64 + h * 8 + g
  | .fmul t d a b h g => 0x68000000 + t * 16777216 + d * 262144 + a * 4096 + b * 64 + h * 8 + g
  | .fma t d a b h g => 0x6C000000 + t * 16777216 + d * 262144 + a * 4096 + b * 64 + h * 8 + g
  | .fmin t d a b h g => 0x70000000 + t * 16777216 + d * 262144 + a * 4096 + b * 64 + h * 8 + g
  | .fmax t d a b h g => 0x74000000 + t * 16777216 + d * 262144 + a * 4096 + b * 64 + h * 8 + g
  | .fabs t d a h g => 0x78000000 + t * 16777216 + d * 262144 + a * 4096 + h * 8 + g
  | .fneg t d a h g => 0x7C000000 + t * 16777216 + d * 262144 + a * 4096 + h * 8 + g
  | .frcpF32 d a h g => 0x80000000 + d * 262144 + a * 4096 + h * 8 + g
  | .frsqF32 d a h g => 0x81000000 + d * 262144 + a * 4096 + h * 8 + g
  | .fex2F32 d a h g => 0x82000000 + d * 262144 + a * 4096 + h * 8 + g
  | .flg2F32 d a h g => 0x83000000 + d * 262144 + a * 4096 + h * 8 + g
  | .cvtF32F16 d a r i h g => 0x90000000 + d * 262144 + a * 4096 + r * 512 + i * 256 + h * 8 + g
  | .cvtF16F32 d a r i h g => 0x91000000 + d * 262144 + a * 4096 + r * 512 + i * 256 + h * 8 + g
  | .cvtF32Bf16 d a r i h g => 0x92000000 + d * 262144 + a * 4096 + r * 512 + i * 256 + h * 8 + g
  | .cvtBf16F32 d a r i h g => 0x93000000 + d * 262144 + a * 4096 + r * 512 + i * 256 + h * 8 + g
  | .cvtF32I32 d a r i h g => 0x94000000 + d * 262144 + a * 4096 + r * 512 + i * 256 + h * 8 + g
  | .cvtF32N32 d a r i h g => 0x95000000 + d * 262144 + a * 4096 + r * 512 + i * 256 + h * 8 + g
  | .cvtI32F32 d a r i h g => 0x96000000 + d * 262144 + a * 4096 + r * 512 + i * 256 + h * 8 + g
  | .cvtN32F32 d a r i h g => 0x97000000 + d * 262144 + a * 4096 + r * 512 + i * 256 + h * 8 + g
  | .cvtE2m3F32 d a r i h g => 0x98000000 + d * 262144 + a * 4096 + r * 512 + i * 256 + h * 8 + g
  | .cvtE3m2F32 d a r i h g => 0x99000000 + d * 262144 + a * 4096 + r * 512 + i * 256 + h * 8 + g
  | .cvtE2m1F32 d a r i h g => 0x9A000000 + d * 262144 + a * 4096 + r * 512 + i * 256 + h * 8 + g
  | .cvtF32E2m3 d a r i h g => 0x9B000000 + d * 262144 + a * 4096 + r * 512 + i * 256 + h * 8 + g
  | .cvtF32E3m2 d a r i h g => 0x9C000000 + d * 262144 + a * 4096 + r * 512 + i * 256 + h * 8 + g
  | .cvtF32E2m1 d a r i h g => 0x9D000000 + d * 262144 + a * 4096 + r * 512 + i * 256 + h * 8 + g
  | .cvtS8pnF32 n d a r i h g => 0xA0000000 + n * 16777216 + d * 262144 + a * 4096 + r * 512 + i * 256 + h * 8 + g
  | .cvtN8pnF32 n d a r i h g => 0xA8000000 + n * 16777216 + d * 262144 + a * 4096 + r * 512 + i * 256 + h * 8 + g
  | .cvtF32S8pn n d a r i h g => 0xB0000000 + n * 16777216 + d * 262144 + a * 4096 + r * 512 + i * 256 + h * 8 + g
  | .cvtF32N8pn n d a r i h g => 0xB8000000 + n * 16777216 + d * 262144 + a * 4096 + r * 512 + i * 256 + h * 8 + g
  | .shflIdx d a b h g => 0xC0000000 + d * 262144 + a * 4096 + b * 64 + h * 8 + g
  | .shflUp d a s h g => 0xC1000000 + d * 262144 + a * 4096 + s * 64 + h * 8 + g
  | .shflDown d a s h g => 0xC2000000 + d * 262144 + a * 4096 + s * 64 + h * 8 + g
  | .shflXor d a s h g => 0xC3000000 + d * 262144 + a * 4096 + s * 64 + h * 8 + g
  | .voteBallot p s g => 0xC4000000 + p * 4096 + s * 64 + g
  | .voteAny p s g => 0xC4040000 + p * 4096 + s * 64 + g
  | .voteAll p s g => 0xC4080000 + p * 4096 + s * 64 + g
  | .voteUni p s g => 0xC40C0000 + p * 4096 + s * 64 + g
  | .redaddI32 a s h g => 0xC8000000 + a * 4096 + s * 64 + h * 8 + g
  | .redaddF32 a s h g => 0xC9000000 + a * 4096 + s * 64 + h * 8 + g
  | .redminI32 a s h g => 0xCA000000 + a * 4096 + s * 64 + h * 8 + g
  | .redmaxI32 a s h g => 0xCB000000 + a * 4096 + s * 64 + h * 8 + g
  | .redminF32 a s h g => 0xCC000000 + a * 4096 + s * 64 + h * 8 + g
  | .redmaxF32 a s h g => 0xCD000000 + a * 4096 + s * 64 + h * 8 + g
  | .bcast d a s h g => 0xCE000000 + d * 262144 + a * 4096 + s * 64 + h * 8 + g
  | .extN8 d a x => 0xD0000000 + d * 262144 + a * 4096 + x
  | .extN16 d a x => 0xD1000000 + d * 262144 + a * 4096 + x
  | .extW d a x => 0xD2000000 + d * 262144 + a * 4096 + x
  | .insN8 d a x => 0xD3000000 + d * 262144 + a * 4096 + x
  | .insN16 d a x => 0xD4000000 + d * 262144 + a * 4096 + x
  | .insW d a x => 0xD5000000 + d * 262144 + a * 4096 + x
  | .addiI32 d a i => 0xD8000000 + d * 262144 + a * 4096 + i
  | .andi d a i => 0xD9000000 + d * 262144 + a * 4096 + i
  | .ori d a i => 0xDA000000 + d * 262144 + a * 4096 + i
  | .xori d a i => 0xDB000000 + d * 262144 + a * 4096 + i
  | .shliW d a i => 0xDC000000 + d * 262144 + a * 4096 + i
  | .shriN32 d a i => 0xDD000000 + d * 262144 + a * 4096 + i
  | .shriI32 d a i => 0xDE000000 + d * 262144 + a * 4096 + i
  | .moviI32 d i => 0xDF000000 + d * 262144 + i
  | .sadd d a b => 0xE0000000 + d * 262144 + a * 4096 + b * 64
  | .ssub d a b => 0xE0000001 + d * 262144 + a * 4096 + b * 64
  | .smul d a b => 0xE0000002 + d * 262144 + a * 4096 + b * 64
  | .smulhiI d a b => 0xE0000003 + d * 262144 + a * 4096 + b * 64
  | .smulhiN d a b => 0xE0000004 + d * 262144 + a * 4096 + b * 64
  | .sand d a b => 0xE0000005 + d * 262144 + a * 4096 + b * 64
  | .sor d a b => 0xE0000006 + d * 262144 + a * 4096 + b * 64
  | .sxor d a b => 0xE0000007 + d * 262144 + a * 4096 + b * 64
  | .sshl d a b => 0xE0000008 + d * 262144 + a * 4096 + b * 64
  | .sshrN d a b => 0xE0000009 + d * 262144 + a * 4096 + b * 64
  | .sshrI d a b => 0xE000000A + d * 262144 + a * 4096 + b * 64
  | .sminI d a b => 0xE000000B + d * 262144 + a * 4096 + b * 64
  | .smaxI d a b => 0xE000000C + d * 262144 + a * 4096 + b * 64
  | .sminN d a b => 0xE000000D + d * 262144 + a * 4096 + b * 64
  | .smaxN d a b => 0xE000000E + d * 262144 + a * 4096 + b * 64
  | .smov d a => 0xE000000F + d * 262144 + a * 4096
  | .ssltI d a b => 0xE0000010 + d * 262144 + a * 4096 + b * 64
  | .ssltN d a b => 0xE0000011 + d * 262144 + a * 4096 + b * 64
  | .sseq d a b => 0xE0000012 + d * 262144 + a * 4096 + b * 64
  | .saddi d a i => 0xE1000000 + d * 262144 + a * 4096 + i
  | .slui d a i => 0xE2000000 + d * 262144 + a * 4096 + i
  | .ldN8 d a p o g => 0x01000000 + d * 262144 + a * 4096 + p * 512 + o * 8 + g
  | .ldI8 d a p o g => 0x02000000 + d * 262144 + a * 4096 + p * 512 + o * 8 + g
  | .ldN16 d a p o g => 0x03000000 + d * 262144 + a * 4096 + p * 512 + o * 8 + g
  | .ldI16 d a p o g => 0x04000000 + d * 262144 + a * 4096 + p * 512 + o * 8 + g
  | .ldW d a p o g => 0x05000000 + d * 262144 + a * 4096 + p * 512 + o * 8 + g
  | .ldD d a p o g => 0x06000000 + d * 262144 + a * 4096 + p * 512 + o * 8 + g
  | .ldQ d a p o g => 0x07000000 + d * 262144 + a * 4096 + p * 512 + o * 8 + g
  | .stN8 s a p o g => 0x09000000 + s * 262144 + a * 4096 + p * 512 + o * 8 + g
  | .stN16 s a p o g => 0x0A000000 + s * 262144 + a * 4096 + p * 512 + o * 8 + g
  | .stW s a p o g => 0x0B000000 + s * 262144 + a * 4096 + p * 512 + o * 8 + g
  | .stD s a p o g => 0x0C000000 + s * 262144 + a * 4096 + p * 512 + o * 8 + g
  | .stQ s a p o g => 0x0D000000 + s * 262144 + a * 4096 + p * 512 + o * 8 + g
  | .stnib s a p o g => 0x0E000000 + s * 262144 + a * 4096 + p * 512 + o * 8 + g
  | .stsix s a p o g => 0x0F000000 + s * 262144 + a * 4096 + p * 512 + o * 8 + g
  | .lduD d a p o => 0x10000007 + d * 262144 + a * 4096 + p * 512 + o * 8
  | .stuD s a p o => 0x11000007 + s * 262144 + a * 4096 + p * 512 + o * 8
  | .ldacqW d a p s g => 0x12000000 + d * 262144 + a * 4096 + p * 512 + s * 64 + g
  | .ldacqD d a p s g => 0x13000000 + d * 262144 + a * 4096 + p * 512 + s * 64 + g
  | .ldacqQ d a p s g => 0x14000000 + d * 262144 + a * 4096 + p * 512 + s * 64 + g
  | .strelW s a p sc g => 0x15000000 + s * 262144 + a * 4096 + p * 512 + sc * 64 + g
  | .strelD s a p sc g => 0x16000000 + s * 262144 + a * 4096 + p * 512 + sc * 64 + g
  | .strelQ s a p sc g => 0x17000000 + s * 262144 + a * 4096 + p * 512 + sc * 64 + g
  | .atomAddI32 d a p o g => 0x20000000 + d * 262144 + a * 4096 + p * 512 + o * 8 + g
  | .atomAddI64 d a p o g => 0x21000000 + d * 262144 + a * 4096 + p * 512 + o * 8 + g
  | .atomAddF32 d a p o g => 0x22000000 + d * 262144 + a * 4096 + p * 512 + o * 8 + g
  | .atomMinI32 d a p o g => 0x23000000 + d * 262144 + a * 4096 + p * 512 + o * 8 + g
  | .atomMinN32 d a p o g => 0x24000000 + d * 262144 + a * 4096 + p * 512 + o * 8 + g
  | .atomMaxI32 d a p o g => 0x25000000 + d * 262144 + a * 4096 + p * 512 + o * 8 + g
  | .atomMaxN32 d a p o g => 0x26000000 + d * 262144 + a * 4096 + p * 512 + o * 8 + g
  | .atomAndW d a p o g => 0x27000000 + d * 262144 + a * 4096 + p * 512 + o * 8 + g
  | .atomOrW d a p o g => 0x28000000 + d * 262144 + a * 4096 + p * 512 + o * 8 + g
  | .atomXorW d a p o g => 0x29000000 + d * 262144 + a * 4096 + p * 512 + o * 8 + g
  | .atomXchgW d a p o g => 0x2A000000 + d * 262144 + a * 4096 + p * 512 + o * 8 + g
  | .atomXchgD d a p o g => 0x2B000000 + d * 262144 + a * 4096 + p * 512 + o * 8 + g
  | .atomCasW d a p o g => 0x2C000000 + d * 262144 + a * 4096 + p * 512 + o * 8 + g
  | .atomCasD d a p o g => 0x2D000000 + d * 262144 + a * 4096 + p * 512 + o * 8 + g
  | .mredAddI32 s a p o g => 0x30000000 + s * 262144 + a * 4096 + p * 512 + o * 8 + g
  | .mredAddI64 s a p o g => 0x31000000 + s * 262144 + a * 4096 + p * 512 + o * 8 + g
  | .mredAddF32 s a p o g => 0x32000000 + s * 262144 + a * 4096 + p * 512 + o * 8 + g
  | .mredMinI32 s a p o g => 0x33000000 + s * 262144 + a * 4096 + p * 512 + o * 8 + g
  | .mredMinN32 s a p o g => 0x34000000 + s * 262144 + a * 4096 + p * 512 + o * 8 + g
  | .mredMaxI32 s a p o g => 0x35000000 + s * 262144 + a * 4096 + p * 512 + o * 8 + g
  | .mredMaxN32 s a p o g => 0x36000000 + s * 262144 + a * 4096 + p * 512 + o * 8 + g
  | .mredAndW s a p o g => 0x37000000 + s * 262144 + a * 4096 + p * 512 + o * 8 + g
  | .mredOrW s a p o g => 0x38000000 + s * 262144 + a * 4096 + p * 512 + o * 8 + g
  | .mredXorW s a p o g => 0x39000000 + s * 262144 + a * 4096 + p * 512 + o * 8 + g
  | .fence s k g => 0x40000000 + s * 64 + k * 8 + g
  | .cclean a p o g => 0x41000000 + a * 4096 + p * 512 + o * 8 + g
  | .cflush a p o g => 0x42000000 + a * 4096 + p * 512 + o * 8 + g
  | .pfetch a p o g => 0x43000000 + a * 4096 + p * 512 + o * 8 + g
  | .cpin d a b c => 0x48000007 + d * 262144 + a * 4096 + b * 64 + c * 8
  | .cpout d a b c => 0x49000007 + d * 262144 + a * 4096 + b * 64 + c * 8
  | .cpwait d a c => 0x4A000007 + d * 262144 + a * 4096 + c * 8
  | .bankmode a m => 0x50000007 + a * 4096 + m * 8
  | .tresv t l o => 0x01000000 + t * 1048576 + l * 1024 + o
  | .tfree t => 0x02000000 + t * 1048576
  | .tset t i => 0x03000000 + t * 1048576 + i
  | .tsetRows t n => 0x03000400 + t * 1048576 + n
  | .ksetArm k n => 0x04000000 + k * 16384 + n
  | .ksetSign k => 0x04000400 + k * 16384
  | .ksetOff k => 0x04000800 + k * 16384
  | .wload t => 0x08000000 + t * 1048576
  | .wswap => 0x09000000
  | .mstream t a k v g o m => 0x10000000 + t * 1048576 + a * 131072 + k * 16384 + v * 2048 + g * 1024 + o * 128 + m
  | .mbatch t k v g m => 0x11000000 + t * 1048576 + k * 16384 + v * 2048 + g * 1024 + m
  | .aread r a q c d h e => 0x18000000 + r * 1048576 + a * 131072 + q * 16384 + c * 1024 + d * 16 + h * 8 + e
  | .astore t a o m => 0x19000000 + t * 1048576 + a * 131072 + o * 128 + m
  | .azero a o m => 0x1A000000 + a * 131072 + o * 128 + m
  | .br o g => 0x01000000 + o * 8 + g
  | .bra o g => 0x02000000 + o * 8 + g
  | .call o g => 0x03000000 + o * 8 + g
  | .ret g => 0x04000000 + g
  | .jmpi a h g => 0x05000000 + a * 4096 + h * 8 + g
  | .calli a h g => 0x06000000 + a * 4096 + h * 8 + g
  | .join a b => 0x08000000 + a * 1048576 + b * 65536
  | .leave a => 0x09000000 + a * 1048576
  | .waitm a b p n => 0x0A000000 + a * 1048576 + b * 65536 + p * 4096 + n
  | .bar a b n => 0x0B000000 + a * 1048576 + b * 65536 + n
  | .exit g => 0x10000000 + g
  | .nop g => 0x11000000 + g
  | .yield g => 0x12000000 + g
  | .brk c g => 0x13000000 + c * 8 + g
  | .donate g c => 0x18000000 + g * 32 + c
  | .accept g c => 0x19000000 + g * 32 + c
  | .qinit a b => 0x01000007 + a * 4096 + b * 64
  | .qpush s b r g => 0x02000000 + s * 262144 + b * 64 + r * 8 + g
  | .qpop d b r g => 0x03000000 + d * 262144 + b * 64 + r * 8 + g
  | .sarr a b => 0x08000007 + a * 4096 + b * 64
  | .swt a b p => 0x09000007 + a * 4096 + b * 64 + p * 8
  | .tspawn s g => 0x10000000 + s * 524288 + g
  | .ttake d g => 0x11000000 + d * 524288 + g
  | .tsteal d g => 0x12000000 + d * 524288 + g
  | .llock d a b g => 0x18000000 + d * 262144 + a * 4096 + b * 64 + g
  | .ltry d a g => 0x19000000 + d * 262144 + a * 4096 + g
  | .lunlock a g => 0x1A000000 + a * 4096 + g
  | .lunlockW s a g => 0x1A000008 + s * 262144 + a * 4096 + g
  | .lunlockD s a g => 0x1A000018 + s * 262144 + a * 4096 + g
  | .lunlockQ s a g => 0x1A000028 + s * 262144 + a * 4096 + g
  | .lstat d a g => 0x1B000000 + d * 262144 + a * 4096 + g
  | .lstatList d b g => 0x1B000008 + d * 262144 + b * 64 + g
  | .unfold d a b => 0x20000007 + d * 262144 + a * 4096 + b * 64
  | .spawnf s g => 0x21000000 + s * 262144 + g
  | .fret s => 0x22000007 + s * 262144
  | .cres d g => 0x23000000 + d * 262144 + g
  | .secopen a b => 0x01000007 + a * 4096 + b * 64
  | .secabort a => 0x02000007 + a * 4096
  | .secstat d a => 0x03000007 + d * 262144 + a * 4096
  | .pumpgo a b => 0x08000007 + a * 4096 + b * 64
  | .pumpwait d a => 0x09000007 + d * 262144 + a * 4096
  | .mvsplit d a b => 0x0A000007 + d * 262144 + a * 4096 + b * 64
  | .boardShadow a => 0x10000007 + a * 4096
  | .boardTile a t => 0x1000000F + a * 4096 + t * 64
  | .unboard a => 0x11000007 + a * 4096
  | .boardstat d a => 0x12000007 + d * 262144 + a * 4096
  | .mfsr r s => 0x01000000 + r * 262144 + s * 64
  | .mtsr r s => 0x02000000 + r * 262144 + s * 64
  | .trap c => 0x03000000 + c * 64
  | .tret => 0x04000000
  | .fencei => 0x05000000
  | .pumpMove => 0
  | .aluadd => 0
  | .alusub => 0
  | .aluand => 0
  | .aluor => 0
  | .aluxor => 0
  | .alushl => 0
  | .alushr => 0
  | .alusra => 0
  | .alumul => 0
  | .cmpeq => 0
  | .cmplt => 0
  | .cmpltu => 0
  | .sfufma => 0
  | .sfucvt => 0
  | .ldg => 0
  | .lds => 0
  | .stg => 0
  | .sts => 0
  | .bkc => 0
  | .sluice => 0
  | .pumpDone => 0
  | .jump => 0
  | .jrel => 0
  | .drain => 0
  | .microAct => 0
  | .microMac => 0
  | .microWb => 0
  | .microPre => 0
  | .microClr => 0
  | .bankSuspension => 0
  | .bankResumption => 0
  | .normalRequestAdmission => 0
  | .pumpLaunchStart => 0
  | .pumpLimitTimeout => 0
  | .pumpLaunchEnd => 0
  | .sectionStart => 0
  | .sliceClaim => 0
  | .sliceSnapshot => 0
  | .sluiceOutcome => 0
  | .segmentCommit => 0
  | .segmentReplay => 0
  | .spillRequest => 0
  | .sliceRead => 0
  | .sliceWrite => 0
  | .sliceAtomic => 0
  | .invalidation => 0
  | .loadReturn => 0
  | .writeAcknowledgement => 0
  | .l1Eviction => 0
  | .walkCompletion => 0
  | .faultRecordDeferred => 0
  | .copyPieceDelivery => 0
  | .bankmodeDrainComplete => 0
  | .gateAccept => 0
  | .wloadFill => 0
  | .wswapExecute => 0
  | .mstreamExecute => 0
  | .mbatchExecute => 0
  | .areadExecute => 0
  | .astoreExecute => 0
  | .azeroExecute => 0
  | .donationComplete => 0
  | .waitmTimeout => 0
  | .barrierTimeout => 0
  | .hangReport => 0
  | .granuleReturn => 0
  | .teamRelease => 0
  | .dispatchDecision => 0
  | .teamStop => 0
  | .teamSave => 0
  | .teamRestore => 0
  | .slotIssue => 0
  | .boardArm => 0
  | .slotPassage => 0
  | .deliveryCrcCheck => 0
  | .corruptedTileFault => 0
  | .lockRequest => 0
  | .lockGrant => 0
  | .unlockStep => 0
  | .lockTimeout => 0
  | .routineDispatch => 0
  | .levelEnd => 0
  | .submitGraph => 0
  | .resume => 0
  | .preempt => 0
  | .preemptHold => 0
  | .preemptRelease => 0
  | .polderSetEntry => 0
  | .polderSetAccess => 0
  | .polderSetTroot => 0
  | .polderSetRows => 0
  | .ringLoad => 0
  | .keyInstall => 0
  | .keyDestroy => 0
  | .resetVf => 0
  | .cqtailDoorbell => 0
  | .cqlgdWrite => 0
  | .fqlgdWrite => 0
  | .rqlgdWrite => 0
  | .fqrdWrite => 0
  | .registerWrite => 0
  | .ldctlFirmware => 0
  | .ldctlBlob => 0
  | .perfselWrite => 0
  | .moduleReset => 0
  | .governorInterval => 0
  | .thermalTrip => 0
  | .normalCommandIssue => 0
  | .outcomeAtWindowSlice => 0
  | .meshOperationAtQueueArbiter => 0
  | .unfoldRelease => 0
  | .linkLevelReplay => 0
  | .plodorBreakpointArm => 0

/-- The instruction of class alu whose opcode the word holds, with the word's fields (03). -/
def shapeAlu (w : Nat) : Option Instr :=
  match w / 67108864 with
  | 1 => some (.add (w / 16777216 % 4) (w / 262144 % 64) (w / 4096 % 64) (w / 64 % 64) (w / 8 % 4) (w % 8))
  | 2 => some (.sub (w / 16777216 % 4) (w / 262144 % 64) (w / 4096 % 64) (w / 64 % 64) (w / 8 % 4) (w % 8))
  | 3 => some (.mul (w / 16777216 % 4) (w / 262144 % 64) (w / 4096 % 64) (w / 64 % 64) (w / 8 % 4) (w % 8))
  | 4 => some (.mulhiI (w / 16777216 % 4) (w / 262144 % 64) (w / 4096 % 64) (w / 64 % 64) (w / 8 % 4) (w % 8))
  | 5 => some (.mulhiN (w / 16777216 % 4) (w / 262144 % 64) (w / 4096 % 64) (w / 64 % 64) (w / 8 % 4) (w % 8))
  | 6 => some (.minI (w / 16777216 % 4) (w / 262144 % 64) (w / 4096 % 64) (w / 64 % 64) (w / 8 % 4) (w % 8))
  | 7 => some (.minN (w / 16777216 % 4) (w / 262144 % 64) (w / 4096 % 64) (w / 64 % 64) (w / 8 % 4) (w % 8))
  | 8 => some (.maxI (w / 16777216 % 4) (w / 262144 % 64) (w / 4096 % 64) (w / 64 % 64) (w / 8 % 4) (w % 8))
  | 9 => some (.maxN (w / 16777216 % 4) (w / 262144 % 64) (w / 4096 % 64) (w / 64 % 64) (w / 8 % 4) (w % 8))
  | 10 => some (.shl (w / 16777216 % 4) (w / 262144 % 64) (w / 4096 % 64) (w / 64 % 64) (w / 8 % 4) (w % 8))
  | 11 => some (.shrN (w / 16777216 % 4) (w / 262144 % 64) (w / 4096 % 64) (w / 64 % 64) (w / 8 % 4) (w % 8))
  | 12 => some (.shrI (w / 16777216 % 4) (w / 262144 % 64) (w / 4096 % 64) (w / 64 % 64) (w / 8 % 4) (w % 8))
  | 13 => some (.addsI (w / 16777216 % 4) (w / 262144 % 64) (w / 4096 % 64) (w / 64 % 64) (w / 8 % 4) (w % 8))
  | 14 => some (.addsN (w / 16777216 % 4) (w / 262144 % 64) (w / 4096 % 64) (w / 64 % 64) (w / 8 % 4) (w % 8))
  | 15 => some (.subsI (w / 16777216 % 4) (w / 262144 % 64) (w / 4096 % 64) (w / 64 % 64) (w / 8 % 4) (w % 8))
  | 16 => some (.subsN (w / 16777216 % 4) (w / 262144 % 64) (w / 4096 % 64) (w / 64 % 64) (w / 8 % 4) (w % 8))
  | 24 => some (.fadd (w / 16777216 % 4) (w / 262144 % 64) (w / 4096 % 64) (w / 64 % 64) (w / 8 % 4) (w % 8))
  | 25 => some (.fsub (w / 16777216 % 4) (w / 262144 % 64) (w / 4096 % 64) (w / 64 % 64) (w / 8 % 4) (w % 8))
  | 26 => some (.fmul (w / 16777216 % 4) (w / 262144 % 64) (w / 4096 % 64) (w / 64 % 64) (w / 8 % 4) (w % 8))
  | 27 => some (.fma (w / 16777216 % 4) (w / 262144 % 64) (w / 4096 % 64) (w / 64 % 64) (w / 8 % 8) (w % 8))
  | 28 => some (.fmin (w / 16777216 % 4) (w / 262144 % 64) (w / 4096 % 64) (w / 64 % 64) (w / 8 % 4) (w % 8))
  | 29 => some (.fmax (w / 16777216 % 4) (w / 262144 % 64) (w / 4096 % 64) (w / 64 % 64) (w / 8 % 4) (w % 8))
  | 30 => some (.fabs (w / 16777216 % 4) (w / 262144 % 64) (w / 4096 % 64) (w / 8 % 2) (w % 8))
  | 31 => some (.fneg (w / 16777216 % 4) (w / 262144 % 64) (w / 4096 % 64) (w / 8 % 2) (w % 8))
  | _ =>
    match w / 134217728 with
    | 20 => some (.cvtS8pnF32 (w / 16777216 % 8) (w / 262144 % 64) (w / 4096 % 64) (w / 512 % 8) (w / 256 % 2) (w / 8 % 8) (w % 8))
    | 21 => some (.cvtN8pnF32 (w / 16777216 % 8) (w / 262144 % 64) (w / 4096 % 64) (w / 512 % 8) (w / 256 % 2) (w / 8 % 8) (w % 8))
    | 22 => some (.cvtF32S8pn (w / 16777216 % 8) (w / 262144 % 64) (w / 4096 % 64) (w / 512 % 8) (w / 256 % 2) (w / 8 % 2) (w % 8))
    | 23 => some (.cvtF32N8pn (w / 16777216 % 8) (w / 262144 % 64) (w / 4096 % 64) (w / 512 % 8) (w / 256 % 2) (w / 8 % 2) (w % 8))
    | _ =>
      match w / 16777216 with
      | 0x44 => some (.and (w / 262144 % 64) (w / 4096 % 64) (w / 64 % 64) (w / 8 % 4) (w % 8))
      | 0x45 => some (.or (w / 262144 % 64) (w / 4096 % 64) (w / 64 % 64) (w / 8 % 4) (w % 8))
      | 0x46 => some (.xor (w / 262144 % 64) (w / 4096 % 64) (w / 64 % 64) (w / 8 % 4) (w % 8))
      | 0x47 => some (.andn (w / 262144 % 64) (w / 4096 % 64) (w / 64 % 64) (w / 8 % 4) (w % 8))
      | 0x48 => some (.popcW (w / 262144 % 64) (w / 4096 % 64) (w / 8 % 2) (w % 8))
      | 0x49 => some (.clzW (w / 262144 % 64) (w / 4096 % 64) (w / 8 % 2) (w % 8))
      | 0x4A => some (.brevW (w / 262144 % 64) (w / 4096 % 64) (w / 8 % 2) (w % 8))
      | 0x4B => some (.bfxN32 (w / 262144 % 64) (w / 4096 % 64) (w / 64 % 64) (w / 8 % 4) (w % 8))
      | 0x4C => some (.bfxI32 (w / 262144 % 64) (w / 4096 % 64) (w / 64 % 64) (w / 8 % 4) (w % 8))
      | 0x4D => some (.bfiW (w / 262144 % 64) (w / 4096 % 64) (w / 64 % 64) (w / 8 % 8) (w % 8))
      | 0x4E => some (.lea (w / 262144 % 64) (w / 4096 % 64) (w / 64 % 64) (w / 8 % 4) (w % 8))
      | 0x4F => some (.sel (w / 262144 % 64) (w / 4096 % 64) (w / 64 % 64) (w / 8 % 4) (w % 8))
      | 0x50 => some (.cmpI32 (w / 2097152 % 8) (w / 262144 % 8) (w / 4096 % 64) (w / 64 % 64) (w / 8 % 4) (w % 8))
      | 0x51 => some (.cmpN32 (w / 2097152 % 8) (w / 262144 % 8) (w / 4096 % 64) (w / 64 % 64) (w / 8 % 4) (w % 8))
      | 0x52 => some (.cmpI64 (w / 2097152 % 8) (w / 262144 % 8) (w / 4096 % 64) (w / 64 % 64) (w / 8 % 4) (w % 8))
      | 0x53 => some (.cmpN64 (w / 2097152 % 8) (w / 262144 % 8) (w / 4096 % 64) (w / 64 % 64) (w / 8 % 4) (w % 8))
      | 0x54 => some (.cmpF32 (w / 2097152 % 8) (w / 262144 % 8) (w / 4096 % 64) (w / 64 % 64) (w / 8 % 4) (w % 8))
      | 0x55 => some (.cmpF16 (w / 2097152 % 8) (w / 262144 % 8) (w / 4096 % 64) (w / 64 % 64) (w / 8 % 4) (w % 8))
      | 0x56 => some (.cmpBf16 (w / 2097152 % 8) (w / 262144 % 8) (w / 4096 % 64) (w / 64 % 64) (w / 8 % 4) (w % 8))
      | 0x57 =>
        match w / 262144 % 8 with
        | 0 => some (.pand (w / 2097152 % 8) (w / 4096 % 8) (w / 64 % 8) (w % 8))
        | 1 => some (.por (w / 2097152 % 8) (w / 4096 % 8) (w / 64 % 8) (w % 8))
        | 2 => some (.pxor (w / 2097152 % 8) (w / 4096 % 8) (w / 64 % 8) (w % 8))
        | 3 => some (.pandn (w / 2097152 % 8) (w / 4096 % 8) (w / 64 % 8) (w % 8))
        | 4 => some (.pmov (w / 2097152 % 8) (w / 4096 % 8) (w % 8))
        | 5 => some (.pnot (w / 2097152 % 8) (w / 4096 % 8) (w % 8))
        | _ => none
      | 0x58 => some (.mov (w / 262144 % 64) (w / 4096 % 64) (w / 8 % 2) (w % 8))
      | 0x59 => some (.mvs (w / 262144 % 64) (w / 64 % 64) (w % 8))
      | 0x5A => some (.mfv (w / 4096 % 64) (w / 64 % 64) (w / 8 % 2) (w % 8))
      | 0x80 => some (.frcpF32 (w / 262144 % 64) (w / 4096 % 64) (w / 8 % 2) (w % 8))
      | 0x81 => some (.frsqF32 (w / 262144 % 64) (w / 4096 % 64) (w / 8 % 2) (w % 8))
      | 0x82 => some (.fex2F32 (w / 262144 % 64) (w / 4096 % 64) (w / 8 % 2) (w % 8))
      | 0x83 => some (.flg2F32 (w / 262144 % 64) (w / 4096 % 64) (w / 8 % 2) (w % 8))
      | 0x90 => some (.cvtF32F16 (w / 262144 % 64) (w / 4096 % 64) (w / 512 % 8) (w / 256 % 2) (w / 8 % 2) (w % 8))
      | 0x91 => some (.cvtF16F32 (w / 262144 % 64) (w / 4096 % 64) (w / 512 % 8) (w / 256 % 2) (w / 8 % 8) (w % 8))
      | 0x92 => some (.cvtF32Bf16 (w / 262144 % 64) (w / 4096 % 64) (w / 512 % 8) (w / 256 % 2) (w / 8 % 2) (w % 8))
      | 0x93 => some (.cvtBf16F32 (w / 262144 % 64) (w / 4096 % 64) (w / 512 % 8) (w / 256 % 2) (w / 8 % 8) (w % 8))
      | 0x94 => some (.cvtF32I32 (w / 262144 % 64) (w / 4096 % 64) (w / 512 % 8) (w / 256 % 2) (w / 8 % 2) (w % 8))
      | 0x95 => some (.cvtF32N32 (w / 262144 % 64) (w / 4096 % 64) (w / 512 % 8) (w / 256 % 2) (w / 8 % 2) (w % 8))
      | 0x96 => some (.cvtI32F32 (w / 262144 % 64) (w / 4096 % 64) (w / 512 % 8) (w / 256 % 2) (w / 8 % 2) (w % 8))
      | 0x97 => some (.cvtN32F32 (w / 262144 % 64) (w / 4096 % 64) (w / 512 % 8) (w / 256 % 2) (w / 8 % 2) (w % 8))
      | 0x98 => some (.cvtE2m3F32 (w / 262144 % 64) (w / 4096 % 64) (w / 512 % 8) (w / 256 % 2) (w / 8 % 8) (w % 8))
      | 0x99 => some (.cvtE3m2F32 (w / 262144 % 64) (w / 4096 % 64) (w / 512 % 8) (w / 256 % 2) (w / 8 % 8) (w % 8))
      | 0x9A => some (.cvtE2m1F32 (w / 262144 % 64) (w / 4096 % 64) (w / 512 % 8) (w / 256 % 2) (w / 8 % 8) (w % 8))
      | 0x9B => some (.cvtF32E2m3 (w / 262144 % 64) (w / 4096 % 64) (w / 512 % 8) (w / 256 % 2) (w / 8 % 2) (w % 8))
      | 0x9C => some (.cvtF32E3m2 (w / 262144 % 64) (w / 4096 % 64) (w / 512 % 8) (w / 256 % 2) (w / 8 % 2) (w % 8))
      | 0x9D => some (.cvtF32E2m1 (w / 262144 % 64) (w / 4096 % 64) (w / 512 % 8) (w / 256 % 2) (w / 8 % 2) (w % 8))
      | 0xC0 => some (.shflIdx (w / 262144 % 64) (w / 4096 % 64) (w / 64 % 64) (w / 8 % 4) (w % 8))
      | 0xC1 => some (.shflUp (w / 262144 % 64) (w / 4096 % 64) (w / 64 % 64) (w / 8 % 2) (w % 8))
      | 0xC2 => some (.shflDown (w / 262144 % 64) (w / 4096 % 64) (w / 64 % 64) (w / 8 % 2) (w % 8))
      | 0xC3 => some (.shflXor (w / 262144 % 64) (w / 4096 % 64) (w / 64 % 64) (w / 8 % 2) (w % 8))
      | 0xC4 =>
        match w / 262144 % 4 with
        | 0 => some (.voteBallot (w / 4096 % 8) (w / 64 % 64) (w % 8))
        | 1 => some (.voteAny (w / 4096 % 8) (w / 64 % 64) (w % 8))
        | 2 => some (.voteAll (w / 4096 % 8) (w / 64 % 64) (w % 8))
        | 3 => some (.voteUni (w / 4096 % 8) (w / 64 % 64) (w % 8))
        | _ => none
      | 0xC8 => some (.redaddI32 (w / 4096 % 64) (w / 64 % 64) (w / 8 % 2) (w % 8))
      | 0xC9 => some (.redaddF32 (w / 4096 % 64) (w / 64 % 64) (w / 8 % 2) (w % 8))
      | 0xCA => some (.redminI32 (w / 4096 % 64) (w / 64 % 64) (w / 8 % 2) (w % 8))
      | 0xCB => some (.redmaxI32 (w / 4096 % 64) (w / 64 % 64) (w / 8 % 2) (w % 8))
      | 0xCC => some (.redminF32 (w / 4096 % 64) (w / 64 % 64) (w / 8 % 2) (w % 8))
      | 0xCD => some (.redmaxF32 (w / 4096 % 64) (w / 64 % 64) (w / 8 % 2) (w % 8))
      | 0xCE => some (.bcast (w / 262144 % 64) (w / 4096 % 64) (w / 64 % 64) (w / 8 % 2) (w % 8))
      | 0xD0 => some (.extN8 (w / 262144 % 64) (w / 4096 % 64) (w % 16))
      | 0xD1 => some (.extN16 (w / 262144 % 64) (w / 4096 % 64) (w % 16))
      | 0xD2 => some (.extW (w / 262144 % 64) (w / 4096 % 64) (w % 16))
      | 0xD3 => some (.insN8 (w / 262144 % 64) (w / 4096 % 64) (w % 16))
      | 0xD4 => some (.insN16 (w / 262144 % 64) (w / 4096 % 64) (w % 16))
      | 0xD5 => some (.insW (w / 262144 % 64) (w / 4096 % 64) (w % 16))
      | 0xD8 => some (.addiI32 (w / 262144 % 64) (w / 4096 % 64) (w % 4096))
      | 0xD9 => some (.andi (w / 262144 % 64) (w / 4096 % 64) (w % 4096))
      | 0xDA => some (.ori (w / 262144 % 64) (w / 4096 % 64) (w % 4096))
      | 0xDB => some (.xori (w / 262144 % 64) (w / 4096 % 64) (w % 4096))
      | 0xDC => some (.shliW (w / 262144 % 64) (w / 4096 % 64) (w % 32))
      | 0xDD => some (.shriN32 (w / 262144 % 64) (w / 4096 % 64) (w % 32))
      | 0xDE => some (.shriI32 (w / 262144 % 64) (w / 4096 % 64) (w % 32))
      | 0xDF => some (.moviI32 (w / 262144 % 64) (w % 4096))
      | 0xE0 =>
        match w % 32 with
        | 0 => some (.sadd (w / 262144 % 64) (w / 4096 % 64) (w / 64 % 64))
        | 1 => some (.ssub (w / 262144 % 64) (w / 4096 % 64) (w / 64 % 64))
        | 2 => some (.smul (w / 262144 % 64) (w / 4096 % 64) (w / 64 % 64))
        | 3 => some (.smulhiI (w / 262144 % 64) (w / 4096 % 64) (w / 64 % 64))
        | 4 => some (.smulhiN (w / 262144 % 64) (w / 4096 % 64) (w / 64 % 64))
        | 5 => some (.sand (w / 262144 % 64) (w / 4096 % 64) (w / 64 % 64))
        | 6 => some (.sor (w / 262144 % 64) (w / 4096 % 64) (w / 64 % 64))
        | 7 => some (.sxor (w / 262144 % 64) (w / 4096 % 64) (w / 64 % 64))
        | 8 => some (.sshl (w / 262144 % 64) (w / 4096 % 64) (w / 64 % 64))
        | 9 => some (.sshrN (w / 262144 % 64) (w / 4096 % 64) (w / 64 % 64))
        | 10 => some (.sshrI (w / 262144 % 64) (w / 4096 % 64) (w / 64 % 64))
        | 11 => some (.sminI (w / 262144 % 64) (w / 4096 % 64) (w / 64 % 64))
        | 12 => some (.smaxI (w / 262144 % 64) (w / 4096 % 64) (w / 64 % 64))
        | 13 => some (.sminN (w / 262144 % 64) (w / 4096 % 64) (w / 64 % 64))
        | 14 => some (.smaxN (w / 262144 % 64) (w / 4096 % 64) (w / 64 % 64))
        | 15 => some (.smov (w / 262144 % 64) (w / 4096 % 64))
        | 16 => some (.ssltI (w / 262144 % 64) (w / 4096 % 64) (w / 64 % 64))
        | 17 => some (.ssltN (w / 262144 % 64) (w / 4096 % 64) (w / 64 % 64))
        | 18 => some (.sseq (w / 262144 % 64) (w / 4096 % 64) (w / 64 % 64))
        | _ => none
      | 0xE1 => some (.saddi (w / 262144 % 64) (w / 4096 % 64) (w % 4096))
      | 0xE2 => some (.slui (w / 262144 % 64) (w / 4096 % 64) (w % 4096))
      | _ => none

/-- The instruction of class mem whose opcode the word holds, with the word's fields (03). -/
def shapeMem (w : Nat) : Option Instr :=
  match w / 16777216 with
  | 0x01 => some (.ldN8 (w / 262144 % 64) (w / 4096 % 64) (w / 512 % 8) (w / 8 % 64) (w % 8))
  | 0x02 => some (.ldI8 (w / 262144 % 64) (w / 4096 % 64) (w / 512 % 8) (w / 8 % 64) (w % 8))
  | 0x03 => some (.ldN16 (w / 262144 % 64) (w / 4096 % 64) (w / 512 % 8) (w / 8 % 64) (w % 8))
  | 0x04 => some (.ldI16 (w / 262144 % 64) (w / 4096 % 64) (w / 512 % 8) (w / 8 % 64) (w % 8))
  | 0x05 => some (.ldW (w / 262144 % 64) (w / 4096 % 64) (w / 512 % 8) (w / 8 % 64) (w % 8))
  | 0x06 => some (.ldD (w / 262144 % 64) (w / 4096 % 64) (w / 512 % 8) (w / 8 % 64) (w % 8))
  | 0x07 => some (.ldQ (w / 262144 % 64) (w / 4096 % 64) (w / 512 % 8) (w / 8 % 64) (w % 8))
  | 0x09 => some (.stN8 (w / 262144 % 64) (w / 4096 % 64) (w / 512 % 8) (w / 8 % 64) (w % 8))
  | 0x0A => some (.stN16 (w / 262144 % 64) (w / 4096 % 64) (w / 512 % 8) (w / 8 % 64) (w % 8))
  | 0x0B => some (.stW (w / 262144 % 64) (w / 4096 % 64) (w / 512 % 8) (w / 8 % 64) (w % 8))
  | 0x0C => some (.stD (w / 262144 % 64) (w / 4096 % 64) (w / 512 % 8) (w / 8 % 64) (w % 8))
  | 0x0D => some (.stQ (w / 262144 % 64) (w / 4096 % 64) (w / 512 % 8) (w / 8 % 64) (w % 8))
  | 0x0E => some (.stnib (w / 262144 % 64) (w / 4096 % 64) (w / 512 % 8) (w / 8 % 64) (w % 8))
  | 0x0F => some (.stsix (w / 262144 % 64) (w / 4096 % 64) (w / 512 % 8) (w / 8 % 64) (w % 8))
  | 0x10 => some (.lduD (w / 262144 % 64) (w / 4096 % 64) (w / 512 % 8) (w / 8 % 64))
  | 0x11 => some (.stuD (w / 262144 % 64) (w / 4096 % 64) (w / 512 % 8) (w / 8 % 64))
  | 0x12 => some (.ldacqW (w / 262144 % 64) (w / 4096 % 64) (w / 512 % 8) (w / 64 % 8) (w % 8))
  | 0x13 => some (.ldacqD (w / 262144 % 64) (w / 4096 % 64) (w / 512 % 8) (w / 64 % 8) (w % 8))
  | 0x14 => some (.ldacqQ (w / 262144 % 64) (w / 4096 % 64) (w / 512 % 8) (w / 64 % 8) (w % 8))
  | 0x15 => some (.strelW (w / 262144 % 64) (w / 4096 % 64) (w / 512 % 8) (w / 64 % 8) (w % 8))
  | 0x16 => some (.strelD (w / 262144 % 64) (w / 4096 % 64) (w / 512 % 8) (w / 64 % 8) (w % 8))
  | 0x17 => some (.strelQ (w / 262144 % 64) (w / 4096 % 64) (w / 512 % 8) (w / 64 % 8) (w % 8))
  | 0x20 => some (.atomAddI32 (w / 262144 % 64) (w / 4096 % 64) (w / 512 % 8) (w / 8 % 64) (w % 8))
  | 0x21 => some (.atomAddI64 (w / 262144 % 64) (w / 4096 % 64) (w / 512 % 8) (w / 8 % 64) (w % 8))
  | 0x22 => some (.atomAddF32 (w / 262144 % 64) (w / 4096 % 64) (w / 512 % 8) (w / 8 % 64) (w % 8))
  | 0x23 => some (.atomMinI32 (w / 262144 % 64) (w / 4096 % 64) (w / 512 % 8) (w / 8 % 64) (w % 8))
  | 0x24 => some (.atomMinN32 (w / 262144 % 64) (w / 4096 % 64) (w / 512 % 8) (w / 8 % 64) (w % 8))
  | 0x25 => some (.atomMaxI32 (w / 262144 % 64) (w / 4096 % 64) (w / 512 % 8) (w / 8 % 64) (w % 8))
  | 0x26 => some (.atomMaxN32 (w / 262144 % 64) (w / 4096 % 64) (w / 512 % 8) (w / 8 % 64) (w % 8))
  | 0x27 => some (.atomAndW (w / 262144 % 64) (w / 4096 % 64) (w / 512 % 8) (w / 8 % 64) (w % 8))
  | 0x28 => some (.atomOrW (w / 262144 % 64) (w / 4096 % 64) (w / 512 % 8) (w / 8 % 64) (w % 8))
  | 0x29 => some (.atomXorW (w / 262144 % 64) (w / 4096 % 64) (w / 512 % 8) (w / 8 % 64) (w % 8))
  | 0x2A => some (.atomXchgW (w / 262144 % 64) (w / 4096 % 64) (w / 512 % 8) (w / 8 % 64) (w % 8))
  | 0x2B => some (.atomXchgD (w / 262144 % 64) (w / 4096 % 64) (w / 512 % 8) (w / 8 % 64) (w % 8))
  | 0x2C => some (.atomCasW (w / 262144 % 64) (w / 4096 % 64) (w / 512 % 8) (w / 8 % 64) (w % 8))
  | 0x2D => some (.atomCasD (w / 262144 % 64) (w / 4096 % 64) (w / 512 % 8) (w / 8 % 64) (w % 8))
  | 0x30 => some (.mredAddI32 (w / 262144 % 64) (w / 4096 % 64) (w / 512 % 8) (w / 8 % 64) (w % 8))
  | 0x31 => some (.mredAddI64 (w / 262144 % 64) (w / 4096 % 64) (w / 512 % 8) (w / 8 % 64) (w % 8))
  | 0x32 => some (.mredAddF32 (w / 262144 % 64) (w / 4096 % 64) (w / 512 % 8) (w / 8 % 64) (w % 8))
  | 0x33 => some (.mredMinI32 (w / 262144 % 64) (w / 4096 % 64) (w / 512 % 8) (w / 8 % 64) (w % 8))
  | 0x34 => some (.mredMinN32 (w / 262144 % 64) (w / 4096 % 64) (w / 512 % 8) (w / 8 % 64) (w % 8))
  | 0x35 => some (.mredMaxI32 (w / 262144 % 64) (w / 4096 % 64) (w / 512 % 8) (w / 8 % 64) (w % 8))
  | 0x36 => some (.mredMaxN32 (w / 262144 % 64) (w / 4096 % 64) (w / 512 % 8) (w / 8 % 64) (w % 8))
  | 0x37 => some (.mredAndW (w / 262144 % 64) (w / 4096 % 64) (w / 512 % 8) (w / 8 % 64) (w % 8))
  | 0x38 => some (.mredOrW (w / 262144 % 64) (w / 4096 % 64) (w / 512 % 8) (w / 8 % 64) (w % 8))
  | 0x39 => some (.mredXorW (w / 262144 % 64) (w / 4096 % 64) (w / 512 % 8) (w / 8 % 64) (w % 8))
  | 0x40 => some (.fence (w / 64 % 8) (w / 8 % 8) (w % 8))
  | 0x41 => some (.cclean (w / 4096 % 64) (w / 512 % 8) (w / 8 % 64) (w % 8))
  | 0x42 => some (.cflush (w / 4096 % 64) (w / 512 % 8) (w / 8 % 64) (w % 8))
  | 0x43 => some (.pfetch (w / 4096 % 64) (w / 512 % 8) (w / 8 % 64) (w % 8))
  | 0x48 => some (.cpin (w / 262144 % 64) (w / 4096 % 64) (w / 64 % 64) (w / 8 % 8))
  | 0x49 => some (.cpout (w / 262144 % 64) (w / 4096 % 64) (w / 64 % 64) (w / 8 % 8))
  | 0x4A => some (.cpwait (w / 262144 % 64) (w / 4096 % 64) (w / 8 % 8))
  | 0x50 => some (.bankmode (w / 4096 % 64) (w / 8 % 8))
  | _ => none

/-- The instruction of class mtx whose opcode the word holds, with the word's fields (03). -/
def shapeMtx (w : Nat) : Option Instr :=
  match w / 16777216 with
  | 0x01 => some (.tresv (w / 1048576 % 16) (w / 1024 % 16) (w % 512))
  | 0x02 => some (.tfree (w / 1048576 % 16))
  | 0x03 =>
    match w / 1024 % 2 with
    | 0 => some (.tset (w / 1048576 % 16) (w % 1024))
    | 1 => some (.tsetRows (w / 1048576 % 16) (w % 1024))
    | _ => none
  | 0x04 =>
    match w / 1024 % 4 with
    | 0 => some (.ksetArm (w / 16384 % 8) (w % 1024))
    | 1 => some (.ksetSign (w / 16384 % 8))
    | 2 => some (.ksetOff (w / 16384 % 8))
    | _ => none
  | 0x08 => some (.wload (w / 1048576 % 16))
  | 0x09 => some (.wswap)
  | 0x10 => some (.mstream (w / 1048576 % 16) (w / 131072 % 8) (w / 16384 % 8) (w / 2048 % 2) (w / 1024 % 2) (w / 128 % 8) (w % 128))
  | 0x11 => some (.mbatch (w / 1048576 % 16) (w / 16384 % 8) (w / 2048 % 2) (w / 1024 % 2) (w % 128))
  | 0x18 => some (.aread (w / 1048576 % 16) (w / 131072 % 8) (w / 16384 % 8) (w / 1024 % 16) (w / 16 % 64) (w / 8 % 2) (w % 8))
  | 0x19 => some (.astore (w / 1048576 % 16) (w / 131072 % 8) (w / 128 % 8) (w % 128))
  | 0x1A => some (.azero (w / 131072 % 8) (w / 128 % 8) (w % 128))
  | _ => none

/-- The instruction of class ctl whose opcode the word holds, with the word's fields (03). -/
def shapeCtl (w : Nat) : Option Instr :=
  match w / 16777216 with
  | 0x01 => some (.br (w / 8 % 2097152) (w % 8))
  | 0x02 => some (.bra (w / 8 % 2097152) (w % 8))
  | 0x03 => some (.call (w / 8 % 2097152) (w % 8))
  | 0x04 => some (.ret (w % 8))
  | 0x05 => some (.jmpi (w / 4096 % 64) (w / 8 % 2) (w % 8))
  | 0x06 => some (.calli (w / 4096 % 64) (w / 8 % 2) (w % 8))
  | 0x08 => some (.join (w / 1048576 % 16) (w / 65536 % 16))
  | 0x09 => some (.leave (w / 1048576 % 16))
  | 0x0A => some (.waitm (w / 1048576 % 16) (w / 65536 % 16) (w / 4096 % 8) (w % 4096))
  | 0x0B => some (.bar (w / 1048576 % 16) (w / 65536 % 16) (w % 4096))
  | 0x10 => some (.exit (w % 8))
  | 0x11 => some (.nop (w % 8))
  | 0x12 => some (.yield (w % 8))
  | 0x13 => some (.brk (w / 8 % 2097152) (w % 8))
  | 0x18 => some (.donate (w / 32 % 16) (w % 32))
  | 0x19 => some (.accept (w / 32 % 16) (w % 32))
  | _ => none

/-- The instruction of class que whose opcode the word holds, with the word's fields (03). -/
def shapeQue (w : Nat) : Option Instr :=
  match w / 16777216 with
  | 0x01 => some (.qinit (w / 4096 % 64) (w / 64 % 64))
  | 0x02 => some (.qpush (w / 262144 % 64) (w / 64 % 64) (w / 8 % 2) (w % 8))
  | 0x03 => some (.qpop (w / 262144 % 64) (w / 64 % 64) (w / 8 % 2) (w % 8))
  | 0x08 => some (.sarr (w / 4096 % 64) (w / 64 % 64))
  | 0x09 => some (.swt (w / 4096 % 64) (w / 64 % 64) (w / 8 % 2))
  | 0x10 => some (.tspawn (w / 524288 % 32) (w % 8))
  | 0x11 => some (.ttake (w / 524288 % 32) (w % 8))
  | 0x12 => some (.tsteal (w / 524288 % 32) (w % 8))
  | 0x18 => some (.llock (w / 262144 % 64) (w / 4096 % 64) (w / 64 % 64) (w % 8))
  | 0x19 => some (.ltry (w / 262144 % 64) (w / 4096 % 64) (w % 8))
  | 0x1A =>
    match w / 8 % 8 with
    | 0 => some (.lunlock (w / 4096 % 64) (w % 8))
    | 1 => some (.lunlockW (w / 262144 % 64) (w / 4096 % 64) (w % 8))
    | 3 => some (.lunlockD (w / 262144 % 64) (w / 4096 % 64) (w % 8))
    | 5 => some (.lunlockQ (w / 262144 % 64) (w / 4096 % 64) (w % 8))
    | _ => none
  | 0x1B =>
    match w / 8 % 2 with
    | 0 => some (.lstat (w / 262144 % 64) (w / 4096 % 64) (w % 8))
    | 1 => some (.lstatList (w / 262144 % 64) (w / 64 % 64) (w % 8))
    | _ => none
  | 0x20 => some (.unfold (w / 262144 % 64) (w / 4096 % 64) (w / 64 % 64))
  | 0x21 => some (.spawnf (w / 262144 % 64) (w % 8))
  | 0x22 => some (.fret (w / 262144 % 64))
  | 0x23 => some (.cres (w / 262144 % 64) (w % 8))
  | _ => none

/-- The instruction of class nmc whose opcode the word holds, with the word's fields (03). -/
def shapeNmc (w : Nat) : Option Instr :=
  match w / 16777216 with
  | 0x01 => some (.secopen (w / 4096 % 64) (w / 64 % 64))
  | 0x02 => some (.secabort (w / 4096 % 64))
  | 0x03 => some (.secstat (w / 262144 % 64) (w / 4096 % 64))
  | 0x08 => some (.pumpgo (w / 4096 % 64) (w / 64 % 64))
  | 0x09 => some (.pumpwait (w / 262144 % 64) (w / 4096 % 64))
  | 0x0A => some (.mvsplit (w / 262144 % 64) (w / 4096 % 64) (w / 64 % 64))
  | 0x10 =>
    match w / 8 % 2 with
    | 0 => some (.boardShadow (w / 4096 % 64))
    | 1 => some (.boardTile (w / 4096 % 64) (w / 64 % 16))
    | _ => none
  | 0x11 => some (.unboard (w / 4096 % 64))
  | 0x12 => some (.boardstat (w / 262144 % 64) (w / 4096 % 64))
  | _ => none

/-- The instruction of class sys whose opcode the word holds, with the word's fields (03). -/
def shapeSys (w : Nat) : Option Instr :=
  match w / 16777216 with
  | 0x01 => some (.mfsr (w / 262144 % 64) (w / 64 % 4096))
  | 0x02 => some (.mtsr (w / 262144 % 64) (w / 64 % 4096))
  | 0x03 => some (.trap (w / 64 % 4096))
  | 0x04 => some (.tret)
  | 0x05 => some (.fencei)
  | _ => none

/-- The clause header of a word (03 R45): the tests of R46 are made by the acceptance below. -/
def shapeHeader (w : Nat) : Option Instr :=
  some (.clauseHeader (w / 134217728 % 2) (w / 8388608 % 16) (w / 524288 % 16) (w / 128 % 4096) (w / 16 % 8) (w % 16))

/-- The shape of a word under a class (03 R51): 0 to 6 the engine classes, 7 the clause header. -/
def shape (cls w : Nat) : Option Instr :=
  match cls with
  | 0 => shapeAlu w
  | 1 => shapeMem w
  | 2 => shapeMtx w
  | 3 => shapeCtl w
  | 4 => shapeQue w
  | 5 => shapeNmc w
  | 6 => shapeSys w
  | 7 => shapeHeader w
  | _ => none

/-- Decode a word under a class: total, rejecting by name (03 R46, R58). -/
def decode (cls w : Nat) : Except DecodeError Instr :=
  match shape cls w with
  | none => .error .unassigned
  | some i =>
    if i.wf && encode i == w then .ok i
    else if cls == 7 then .error .badHeader else .error .badField

/-- The decoded instruction, with the reason of a refusal dropped. -/
def decode? (cls w : Nat) : Option Instr :=
  match decode cls w with
  | .ok i => some i
  | .error _ => none

/-- The little-endian bytes of a number (00 R4). -/
def leBytes : Nat → Nat → List (BitVec 8)
  | 0, _ => []
  | n + 1, w => BitVec.ofNat 8 w :: leBytes n (w / 256)

/-- The number whose little-endian bytes are given (00 R4). -/
def ofLeBytes : List (BitVec 8) → Nat
  | [] => 0
  | b :: bs => b.toNat + 256 * ofLeBytes bs

/-- The trigger port of a move, or the plain move (15 R230). -/
def moveInstr (d : Nat) : Instr :=
  match d with
  | 17 => .aluadd
  | 18 => .alusub
  | 19 => .aluand
  | 20 => .aluor
  | 21 => .aluxor
  | 22 => .alushl
  | 23 => .alushr
  | 24 => .alusra
  | 25 => .alumul
  | 28 => .cmpeq
  | 29 => .cmplt
  | 30 => .cmpltu
  | 34 => .sfufma
  | 35 => .sfucvt
  | 37 => .ldg
  | 38 => .lds
  | 41 => .stg
  | 42 => .sts
  | 45 => .bkc
  | 47 => .sluice
  | 48 => .pumpDone
  | 49 => .jump
  | 50 => .jrel
  | 55 => .drain
  | _ => .pumpMove

/-- The 32-bit word of a move (15 R229). -/
def encodeMove (x : Move) : Nat :=
  x.g * 2147483648 + x.e * 1073741824 + x.d * 16777216 + x.s * 262144 + x.i * 131072 + x.m

/-- The fields of a 32-bit move (15 R229). -/
def moveOf (w : Nat) : Move where
  g := w / 2147483648
  e := w / 1073741824 % 2
  d := w / 16777216 % 64
  s := w / 262144 % 64
  i := w / 131072 % 2
  m := w % 131072

/-- Decode a move: the row it is and its fields; refused as 15 R231 refuses it. -/
def decodeMove (w : Nat) : Except DecodeError (Instr × Move) :=
  let x := moveOf w
  if x.wf && encodeMove x == w then .ok (moveInstr x.d, x) else .error .badField

/-- The operation of a microcommand (15 R226). -/
def microInstr (op : Nat) : Instr :=
  match op with
  | 0 => .microAct
  | 1 => .microMac
  | 2 => .microWb
  | 3 => .microPre
  | _ => .microClr

/-- The 64-bit value of a microcommand (15 R226). -/
def encodeMicro (x : Micro) : Nat :=
  x.op + x.wr * 8 + x.acc * 16 + x.fmt * 64 + x.h * 256

/-- The fields of a 64-bit microcommand (15 R226); OP's field is [2:0]. -/
def microOf (v : Nat) : Micro where
  op := v % 8
  wr := v / 8 % 2
  acc := v / 16 % 4
  fmt := v / 64 % 4
  h := v / 256 % 4

/-- Decode a microcommand; refused as 15 R227 makes it an error. -/
def decodeMicro (v : Nat) : Except DecodeError (Instr × Micro) :=
  let x := microOf v
  if x.wf && encodeMicro x == v then .ok (microInstr x.op, x) else .error .badField

/-- The first instruction that the classes of the list read from a word. -/
def firstDecode (w : Nat) : List Nat → Option Instr
  | [] => none
  | c :: cs =>
    match decode? c w with
    | some i => some i
    | none => firstDecode w cs

/-- An instruction of the opcode table's numbering, laid out as the module stores it (03 R45: 32-bit words, little-endian)
and given to the decoder. DESIGN CHOICE (log entry 6): a bare word is ambiguous, since its class stands in its clause's
header (R51), so the classes are asked in a fixed order, then a pumphouse move. -/
def decodeTableWord (nbits w : Nat) : Option Instr :=
  let w := ofLeBytes (leBytes 4 (w % 2 ^ nbits))
  match firstDecode w [6, 5, 3, 4, 2, 1, 0, 7] with
  | some i => some i
  | none =>
    match decodeMove w with
    | .ok (i, _) => some i
    | .error _ => none

end Sys2Proof
end

