-- ==== Sys2Proof/Machine/State.lean ====
section
/-!
DEFINITION. State.lean: everything the spec gives the module, as plain data. A table (Tab) lists only what differs from its
reset value. The fields that are the model's own, not the spec's, are marked so (log entries 1, 3, 4).
-/
namespace Sys2Proof.Machine

/-- Why the module stops for good. -/
inductive Fault where
  /-- Raised by an issue or a bundle after a thermal trip: every core has stopped and only a module reset restarts the
  module (25 R358). Safe: the module does nothing from then on. -/
  | machineStopped
deriving DecidableEq, Repr

/-- What the model gives no meaning. -/
inductive Refusal where
  /-- Raised by Dispatch for a row without a meaning. Safe: no claim is made about it. -/
  | notModelled (mnemonic : String)
  /-- Raised by the step for an agenda entry whose instruction is not an event. Safe: no hardware does this. -/
  | illFormed
deriving DecidableEq, Repr

/-- A tile record's image (08 R142). -/
abbrev Tile := BitVec 512

/-- The conditions of a thread (02 R21). -/
inductive Cond where
  | runnable
  | waiting
  | parked
  | exited
deriving DecidableEq, Repr, Inhabited

/-- The word that is being executed and the group that issues it: the model's own (log entry 1). Its content is that of
03 R45, R47 and 07 R129: the class and flags are those of the clause's header. -/
structure Cur where
  tid : Nat := 0
  coh : Nat := 0
  lanes : Lanes := 0
  addr : Nat := 0
  idx : Nat := 0
  count : Nat := 0
  cls : Nat := 0
  seta : Nat := 15
  setb : Nat := 15
  word : Nat := 0
  port : Nat := 0
  yld : Bool := false
deriving DecidableEq, Repr, Inhabited

/-- A hardware-wait record (09 R169): KIND 1 `waitm`, 2 `bar`, 3 `donate`, 4 `accept`. `remain` is in core clocks while the
team is resident; `first` and `last` are the arrival order of its first and last arrival. -/
structure HwRec where
  kind : Nat := 0
  lanes : Lanes := 0
  ma : Nat := 0
  mb : Nat := 0
  ps : Nat := 0
  imm : Nat := 0
  remain : Nat := 0
  first : Nat := 0
  last : Nat := 0
deriving DecidableEq, Repr, Inhabited

/-- A hardware wait that carries no record (09 R169): what the waiting threads test. -/
inductive Wait where
  | swt (ptr : BitVec 64) (ix ph : Nat)
  | cpwait (ch : Nat) (thr : BitVec 64) (sd : Nat) (p : BitVec 64)
  | pumpwait (pa : Nat) (sd : Nat)
  | fencei (ops : List Nat)
deriving DecidableEq, Repr

/-- The lanes of one such wait. -/
structure Poll where
  lanes : Lanes
  wait : Wait
deriving DecidableEq, Repr

/-- A fence that holds the later words of its lanes (11 R193): `ops` are the operations it waits for, at a scope. -/
structure Hold where
  lanes : Lanes
  kind : Nat
  ops : List Nat
  scope : Nat := 6
deriving DecidableEq, Repr

/-- An entry of the cohort's lock list (21 R312, R326). -/
structure LockRef where
  line : Nat := 0
  va : BitVec 64 := 0
  holds : Bool := false
  wait : Lanes := 0
  vd : Nat := 0
deriving DecidableEq, Repr, Inhabited

/-- The routine cursor of a lane and the work it has yet to do (23 R329, R335): kinds 0 divide, 1 base, 2 combine, 3 none. -/
structure LaneCur where
  kind : Nat := 3
  frame : Nat := 0
  spawned : Nat := 0
  next : Nat := 0
  todo : List (Nat × Nat) := []
deriving DecidableEq, Repr, Inhabited

/-- The recursion object's fields (23 R330). -/
structure RecObj where
  divpc : BitVec 64 := 0
  basepc : BitVec 64 := 0
  combpc : BitVec 64 := 0
  farea : Nat := 0
  falen : Nat := 0
  argq : Nat := 1
  resq : Nat := 1
  maxch : Nat := 1
  dlim : Nat := 0
  w : Nat := 1
  frsz : Nat := 0
deriving DecidableEq, Repr, Inhabited

/-- What the engine knows of a frame (23 R331): its depth, its child index, its children and their first index; `path` packs
the child indices from the root (R337). -/
structure FrameInfo where
  parent : Nat := 0xFFFFFFFF
  depth : Nat := 0
  cidx : Nat := 0
  nch : Nat := 0
  first : Nat := 0
  path : Nat := 0
deriving DecidableEq, Repr, Inhabited

/-- An unfolding in progress (23 R329 to R337). Phases: 0 breadth first, 1 depth first, 2 combine. `frames` is the current
level, `levels` are the levels above it, deepest first; `pcs` are the PCs at `unfold`, `last` says that it ends its clause;
`isOver` that the root's result stands; `ops` are its `spawnf` and `fret` words and the engine's own writes, and `due` what the engine has yet to do with its control block: 1
read it, 2 write it, 3 write it and read it. -/
structure Unf where
  obj : RecObj := {}
  vd : Nat := 0
  lanes : Lanes := 0
  pc : BitVec 64 := 0
  pcs : Tab (BitVec 64) := []
  last : Bool := false
  phase : Nat := 0
  level : Nat := 0
  frames : List Nat := []
  levels : List (List Nat) := []
  lane : Tab LaneCur := []
  info : Tab FrameInfo := []
  isOver : Bool := false
  ops : List Nat := []
  due : Nat := 0
deriving DecidableEq, Repr, Inhabited

/-- The values of cohort-scope state before the current core clock, which every read of the clock sees (02 R38); `v` the
old values of the v registers written in the clock, keyed as the register file, for cross-lane reads (06 R105); `lanes` have
issued in the clock. -/
structure Pre where
  s : Tab (BitVec 64) := []
  m : Tab (BitVec 32) := []
  f : Tab Nat := []
  fpflags : BitVec 32 := 0
  valloc : Nat := 0
  mvratio : BitVec 64 := 0
  hangctl : BitVec 64 := 0
  hangcnt : BitVec 48 := 0
  lockwait : BitVec 64 := 0
  trappc : BitVec 64 := 0
  trapstat : Bool := false
  stkcur : Nat := 0
  v : Tab (Option (BitVec 128)) := []
  lanes : Lanes := 0
deriving DecidableEq, Repr, Inhabited

/-- A pending alu write (06 R104): the register (v r as r, s r as 64 + r, p r as 128 + r), its lanes, the core clock of its issue and the one
from which it can be read. -/
structure Pending where
  reg : Nat
  lanes : Lanes
  since : Nat
  until_ : Nat
deriving DecidableEq, Repr

/-- A cohort: 32 threads and what they own (02 R21, R22; 05 R91, R92). `last` are the threads whose word is the last of its
clause, kept while they wait or are parked at it; `tiles` are the corrupted tiles (key, schedule) it has yet to take (20 R305); `redo` the parked
lanes with the operation of the lanes that performed (13 R216); `pend` the alu writes that have yet to land (06 R104). -/
structure Cohort where
  pc : Tab (BitVec 64) := []
  waiting : Lanes := 0
  parked : Lanes := 0
  exited : Lanes := 0
  last : Lanes := 0
  sr : Tab (BitVec 32) := []
  s : Tab (BitVec 64) := []
  p : Tab Lanes := []
  m : Tab (BitVec 32) := []
  f : Tab Nat := []
  fpflags : BitVec 32 := 0
  quad : Nat := 0
  valloc : Nat := 0
  gmap : Tab Nat := []
  mvratio : BitVec 64 := 0
  hangctl : BitVec 64 := 20
  hangcnt : BitVec 48 := 0
  hangrep : Bool := false
  lockwait : BitVec 64 := 0
  trappc : BitVec 64 := 0
  trapstat : Bool := false
  stkcur : Nat := 0
  hw : Tab HwRec := []
  polls : List Poll := []
  words : Tab (BitVec 32) := []
  holds : List Hold := []
  acqs : List (Lanes × Nat) := []
  locks : Tab LockRef := []
  unf : Option Unf := none
  tiles : List (Nat × Nat) := []
  redo : List (Lanes × Nat) := []
  pend : List Pending := []
  pre : Option Pre := none
  returned : List Nat := []
  retired : Bool := false
deriving DecidableEq, Repr, Inhabited

/-- A launch record (02 R26), with its address. -/
structure Launch where
  addr : BitVec 64 := 0
  entry : BitVec 64 := 0
  trapvec : BitVec 64 := 0
  args : BitVec 64 := 0
  nlev : Nat := 1
  regs : Nat := 16
  ncopy : Nat := 0
  nmtx : Nat := 0
  nvec : Nat := 0
  acc : Bool := false
  scratch : Nat := 0
  queue : Nat := 0
  opbuf : Nat := 0
  seed : Nat := 0
  privw : Nat := 0
  stklim : Nat := 0
  privbase : Nat := 0
  levels : List (BitVec 64) := []
deriving DecidableEq, Repr, Inhabited

/-- The team barrier (07 R139). `remain` is in core clocks. -/
structure Barrier where
  isOpen : Bool := false
  mreg : Nat := 0
  gen : BitVec 32 := 0
  waitcoh : BitVec 32 := 0
  remain : Nat := 0
  bounded : Bool := false
deriving DecidableEq, Repr, Inhabited

/-- Where a team stands: in a core, stopped and being saved, saved, or gone. -/
inductive Place where
  | resident
  | stopped
  | saved
  | gone
deriving DecidableEq, Repr, Inhabited

/-- Who asked for a pre-emption (09 R167): a host command (its JSEQ), the dispatcher, or `brk`. -/
inductive Asker where
  | host (jseq : Nat) (hold : Bool)
  | dispatcher
  | plodor (code : Nat)
deriving DecidableEq, Repr

/-- A boarding request kept with a saved team, or a refill of a plane (20 R310; 08 R153). Plane 0 shadow, 1 active. -/
structure BoardRec where
  key : Nat := 0
  sched : Nat := 0
  dest : Nat := 0
  t : Nat := 0
  coh : Nat := 0
  lost : Nat := 0
  crc1 : Bool := false
  op : Nat := 0
  refill : Bool := false
  plane : Nat := 0
deriving DecidableEq, Repr, Inhabited

/-- A copy command (11 R199 to R203). `fseq` is the token it waits for, `ok` says that it has been translated, through the leaves of the
lines `leaves`; `fin` how many bytes it has delivered, `out` how many more it has written, in the operations `writes`, which have yet to be acknowledged; `p` the
CHIS at acceptance. -/
structure CopyCmd where
  op : Nat := 0
  tid : Nat := 0
  coh : Nat := 0
  vf : Nat := 0
  isIn : Bool := true
  dst : BitVec 64 := 0
  src : BitVec 64 := 0
  len : Nat := 0
  ch : Nat := 0
  p : BitVec 64 := 0
  fin : Nat := 0
  ok : Bool := false
  pages : Tab Nat := []
  leaves : List Nat := []
  out : Nat := 0
  writes : List Nat := []
  wait : Option Nat := none
  pc : BitVec 64 := 0
deriving DecidableEq, Repr, Inhabited

/-- A team (02 R23), its placement (R32 to R34), its registers of team scope (05 R91) and, while it is not resident, what the
spec keeps with it (09 R168 to R170). `slack` are the granules of its runs that no cohort has (02 R33), as 128 * quad + granule;
`askClk` is the core clock of its latest pre-emption request; `saved` counts the classes written to its save area `area`; `due` says that it has a new place and its restore is due; `ksigs` are the batch-table signatures (table, cohort, count) of the current core clock
(08 R149). -/
structure Team where
  vf : Nat := 0
  graph : Nat := 0
  node : Nat := 0
  nodeAddr : BitVec 64 := 0
  launch : Launch := {}
  number : Nat := 0
  nteams : Nat := 1
  place : Place := .gone
  polder : Nat := 0
  core : Nat := 0
  slot : Nat := 0
  q0 : Nat := 0
  slack : List Nat := []
  scrBanks : List Nat := []
  scrOff : Nat := 0
  opOff : Nat := 0
  cohs : Tab Cohort := []
  bar : Barrier := {}
  t : Tab Tile := []
  k : Tab (BitVec 1024) := []
  ksigs : List (Nat × Nat × Nat) := []
  deque : List (BitVec 256) := []
  taken : Nat := 0
  asks : List Asker := []
  askClk : Nat := 0
  area : Option Nat := none
  saved : Nat := 0
  saveTime : BitVec 64 := 0
  held : Bool := false
  boards : List BoardRec := []
  copies : List CopyCmd := []
  resumes : List Nat := []
  due : Bool := false
  terminated : Bool := false
  released : Bool := false
deriving DecidableEq, Repr, Inhabited

/-- An L1 line (10 R172, R175; 11 R187; 21 R315): `use` is its recency, `lock` is the cohort whose lock line it is. -/
structure L1Line where
  data : BitVec 1024 := 0
  dirty : Bool := false
  priv : Bool := false
  cls : Nat := 0
  use : Nat := 0
  vf : Nat := 0
  owner : Nat := 0
  lock : Option (Nat × Nat) := none
deriving DecidableEq, Repr, Inhabited

/-- A leaf in a translation cache (18 R262, R267), with the line it was filled from. -/
structure Tlb where
  vf : Nat
  va : Nat
  lg : Nat
  pa : Nat
  kind : Nat
  pr : Bool
  pw : Bool
  px : Bool
  line : Nat
deriving DecidableEq, Repr

/-- A range-lock entry (18 R276). -/
structure RLock where
  valid : Bool := false
  kind : Nat := 0
  space : Nat := 0
  vf : Nat := 0
  tid : Nat := 0
  engine : Nat := 0
  base : Nat := 0
  fin : Nat := 0
  op : Nat := 0
deriving DecidableEq, Repr, Inhabited

/-- A weight plane (08 R141). `src` is the request of the ring delivery that last filled it, if one did (R153). -/
structure Plane where
  w : Tab Byte := []
  sc : Tab Byte := []
  fmt : Nat := 0
  inf : Bool := false
  x : BitVec 16 := 0
  scl : Bool := false
  blk : Bool := false
  sfmt : Bool := false
  empty : Bool := true
  src : Option BoardRec := none
deriving DecidableEq, Repr, Inhabited

/-- The operations of the matrix queue (08 R141, R151 to R156). -/
inductive MOp where
  | wload (t : Nat) (img : Tile)
  | wswap
  | mstream (a t : Nat) (img : Tile) (m o : Nat) (ovr : Bool)
  | mbatch (t : Nat) (img : Tile) (m : Nat) (ovr : Bool)
  | aread (a row cv h e vd : Nat) (lanes : Lanes)
  | astore (a t : Nat) (img : Tile) (m o : Nat)
  | azero (a m o : Nat)
deriving DecidableEq, Repr

/-- An entry of the matrix queue: `filling` while a `wload` fills the shadow plane (R151); `row` the row it waits for, or how many rows a stream's
array has accepted, or of an `astore` or `azero` that it is under way (R154, R156); `chis` the CHIS of the watched channel as that row's wait
began (R145; 11 R204). -/
structure MEntry where
  op : Nat
  tid : Nat
  coh : Nat
  mop : MOp
  filling : Bool := false
  row : Nat := 0
  chis : Option (BitVec 64) := none
deriving DecidableEq, Repr

/-- A boarding request slot (20 R296, R302 to R307): state 0 free, 1 armed, 2 landing, 3 ended; `pending` until the stop has
taken the request, from ring clock `ask` on; `quit` the ring clock in which a word's disarm reaches it, 0 none (R308); `sn` is the ring slot taken,
and `beats` how many of its 16 beats have landed (R304). Slots 4 and 5 hold a restored team's refills of a plane (R310). -/
structure BoardSlot where
  state : Nat := 0
  fin : Nat := 0
  key : Nat := 0
  sched : Nat := 0
  dest : Nat := 0
  t : Nat := 0
  base : Nat := 0
  tid : Nat := 0
  coh : Nat := 0
  lost : Nat := 0
  crc1 : Bool := false
  arm : Nat := 0
  pending : Bool := false
  lap : Nat := 0
  sn : Nat := 0
  op : Nat := 0
  order : Nat := 0
  cancel : Bool := false
  plane : Nat := 0
  ask : Nat := 0
  quit : Nat := 0
  beats : Nat := 0
deriving DecidableEq, Repr, Inhabited

/-- A copy channel (11 R199). `hold` is the admission hold: the group by its team, cohort and lowest lane, and the PC of its
next word (R204). -/
structure Chan where
  queue : List CopyCmd := []
  chwp : BitVec 64 := 0
  chis : BitVec 64 := 0
  hold : Option (Nat × Nat × Nat × BitVec 64) := none
deriving DecidableEq, Repr, Inhabited

/-- A bank drain in progress (11 R205): the new mode, the operation that completes with it, and, by team, how many of the oldest tasks of its
deque stood in the bank when the drain was accepted and have not been taken. -/
structure Drain where
  bank : Nat
  mode : Nat
  op : Nat
  tasks : List (Nat × Nat) := []
deriving DecidableEq, Repr

/-- A stream core (10 R172; 11 R199; 08 R141; 18 R262; 20 R296; 24 R343). `rf` is the quad register files (05 R95), keyed
((quad * 128 + granule) * 8 + register) * 32 + lane; `sram` the banks, keyed 524288 * bank + byte; bank modes are 0 cache,
1 scratchpad, 2 FIFO; `rr` and `groups` are the round-robin pointers and the instruction-buffer order (02 R36, R37). `stage` and
`ports` are the model's own: what the grouping stages have yet to offer in this core clock (quad, team, cohort, lanes), in R36's
order, and how many ports of each quad have issued in it (log entry 1); `inClk` and `inRank` are the core clock and the input of the mesh
operation that its queue arbiter took last (19 R295). `ran` are the groups that have issued in this core clock (team, cohort, lanes, and the ADDR and
IDX of the word after), for the order of the groups at its end (02 R37); `units` is the clock from which a port's unit takes a word again, by
(quad * 2 + port) * 2 + unit (06 R104); `mqAt` the core clock from which the head of the matrix queue goes on (08 R151, R154, R156); `perfPre` are PERFC as the core clock began (24 R344), `taken` the deliveries that the next clock
counts (R346). -/
structure Core where
  modes : Tab Nat := [(4, 1), (5, 1), (6, 1), (7, 1), (8, 1), (9, 1), (10, 1), (11, 1), (12, 1), (13, 1), (14, 1), (15, 1)]
  drains : List Drain := []
  l1 : Tab L1Line := []
  sram : Tab Byte := []
  opbuf : Tab Byte := []
  tlb : List Tlb := []
  rf : Tab (BitVec 128) := []
  chans : Tab Chan := []
  rlocks : Tab RLock := []
  mq : List MEntry := []
  mqAt : Nat := 0
  acc : Tab (BitVec 32) := []
  active : Plane := {}
  shadow : Plane := {}
  boards : Tab BoardSlot := []
  lastkey : Tab (Option Nat) := []
  ringmiss : BitVec 64 := 0
  ringcrc : BitVec 64 := 0
  perfc : Tab (BitVec 64) := []
  perfPre : Tab (BitVec 64) := []
  taken : Nat := 0
  perfsel : Tab (BitVec 64) := []
  rr : Tab Nat := []
  groups : List (Nat × Nat × Lanes) := []
  stage : List (Nat × Nat × Nat × Lanes) := []
  ports : Tab Nat := []
  ran : List (Nat × Nat × Lanes × Nat × Nat) := []
  units : Tab Nat := []
  inClk : Nat := 0
  inRank : Nat := 0
deriving DecidableEq, Repr, Inhabited

/-- A line in a home slice, with its directory entry (10 R178; 11 R187; 18 R274): sharers are core numbers, 128 + core for
a translation cache; `cls` the eviction class. -/
structure SLine where
  data : BitVec 1024 := 0
  valid : Bool := true
  dirty : Bool := false
  sharers : List Nat := []
  kid : Nat := 0
  cls : Nat := 0
  use : Nat := 0
deriving DecidableEq, Repr, Inhabited

/-- A lock-chain entry (18 R277; 21 R313). `slot` and `core` are the requester's; `tid` names its team in the model. -/
structure ChainEntry where
  tid : Nat
  coh : Nat
  vf : Nat
  core : Nat
  slot : Nat
  absent : Bool := false
  holds : Bool := false
  lanes : Lanes := 0
  tleft : Nat := 0
  sub : Nat := 0
deriving DecidableEq, Repr

/-- The lock state of a line (21 R312): the chain, HEAD first; the published image. -/
structure LockSt where
  chain : List ChainEntry := []
  locked : Bool := false
  broken : Bool := false
  image : BitVec 1024 := 0
deriving DecidableEq, Repr, Inhabited

/-- A section entry of a slice (16 R240, R247): the section is named by its pumphouse core. -/
structure SEntry where
  pc : Nat
  c1 : BitVec 1024 := 0
  c2 : BitVec 1024 := 0
  hold : Bool := false
deriving DecidableEq, Repr

/-- A home slice (10 R172, R178; 16 R240). `relay` are the packets in its relay buffer, `inClk` and `inRank` the core clock and the input of
the request that its arbiter took last (14 R222). -/
structure Slice where
  lines : Tab SLine := []
  tag : BitVec 16 := 0
  secs : List SEntry := []
  relay : List Nat := []
  inClk : Nat := 0
  inRank : Nat := 0
deriving DecidableEq, Repr, Inhabited

/-- A write to one byte: its address, the data and the bits that are written. -/
structure WByte where
  addr : Nat
  data : Byte
  mask : Byte := 255
deriving DecidableEq, Repr

/-- A lane's part of an atomic: its operands. -/
structure ALane where
  lane : Nat
  v : BitVec 64
  w : BitVec 64 := 0
deriving DecidableEq, Repr

/-- An operation on a queue word, with what its lanes' registers hold (19 R288): the new word; the lanes' low pairs, with or without REF; a slot index;
a slot index and a phase. -/
inductive QueOp where
  | init (w : BitVec 64)
  | push (vals : List (Nat × BitVec 64)) (ref : Bool)
  | pop (vals : List (Nat × BitVec 64)) (ref : Bool)
  | arr (ix : Nat)
  | wait (ix ph : Nat)
deriving DecidableEq, Repr

/-- What a queue arbiter answers to an operation on a queue word (19 R288): a fault's cause, DETAIL, PAGE0 and lanes; an uncorrectable error that it
has met; the result; whether the phase asked for has come. -/
structure QueAns where
  fault : Option (Nat × Nat × Nat × Lanes) := none
  bad : Option (Nat × Nat × Nat) := none
  got : List (Nat × Byte) := []
  met : Bool := false
deriving DecidableEq, Repr

/-- What a request asks of its target. Reads name (place in the operation's result, address, bytes), and the class of the
L1 allocation, if the line is to be allocated. Atomics name their operation (the opcode's low digit, 11 R195) and size. A queue word's
operation and its answer, and the reply to a remote-scratch access or a steal, are packets between cores (10 R185). A WR = 1 recall waits for a
locked line (21 R316). -/
inductive ReqKind where
  | read (parts : List (Nat × Nat × Nat)) (l1 : Option Nat)
  | write (bytes : List WByte)
  | atomic (op size addr : Nat) (lanes : List ALane)
  | fill (priv : Bool) (cls : Nat)
  | lock (va : BitVec 64) (lanes : Lanes) (tleft : Nat) (isTry : Bool)
  | unlock (bytes : List WByte)
  | recall
  | lstat (lanes : Lanes)
  | steal (lanes : List Nat) (victims : List Nat)
  | que (op : QueOp) (ptr : BitVec 64)
  | answer (op : QueOp) (ptr : BitVec 64) (ans : QueAns)
  | reply (res : List (Nat × Byte))
deriving DecidableEq, Repr

/-- A request in flight (10 R178; 13 R208 to R215): `line` is its physical line for a slice, or its core for the mesh. `page` is the line of
the leaf that translated it, `pk` the page's kind. `after` are requests that must have been taken, `ops` operations that must have completed
before it leaves its core; `waits` says that it has not left, `here` that it has arrived, `held` that it waits at the slice for an unlock or a
section, and `seq` is the order in which it left, or arrived there. `scope` is that of its part of the operation, `rel` the scope at which `ops` are waited for, `part` the lanes
whose part of the operation it answers, if they are not its own (14 R220), and
`sect` the section whose released line it is. -/
structure Req where
  op : Nat
  master : Nat
  vf : Nat
  tid : Nat
  coh : Nat
  lanes : Lanes
  kind : ReqKind
  line : Nat
  slice : Bool := true
  cls : Nat := 0
  page : Nat := 0
  pk : Nat := 0
  after : List Nat := []
  ops : List Nat := []
  held : Bool := false
  waits : Bool := false
  here : Bool := false
  scope : Nat := 0
  rel : Nat := 6
  part : Option Lanes := none
  sect : Nat := 128
  seq : Nat := 0
deriving DecidableEq, Repr

/-- How an operation's result is placed when it lands. -/
inductive Dest where
  | none
  | load (vd size : Nat) (sx : Bool)
  | sload (sd : Nat)
  | atomic (vd size : Nat)
  | regs (vd n : Nat)
deriving DecidableEq, Repr

/-- A lane of a `cas` that has yet to go (11 R196): its space, the address (in the space 0 line, or in the run of team `team`), the slice class of its
line, and the leaf's line and kind. -/
structure CasLane where
  lane : Nat
  v : BitVec 64
  w : BitVec 64
  op : Nat
  size : Nat
  space : Nat
  addr : Nat
  team : Nat := 0
  slc : Nat := 0
  page : Nat := 0
  pk : Nat := 0
deriving DecidableEq, Repr

/-- An operation in flight (03 R49; 11 R186): the flag it holds (12 none), the parts still out, the bytes returned
(keyed 16 * lane + byte, or 16 * n * lane + byte for a run of n registers), the lanes whose result lands, and what it is:
kind 0 a load, 1 a store, 2 an atomic, 3 another operation, 4 a launch in flight at stream core `pump` (15 R224), or the recursion engine's own writes (23 R340), 5
an unlock. `so` marks
SO accesses (13 R210). `pump` of a load or store is the pumphouse core whose access it is. `parts` are the parts still out by their
lanes, each with the scope from which on a release waits for it (R194: 0 every scope, 6 system scope, 7 none); `rest` the lanes of a `cas` that have yet to go
(R196); `pc` its word, and `bad` the unit, the index and the address of an uncorrectable error that it has consumed (10 R182); `due`
the core clock in which an `aread` lands (08 R156). -/
structure Op where
  tid : Nat
  coh : Nat
  flag : Nat := 12
  lanes : Lanes := 0
  dest : Dest := .none
  left : Nat := 0
  got : Tab Byte := []
  kind : Nat := 0
  so : Bool := false
  pump : Option Nat := none
  parts : List (Lanes × Nat) := []
  rest : List CasLane := []
  pc : BitVec 64 := 0
  bad : Option (Nat × Nat × Nat) := none
  due : Nat := 0
deriving DecidableEq, Repr

/-- An acknowledgement on its way (10 R178): it leaves when the invalidations it waits for have been acknowledged. `lanes` and `scope` name
the part of its operation (`Op.parts`) that it completes, and `res` is what it returns; `core` and `slice` say where it goes and whence. -/
structure Ack where
  op : Nat
  tag : BitVec 16
  invs : List Nat
  lanes : Lanes := 0
  scope : Nat := 0
  res : List (Nat × Byte) := []
  core : Nat := 300
  slice : Nat := 128
deriving DecidableEq, Repr

/-- What reaches the module from outside and is no event of the spec's table (log entry 1). -/
inductive Input where
  /-- The host reads a register of a function's BAR0 (00 R6; 25 R348). -/
  | read (fn off : Nat)
  /-- A request enters at the host port (master 272) or at a link port (256 + port) (01 R17; 25 R356). -/
  | enter (master vf : Nat) (kind : ReqKind) (line : Nat)
  /-- Stored bits turn wrong (10 R182): 1 one of them, 2 more than can be corrected. -/
  | upset (unit index place kind : Nat)
deriving DecidableEq, Repr

/-- What moves next: the model's own agenda entry (log entry 1). -/
inductive Action where
  /-- The PC group of lane `lane` issues on `port`; with `clock` a new core clock begins first (02 R36). -/
  | issue (clock : Bool) (port tid coh lane : Nat)
  /-- The waiting lanes of a hardware wait without an event of its own test their condition again (02 R21). -/
  | poll (tid coh lane : Nat)
  /-- The next bundle of a pumphouse core issues (15 R229). -/
  | bundle (pc : Nat)
  /-- The head microcommand of a bank issues (15 R227, R238). -/
  | bank (gb : Nat)
  /-- The command processor takes the next command slot of its round (25 R351). -/
  | command
  /-- Something reaches the module from outside. -/
  | input (x : Input)
  /-- An event (95), with the items it acts on. -/
  | event (i : Instr) (args : List Nat)
  /-- A core clock in which nothing issues. -/
  | idle
deriving DecidableEq, Repr

/-- An invalidation on its way to a sharer (10 R178, R179): core, or 128 + core for its translation cache. -/
structure Inv where
  sharer : Nat
  line : Nat
deriving DecidableEq, Repr

/-- A lock status on its way to its cohort (21 R315, R325): of `ltry`, `op` is its operation, and `got` says that its lowest
lane has the status and the others 1. -/
structure Grant where
  tid : Nat
  coh : Nat
  line : Nat
  lanes : Lanes
  status : Nat
  vd : Nat
  op : Nat := 0
  got : Bool := false
deriving DecidableEq, Repr

/-- A page walk in flight (18 R266, R267): VA[51:16] and the cores whose misses wait for it. -/
structure Walk where
  die : Nat
  vf : Nat
  page : Nat
  cores : List Nat
deriving DecidableEq, Repr

/-- An open or suspended row of a bank (15 R224, R227): who opened it, with write-back or not, when, and whether it was opened again after
a suspension. -/
structure Row where
  row : Nat
  pc : Nat
  wr : Bool
  act : Nat
  normal : Bool := false
  again : Bool := false
deriving DecidableEq, Repr

/-- A microcommand in a bank queue (15 R226), with BKA and BKS as they stood; `recalled` says that an ACT's recall has gone out (R228). -/
structure MicroCmd where
  pc : Nat
  x : Micro
  row : Nat
  col : Nat
  sc : BitVec 64
  recalled : Bool := false
deriving DecidableEq, Repr

/-- A bank (15 R224). Accumulators are keyed (set * 4 + acc) * 32 + lane; `pre` is the DRAM clock of its last PRE, by pumphouse
core `preBy`, `busy` the first clock after its last command, `since` the clock at which its oldest waiting normal request became
that; `recalled` says that the suspended row's recall has gone out (R228). -/
structure Bank where
  acc : Tab (BitVec 32) := []
  queue : List MicroCmd := []
  row : Option Row := none
  susp : Option Row := none
  pre : Nat := 0
  preBy : Nat := 128
  busy : Nat := 0
  since : Nat := 0
  recalled : Bool := false
deriving DecidableEq, Repr, Inhabited

/-- A normal request at a channel (15 R238) on behalf of a function: a line read for a master or, not 0, for the slice request `rq`; or, with
`ws`, a line write, whose issue completes a part of the operation `rq`. `back` says that it is a write-back. -/
structure NReq where
  bank : Nat
  row : Nat
  line : Nat
  rq : Nat
  admitted : Bool := false
  ws : Option (List WByte) := none
  vf : Nat := 0
  master : Nat := 0
  back : Bool := false
  bad : Bool := false
deriving DecidableEq, Repr

/-- A launch for a pumphouse core (15 R233; 16 R245): kind 0 `pumpgo` or a pump node, 1 split product, 2 section. `mute` says that its function
may not write its STATUS (18 R367). -/
structure PumpLaunch where
  kind : Nat := 0
  vf : Nat := 0
  tid : Nat := 0
  core : Nat := 128
  op : Nat := 0
  desc : Nat := 0
  sdesc : Nat := 0
  words : List (BitVec 64) := []
  swords : List (BitVec 64) := []
  arg1 : BitVec 64 := 0
  nb : Nat := 0
  graph : Option (Nat × Nat) := none
  abort : Bool := false
  mute : Bool := false
deriving DecidableEq, Repr, Inhabited

/-- The ports of a pumphouse core (15 R230). -/
structure Ports where
  g : Tab (BitVec 64) := []
  alua : BitVec 64 := 0
  alur : BitVec 64 := 0
  cmpa : BitVec 64 := 0
  c : Bool := false
  sfua : BitVec 64 := 0
  sfub : BitVec 64 := 0
  sfur : BitVec 64 := 0
  ldr : BitVec 64 := 0
  sta : BitVec 64 := 0
  bka : BitVec 64 := 0
  bks : BitVec 64 := 0
deriving DecidableEq, Repr, Inhabited

/-- What a running launch does next: 0 starting a bundle, 1 between its moves, 2 after them; `stall` what it waits for after the bundle:
0 nothing, 1 drain, 2 a sluice's drain, 3 DONE's drain. `ops` are its accesses, `ld` the latest load; `next` is the pumphouse clock from which a bundle may issue (R229), `sfu` the one from which SFUR can
be read (R230); `old`, `bkq` and `now` what the ports, BKQ and CLK held before the bundle; `split` are the rest of the microcommands of a split product's block, `blk` its
next block; `ended` the end code, once it has one. -/
structure Run where
  launch : PumpLaunch := {}
  bundle : Nat := 0
  move : Nat := 0
  start : Nat := 0
  old : Ports := {}
  jump : Option (BitVec 64) := none
  stall : Nat := 0
  code : Nat := 0
  ops : List Nat := []
  ended : Option Nat := none
  nbun : Nat := 1
  ld : Nat := 0
  bkq : Nat := 0
  now : Nat := 0
  blk : Nat := 0
  split : List MicroCmd := []
  next : Nat := 0
  sfu : Nat := 0
deriving DecidableEq, Repr, Inhabited

/-- An open section (16 R240): phases 0 claiming, 1 run, 2 snapshots out, 3 outcome on its way, 4 spill requests out.
`todo` are the window slices still to act; `outcome` 0 clean, 1 breach, 2 the end of a run that overflowed (R254); `lifts` the slices whose HOLD a clean outcome has yet to clear, and
`invs` the invalidations that this waits for (13 R219); `abortAt` the pumphouse clock in which an abort was taken (16 R258). -/
structure Section where
  base : Nat := 0
  len : Nat := 0
  runs : List (Nat × Nat × Nat) := []
  k : Nat := 3
  hsel : Nat := 1
  limit : Nat := 3
  phase : Nat := 0
  spill : Bool := false
  spilled : Bool := false
  rcnt : Nat := 0
  seg : Nat := 0
  replays : Nat := 0
  m1 : BitVec 1024 := 0
  m2 : BitVec 1024 := 0
  c1 : BitVec 1024 := 0
  c2 : BitVec 1024 := 0
  i1 : BitVec 1024 := 0
  i2 : BitVec 1024 := 0
  board : Tab (Option Byte) := []
  todo : List Nat := []
  outcome : Nat := 0
  isOver : Bool := false
  ckPorts : Ports := {}
  ckSram : Tab Byte := []
  ckBundle : Nat := 0
  abort : Bool := false
  abortAt : Nat := 0
  opOut : List Nat := []
  lifts : List Nat := []
  invs : List Nat := []
deriving DecidableEq, Repr, Inhabited

/-- A pumphouse core (15 R224, R233; 16 R240). `mesh` are the launches that a full queue, or a reservation, holds in the mesh (15
R234; 19 R283); `nodes` the pump nodes whose STATUS has been written but not acknowledged (19 R285): the write's operation, the graph, the node, the
code. -/
structure Pump where
  ports : Ports := {}
  prog : Tab (BitVec 64) := []
  sram : Tab Byte := []
  queue : List PumpLaunch := []
  mesh : List PumpLaunch := []
  run : Option Run := none
  sect : Option Section := none
  nodes : List (Nat × Nat × Nat × Nat) := []
deriving DecidableEq, Repr, Inhabited

/-- A polder-table entry (18 R271). -/
structure Polder where
  x0 : Nat := 0
  y0 : Nat := 0
  x1 : Nat := 0
  y1 : Nat := 0
  valid : Bool := false
  pb : Nat := 0
  vfmask : BitVec 33 := 0
deriving DecidableEq, Repr, Inhabited

/-- A key-table entry (18 R274). -/
structure Key where
  kstate : Nat := 0
  kgen : BitVec 4 := 0
  keys : BitVec 512 := 0
deriving DecidableEq, Repr, Inhabited

/-- What a line's metadata records (18 R274), with the keys and the line number it was encrypted under. -/
structure Meta where
  line : Nat := 0
  kid : Nat := 0
  kgen : BitVec 4 := 0
  keys : BitVec 512 := 0
deriving DecidableEq, Repr, Inhabited

/-- A park-table entry (09 R158, R162; 11 R201; 23 R368): lanes, or a copy command, or a step of the recursion engine. -/
structure Park where
  tid : Nat
  coh : Nat
  lanes : Lanes
  copy : Option CopyCmd := none
  engine : Bool := false
deriving DecidableEq, Repr

/-- A record that waits for room in a fault queue (09 R162; 25 R348): `park` is the entry it makes. -/
structure FRec where
  vf : Nat
  data : BitVec 512
  fseq : Nat := 0
  park : Option Park := none
deriving DecidableEq, Repr

/-- A lap schedule (20 R296 to R298); `next` is the slot it issues next, `pend` the list that waits for the lap boundary. -/
structure Sched where
  list : Nat := 0
  nslot : Nat := 0
  share : Nat := 0
  owner : Nat := 0
  loaded : Bool := false
  credit : Int := 0
  next : Nat := 0
  fresh : Bool := true
  pend : Option (Nat × Nat × Nat × Nat) := none
deriving DecidableEq, Repr, Inhabited

/-- A slot on the ring (20 R299, R300): its header and payload. -/
structure RSlot where
  sched : Nat
  idx : Nat
  lap : Nat
  key : Nat
  fmt : Nat
  inf : Bool
  x : BitVec 16
  crc : Nat
  pos : Nat
  clk : Nat
  payload : Tab Byte
  bad : Bool
  seen : List Nat := []
deriving DecidableEq, Repr

/-- The BAR0 registers of a function (25 R348). -/
structure Fn where
  cqbase : Nat := 0
  cqlgd : Nat := 0
  cqtail : BitVec 16 := 0
  cqhead : BitVec 16 := 0
  cqovr : Bool := false
  fqbase : Nat := 0
  fqlgd : Nat := 0
  fqrd : BitVec 32 := 0
  fqwr : BitVec 32 := 0
  rqbase : Nat := 0
  rqlgd : Nat := 0
  rqrd : BitVec 32 := 0
  rqwr : BitVec 32 := 0
  rqdrop : Nat := 0
  savebase : Nat := 0
  savecnt : Nat := 0
  savesz : Nat := 0
  fqdrop : Nat := 0
deriving DecidableEq, Repr, Inhabited

/-- A command that the processor has taken (25 R350, R351), with its slot and its operands. -/
structure Cmd where
  fn : Nat := 0
  slot : Nat := 0
  jseq : Nat := 0
  typ : Nat := 0
  tvf : Nat := 0
  a : List (BitVec 64) := []
deriving DecidableEq, Repr, Inhabited

/-- A node of a loaded graph (19 R278 to R281). `next` is its next team number, `live` its placed teams not yet released; `lrec` its
valid launch record, once read; `age` the order of its first entry into the pool. -/
structure Node where
  pump : Bool := false
  prio : Nat := 0
  polder : Nat := 0
  failpol : Bool := false
  npred : Nat := 0
  launch : BitVec 64 := 0
  succ : List Nat := []
  operands : List (Nat × Nat × Nat) := []
  ended : Bool := false
  status : Nat := 0
  started : Bool := false
  total : Nat := 0
  next : Nat := 0
  live : Nat := 0
  failed : Bool := false
  lrec : Option Launch := none
  age : Option Nat := none
deriving DecidableEq, Repr, Inhabited

/-- A submitted graph (19 R279). -/
structure Graph where
  vf : Nat := 0
  base : Nat := 0
  n : Nat := 0
  cmd : Cmd := {}
  nodes : Tab Node := []
  isDone : Bool := false
deriving DecidableEq, Repr, Inhabited

/-- A ready-pool entry (19 R281 to R283). -/
structure PoolEntry where
  graph : Nat
  node : Nat
  prio : Nat
  age : Nat
  skip : Nat := 0
deriving DecidableEq, Repr

/-- A polder's reservation (19 R283): its entry and the reserved cores. -/
structure Reserve where
  graph : Nat
  node : Nat
  cores : List Nat
deriving DecidableEq, Repr

/-- The module. `msc` are the lines in the memory-side cache of each stack, by their DRAM addresses, the newest first: their bytes are DRAM's
(10 R180). `ending` are the commands whose completion write waits for the command processor's own writes `cpOps` (25 R351), with their status; `ldchunk`
is the chunk that is being taken, its length and whether it is the last (R354). `upsets` are the places whose stored bits are wrong (R182), `hostGot` what the host's last read of a register has returned, `msix` how
many messages the host has been sent, by 3 * function + vector (25 R348). The last group of fields is the model's own; `late` are refused
write-backs (VF, line) whose reports the next step writes, `inbox` the packets of home slices on their way to cores (core, slice, and the number
of the invalidation, acknowledgement or grant, or of the operation whose part it is), in the order they were sent (10 R184), `missed` the lines that the step has met and cannot read yet (function, line, master): it waits for
them, and `chanClk` the first DRAM clock in which a channel's shared path is free. -/
structure State where
  cores : Tab Core
  teams : Tab Team
  slices : Tab Slice
  locks : Tab LockSt
  dram : Tab Byte
  lineMeta : Tab (Option Meta)
  msc : Tab (List Nat)
  upsets : Tab Nat
  banks : Tab Bank
  chans : Tab (List NReq)
  chanClk : Tab Nat
  pumps : Tab Pump
  hostMem : Tab Byte
  peerMem : Tab Byte
  troot : Tab (BitVec 64)
  access : Tab (Option (BitVec 512))
  polders : Tab Polder
  routes : Tab (Option (BitVec 1024))
  rowDom : Tab Nat
  domains : Tab (Option (BitVec 16))
  keys : Tab Key
  resetKey : BitVec 512
  fseq : Tab (BitVec 16)
  parks : Tab (Option Park)
  frecs : List FRec
  graphs : Tab Graph
  pool : List PoolEntry
  poolWait : List (Nat × Nat)
  reserves : Tab (Option Reserve)
  pumpRes : Tab (Option (Nat × Nat))
  nextAge : Nat
  scheds : Tab Sched
  rspd : Nat
  ringlap : Tab (BitVec 16)
  ring : Tab (Option RSlot)
  ringSn : Nat
  ringClk : Nat
  ringPos : Nat
  fns : Tab Fn
  jseq : BitVec 64
  journal : Tab (BitVec 256)
  cmds : List Cmd
  ending : List (Cmd × Nat × List Nat)
  cpOps : List Nat
  round : Nat
  mstate : Nat
  stage : Tab Byte
  object : Tab Byte
  objLen : Nat
  objKind : Nat
  ldstate : Nat
  lderr : Nat
  ldchunk : Nat × Bool
  elwr : BitVec 32
  elrd : BitVec 32
  ellost : Nat
  errlog : Tab (BitVec 512)
  pcap : Nat
  mfloor : Nat
  tjmax : Nat
  nvf : Nat
  self : Nat
  portmap : Tab Nat
  md : Nat
  bd : Nat
  govTime : Nat
  stopped : Bool
  brk : Tab Bool
  plodor : List (Nat × Nat)
  hostGot : BitVec 64
  msix : Tab Nat
  -- the model's own fields (log entries 1, 3, 4)
  agenda : List Action
  args : List Nat
  cur : Cur
  mv : Nat × Move
  clk : Nat
  freeCtr : Nat
  nextId : Nat
  late : List (Nat × Nat)
  reqs : Tab (Option Req)
  ops : Tab (Option Op)
  acks : Tab (Option Ack)
  invs : Tab (Option Inv)
  walks : Tab (Option Walk)
  grants : Tab (Option Grant)
  inbox : List (Nat × Nat × Nat)
  missed : List (Nat × Nat × Nat)
deriving DecidableEq, Repr

/-- The module right after a module reset (each field's reset value: INVENTORY.md, '## State'). -/
def State.reset : State where
  cores := []
  teams := []
  slices := []
  locks := []
  dram := []
  lineMeta := []
  msc := []
  upsets := []
  banks := []
  chans := []
  chanClk := []
  pumps := []
  hostMem := []
  peerMem := []
  troot := []
  access := []
  polders := []
  routes := []
  rowDom := []
  domains := []
  keys := []
  resetKey := 0
  fseq := []
  parks := []
  frecs := []
  graphs := []
  pool := []
  poolWait := []
  reserves := []
  pumpRes := []
  nextAge := 0
  scheds := []
  rspd := 16
  ringlap := []
  ring := []
  ringSn := 0
  ringClk := 0
  ringPos := 0
  fns := []
  jseq := 0
  journal := []
  cmds := []
  ending := []
  cpOps := []
  round := 0
  mstate := 0
  stage := []
  object := []
  objLen := 0
  objKind := 0
  ldstate := 0
  lderr := 0
  ldchunk := (0, false)
  elwr := 0
  elrd := 0
  ellost := 0
  errlog := []
  pcap := 0
  mfloor := 0
  tjmax := 0
  nvf := 0
  self := 0
  portmap := []
  md := 16
  bd := 16
  govTime := 0
  stopped := false
  brk := []
  plodor := []
  hostGot := 0
  msix := []
  agenda := []
  args := []
  cur := {}
  mv := (0, ⟨0, 0, 0, 0, 0, 0⟩)
  clk := 0
  freeCtr := 0
  nextId := 1
  late := []
  reqs := []
  ops := []
  acks := []
  invs := []
  walks := []
  grants := []
  inbox := []
  missed := []

end Sys2Proof.Machine
end

