-- ==== Sys2Proof/Machine/Bits.lean ====
section
/-!
DEFINITION. Bits.lean: tables, lane sets, bit fields and byte order (00 R4, R8).
-/
namespace Sys2Proof.Machine

/-- What a table holds at a key; `d` is what an unlisted key reads as. -/
def tget {α : Type} (d : α) : Tab α → Nat → α
  | [], _ => d
  | (k, v) :: t, i => if k = i then v else tget d t i

/-- Put an entry before the first greater key. -/
def tins {α : Type} (i : Nat) (v : α) : Tab α → Tab α
  | [] => [(i, v)]
  | (k, w) :: t => if i < k then (i, v) :: (k, w) :: t else (k, w) :: tins i v t

/-- A table without its entries at a key. -/
def tdel {α : Type} (i : Nat) : Tab α → Tab α
  | [] => []
  | (k, v) :: t => if k = i then tdel i t else (k, v) :: tdel i t

/-- Set a key; an entry equal to the default is not listed, so that equal tables are equal data. -/
def tset {α : Type} [DecidableEq α] (d : α) (t : Tab α) (i : Nat) (v : α) : Tab α :=
  if v = d then tdel i t else tins i v (tdel i t)

/-- Change the value at a key. -/
def tmod {α : Type} [DecidableEq α] (d : α) (t : Tab α) (i : Nat) (f : α → α) : Tab α :=
  tset d t i (f (tget d t i))

/-- The canonical form: keys strictly rising, no entry equal to the default. -/
def twf {α : Type} [DecidableEq α] (d : α) : Tab α → Bool
  | [] => true
  | [(_, v)] => v != d
  | (k, v) :: (k', v') :: t => v != d && k < k' && twf d ((k', v') :: t)

/-- The memory's canonical form (Host.Cell lists; an unwritten byte reads 0, log entry 2). -/
def Memory.wf (m : List Host.Cell) : Bool := twf (0 : Byte) m

/-- The values of a table, in key order. -/
def tvals {α : Type} : Tab α → List α
  | [] => []
  | (_, v) :: t => v :: tvals t

/-- The present entries of a table of optional values. -/
def tsome {α : Type} : Tab (Option α) → List (Nat × α)
  | [] => []
  | (k, some v) :: t => (k, v) :: tsome t
  | (_, none) :: t => tsome t

/-- Bits [lo + n - 1 : lo] of a value, as a number (00 R4). -/
def fld {w : Nat} (x : BitVec w) (lo n : Nat) : Nat := x.toNat / 2 ^ lo % 2 ^ n

/-- One bit. -/
def bit {w : Nat} (x : BitVec w) (i : Nat) : Bool := x.getLsbD i

/-- A value with bits [lo + n - 1 : lo] replaced by v. -/
def setFld {w : Nat} (x : BitVec w) (lo n v : Nat) : BitVec w :=
  BitVec.ofNat w (x.toNat - fld x lo n * 2 ^ lo + v % 2 ^ n * 2 ^ lo)

/-- 1 for true. -/
def nbit (b : Bool) : Nat := if b then 1 else 0

/-- A number read as a two's-complement value of n bits (00 R8, SEXT). -/
def sextNat (n v : Nat) : Int :=
  if v % 2 ^ n < 2 ^ (n - 1) then Int.ofNat (v % 2 ^ n) else Int.ofNat (v % 2 ^ n) - 2 ^ n

/-- The n low bytes of a value, little-endian (00 R4). -/
def bytesOf {w : Nat} (n : Nat) (x : BitVec w) : List Byte := leBytes n x.toNat

/-- Element i of width n of a register (00 R4). -/
def elem {w : Nat} (n i : Nat) (x : BitVec w) : BitVec n := x.extractLsb' (n * i) n

/-- A 128-bit register from its elements, element 0 first; elements beyond the list are 0. -/
def ofElems {n : Nat} : List (BitVec n) → BitVec 128
  | [] => 0
  | e :: es => (e.setWidth 128) ||| ((ofElems es) <<< n)

/-- The lanes of a set, ascending. -/
def lanesOf (g : Lanes) : List Nat := (List.range 32).filter (fun l => g.getLsbD l)

/-- The set of one lane. -/
def lane1 (l : Nat) : Lanes := BitVec.ofNat 32 (2 ^ l)

/-- The lanes below 32 for which f holds. -/
def lanesBy (f : Nat → Bool) : Lanes :=
  (List.range 32).foldl (fun m l => if f l then m ||| lane1 l else m) 0

/-- The set of a list of lanes. -/
def lanesFrom (ls : List Nat) : Lanes := ls.foldl (fun m l => m ||| lane1 l) 0

/-- The lowest lane of a set; 0 of the empty set. -/
def lowest (g : Lanes) : Nat := (lanesOf g).headD 0

/-- How many lanes a set holds. -/
def popLanes (g : Lanes) : Nat := (lanesOf g).length

/-- A line's bytes [o, o + n) as a number. -/
def lineBytes (d : BitVec 1024) (o n : Nat) : List Byte := bytesOf n (d >>> (8 * o))

/-- Merge one byte under a mask (11 R190). -/
def mergeByte (old data mask : Byte) : Byte := (old &&& ~~~mask) ||| (data &&& mask)

/-- Write one byte of a line under a mask. -/
def lineSet (d : BitVec 1024) (o : Nat) (data mask : Byte) : BitVec 1024 :=
  let m : BitVec 1024 := (mask.setWidth 1024) <<< (8 * o)
  (d &&& ~~~m) ||| (((data.setWidth 1024) <<< (8 * o)) &&& m)

/-- A line from its 128 bytes. -/
def lineOf (bs : List Byte) : BitVec 1024 := BitVec.ofNat 1024 (ofLeBytes bs)

/-- Bytes of a sparse memory. -/
def memBytes (m : List Host.Cell) (a : Nat) : Nat → List Byte
  | 0 => []
  | n + 1 => tget 0 m a :: memBytes m (a + 1) n

/-- Write bytes into a sparse memory, keeping its canonical form. -/
def memWrite (m : List Host.Cell) (a : Nat) : List Byte → List Host.Cell
  | [] => m
  | b :: bs => memWrite (tset 0 m a b) (a + 1) bs

/-- The address of a line (10 R172: 128 bytes). -/
def lineAt (a : Nat) : Nat := a / 128 * 128

/-- Remove duplicates, keeping the first of each. -/
def dedup (l : List Nat) : List Nat :=
  (l.foldl (fun acc x => if acc.contains x then acc else x :: acc) []).reverse

/-- Put an element before the first one that does not precede it. -/
def insBy {α : Type} (le : α → α → Bool) (x : α) : List α → List α
  | [] => [x]
  | y :: ys => if le x y then x :: y :: ys else y :: insBy le x ys

/-- A list in order; equal elements keep their places. -/
def sortBy {α : Type} (le : α → α → Bool) : List α → List α
  | [] => []
  | x :: xs => insBy le x (sortBy le xs)

/-- Split [a, a + n) at line boundaries: (address, offset from a, length) pieces (11 R188). -/
def splitLines : Nat → Nat → Nat → Nat → List (Nat × Nat × Nat)
  | 0, _, _, _ => []
  | fuel + 1, a, o, n =>
    if n = 0 then []
    else
      let k := min n (128 - a % 128)
      (a, o, k) :: splitLines fuel (a + k) (o + k) (n - k)

end Sys2Proof.Machine
end

