-- ==== Sys2Proof/Machine/Place.lean ====
section
/-!
DEFINITION. Place.lean: where the parts stand (01 R12 to R16), polders (18 R271), and the home slice and DRAM place of a
physical line (10 R177; 15 R225).
-/
namespace Sys2Proof.Machine

/-- The coordinates of core n: x + y even (01 R12). -/
def coreXY (n : Nat) : Nat × Nat := (2 * (n % 8) + n / 8 % 2, n / 8)

/-- The coordinates of slice n: x + y odd (01 R12). -/
def sliceXY (n : Nat) : Nat × Nat := (2 * (n % 8) + (1 - n / 8 % 2), n / 8)

/-- The die of a core or a slice (01 R13). -/
def dieOf (n : Nat) : Nat := n % 8 / 4 + 2 * (n / 64)

/-- The strip of a core: four cores of one die in one row (01 R13). -/
def stripOf (n : Nat) : Nat := n / 4

/-- The stack that a slice fronts (01 R14). -/
def sliceStack (n : Nat) : Nat := 4 * dieOf n + n / 8 % 8 / 2

/-- The first of the four channels that a slice fronts (01 R14). -/
def sliceChan (n : Nat) : Nat := 4 * (4 * (n / 8 % 2) + n % 4)

/-- The slice that fronts a channel of a stack (01 R14). -/
def frontSlice (stack chan : Nat) : Nat :=
  8 * (8 * (stack / 8) + 2 * (stack % 4) + chan / 16) + 4 * (stack / 4 % 2) + chan / 4 % 4

/-- A stop's place on the ring: inlets 0, 33, 66, 99 of dies 0, 1, 3, 2, each before its die's cores (01 R16). -/
def dieRing (d : Nat) : Nat := 33 * (if d = 2 then 3 else if d = 3 then 2 else d)

/-- The position of a core's stop (01 R16): its die's inlet, then the die's cores in ascending index. -/
def corePos (n : Nat) : Nat :=
  dieRing (dieOf n) + 1 + ((List.range n).filter (fun k => dieOf k = dieOf n)).length

/-- Whether a polder's rectangle holds a site (18 R271). -/
def Polder.holds (p : Polder) (xy : Nat × Nat) : Bool :=
  p.valid && p.x0 ≤ xy.1 && xy.1 ≤ p.x1 && p.y0 ≤ xy.2 && xy.2 ≤ p.y1

/-- The polder's cores, ascending: their ranks are their places (18 R271). -/
def Polder.cores (p : Polder) : List Nat := (List.range 128).filter (fun n => p.holds (coreXY n))

/-- The polder's slices, ascending (18 R271). -/
def Polder.slices (p : Polder) : List Nat := (List.range 128).filter (fun n => p.holds (sliceXY n))

/-- S, the polder's count of slices (18 R271). -/
def Polder.size (p : Polder) : Nat := (p.x1 + 1 - p.x0) * (p.y1 + 1 - p.y0) / 2

/-- The bytes of a polder's physical range: 6 GiB for each slice (18 R271). -/
def Polder.bytes (p : Polder) : Nat := 6442450944 * p.size

/-- Whether a polder's physical range holds an address. -/
def Polder.spans (p : Polder) (pa : Nat) : Bool := p.valid && p.pb ≤ pa && pa < p.pb + p.bytes

def State.polder (s : State) (i : Nat) : Polder := tget {} s.polders i

/-- The polder whose range holds a physical address. -/
def State.polderOf (s : State) (pa : Nat) : Option Polder :=
  (tvals s.polders).find? (fun p => p.spans pa)

/-- The polder whose rectangle holds a core or slice. -/
def State.polderAt (s : State) (xy : Nat × Nat) : Option Polder :=
  (tvals s.polders).find? (fun p => p.holds xy)

/-- Whether an address lies in a polder whose VFMASK holds the function (18 R266, R271). -/
def State.mapped (s : State) (vf pa : Nat) : Bool :=
  match s.polderOf pa with
  | some p => p.vfmask.getLsbD vf
  | none => false

/-- XF of 10 R177. -/
def foldXF (r : Nat) : Nat :=
  (BitVec.ofNat 16 r ^^^ BitVec.ofNat 16 (r / 65536) ^^^ BitVec.ofNat 16 (r / 4294967296)).toNat

/-- The home slice of a line, its channel among the slice's four, and its index there (10 R177). -/
def State.home (s : State) (pa : Nat) : Option (Nat × Nat × Nat) :=
  match s.polderOf pa with
  | none => none
  | some p =>
    let n := p.size
    let q := (pa - p.pb) / 128
    let u := q % (4 * n)
    let r := q / (4 * n)
    let k := (u % n + foldXF r) % n
    some (p.slices.getD k 0, u / n, r)

/-- The home slice alone; 0 outside every polder. -/
def State.homeSlice (s : State) (pa : Nat) : Nat :=
  match s.home pa with
  | some (n, _, _) => n
  | none => 0

/-- The DRAM place of a line as a row-space address (15 R225): STACK, CHAN, BANK, ROW, byte. -/
def State.dramLine (s : State) (pa : Nat) : Option Nat :=
  match s.home pa with
  | none => none
  | some (n, c, r) =>
    some (((((sliceStack n * 32 + sliceChan n + c) * 16 + r / 16 % 16) * 65536 + r / 256 % 65536) * 16 + r % 16) * 128)

/-- The bank of a row-space address, numbered (stack * 32 + channel) * 16 + bank. -/
def rowBank (d : Nat) : Nat := d / 134217728

/-- The row of a row-space address. -/
def rowOf (d : Nat) : Nat := d / 2048 % 65536

/-- The physical line at a row-space line address: the inverse of `dramLine`. -/
def State.physLine (s : State) (d : Nat) : Option Nat :=
  let sl := frontSlice (d / 68719476736) (d / 2147483648 % 32)
  match s.polderAt (sliceXY sl) with
  | none => none
  | some p =>
    let n := p.size
    let r := rowOf d * 256 + d / 134217728 % 16 * 16 + d / 128 % 16
    let c := d / 2147483648 % 4
    match p.slices.findIdx? (· = sl) with
    | none => none
    | some k =>
      let u := c * n + (k + n - foldXF r % n) % n
      some (p.pb + (r * (4 * n) + u) * 128)

/-- The set of a line in its home slice (10 R178). -/
def State.sliceSet (s : State) (pa : Nat) : Nat × Nat :=
  match s.home pa with
  | some (n, c, r) => (n, 4 * (r % 512) + c)
  | none => (128, 0)

/-- The index of a site (18 R272). -/
def siteOf (xy : Nat × Nat) : Nat := 16 * xy.2 + xy.1

/-- The site of stack p's base-die port, which is link port p's too (10 R183). -/
def portXY (p : Nat) : Nat × Nat := (8 * (p / 4 % 2) + 1, 8 * (p / 8) + 2 * (p % 4))

/-- Whether a site has a full router (01 R12). -/
def fullSite (x : Nat) : Bool := (x % 16 + x / 16) % 2 = 0

/-- How a packet fares: it arrives, by an input of its destination's site in R222's order (0 to 3 the neighbours Y+, X+, Y-, X-, 5 a port at the
site), through the relay of a slice's site, if any; it is dropped at a site, turns at a half router, leaves some rectangle, or circulates. -/
inductive Way where
  | arrives (input : Nat) (relay : Option Nat)
  | drops (site : Nat)
  | turns
  | leaves
  | strays
deriving DecidableEq, Repr

/-- The neighbour that a code names (18 R272). -/
def hop (site code : Nat) : Option Nat :=
  let x := site % 16
  let y := site / 16
  if code = 0 then (if x = 15 then none else some (site + 1))
  else if code = 1 then (if x = 0 then none else some (site - 1))
  else if code = 2 then (if y = 15 then none else some (site + 16))
  else if code = 3 then (if y = 0 then none else some (site - 16))
  else none

/-- The sites of at most k hops along X toward column g. -/
def legX : Nat → Nat → Nat → List Nat
  | 0, _, _ => []
  | k + 1, site, g =>
    if site % 16 = g then []
    else
      let n := if site % 16 < g then site + 1 else site - 1
      n :: legX k n g

/-- The sites of at most k hops along Y toward row g. -/
def legY : Nat → Nat → Nat → List Nat
  | 0, _, _ => []
  | k + 1, site, g =>
    if site / 16 = g then []
    else
      let n := if site / 16 < g then site + 16 else site - 16
      n :: legY k n g

/-- Along X to a column, then along Y to a row; and the other way round. -/
def routeXY (src xd yd : Nat) : List Nat := legX 16 src xd ++ legY 16 (16 * (src / 16) + xd) yd
def routeYX (src xd yd : Nat) : List Nat := legY 16 src yd ++ legX 16 (16 * yd + src % 16) xd

/-- Whether a core's packet to a core is relayed (10 R184, R185), and where. -/
def relaySite (src dst : Nat) : Option Nat :=
  if fullSite src && fullSite dst && src % 16 != dst % 16 && src / 16 != dst / 16 && (dst % 16 + src / 16) % 2 = 1 then
    some (16 * (src / 16) + dst % 16) else none

/-- The default generator's route, without its source (10 R184): the cases in their order. Its first leg gives the packet's class, XY or YX; a
source and a destination have one route, so that their packets are of one class. A relayed packet's route is that of its two packets (R185). -/
def defaultRoute (src dst : Nat) : List Nat :=
  let xd := dst % 16
  let yd := dst / 16
  if src % 16 = xd || src / 16 = yd || (xd + src / 16) % 2 = 0 then routeXY src xd yd
  else if fullSite src != fullSite dst then routeYX src xd yd
  else if fullSite src then routeXY src xd yd
  else
    let a := (legX 1 src xd).headD src
    a :: routeYX a xd yd

/-- The input by which a packet enters a site from its last one. -/
def inputFrom (prev : Option Nat) (site : Nat) : Nat :=
  match prev with
  | none => 5
  | some p => if p = site + 16 then 0 else if p = site + 1 then 1 else if p + 16 = site then 2 else 3

/-- Follow a packet (10 R183 to R185; 18 R272). A router with a loaded table sends it by its entry; code 5 takes it into the relay buffer, which
sends it on along the column. A router with the default generator's routes sends it along the generator's route from the packet's source, or,
behind loaded tables, from that router on, or straight on at a half router (log entry 41). `isIn` says which sites it may pass, `axis` the
axis it came along, `plan` the rest of its route. -/
def follow (table : Nat → Option (BitVec 1024)) (isIn : Nat → Bool) (dest : Nat) :
    Nat → Nat → Option Bool → List Nat → Option Nat → Option Nat → Way
  | 0, _, _, _, _, _ => .strays
  | fuel + 1, site, axis, plan, prev, relay =>
    let go (n : Nat) (plan : List Nat) (relay : Option Nat) : Way :=
      if isIn n then follow table isIn dest fuel n (some (decide (n / 16 = site / 16))) plan (some site) relay else .leaves
    match table site with
    | none =>
      if site = dest then .arrives (inputFrom prev site) relay
      else
        match plan with
        | n :: rest => go n rest relay
        | [] =>
          match prev with
          | some p =>
            if fullSite site then
              match defaultRoute site dest with
              | n :: rest => go n rest (relay.orElse (fun _ => relaySite site dest))
              | [] => .strays
            else
              match hop site ([3, 1, 2, 0].getD (inputFrom (some p) site) 15) with
              | some n => go n [] relay
              | none => .leaves
          | none =>
            match defaultRoute site dest with
            | n :: rest => go n rest (relaySite site dest)
            | [] => .strays
    | some t =>
      let code := fld t (4 * dest) 4
      if code = 4 then (if site = dest then .arrives (inputFrom prev site) relay else .strays)
      else if code = 15 then .drops site
      else if code = 5 then
        if site % 16 != dest % 16 then .strays
        else
          match legY 1 site (dest / 16) with
          | n :: _ => go n [] (some site)
          | [] => .strays
      else
        match hop site code with
        | none => .leaves
        | some n => if axis.any (fun a => a != decide (code < 2)) && !(fullSite site) then .turns else go n [] relay

/-- The site at which a master's packets enter the mesh (10 R183; 18 R269). The spec gives walkers and inlets none. -/
def masterSite (m : Nat) : Option Nat :=
  if m < 128 then some (siteOf (coreXY m))
  else if m < 256 then some (siteOf (portXY ((m - 128) / 8)))
  else if m < 272 then some (siteOf (portXY (m - 256)))
  else if m < 274 then some 3
  else none

/-- How a packet of a master fares on its way to a site. A packet of a port at the site itself enters in the order of R222's ports: 5 a base die's,
6 a link's, 7 the host's and the command processor's; one of a walker or an inlet as the last, 8 (log entry 41). -/
def State.wayTo (s : State) (master site : Nat) : Way :=
  match masterSite master with
  | none => .arrives 8 none
  | some x =>
    if x = site then .arrives (if master < 256 then 5 else if master < 272 then 6 else 7) none
    else follow (fun r => tget none s.routes r) (fun _ => true) site 512 x none [] none none

/-- How a packet of a master fares on its way to a slice. -/
def State.way (s : State) (master slice : Nat) : Way := s.wayTo master (siteOf (sliceXY slice))

/-- The input by which a master's packets reach a site. -/
def State.inputTo (s : State) (master site : Nat) : Nat :=
  match s.wayTo master site with
  | .arrives k _ => k
  | _ => 8

/-- HASH8 of a physical address (11 R187). -/
def hash8 (pa : Nat) : Nat :=
  ((List.range 6).foldl (fun (x : BitVec 8) i => x ^^^ BitVec.ofNat 8 (pa / 2 ^ (7 + 8 * i))) 0).toNat

end Sys2Proof.Machine
end

