-- ==== Sys2Proof/Machine/Mem.lean ====
section
/-!
DEFINITION. Mem.lean: parts of the state by name, DRAM and its encryption (10 R181; 18 R274), home slices (10 R178), access
tables and refusals (18 R269, R270), the report queue and the error log (25 R348, R355).
-/
namespace Sys2Proof.Machine

def State.core (s : State) (n : Nat) : Core := tget {} s.cores n
def State.setCore (s : State) (n : Nat) (c : Core) : State := { s with cores := tset {} s.cores n c }
def State.modCore (s : State) (n : Nat) (f : Core → Core) : State := s.setCore n (f (s.core n))
def State.team (s : State) (t : Nat) : Team := tget {} s.teams t
def State.setTeam (s : State) (t : Nat) (x : Team) : State := { s with teams := tset {} s.teams t x }
def State.modTeam (s : State) (t : Nat) (f : Team → Team) : State := s.setTeam t (f (s.team t))
def State.slice (s : State) (n : Nat) : Slice := tget {} s.slices n
def State.setSlice (s : State) (n : Nat) (x : Slice) : State := { s with slices := tset {} s.slices n x }
def State.lock (s : State) (l : Nat) : LockSt := tget {} s.locks l
def State.setLock (s : State) (l : Nat) (x : LockSt) : State := { s with locks := tset {} s.locks l x }
def State.pump (s : State) (n : Nat) : Pump := tget {} s.pumps n
def State.setPump (s : State) (n : Nat) (x : Pump) : State := { s with pumps := tset {} s.pumps n x }
def State.modPump (s : State) (n : Nat) (f : Pump → Pump) : State := s.setPump n (f (s.pump n))
def State.bank (s : State) (n : Nat) : Bank := tget {} s.banks n
def State.setBank (s : State) (n : Nat) (x : Bank) : State := { s with banks := tset {} s.banks n x }
def State.fn (s : State) (n : Nat) : Fn := tget {} s.fns n
def State.setFn (s : State) (n : Nat) (x : Fn) : State := { s with fns := tset {} s.fns n x }
def State.req (s : State) (n : Nat) : Option Req := tget none s.reqs n
def State.setReq (s : State) (n : Nat) (x : Option Req) : State := { s with reqs := tset none s.reqs n x }
def State.op (s : State) (n : Nat) : Option Op := tget none s.ops n
def State.setOp (s : State) (n : Nat) (x : Option Op) : State := { s with ops := tset none s.ops n x }
def State.arg (s : State) (k : Nat) : Nat := s.args.getD k 0

/-- TIMEBASE (24 R343): 1 GHz ticks of the 3.6 GHz core clock (00 R5). -/
def State.timebase (s : State) : BitVec 64 := BitVec.ofNat 64 (s.clk * 5 / 18)

/-- Ring, pumphouse and DRAM clocks elapsed (00 R5: 1.8, 2.0 and 1.0 GHz). -/
def State.rclk (s : State) : Nat := s.clk / 2
def State.pclk (s : State) : Nat := s.clk * 5 / 9
def State.dclk (s : State) : Nat := s.clk * 5 / 18

-- DRAM ------------------------------------------------------------------------------------------------------------------

def State.key (s : State) (vf : Nat) : Key := tget {} s.keys vf

/-- The keys a function's lines are written under now (18 R274). -/
def State.keysNow (s : State) (vf : Nat) : BitVec 512 :=
  if (s.key vf).kstate = 1 then (s.key vf).keys else s.resetKey

/-- The number of the physical line at a DRAM place (18 R274). -/
def State.lineNo (s : State) (d : Nat) : Nat := (s.physLine d).getD 0 / 128

/-- A DRAM line as it is decrypted, with its KID (18 R274): under the keys, the KGEN and the line number it was written under, its plaintext.
A line never written reads its stored bytes. -/
def State.dramRead (s : State) (d : Nat) : BitVec 1024 × Nat :=
  let raw := lineOf (memBytes s.dram d 128)
  match tget none s.lineMeta d with
  | none => (raw, 0)
  | some m =>
    let k := s.key m.kid
    if k.kstate = 2 then (0, m.kid)
    else if m.kgen = k.kgen && m.keys = s.keysNow m.kid && m.line = s.lineNo d then (raw, m.kid)
    else (garbled raw m.keys (lineTweak m.line m.kgen.toNat) (s.keysNow m.kid) (lineTweak (s.lineNo d) k.kgen.toNat), m.kid)

-- stored bits that have turned wrong (10 R182) ------------------------------------------------------------------------------------------

/-- Where a place's entry stands in `upsets`. Units as the error log numbers them: 0 core SRAM, 1 home slice, 2 memory-side cache, 3 DRAM, 4
pumphouse SRAM (25 R355). Places are a line's address, or an SRAM word of eight bytes (log entry 34). -/
def upKey (unit index place : Nat) : Nat := unit + 8 * (index * 2 ^ 56 + place)

/-- What stands at a place: 0 right, 1 one wrong bit, 2 more than can be corrected. -/
def State.upset (s : State) (unit index place : Nat) : Nat := tget 0 s.upsets (upKey unit index place)

def State.setUpset (s : State) (unit index place k : Nat) : State := { s with upsets := tset 0 s.upsets (upKey unit index place) k }

/-- The place of a data SRAM word of a pumphouse core, and of a bundle of its program, among its SRAM words (log entry 34). -/
def bundleWord (i : Nat) : Nat := 8192 + i

/-- A pumphouse core's memories have been written whole: no bit of them is wrong any more (10 R182). -/
def State.mendPump (s : State) (pc : Nat) : State :=
  { s with upsets := s.upsets.filter (fun e => !(e.1 % 8 = 4 && e.1 / 8 / 2 ^ 56 = pc)) }

/-- Write a DRAM line on behalf of a function (18 R274). -/
def State.dramWrite (s : State) (d vf : Nat) (x : BitVec 1024) : State :=
  { s with
    dram := memWrite s.dram d (bytesOf 128 x)
    lineMeta := tset none s.lineMeta d (some { line := s.lineNo d, kid := vf, kgen := (s.key vf).kgen, keys := s.keysNow vf }) }

-- the memory-side cache (10 R172, R180) ---------------------------------------------------------------------------------------------------

/-- The stack of a DRAM place. -/
def stackOf (d : Nat) : Nat := d / 68719476736

def State.mscHas (s : State) (d : Nat) : Bool := (tget [] s.msc (stackOf d)).contains d

/-- A line read from its channel enters its stack's cache, of 131,072 lines; the one that came first goes (log entry 42). -/
def State.mscPut (s : State) (d : Nat) : State :=
  if s.mscHas d then s
  else
    ({ s with msc := tset [] s.msc (stackOf d) ((d :: tget [] s.msc (stackOf d)).take 131072) }).setUpset 2 (stackOf d) d
      (s.upset 3 (stackOf d) d)

/-- Lines of a stack leave its cache. -/
def State.mscDrop (s : State) (stack : Nat) (f : Nat → Bool) : State :=
  { s with msc := tset [] s.msc stack ((tget [] s.msc stack).filter (fun d => !(f d))) }

-- normal requests of the channels (15 R238) ------------------------------------------------------------------------------------------------

/-- The data of a line after byte writes under their masks. -/
def applyBytes (d : BitVec 1024) (ws : List WByte) : BitVec 1024 :=
  ws.foldl (fun d w => lineSet d (w.addr % 128) w.data w.mask) d

/-- The writes of a line that wait at its channel, oldest first. -/
def State.writesAt (s : State) (d pa : Nat) : List NReq :=
  (tget [] s.chans (rowBank d / 16)).filter (fun n => n.line = pa && n.ws.isSome)

/-- A line as its channel gives it: what DRAM holds, and the writes to it that have arrived before. With its KID. -/
def State.dramNow (s : State) (d pa : Nat) : BitVec 1024 × Nat :=
  (s.writesAt d pa).foldl (fun x n => (applyBytes x.1 (n.ws.getD []), n.vf)) (s.dramRead d)

/-- The waiting normal requests of a bank, oldest first. -/
def State.waitingAt (s : State) (gb : Nat) : List NReq :=
  (tget [] s.chans (gb / 16)).filter (fun n => n.bank = gb && !n.admitted)

/-- A normal request arrives at its channel; the first that waits at its bank is the oldest from now on (15 R238). -/
def State.toChannel (s : State) (n : NReq) : State :=
  let s := if (s.waitingAt n.bank).isEmpty then s.setBank n.bank { s.bank n.bank with since := s.dclk } else s
  { s with chans := tset [] s.chans (n.bank / 16) (tget [] s.chans (n.bank / 16) ++ [n]) }

/-- A line is read from its channel for a master, or for the slice request `rq`: one read serves all that wait for it. -/
def State.want (s : State) (vf pa master rq : Nat) : State :=
  match s.dramLine pa with
  | some d =>
    if (tget [] s.chans (rowBank d / 16)).any (fun n => n.line = pa && n.ws.isNone) then s
    else s.toChannel { bank := rowBank d, row := rowOf d, line := pa, rq := rq, vf := vf, master := master }
  | none => s

/-- A line write goes to its channel; `bad` says that its bits are wrong as its memory gave them (10 R182). -/
def State.sendWrite (s : State) (d pa vf master rq : Nat) (ws : List WByte) (back : Bool) (bad : Bool := false) : State :=
  s.toChannel { bank := rowBank d, row := rowOf d, line := pa, rq := rq, ws := some ws, vf := vf, master := master, back := back, bad := bad }

-- the error log (25 R355) ------------------------------------------------------------------------------------------

/-- An MSI-X message to the driver of a function: vector 0 a command completion, 1 a fault record, 2 a report, and of the PF a new entry of the
error log (25 R348). -/
def State.signal (s : State) (fn vector : Nat) : State := { s with msix := tmod 0 s.msix (3 * fn + vector) (· + 1) }

/-- Append to the error log (25 R355). -/
def State.elog (s : State) (e : BitVec 512) : State :=
  { s.signal 0 2 with
    errlog := tset 0 s.errlog (s.elwr.toNat % 4096) e
    elwr := s.elwr + 1
    ellost := if (s.elwr - s.elrd).toNat ≥ 4096 then min (s.ellost + 1) (2 ^ 32 - 1) else s.ellost }

/-- Eight 64-bit words as a 64-byte record. -/
def rec512 : List Nat → BitVec 512
  | ws => BitVec.ofNat 512 (ws.foldr (fun w a => w % 2 ^ 64 + a * 2 ^ 64) 0)

-- wrong bits that a reader meets (10 R182) --------------------------------------------------------------------------------------------------------

/-- An entry of the error log for a corrected (0x10) or an uncorrectable error (0x11); `copy` are the first words of the consumer's record. A
tagged pointer to a team's own memory is no physical address. -/
def State.logError (s : State) (kind vf unit index addr : Nat) (copy : List Nat) : State :=
  s.elog (rec512 ([kind + vf * 2 ^ 8 + unit * 2 ^ 16 + index * 2 ^ 19, if addr < 2 ^ 52 then addr else 0, s.timebase.toNat, 0] ++ copy))

/-- What a memory makes of its bits as they are read: one wrong bit is corrected, and logged; of more it answers the place. -/
def State.sense (s : State) (vf unit index place addr : Nat) : State × Option (Nat × Nat × Nat) :=
  if s.upset unit index place = 0 then (s, none)
  else if s.upset unit index place = 1 then ((s.setUpset unit index place 0).logError 0x10 vf unit index addr [], none)
  else (s, some (unit, index, addr))

/-- The step meets a line that it cannot read yet, and has to wait for it. -/
def State.missAt (s : State) (vf pa master : Nat) : State := { s with missed := s.missed ++ [(vf, pa, master)] }

-- home slices -----------------------------------------------------------------------------------------------------------

/-- The slice's entry for a line, if it holds the line's data. -/
def State.sline (s : State) (pa : Nat) : Option SLine :=
  match ((s.slice (s.homeSlice pa)).lines.find? (fun e => e.1 = pa)) with
  | some (_, l) => if l.valid then some l else none
  | none => none

def State.setSline (s : State) (pa : Nat) (l : SLine) : State :=
  let n := s.homeSlice pa
  let x := s.slice n
  s.setSlice n { x with lines := tins pa l (tdel pa x.lines) }

def State.delSline (s : State) (pa : Nat) : State :=
  let n := s.homeSlice pa
  let x := s.slice n
  s.setSlice n { x with lines := tdel pa x.lines }

/-- The working line: the slice's copy, or DRAM's. With its KID. -/
def State.work (s : State) (pa : Nat) : BitVec 1024 × Nat :=
  match s.sline pa with
  | some l => (l.data, l.kid)
  | none =>
    match s.dramLine pa with
    | some d => s.dramNow d pa
    | none => (0, 0)

/-- The same for a reader without a consumer: the log alone hears of it. It answers whether the bits are wrong. -/
def State.senseLog (s : State) (vf unit index place addr : Nat) : State × Bool :=
  let e := s.sense vf unit index place addr
  match e.2 with
  | some x => (e.1.logError 0x11 vf x.1 x.2.1 x.2.2 [], true)
  | none => (e.1, false)

/-- The same of a line, where it is read: its slice, the memory-side cache, or DRAM. -/
def State.senseLine (s : State) (vf pa : Nat) : State × Option (Nat × Nat × Nat) :=
  match s.sline pa, s.dramLine pa with
  | some _, _ => s.sense vf 1 (s.homeSlice pa) pa pa
  | none, some d => if s.mscHas d then s.sense vf 2 (stackOf d) d pa else s.sense vf 3 (stackOf d) d pa
  | none, none => (s, none)

/-- Whether a cohort holds the line's lock (21 R313). -/
def LockSt.mine (l : LockSt) (tid coh : Nat) : Bool :=
  l.chain.any (fun e => e.holds && e.tid = tid && e.coh = coh)

/-- The line as a party sees it: a non-holder of a locked line sees the published image (21 R316). -/
def State.seen (s : State) (pa tid coh : Nat) : BitVec 1024 :=
  let l := s.lock pa
  if l.locked && !(l.mine tid coh) then l.image else (s.work pa).1

/-- Pinned lines: those with a lock chain, or with accesses held under a section (10 R178; 16 R249). -/
def State.pinned (s : State) (pa : Nat) : Bool :=
  !(s.lock pa).chain.isEmpty || (tsome s.reqs).any (fun e => e.2.held && e.2.line = pa)

-- row permissions (18 R273) -----------------------------------------------------------------------------------------------

/-- The rights of a function on a row: (R, W, C). -/
def State.rowRights (s : State) (vf d : Nat) : Bool × Bool × Bool :=
  let i := tget 1 s.rowDom (d / 2048)
  let stack := d / 68719476736
  let e := match tget none s.domains (stack * 16 + i) with
    | some e => e
    | none => if i = 1 then 0x1C0 else 0
  if i != 0 && fld e 0 6 = vf then (bit e 6, bit e 7, bit e 8) else (false, false, false)

/-- Bytes as byte writes from an address on. -/
def wbytes (a : Nat) : List Byte → List WByte
  | [] => []
  | b :: bs => { addr := a, data := b } :: wbytes (a + 1) bs

/-- Write a slice's line back to DRAM, keeping it clean (10 R180): its write goes to its channel. An uncorrectable error goes to the log only, and
the line keeps its bits (R182). -/
def State.cleanLine (s : State) (pa : Nat) : State :=
  match s.sline pa, s.dramLine pa with
  | some l, some d =>
    if l.dirty then
      let e := s.senseLog l.kid 1 (s.homeSlice pa) pa pa
      (e.1.setSline pa { l with dirty := false }).sendWrite d pa l.kid 0 0 (wbytes pa (bytesOf 128 l.data)) true e.2
    else s
  | _, _ => s

/-- Take a sharer's copy away (10 R175, R178, R179): core, or 128 + core for its translation cache. -/
def State.dropCopy (s : State) (dst pa : Nat) : State :=
  if dst < 128 then
    s.modCore dst (fun c =>
      match c.l1.find? (fun e => e.1 = pa) with
      | some (_, l) => if l.priv then c else { c with l1 := tdel pa c.l1 }
      | none => c)
  else s.modCore (dst - 128) (fun c => { c with tlb := c.tlb.filter (fun e => e.line != pa) })

/-- A fresh number for an operation, a request or the like: the model's own. -/
def State.fresh (s : State) : State × Nat := ({ s with nextId := s.nextId + 1 }, s.nextId)

/-- A slice sends a core a packet: packets of one slice to one core arrive in the order they were sent (10 R184). -/
def State.mail (s : State) (core slice id : Nat) : State :=
  if core < 128 && slice < 128 then { s with inbox := s.inbox ++ [(core, slice, id)] } else s

/-- Whether a packet is the next one of its slice at its core, or is none of those. -/
def State.isNext (s : State) (id : Nat) : Bool :=
  match s.inbox.find? (fun e => e.2.2 = id) with
  | none => true
  | some e => s.inbox.find? (fun x => x.1 = e.1 && x.2.1 = e.2.1) = some e

/-- A packet has arrived. -/
def State.unmail (s : State) (id : Nat) : State := { s with inbox := s.inbox.filter (fun e => e.2.2 != id) }

/-- Invalidations go to sharers of a line (10 R178): they stay in the directory until they have taken them. The invalidations that the answer
names are all that are on their way for the line, so that what waits for them leaves no older copy behind. -/
def State.invalidate (s : State) (line : Nat) (out : List Nat) : State × List Nat :=
  let now := (tsome s.invs).filter (fun e => e.2.line = line)
  (out.filter (fun c => !(now.any (fun e => e.2.sharer = c)))).foldl (fun x c =>
    let f := x.1.fresh
    (({ f.1 with invs := tset none f.1.invs f.2 (some ⟨c, line⟩) } : State).mail (c % 128) (s.homeSlice line) f.2, f.2 :: x.2)) (s, now.map (·.1))

/-- The translation caches that have a leaf from a line: its sharers too, where no directory entry stood to name them (10 R179; log entry 42). -/
def State.leafSharers (s : State) (pa : Nat) : List Nat :=
  (s.cores.filter (fun c => c.2.tlb.any (fun t => t.line = pa))).map (fun c => 128 + c.1)

/-- Every sharer of a line: those that its directory entry names, and the translation caches with a leaf from it (10 R178, R179). -/
def State.copies (s : State) (pa : Nat) : List Nat :=
  dedup (((s.sline pa).map (·.sharers)).getD [] ++ s.leafSharers pa)

/-- A line's copies go at once, with its slice's copy; a translation cache takes its invalidation when its accesses allow (18 R267). -/
def State.dropAll (s : State) (pa : Nat) : State :=
  match s.sline pa with
  | some l =>
    let s := ((l.sharers.filter (· < 128)).foldl (fun s c => s.dropCopy c pa) s).setSline pa { l with sharers := [] }
    (s.invalidate pa ((dedup (l.sharers ++ s.leafSharers pa)).filter (128 ≤ ·))).1
  | none => s

/-- The highest recency stamp of a set (11 R187). -/
def topUse (ls : List (Nat × SLine)) : Nat := ls.foldl (fun m e => max m e.2.use) 0

/-- The lines that a slice holds in a line's set. -/
def State.inSet (s : State) (pa : Nat) : List (Nat × SLine) :=
  let k := s.sliceSet pa
  (s.slice k.1).lines.filter (fun e => s.sliceSet e.1 = k)

/-- The victim of a set: the least recent unpinned line, a retain line only when no other is left (11 R187). -/
def State.victim (s : State) (ls : List (Nat × SLine)) : Option Nat :=
  let free := ls.filter (fun e => !(s.pinned e.1))
  let soft := free.filter (fun e => e.2.cls != 2)
  let pick := if soft.isEmpty then free else soft
  (pick.foldl (fun (m : Option (Nat × Nat)) e =>
    match m with
    | none => some (e.1, e.2.use)
    | some (_, u) => if e.2.use < u then some (e.1, e.2.use) else m) none).map (·.1)

/-- Evict a line from its slice: write it back, invalidate its copies, drop it (10 R178, R180). -/
def State.evict (s : State) (pa : Nat) : State :=
  (((s.cleanLine pa).dropAll pa).delSline pa).setUpset 1 (s.homeSlice pa) pa 0

/-- Whether a slice has an entry for a line, with its data or without. -/
def State.hasWay (s : State) (pa : Nat) : Bool := (s.slice (s.homeSlice pa)).lines.any (fun e => e.1 = pa)

/-- A line enters a set as the least recent one: the others move up (11 R187). -/
def State.pushBack (s : State) (pa : Nat) : State :=
  (s.inSet pa).foldl (fun s e => s.setSline e.1 { e.2 with use := e.2.use + 1 }) s

/-- Bring a line into its slice (10 R178; 11 R187): with class 3, or in a set that is all pinned, nothing is allocated. A line that has yet to be
read from its channel is waited for; `whole` says that none of its old bytes is needed. -/
def State.fill (s : State) (pa cls : Nat) (whole : Bool := false) (vf : Nat := 0) (master : Nat := 0) : State :=
  match s.sline pa, s.dramLine pa with
  | none, some d =>
    let put (s : State) : State :=
      let s := if whole || s.mscHas d then s else s.missAt vf pa master
      let s := if cls = 1 then s.pushBack pa else s
      let x := s.dramNow d pa
      (s.setSline pa { data := x.1, kid := x.2, cls := cls, use := if cls = 1 then 0 else topUse (s.inSet pa) + 1 }).setUpset 1
        (s.homeSlice pa) pa (s.upset 2 (stackOf d) d)
    if cls = 3 && !(s.hasWay pa) then s
    else if s.hasWay pa || (s.inSet pa).length < 16 then put s
    else
      match s.victim (s.inSet pa) with
      | some v => put (s.evict v)
      | none => s
  | _, _ => s

/-- Whether a line's data can be had at its slice: in the slice, or from the memory-side cache. -/
def State.isHere (s : State) (pa : Nat) : Bool :=
  (s.sline pa).isSome || (match s.dramLine pa with
    | some d => s.mscHas d
    | none => true)

/-- Whether a request that must wait at its slice finds no way to wait in: its line has none, and the set's are all pinned (16 R249). -/
def State.noWay (s : State) (pa : Nat) : Bool :=
  !(s.hasWay pa) && 16 ≤ (s.inSet pa).length && (s.victim (s.inSet pa)).isNone

/-- A way for a line whose data has yet to be read. -/
def State.takeWay (s : State) (pa : Nat) : State :=
  if s.hasWay pa then s
  else
    let s := if (s.inSet pa).length < 16 then s else match s.victim (s.inSet pa) with
      | some v => s.evict v
      | none => s
    s.setSline pa { valid := false }

/-- Note a use of a line (11 R187). -/
def State.touch (s : State) (pa : Nat) : State :=
  match s.sline pa with
  | some l => s.setSline pa { l with use := topUse (s.inSet pa) + 1 }
  | none => s

/-- Register a sharer (10 R178). -/
def State.share (s : State) (pa who : Nat) : State :=
  match s.sline pa with
  | some l => if l.sharers.contains who then s else s.setSline pa { l with sharers := who :: l.sharers }
  | none => s

-- section signatures (16 R243, R244) --------------------------------------------------------------------------------------

/-- FOLD of 16 R243. -/
def fold45 (x k : Nat) : Nat :=
  ((List.range ((44 + k) / k)).foldl (fun (a : BitVec 45) i => a ^^^ BitVec.ofNat 45 (x / 2 ^ (k * i) % 2 ^ k)) 0).toNat

def hash1 (n k : Nat) : Nat := fold45 n k
def hash2 (n k : Nat) : Nat := fold45 (n * 0x9E5 % 2 ^ 45) k

/-- Set a bit of a signature. -/
def sigSet (c : BitVec 1024) (i : Nat) : BitVec 1024 := c ||| BitVec.ofNat 1024 (2 ^ i)

/-- Whether a section's window holds a line: its runs are (physical base, bytes, window offset). -/
def Section.inWindow (x : Section) (pa : Nat) : Bool := x.runs.any (fun r => r.1 ≤ pa && pa < r.1 + r.2.1)

/-- Fold a line into the two signatures that HSEL selects (16 R244). -/
def Section.fold (x : Section) (c1 c2 : BitVec 1024) (pa : Nat) : BitVec 1024 × BitVec 1024 :=
  let n := pa / 128
  (if x.hsel % 2 = 1 then sigSet c1 (hash1 n x.k) else c1, if x.hsel / 2 % 2 = 1 then sigSet c2 (hash2 n x.k) else c2)

/-- The section that a slice entry is for. -/
def State.sectOf (s : State) (pc : Nat) : Section := ((s.pump pc).sect).getD {}

/-- Fold an accepted write into the slice's entries whose window holds the line (16 R247), but for section `but`. -/
def State.foldWrite (s : State) (pa but : Nat) : State :=
  let n := s.homeSlice pa
  let x := s.slice n
  s.setSlice n { x with secs := x.secs.map (fun e =>
    if e.pc != but && (s.sectOf e.pc).inWindow pa then
      let c := (s.sectOf e.pc).fold e.c1 e.c2 pa
      { e with c1 := c.1, c2 := c.2 }
    else e) }

/-- Whether a window that a slice holds contains the line (16 R249), for a party other than section `but`. -/
def State.heldWindow (s : State) (pa but : Nat) : Bool :=
  (s.slice (s.homeSlice pa)).secs.any (fun e => e.hold && e.pc != but && (s.sectOf e.pc).inWindow pa)

/-- Whether byte writes cover their whole line: what was stored there, right or wrong, is gone (10 R182). -/
def wholeLine (ws : List WByte) : Bool := 128 ≤ (ws.filter (fun w => w.mask = 255)).length

/-- A slice accepts a write on a function's behalf (10 R178): the next sequence tag, the folds, the data and KID. The sharers to invalidate
are answered; `keep` is the writing core, whose copy the store updates. A line without a way is written at its channel. -/
def State.accept (s : State) (vf pa master keep but cls : Nat) (ws : List WByte) : State × BitVec 16 × List Nat :=
  let was := (s.sline pa).isSome
  let out := (s.copies pa).filter (· != keep)
  let s := s.fill pa cls (wholeLine ws) vf master
  let n := s.homeSlice pa
  let x := s.slice n
  let tag := x.tag + 1
  let s := (s.setSlice n { x with tag := tag }).foldWrite pa but
  match s.sline pa with
  | some l =>
    let s := if wholeLine ws then s.setUpset 1 n pa 0 else s
    (s.setSline pa { l with data := applyBytes l.data ws, dirty := true, kid := vf, use := if was then topUse (s.inSet pa) + 1 else l.use },
      tag, dedup (out ++ l.sharers.filter (· != keep)))
  | none =>
    match s.dramLine pa with
    | some d => (s.sendWrite d pa vf master 0 ws false, tag, out)
    | none => (s, tag, [])

-- access tables (18 R269, R270) -------------------------------------------------------------------------------------------

/-- The row of the physical function at reset: every master and every right (18 R269). -/
def fullRow : BitVec 512 := BitVec.ofNat 512 (2 ^ 282 - 1 + (2 ^ 9 - 1) * 2 ^ 320)

/-- The row of a function at a target. Targets: 0 to 127 slices, 128 + stack base dies, 144 + core ring stops, 272 the
host port, 273 + port the link ports. -/
def State.row (s : State) (target vf : Nat) : BitVec 512 :=
  match tget none s.access (target * 64 + vf) with
  | some r => r
  | none => if vf = 0 then fullRow else 0

/-- Whether the target's table permits a master's request of a right: 0 AR, 1 AW, 2 AA, 3 AC, 4 AB (18 R269). -/
def State.permits (s : State) (target vf master right : Nat) : Bool :=
  bit (s.row target vf) master && bit (s.row target vf) (320 + right)

-- routes (10 R183, R184; 18 R272) -------------------------------------------------------------------------------------------------------------

/-- Whether a packet never arrives: it circulates, or its route ends nowhere (18 R272). -/
def Way.astray : Way → Bool
  | .arrives _ _ => false
  | .drops _ => false
  | _ => true

/-- Whether a master's packets to a line's home slice never arrive. -/
def State.lost (s : State) (master pa : Nat) : Bool := (s.way master (s.homeSlice (lineAt pa))).astray

-- refusals (18 R270) ---------------------------------------------------------------------------------------------------------------------------

/-- A refusal: TGT and TIDX as the report numbers them, and the address. -/
structure Refused where
  tgt : Nat
  tidx : Nat
  addr : Nat
deriving DecidableEq, Repr

/-- Whether a function's writes are refused because its keys are destroyed (18 R274). -/
def State.keyless (s : State) (vf : Nat) : Bool := (s.key vf).kstate = 2

/-- The refusal of a request on its way to a home slice, or there (18 R269, R272, R274): `right` is its right; with `wr` it writes. -/
def State.refusalAt (s : State) (vf pa master right : Nat) (wr : Bool) : Option Refused :=
  let n := s.homeSlice (lineAt pa)
  match s.way master n with
  | .drops x => some ⟨5, x, pa⟩
  | _ => if !(s.permits n vf master right) || (wr && s.keyless vf) then some ⟨0, n, pa⟩ else none

/-- The refusal of the line read that a request needs (15 R237): every activate is checked; a line that is here needs none. -/
def State.missRefusal (s : State) (vf pa : Nat) : Option Refused :=
  match s.dramLine (lineAt pa) with
  | some d => if s.isHere (lineAt pa) || (s.rowRights vf d).1 then none else some ⟨6, stackOf d, pa⟩
  | none => none

/-- Both, for an access that is performed at once. -/
def State.refusalOf (s : State) (vf pa master right : Nat) (wr : Bool) : Option Refused :=
  (s.refusalAt vf pa master right wr).orElse (fun _ => s.missRefusal vf pa)

/-- The refusal of a read. -/
def State.readRefusal (s : State) (vf pa master : Nat) : Option Refused := s.refusalOf vf pa master 0 false

/-- The refusal report, and its copy in the error log (18 R270; 25 R355). KINDACC 0 read, 1 write, 2 atomic, 3 compute, 4 board, 5 walk. -/
def refusalWord (vf master kind : Nat) (r : Refused) : Nat :=
  0x03 + vf * 2 ^ 8 + r.tgt * 2 ^ 16 + r.tidx * 2 ^ 19 + master * 2 ^ 27 + kind * 2 ^ 36

def State.logRefusal (s : State) (vf master kind : Nat) (r : Refused) : State :=
  let unit := if r.tgt = 0 then 1 else if r.tgt = 1 || r.tgt = 6 then 3 else 5
  s.elog (rec512 [0x12 + vf * 2 ^ 8 + unit * 2 ^ 16 + r.tidx * 2 ^ 19, r.addr, s.timebase.toNat, 0,
    refusalWord vf master kind r, r.addr, s.timebase.toNat, 0])

-- writes by units of the module -----------------------------------------------------------------------------------------------------------------

/-- Whether a master's access may enter a line's slice in this core clock: of one clock the slice takes its inputs in their order (14 R222). -/
def State.enters (s : State) (master pa : Nat) : Bool :=
  let n := s.homeSlice (lineAt pa)
  (s.slice n).inClk != s.clk || (s.slice n).inRank ≤ s.inputTo master (siteOf (sliceXY n))

/-- It has entered. -/
def State.entered (s : State) (master pa : Nat) : State :=
  let n := s.homeSlice (lineAt pa)
  s.setSlice n { s.slice n with inClk := s.clk, inRank := s.inputTo master (siteOf (sliceXY n)) }

/-- A write that no refusal meets is accepted at its home slice: its tag and its invalidations; or, on a locked or held line, waits there as any
non-holder's write (21 R316; 16 R249), or on its way for its turn (14 R222), to complete the operation `op` when it is accepted. An address outside every polder is not written. -/
def State.pokeLine (s : State) (op vf pa master : Nat) (ws : List WByte) : State × Option (BitVec 16 × List Nat) :=
  if (s.home pa).isNone then (s, some (0, []))
  else if !(s.enters master pa) || (s.lock pa).locked || s.heldWindow pa 128 then
    -- with no way to wait in it stays in its link (16 R249)
    let way := s.enters master pa && ((s.lock pa).locked || !(s.noWay pa))
    let f := (if way then s.takeWay pa else s).fresh
    (f.1.setReq f.2 (some { op := op, master := master, vf := vf, tid := 0, coh := 32, lanes := 0, kind := .write ws, line := pa,
                            held := way, seq := f.2 }), none)
  else
    let r := (s.entered master pa).accept vf pa master 300 128 0 ws
    let i := r.1.invalidate pa r.2.2
    (i.1, some (r.2.1, i.2))

/-- The lines of a write, each with its byte writes. -/
def lineWrites (a : Nat) (bs : List Byte) : List (Nat × List WByte) :=
  (splitLines (bs.length + 1) a 0 bs.length).map (fun x => (lineAt x.1, wbytes x.1 ((bs.drop x.2.1).take x.2.2)))

/-- A record of the command processor (master 0x111) in a function's memory; `no` is what its refusal does. -/
def State.pokeBy (no : State → Refused → State) (s : State) (vf a : Nat) (bs : List Byte) : State :=
  (lineWrites a bs).foldl (fun s x =>
    match s.refusalOf vf x.1 0x111 1 true with
    | some r => no s r
    | none => if s.lost 0x111 x.1 then s else (s.pokeLine 0 vf x.1 0x111 x.2).1) s

/-- Bytes of physical memory, at the home slices. -/
def State.peek (s : State) (a n : Nat) : List Byte :=
  ((splitLines (n + 1) a 0 n).map (fun x => lineBytes (s.seen (lineAt x.1) 0 32) (x.1 % 128) x.2.2)).flatten

/-- A little-endian number of physical memory. -/
def State.peekN (s : State) (a n : Nat) : Nat := ofLeBytes (s.peek a n)

/-- Append to a function's report queue, or count the report as dropped (25 R348). Of a report that is refused itself the error log alone says so
(log entry 43). -/
def State.report (s : State) (vf : Nat) (r : BitVec 512) : State :=
  let f := s.fn vf
  let a := f.rqbase + 64 * (f.rqwr.toNat % 2 ^ f.rqlgd)
  if f.rqlgd = 0 || (f.rqwr - f.rqrd).toNat ≥ 2 ^ f.rqlgd || !(s.mapped vf a) then
    s.setFn vf { f with rqdrop := min (f.rqdrop + 1) (2 ^ 32 - 1) }
  else (State.pokeBy (fun s x => s.logRefusal vf 0x111 1 x) (s.setFn vf { f with rqwr := f.rqwr + 1 }) vf a (bytesOf 64 r)).signal vf 2

/-- A refusal (18 R270): its copy in the error log, and the report. -/
def State.refuseAt (s : State) (vf master kind : Nat) (r : Refused) : State :=
  (s.logRefusal vf master kind r).report vf (rec512 [refusalWord vf master kind r, r.addr, s.timebase.toNat])

def State.refuse (s : State) (vf tgt tidx master kind addr : Nat) : State := s.refuseAt vf master kind ⟨tgt, tidx, addr⟩

/-- A fault record, or a flag count of a saved team, in a function's memory: refused, it makes a report as any write does (18 R270). -/
def State.poke (s : State) (vf a : Nat) (bs : List Byte) : State := State.pokeBy (fun s x => s.refuseAt vf 0x111 1 x) s vf a bs

/-- A request that a router drops, or that its slice refuses: the state with its report. -/
def State.turnedAway (s : State) (r : Req) (right : Nat) (wr : Bool) : Option State :=
  (s.refusalAt r.vf r.line r.master right wr).map (fun x => s.refuseAt r.vf r.master right x)

/-- The reports of refused write-backs (18 R270). The spec gives a slice no master number: MASTER is a free value (log
entry 3). -/
def State.flushLate (s : State) : State :=
  s.late.foldl (fun s e =>
    let s := { s with freeCtr := s.freeCtr + 1 }
    s.refuse e.1 6 (stackOf ((s.dramLine e.2).getD 0)) (fld (Config.freeWord s.freeCtr) 0 9) 1 e.2) { s with late := [] }

-- accesses on behalf of a function --------------------------------------------------------------------------------------

/-- A line read at its home slice for a master that acts for a function: refused, it delivers zero bytes (18 R269, R270, R272; 15 R237). A line
that a section holds, or that has yet to be read from its channel, is waited for (16 R249; 15 R238). The last part is an uncorrectable error that the reader meets (R182). -/
def State.readLine (s : State) (vf pa master tid coh : Nat) : State × BitVec 1024 × Option (Nat × Nat × Nat) :=
  match s.readRefusal vf pa master with
  | some r => (s.refuseAt vf master 0 r, 0, none)
  | none =>
    let s := if s.heldWindow pa 128 || !(s.isHere pa) then s.missAt vf pa master else s
    let e := s.senseLine vf pa
    (e.1.entered master pa, e.1.seen pa tid coh, e.2)

/-- The same for a reader whose errors go to the error log only. -/
def State.readFor (s : State) (vf pa master tid coh : Nat) : State × BitVec 1024 :=
  let r := s.readLine vf pa master tid coh
  match r.2.2 with
  | some e => (r.1.logError 0x11 vf e.1 e.2.1 e.2.2 [], r.2.1)
  | none => (r.1, r.2.1)

/-- What a unit that can wait for a line waits for: its packet's arrival, its turn at the slice (14 R222), a section that holds the line (16 R249),
or the line's read from its channel; none when the line can be read, or its read is refused. -/
def State.awaits (s : State) (vf pa master : Nat) : Option State :=
  if s.lost master pa || !(s.enters master pa) || s.heldWindow (lineAt pa) 128 then some s
  else if (s.readRefusal vf pa master).isNone && !(s.isHere (lineAt pa)) then some (s.want vf (lineAt pa) master 0)
  else none

/-- A line that a step has missed is asked for at its channel. -/
def State.wantFor (s : State) (m : Nat × Nat × Nat) : State :=
  if s.isHere (lineAt m.2.1) then s else s.want m.1 (lineAt m.2.1) m.2.2 0

/-- What an action comes to: where it has met a line that it cannot read yet, it waits for the line, and nothing else has happened. -/
def State.orWait (s t : State) : State := if t.missed.isEmpty then t else t.missed.foldl State.wantFor s

/-- A line written at its home slice for a master that acts for a function: refused, it is dropped, and acknowledged (18 R270, R274). Answers
its tag and invalidations, or none when it has to wait or never arrives. -/
def State.writeFor (s : State) (op vf pa master : Nat) (ws : List WByte) : State × Option (BitVec 16 × List Nat) :=
  match s.refusalOf vf pa master 1 true with
  | some r => (s.refuseAt vf master 1 r, some (0, []))
  | none => if s.lost master pa then (s, none) else s.pokeLine op vf pa master ws

/-- Bytes that the command processor reads on behalf of a function: zeros of a line that is refused. -/
def State.fetchBytes (s : State) (vf a n : Nat) : State × List Byte :=
  (splitLines (n + 1) a 0 n).foldl (fun r x =>
    let y := r.1.readFor vf (lineAt x.1) 0x111 0 32
    (y.1, r.2 ++ lineBytes y.2 (x.1 % 128) x.2.2)) (s, [])

end Sys2Proof.Machine
end

