-- ==== Sys2Proof/Machine/Number.lean ====
section
/-!
DEFINITION. Number.lean: number formats, rounding and their flags (04 R74 to R90), exact arithmetic before rounding, and
the estimates (06 R117). A value is exact: a signed dyadic number, an infinity or a NaN.
-/
namespace Sys2Proof.Machine

/-- An exact value: (-1)^neg * m * 2^e, an infinity, or a NaN (04 R75, R77 to R81). A zero keeps its sign. -/
inductive FVal where
  | nan
  | inf (neg : Bool)
  | fin (neg : Bool) (m : Nat) (e : Int)
deriving DecidableEq, Repr

/-- A floating format: precision, exponent of the subnormal spacing, the largest finite code, the code of +infinity (0: no
infinities), the sign bit's place (0: unsigned), the NaN code (0: none), and whether zero keeps its sign (04 R75 to R81). -/
structure Fmt where
  p : Nat
  qmin : Int
  maxc : Nat
  infc : Nat
  sgn : Nat
  nanc : Nat
  negz : Bool
deriving DecidableEq, Repr

def f32 : Fmt := ⟨24, -149, 0x7F7FFFFF, 0x7F800000, 31, 0x7FC00000, true⟩
def f16 : Fmt := ⟨11, -24, 0x7BFF, 0x7C00, 15, 0x7E00, true⟩
def bf16 : Fmt := ⟨8, -133, 0x7F7F, 0x7F80, 15, 0x7FC0, true⟩
/-- .s8pN (04 R77). -/
def s8p (n : Nat) (inf : Bool) : Fmt :=
  ⟨n, 1 - 2 ^ (7 - n) - (n - 1 : Int), if inf then 0x7E else 0x7F, if inf then 0x7F else 0, 7, 0x80, false⟩
/-- .n8pN (04 R78). -/
def n8p (n : Nat) (inf : Bool) : Fmt :=
  ⟨n, 1 - 2 ^ (8 - n) - (n - 1 : Int), if inf then 0xFD else 0xFE, if inf then 0xFE else 0, 0, 0xFF, false⟩
def e2m3 : Fmt := ⟨4, -3, 0x1F, 0, 5, 0, false⟩
def e3m2 : Fmt := ⟨3, -4, 0x1F, 0, 5, 0, false⟩
def e2m1 : Fmt := ⟨2, -1, 0x7, 0, 3, 0, false⟩

/-- The value of a magnitude code on a format's grid, continued past its largest finite value (04 R84). -/
def Fmt.mag (f : Fmt) (c : Nat) : Nat × Int :=
  let h := 2 ^ (f.p - 1)
  if c < h then (c, f.qmin) else (c % h + h, f.qmin + (c / h - 1 : Int))

/-- The value of a code (04 R75, R77, R78, R80). An FP6 code 0x20 is read as +0, which it equals in every use: the model's choice
(log entry 45). -/
def Fmt.decode (f : Fmt) (c : Nat) : FVal :=
  if f.nanc != 0 && !f.negz && c = f.nanc then .nan
  else
    let neg := f.sgn != 0 && c / 2 ^ f.sgn % 2 = 1
    let a := if f.sgn = 0 then c else c % 2 ^ f.sgn
    if f.infc != 0 && a = f.infc then .inf neg
    else if f.infc != 0 && f.negz && f.infc < a then .nan
    else
      let x := f.mag a
      .fin (if x.1 = 0 && !f.negz then false else neg) x.1 x.2

/-- The rounding modes of 04 R84, R85: stochastic carries the advanced state's high half. -/
inductive Mode where
  | near
  | zero
  | up
  | down
  | stoch (x : Nat)
deriving DecidableEq, Repr

/-- The mode of a code of FPFLAGS.RM (04 R87). -/
def modeOf : Nat → Mode
  | 1 => .zero
  | 2 => .up
  | 3 => .down
  | _ => .near

/-- The length of a number in bits. -/
def blen (n : Nat) : Nat := if n = 0 then 0 else Nat.log2 n + 1

/-- Round m * 2^e to units of 2^q (04 R84, R85); `odd` is the low bit of the encoding of the lower neighbour, given its
count of units. Answers the units and whether the result is inexact. -/
def roundUnits (mode : Mode) (neg : Bool) (m : Nat) (e q : Int) (odd : Nat → Bool) : Nat × Bool :=
  if q ≤ e then (m * 2 ^ (e - q).toNat, false)
  else
    let r := (q - e).toNat
    let n := m / 2 ^ r
    let t := m % 2 ^ r
    if t = 0 then (n, false)
    else
      let up := match mode with
        | .near => if 2 * t = 2 ^ r then odd n else decide (2 ^ r < 2 * t)
        | .zero => false
        | .up => !neg
        | .down => neg
        | .stoch x => decide (65536 ≤ t * 65536 / 2 ^ r + x)
      (if up then n + 1 else n, true)

/-- Flags of FPFLAGS (04 R87). -/
def NV : BitVec 32 := 1
def DZ : BitVec 32 := 2
def OF : BitVec 32 := 4
def UF : BitVec 32 := 8
def NX : BitVec 32 := 16
def SAT : BitVec 32 := 32

/-- The magnitude code of n units of 2^q. -/
def Fmt.code (f : Fmt) (n : Nat) (q : Int) : Nat := (q - f.qmin).toNat * 2 ^ (f.p - 1) + n

/-- The low bit of the encoding of n units of 2^q (04 R84: ties go to the even encoding). -/
def Fmt.odd (f : Fmt) (q : Int) (n : Nat) : Bool :=
  ((q - f.qmin + (2 ^ 20 : Int)).toNat * 2 ^ (f.p - 1) + n) % 2 = 1

/-- A sign bit over a magnitude code. -/
def Fmt.sign (f : Fmt) (neg : Bool) (c : Nat) : Nat := if neg then c + 2 ^ f.sgn else c

/-- Convert an exact value to a format: the code and the flags, by the rows of 04 R86. -/
def Fmt.round (f : Fmt) (mode : Mode) : FVal → Nat × BitVec 32
  | .nan => (f.nanc, if f.nanc = 0 then NV else 0)
  | .inf neg =>
    if neg && f.sgn = 0 then (0, NV)
    else if f.infc != 0 then (f.sign neg f.infc, 0)
    else (f.sign neg f.maxc, SAT)
  | .fin neg m e =>
    if m = 0 then (if f.negz then f.sign neg 0 else 0, 0)
    else if neg && f.sgn = 0 then (0, NV)
    else
      let top := e + blen m - f.p
      let q := max f.qmin top
      let r := roundUnits mode neg m e q (f.odd q)
      let c := f.code r.1 q
      if f.maxc < c then
        if f.infc = 0 then (f.sign neg f.maxc, SAT ||| NX)
        else
          let away := match mode with
            | .zero => false
            | .up => !neg
            | .down => neg
            | _ => true
          (f.sign neg (if away then f.infc else f.maxc), OF ||| NX)
      else
        let free := (roundUnits mode neg m e top (f.odd top)).1
        let tiny := decide (top + blen free ≤ f.qmin + (f.p : Int) - 1)
        (if c = 0 && !f.negz then 0 else f.sign neg c,
          if r.2 then (if tiny then UF ||| NX else NX) else 0)

/-- Convert with saturation: beyond the largest finite value, infinities included, the result is that value (04 R86, the targets without
infinities). -/
def Fmt.sat (f : Fmt) (v : FVal) : Nat := (({ f with infc := 0 } : Fmt).round .near v).1

/-- Convert to a 32-bit integer target (04 R86): signed or unsigned, as its 32 bits, with the flags. -/
def roundInt (signed : Bool) (mode : Mode) : FVal → BitVec 32 × BitVec 32
  | .nan => (0, NV)
  | .inf neg =>
    if signed then (if neg then 0x80000000 else 0x7FFFFFFF, NV) else (if neg then 0 else 0xFFFFFFFF, NV)
  | .fin neg m e =>
    if m = 0 then (0, 0)
    else if neg && !signed then (0, NV)
    else
      let r := roundUnits mode neg m e 0 (fun n => n % 2 = 1)
      let nx : BitVec 32 := if r.2 then NX else 0
      if signed then
        if neg then (if 0x80000000 < r.1 then (0x80000000, NV ||| NX) else (-(BitVec.ofNat 32 r.1), nx))
        else if 0x7FFFFFFF < r.1 then (0x7FFFFFFF, NV ||| NX) else (BitVec.ofNat 32 r.1, nx)
      else if 0xFFFFFFFF < r.1 then (0xFFFFFFFF, NV ||| NX) else (BitVec.ofNat 32 r.1, nx)

/-- An integer as an exact value. -/
def FVal.ofInt (i : Int) : FVal := .fin (i < 0) i.natAbs 0

/-- An exact value scaled by 2^k. -/
def FVal.scale (k : Int) : FVal → FVal
  | .fin s m e => .fin s m (e + k)
  | v => v

/-- The negative of a value. -/
def FVal.neg : FVal → FVal
  | .nan => .nan
  | .inf s => .inf (!s)
  | .fin s m e => .fin (!s) m e

/-- A finite value at exponent q as a signed count. -/
def units (neg : Bool) (m : Nat) (e q : Int) : Int :=
  let a : Int := m * 2 ^ (e - q).toNat
  if neg then -a else a

/-- The exact sum (06 R116), and whether it is ∞ - ∞. An exact zero sum of opposite signs is -0 in mode down, else +0; that it is so for
two zeros is the model's choice (log entry 40). -/
def FVal.add (mode : Mode) : FVal → FVal → FVal × Bool
  | .nan, _ => (.nan, false)
  | _, .nan => (.nan, false)
  | .inf a, .inf b => if a = b then (.inf a, false) else (.nan, true)
  | .inf a, _ => (.inf a, false)
  | _, .inf b => (.inf b, false)
  | .fin a m e, .fin b n f =>
    let q := min e f
    let t := units a m e q + units b n f q
    if t = 0 then (.fin (if m = 0 && n = 0 && a = b then a else decide (mode = .down)) 0 q, false)
    else (.fin (decide (t < 0)) t.natAbs q, false)

/-- The exact product (06 R116), and whether it is 0 × ∞. -/
def FVal.mul : FVal → FVal → FVal × Bool
  | .nan, _ => (.nan, false)
  | _, .nan => (.nan, false)
  | .inf a, .inf b => (.inf (a != b), false)
  | .inf a, .fin b n _ => if n = 0 then (.nan, true) else (.inf (a != b), false)
  | .fin a m _, .inf b => if m = 0 then (.nan, true) else (.inf (a != b), false)
  | .fin a m e, .fin b n f => (.fin (a != b) (m * n) (e + f), false)

/-- The order of two values that are no NaN: -1, 0, 1; with `z`, -0 is below +0 (04 R76; 06 R114). -/
def FVal.cmp (z : Bool) : FVal → FVal → Int
  | .inf a, .inf b => if a = b then 0 else if a then -1 else 1
  | .inf a, _ => if a then -1 else 1
  | _, .inf b => if b then 1 else -1
  | .fin a m e, .fin b n f =>
    let q := min e f
    let x := units a m e q
    let y := units b n f q
    if x < y then -1 else if y < x then 1
    else if z && x = 0 && a != b then (if a then -1 else 1) else 0
  | _, _ => 0

/-- The next stochastic-rounding state (04 R85). -/
def srNext (x : BitVec 32) : BitVec 32 :=
  let a := x ^^^ (x <<< 13)
  let b := a ^^^ (a >>> 17)
  b ^^^ (b <<< 5)

/-- A sum of two FP32 codes, nearest-even, without flags (04 R90; 11 R195). -/
def addF32 (a b : BitVec 32) : BitVec 32 :=
  BitVec.ofNat 32 (f32.round .near ((f32.decode a.toNat).add .near (f32.decode b.toNat)).1).1

/-- `fmin` (or, with `max`, `fmax`) of two codes of a format (04 R76). -/
def minmaxF (f : Fmt) (isMax : Bool) (a b : Nat) : Nat :=
  match f.decode a, f.decode b with
  | .nan, .nan => f.nanc
  | .nan, _ => b
  | _, .nan => a
  | x, y => if (if isMax then decide (0 ≤ x.cmp true y) else decide (x.cmp true y ≤ 0)) then a else b

/-- An exact sum of many values, with NaN for a NaN or for opposite infinities (04 R89). A sum that is exactly zero is +0, so that
-0 + G is +0: the model's choice (log entry 40). -/
def sumExact (l : List FVal) : FVal :=
  l.foldl (fun a b => (a.add .near b).1) (.fin false 0 0)

-- estimates (06 R117) -----------------------------------------------------------------------------------------------------

/-- Newton's steps toward the integer square root, from above. -/
def isqrtFrom (n : Nat) : Nat → Nat → Nat
  | 0, x => x
  | fuel + 1, x => let y := (x + n / x) / 2; if y < x then isqrtFrom n fuel y else x

/-- The integer square root. -/
def isqrt (n : Nat) : Nat := if n = 0 then 0 else isqrtFrom n (2 * blen n + 4) (2 ^ ((blen n + 1) / 2))

/-- Round an estimate's exact value to P significant bits, or below 2^-126 to the subnormal grid (06 R117). -/
def roundEst (p : Nat) : FVal → BitVec 32 × BitVec 32
  | .fin neg m e =>
    if m = 0 then (BitVec.ofNat 32 (f32.sign neg 0), 0)
    else
      let top := e + blen m
      let small := decide (top ≤ -126)
      let q := if small then -149 else top - p
      let r := roundUnits .near neg m e q (fun n => n % 2 = 1)
      let c := f32.round .near (.fin neg r.1 q)
      if fld c.2 2 1 = 1 then (BitVec.ofNat 32 c.1, OF ||| NX)
      else (BitVec.ofNat 32 (if r.1 = 0 then f32.sign neg 0 else c.1), if r.2 then (if small then UF ||| NX else NX) else 0)
  | v => (BitVec.ofNat 32 (f32.round .near v).1, 0)

/-- A positive quantity known to `k` fraction bits as n, inexact when `s`: one more bit keeps the sticky part. -/
def sticky (neg : Bool) (n : Nat) (s : Bool) (k : Int) : FVal := .fin neg (2 * n + nbit s) (-k - 1)

def qnan32 : BitVec 32 := 0x7FC00000

/-- `frcp.f32` of one element, with its flags. -/
def frcpF32 (a : BitVec 32) : BitVec 32 × BitVec 32 :=
  match f32.decode a.toNat with
  | .nan => (qnan32, 0)
  | .inf s => (BitVec.ofNat 32 (f32.sign s 0), 0)
  | .fin s m e =>
    if m = 0 then (BitVec.ofNat 32 (f32.sign s f32.infc), DZ)
    else
      let k := blen m + 40
      roundEst 13 ((sticky s (2 ^ k / m) (2 ^ k % m != 0) k).scale (-e))

/-- `frsq.f32` of one element. -/
def frsqF32 (a : BitVec 32) : BitVec 32 × BitVec 32 :=
  match f32.decode a.toNat with
  | .nan => (qnan32, 0)
  | .inf s => if s then (qnan32, NV) else (0, 0)
  | .fin s m e =>
    if m = 0 then (BitVec.ofNat 32 (f32.sign s f32.infc), DZ)
    else if s then (qnan32, NV)
    else
      let odd := e % 2 != 0
      let m' := if odd then 2 * m else m
      let e' := if odd then e - 1 else e
      let k := blen m' + 40
      let r := isqrt (2 ^ (2 * k) / m')
      roundEst 13 ((sticky false r (r * r * m' != 2 ^ (2 * k)) k).scale (-(e' / 2)))

/-- 2^(f / 2^n) for f below 2^n, with 160 fraction bits, by the square roots of 2: bits of f from the highest down. -/
def exp2Frac : Nat → Nat → Nat → Nat → Nat
  | 0, _, _, acc => acc
  | n + 1, f, root, acc =>
    let root' := isqrt (root * 2 ^ 160)
    exp2Frac n f root' (if f / 2 ^ n % 2 = 1 then acc * root' / 2 ^ 160 else acc)

/-- `fex2.f32` of one element. -/
def fex2F32 (a : BitVec 32) : BitVec 32 × BitVec 32 :=
  match f32.decode a.toNat with
  | .nan => (qnan32, 0)
  | .inf s => (if s then 0 else BitVec.ofNat 32 f32.infc, 0)
  | .fin s m e =>
    if m = 0 then (0x3F800000, 0)
    else if e + blen m ≤ -40 then (0x3F800000, NX)
    else if 11 ≤ e + blen m then
      (if s then roundEst 22 (.fin false 1 (-1000)) else (BitVec.ofNat 32 f32.infc, OF ||| NX))
    else
      let n := (-e).toNat
      let t : Int := if s then -((m * 2 ^ e.toNat : Nat) : Int) else ((m * 2 ^ e.toNat : Nat) : Int)
      let i := t / 2 ^ n
      let f := (t % 2 ^ n).toNat
      if f = 0 then roundEst 22 (.fin false 1 i)
      else roundEst 22 ((sticky false (exp2Frac n f (2 ^ 161) (2 ^ 160)) true 160).scale i)

/-- The first n fraction bits of log2 of x / 2^256, x in [2^256, 2^257), by repeated squaring. -/
def log2Frac : Nat → Nat → Nat → Nat
  | 0, _, acc => acc
  | n + 1, x, acc =>
    let y := x * x / 2 ^ 256
    if 2 ^ 257 ≤ y then log2Frac n (y / 2) (2 * acc + 1) else log2Frac n y (2 * acc)

/-- `flg2.f32` of one element. -/
def flg2F32 (a : BitVec 32) : BitVec 32 × BitVec 32 :=
  match f32.decode a.toNat with
  | .nan => (qnan32, 0)
  | .inf s => if s then (qnan32, NV) else (BitVec.ofNat 32 f32.infc, 0)
  | .fin s m e =>
    if m = 0 then (BitVec.ofNat 32 (f32.sign true f32.infc), DZ)
    else if s then (qnan32, NV)
    else
      let i := e + blen m - 1
      if m = 2 ^ (blen m - 1) then roundEst 22 (.fin (i < 0) i.natAbs 0)
      else
        let g := log2Frac 100 (m * 2 ^ (257 - blen m)) 0
        let t := i * 2 ^ 100 + g
        roundEst 22 (.fin (decide (t < 0)) (2 * t + 1).natAbs (-101))

end Sys2Proof.Machine
end

