-- ==== Sys2Proof/Machine/Slice.lean ====
section
/-!
DEFINITION. Slice.lean: cohorts and their register file by name, operations and flags (03 R49; 11 R186), the L1 (10 R175),
and what a home slice does with a request it takes (10 R178; 11 R195, R196; 18 R270; 21 R316).
-/
namespace Sys2Proof.Machine

def State.coh (s : State) (tid c : Nat) : Cohort := tget {} (s.team tid).cohs c
def Team.setCoh (t : Team) (c : Nat) (x : Cohort) : Team := { t with cohs := tset {} t.cohs c x }
def Team.modCoh (t : Team) (c : Nat) (f : Cohort → Cohort) : Team := t.setCoh c (f (tget {} t.cohs c))
def State.setCoh (s : State) (tid c : Nat) (x : Cohort) : State := s.modTeam tid (fun t => t.setCoh c x)
def State.modCoh (s : State) (tid c : Nat) (f : Cohort → Cohort) : State := s.setCoh tid c (f (s.coh tid c))

/-- N, the cohorts of a team (02 R23). -/
def Launch.n (l : Launch) : Nat := l.ncopy + l.nmtx + l.nvec

-- the quad register file (05 R95) -----------------------------------------------------------------------------------------

/-- Where register r of a lane stands in its core's register file: through the granule map (05 R95). -/
def Cohort.rfKey (c : Cohort) (lane r : Nat) : Nat :=
  ((c.quad * 128 + tget 0 c.gmap (r / 8)) * 8 + r % 8) * 32 + lane

/-- Register r of a lane. -/
def State.vget (s : State) (tid c lane r : Nat) : BitVec 128 :=
  tget 0 (s.core (s.team tid).core).rf ((s.coh tid c).rfKey lane r)

/-- Register r of a lane as it stood before the current core clock (06 R105). -/
def State.vgetPre (s : State) (tid c lane r : Nat) : BitVec 128 :=
  let k := (s.coh tid c).rfKey lane r
  match (s.coh tid c).pre with
  | some p => (tget none p.v k).getD (s.vget tid c lane r)
  | none => s.vget tid c lane r

/-- Write register r of a lane; the value before the clock is kept for cross-lane reads (06 R105). -/
def State.vset (s : State) (tid c lane r : Nat) (x : BitVec 128) : State :=
  let h := s.coh tid c
  let k := h.rfKey lane r
  let s := match h.pre with
    | some p =>
      if (tget none p.v k).isSome then s
      else s.setCoh tid c { h with pre := some { p with v := tset none p.v k (some (s.vget tid c lane r)) } }
    | none => s
  s.modCore (s.team tid).core (fun m => { m with rf := tset 0 m.rf k x })

-- flags and operations (03 R49) -------------------------------------------------------------------------------------------

/-- Add to the count of a flag; flags 12 to 15 are none. -/
def Cohort.addFlag (c : Cohort) (f : Nat) (d : Nat) : Cohort :=
  if f < 12 then { c with f := tmod 0 c.f f (· + d) } else c

/-- Take one from the count of a flag. -/
def Cohort.dropFlag (c : Cohort) (f : Nat) : Cohort :=
  if f < 12 then { c with f := tmod 0 c.f f (· - 1) } else c

/-- The byte of a flag count in a saved team's barrier image, from the area's start (05 R98, R101; 09 R169). -/
def Team.flagPlace (t : Team) (c f : Nat) : Nat :=
  let n := t.launch.n
  let up (x : Nat) : Nat := (x + 4095) / 4096 * 4096
  let v := (List.range n).foldl (fun a i => a + 4096 * (tget {} t.cohs i).valloc) 0
  4096 + up (512 * n) + up (512 * n) + up v + up (64 * n) + up (64 * n) + 64 + 64 * c + f

/-- A completion: the flag's count falls; of a saved team, in the barrier image too (09 R168; 05 R101). -/
def State.complete (s : State) (tid c f : Nat) : State :=
  if 12 ≤ f then s
  else
    let s := s.modCoh tid c (fun h => h.dropFlag f)
    let t := s.team tid
    match t.area with
    | some a => if 7 ≤ t.saved then s.poke t.vf (a + t.flagPlace c f) [BitVec.ofNat 8 (tget 0 (s.coh tid c).f f)] else s
    | none => s

/-- Issue an operation: its number, and one more on its flag. -/
def State.newOp (s : State) (o : Op) : State × Nat :=
  let f := s.fresh
  ((f.1.setOp f.2 (some o)).modCoh o.tid o.coh (fun h => h.addFlag o.flag 1), f.2)

/-- End an operation: its flag, its entry. -/
def State.endOp (s : State) (id : Nat) : State :=
  match s.op id with
  | some o => ((s.setOp id none).unmail id).complete o.tid o.coh o.flag
  | none => s

/-- Put bytes into a result. -/
def gather (g : Tab Byte) (l : List (Nat × Byte)) : Tab Byte := l.foldl (fun g x => tset 0 g x.1 x.2) g

/-- Whether an operation owes something to some lanes that a release at a scope waits for (11 R194): a store the parts of its lanes, anything
else the whole. -/
def Op.owes (o : Op) (lanes : Lanes) (scope : Nat) : Bool :=
  if (o.kind = 1 || o.kind = 5) && !o.parts.isEmpty then o.parts.any (fun p => p.1 &&& lanes != 0 && p.2 ≤ scope) else o.lanes &&& lanes != 0

/-- One part of an operation has come in, that of some lanes. A store, or a launch, ends with its last part; other results land by
LOAD_RETURN. -/
def State.partDone (s : State) (id : Nat) (res : List (Nat × Byte)) (lanes : Lanes := 0) (scope : Nat := 0) : State :=
  match s.op id with
  | none => s
  | some o =>
    let o := { o with left := o.left - 1, got := gather o.got res, parts := o.parts.erase (lanes, scope) }
    let s := s.setOp id (some o)
    if o.left = 0 && (o.kind = 1 || o.kind = 4 || o.kind = 5) then s.endOp id else s

/-- Acknowledgements leave their slices when the invalidations that they wait for have been answered (10 R178), in the order of their numbers. -/
def State.mailAcks (s : State) : State :=
  (tsome s.acks).foldl (fun s a =>
    if a.2.core < 128 && !(s.inbox.any (fun e => e.2.2 = a.1)) && a.2.invs.all (fun i => (tget none s.invs i).isNone) then
      s.mail a.2.core a.2.slice a.1
    else s) s

/-- Queue an acknowledgement that waits for invalidations (10 R178): it completes a part of an operation, and returns what the part gives. `way` is
the core that it goes to and the slice that sends it; 300 for another way. -/
def State.ackFor (s : State) (op : Nat) (tag : BitVec 16) (invs : List Nat) (lanes : Lanes := 0) (scope : Nat := 0)
    (res : List (Nat × Byte) := []) (way : Nat × Nat := (300, 128)) : State :=
  let f := s.fresh
  ({ f.1 with acks := tset none f.1.acks f.2 (some { op := op, tag := tag, invs := invs, lanes := lanes, scope := scope, res := res, core := way.1,
                                                      slice := way.2 }) } : State).mailAcks

/-- A line write for a master, acknowledged to an operation, if it is of one. -/
def State.writeAck (s : State) (op vf pa master : Nat) (ws : List WByte) : State :=
  let r := s.writeFor op vf pa master ws
  match r.2 with
  | some a => if op = 0 then r.1 else r.1.ackFor op a.1 a.2 0 0 [] (master, s.homeSlice (lineAt pa))
  | none => r.1

/-- An operation has met an uncorrectable error (10 R182): its consumer hears of it when it completes; without one, the error log does. -/
def State.spoil (s : State) (op vf : Nat) (x : Option (Nat × Nat × Nat)) : State :=
  match x, s.op op with
  | some e, some o => s.setOp op (some { o with bad := some e })
  | some e, none => s.logError 0x11 vf e.1 e.2.1 e.2.2 []
  | none, _ => s

/-- Bytes laid out from a place in a result. -/
def place (o : Nat) : List Byte → List (Nat × Byte)
  | [] => []
  | b :: bs => (o, b) :: place (o + 1) bs

/-- The bytes of a read's parts (place, address, bytes), from a line. -/
def partBytes (d : BitVec 1024) (parts : List (Nat × Nat × Nat)) : List (Nat × Byte) :=
  (parts.map (fun p => place p.1 (lineBytes d (p.2.1 % 128) p.2.2))).flatten

/-- Zero bytes for a read's parts (18 R270). -/
def partZeros (parts : List (Nat × Nat × Nat)) : List (Nat × Byte) :=
  (parts.map (fun p => place p.1 (List.replicate p.2.2 0))).flatten

-- the L1 (10 R174, R175; 11 R187) -------------------------------------------------------------------------------------------

/-- The ways of an L1 set: four for each cache-mode bank that is not draining (10 R172; 11 R205). -/
def Core.ways (c : Core) : Nat :=
  4 * ((List.range 16).filter (fun b => tget 0 c.modes b = 0 && !(c.drains.any (fun d => d.bank = b)))).length

/-- The L1 lines of a line's set. PRESUMED (log entry 13): the set is PA[16:7]. -/
def Core.l1Set (c : Core) (pa : Nat) : List (Nat × L1Line) := c.l1.filter (fun e => e.1 / 128 % 1024 = pa / 128 % 1024)

/-- An L1's entry for a line. -/
def Core.l1Line (c : Core) (pa : Nat) : Option L1Line := (c.l1.find? (fun e => e.1 = pa)).map (·.2)

def Core.setL1 (c : Core) (pa : Nat) (l : L1Line) : Core := { c with l1 := tins pa l (tdel pa c.l1) }

/-- The place of an L1 line, and of a word of the operand buffer, among a core's SRAM words (log entry 34). -/
def l1Word (pa : Nat) : Nat := 2 ^ 51 + pa / 128
def opWord (i : Nat) : Nat := 2 ^ 50 + i / 8

/-- The highest recency stamp of an L1 set (11 R187). -/
def Core.l1Top (c : Core) (pa : Nat) : Nat := (c.l1Set pa).foldl (fun m e => max m e.2.use) 0

/-- Note a use of an L1 line (11 R187). -/
def Core.l1Touch (c : Core) (pa : Nat) : Core :=
  match c.l1Line pa with
  | some l => c.setL1 pa { l with use := c.l1Top pa + 1 }
  | none => c

/-- A store of a cohort's that no word of its own waits for: a private line on its way to its slice. A release waits for it (11 R194). -/
def State.ownOp (s : State) (tid coh : Nat) : State × Nat :=
  s.newOp { tid := tid, coh := coh, lanes := BitVec.allOnes 32, kind := 1, left := 1 }

/-- A line has been written as its memory gave it, with bits that are wrong: they stay wrong where it is (10 R182). -/
def State.keepBad (s : State) (pa : Nat) : State :=
  if (s.sline pa).isSome then s.setUpset 1 (s.homeSlice pa) pa 2
  else { s with chans := s.chans.map (fun e => (e.1, e.2.map (fun n => if n.line = pa && n.ws.isSome then { n with bad := true } else n))) }

/-- Write back a dirty private line: an accepted write of its owner's function (10 R175, R178), acknowledged to `op`, or to an operation of its
owner's own. An uncorrectable error goes to the log only (10 R182). -/
def State.writeBack (s : State) (op core pa : Nat) : State :=
  match (s.core core).l1Line pa with
  | some l =>
    if l.dirty then
      let e := s.senseLog l.vf 0 core (l1Word pa) pa
      let f := if op = 0 then e.1.ownOp (l.owner / 32) (l.owner % 32) else (e.1, op)
      let s := f.1.writeAck f.2 l.vf pa core (wbytes pa (bytesOf 128 l.data))
      (if e.2 then s.keepBad pa else s).modCore core (fun c => c.setL1 pa { l with dirty := false })
    else s
  | none => s

/-- A core's copy of a line leaves the directory, and nothing waits for an invalidation of it any more (11 R198). -/
def State.unshare (s : State) (who pa : Nat) : State :=
  let s := match s.sline pa with
    | some l => s.setSline pa { l with sharers := l.sharers.filter (· != who) }
    | none => s
  let out := (tsome s.invs).filter (fun e => e.2 = ⟨who, pa⟩)
  out.foldl (fun (s : State) e => ({ s with invs := tset none s.invs e.1 none } : State).unmail e.1) s |>.mailAcks

/-- Drop an L1 line, writing a dirty one back. -/
def State.l1Drop (s : State) (op core pa : Nat) : State :=
  ((s.writeBack op core pa).unshare core pa).modCore core (fun c => { c with l1 := tdel pa c.l1 })

/-- A victim of an L1 set: the least recent line that is no lock line, a retain line only when no other is left (11 R187; 21 R315). -/
def l1Victim (set : List (Nat × L1Line)) : Option Nat :=
  let free := set.filter (fun e => e.2.lock.isNone)
  let soft := free.filter (fun e => e.2.cls != 2)
  ((if soft.isEmpty then free else soft).foldl (fun (m : Option (Nat × Nat)) e =>
    match m with
    | none => some (e.1, e.2.use)
    | some (_, u) => if e.2.use < u then some (e.1, e.2.use) else m) none).map (·.1)

/-- A line enters an L1 set as the least recent one: the others move up (11 R187). -/
def Core.l1Bump (c : Core) (pa : Nat) : Core :=
  (c.l1Set pa).foldl (fun c e => c.setL1 e.1 { e.2 with use := e.2.use + 1 }) c

/-- Put a line into the L1, evicting one of its set when the ways are full: an evict-first line as the least recent one. -/
def State.l1Put (s : State) (core pa : Nat) (l : L1Line) : State :=
  let c := s.core core
  let put (s : State) : State := (s.modCore core (fun c =>
    if l.cls = 1 then (c.l1Bump pa).setL1 pa { l with use := 0 } else c.setL1 pa { l with use := c.l1Top pa + 1 })).setUpset 0 core (l1Word pa) 0
  if c.ways = 0 then s
  else
    let set := (c.l1Set pa).filter (fun e => e.1 != pa)
    if set.length < c.ways then put s
    else
      match l1Victim set with
      | some v => put (s.l1Drop 0 core v)
      | none => s

/-- A core's global copy of a line that an invalidation is on its way for is older than what the core has just been given: it goes. -/
def State.dropStale (s : State) (core pa : Nat) : State :=
  if (tsome s.invs).any (fun e => e.2 = ⟨core, pa⟩) && (s.core core).l1.any (fun e => e.1 = pa && !e.2.priv && e.2.lock.isNone) then
    s.dropCopy core pa
  else s

/-- The L1's copy of a line, as one cohort may use it: a line marked as a lock line serves its holder only (21 R315). -/
def State.l1Get (s : State) (core pa tid coh : Nat) : Option L1Line :=
  match (s.core core).l1.find? (fun e => e.1 = pa) with
  | some (_, l) =>
    match l.lock with
    | some h => if h = (tid, coh) then some l else none
    | none => some l
  | none => none

/-- A store's update of the writing core's own copy, when it holds one: a private line is not the store's (10 R175). -/
def State.l1Update (s : State) (core pa : Nat) (ws : List WByte) : State :=
  s.modCore core (fun c =>
    match c.l1Line pa with
    | some l => if l.priv then c else c.setL1 pa { l with data := applyBytes l.data ws }
    | none => c)

-- atomics (11 R195) ---------------------------------------------------------------------------------------------------------

/-- The operations of 11 R195, in the order of their opcodes. -/
def atomNew (op : Nat) (old v w : BitVec 64) : Option (BitVec 64) :=
  let o := old.setWidth 32
  let x := v.setWidth 32
  match op with
  | 0 => some ((o + x).setWidth 64)
  | 1 => some (old + v)
  | 2 => some ((addF32 o x).setWidth 64)
  | 3 => some ((if o.toInt ≤ x.toInt then o else x).setWidth 64)
  | 4 => some ((if o.toNat ≤ x.toNat then o else x).setWidth 64)
  | 5 => some ((if x.toInt ≤ o.toInt then o else x).setWidth 64)
  | 6 => some ((if x.toNat ≤ o.toNat then o else x).setWidth 64)
  | 7 => some ((o &&& x).setWidth 64)
  | 8 => some ((o ||| x).setWidth 64)
  | 9 => some ((o ^^^ x).setWidth 64)
  | 10 => some (x.setWidth 64)
  | 11 => some v
  | 12 => if o = x then some ((w.setWidth 32).setWidth 64) else none
  | _ => if old = v then some w else none

/-- The lanes of one request in ascending order, each on the value the one before left (11 R196): the last value written,
if any wrote, and each lane's old value. -/
def atomRun (op : Nat) : List ALane → BitVec 64 → Option (BitVec 64) → Option (BitVec 64) × List (Nat × BitVec 64)
  | [], _, w => (w, [])
  | l :: ls, old, w =>
    match atomNew op old l.v l.w with
    | some n =>
      let r := atomRun op ls n (some n)
      (r.1, (l.lane, old) :: r.2)
    | none =>
      let r := atomRun op ls old w
      (r.1, (l.lane, old) :: r.2)

/-- The returned bytes of an atomic's lanes. -/
def atomPlaces (size : Nat) (olds : List (Nat × BitVec 64)) : List (Nat × Byte) :=
  (olds.map (fun o => place (16 * o.1) (bytesOf size o.2))).flatten

-- the launch of a pumphouse core (15 R232) --------------------------------------------------------------------------------

def State.modBank (s : State) (gb : Nat) (f : Bank → Bank) : State := s.setBank gb (f (s.bank gb))

/-- The running launch's function. -/
def State.runVf (s : State) (pc : Nat) : Nat :=
  match (s.pump pc).run with
  | some r => r.launch.vf
  | none => 0

/-- An error ends a launch with a code: its microcommands not yet issued are discarded (15 R232). -/
def State.launchErr (s : State) (pc code : Nat) : State :=
  let s := s.modPump pc (fun p => { p with run := p.run.map (fun r =>
    { r with ended := some (r.ended.getD code), split := [], blk := r.launch.nb, stall := 0 }) })
  { s with banks := s.banks.map (fun (e : Nat × Bank) => (e.1, { e.2 with queue := e.2.queue.filter (fun c => c.pc != pc) })) }

/-- A refused pumphouse access ends its launch with code REFUSED (15 R232; 18 R270). -/
def State.pumpRefused (s : State) (op : Nat) : State :=
  match s.op op with
  | some o =>
    match o.pump with
    | some pc => if o.kind ≤ 1 then s.launchErr pc 3 else s
    | none => s
  | none => s

-- requests at a slice ---------------------------------------------------------------------------------------------------------

/-- The lanes whose part of their operation a request completes (14 R220). -/
def Req.serves (r : Req) : Lanes := r.part.getD r.lanes

/-- The core of a request's master, or 300 for another master. -/
def Req.coreOf (r : Req) : Nat := if r.master < 128 then r.master else 300

/-- The way that a slice's answer to a request takes: to its core, from its home slice. -/
def State.backWay (s : State) (r : Req) : Nat × Nat := (r.coreOf, s.homeSlice r.line)

/-- A part of a load, or what a failing compare reads, goes back to its core (10 R184). -/
def State.partBack (s : State) (r : Req) (res : List (Nat × Byte)) : State :=
  (if r.op = 0 then s else s.mail r.coreOf (s.homeSlice r.line) r.op).partDone r.op res r.lanes r.scope

/-- A slice accepts a section's released line (16 R250; 17 R259): a sequence tag, the folds of the other sections, DRAM and any slice copy, and
the sharers' invalidations before the acknowledgement. -/
def State.takeRelease (s : State) (r : Req) (ws : List WByte) : State :=
  let n := s.homeSlice r.line
  let tag := (s.slice n).tag + 1
  let s := (s.setSlice n { s.slice n with tag := tag }).foldWrite r.line r.sect
  -- a line that is dirty since is written whole, and is clean
  let full := match s.sline r.line with
    | some l => if l.dirty then wbytes r.line (bytesOf 128 (applyBytes l.data ws)) else ws
    | none => ws
  let s := match s.dramLine r.line with
    | some d => s.sendWrite d r.line r.vf r.master 0 full false
    | none => s
  let x := match s.sline r.line with
    | some l => (s.setSline r.line { l with data := applyBytes l.data ws, kid := r.vf, dirty := false }).invalidate r.line (s.copies r.line)
    | none => s.invalidate r.line (s.leafSharers r.line)
  x.1.ackFor r.op tag x.2 0 0 [] (s.backWay r)

/-- A request's writes are applied at its slice (10 R178), and acknowledged after their invalidations. -/
def State.doWrite (s : State) (r : Req) (ws : List WByte) : State :=
  if r.sect < 128 then s.takeRelease r ws
  else
    let x := s.accept r.vf r.line r.master r.coreOf 128 r.cls ws
    let i := (x.1.l1Update r.coreOf r.line ws).invalidate r.line x.2.2
    if r.op = 0 then i.1 else i.1.ackFor r.op x.2.1 i.2 r.serves r.scope [] (s.backWay r)

/-- An atomic is performed at its slice (11 R195, R196): a compare that fails everywhere is a read, and takes a way or notes a use as one (R187). What returns, returns after the
invalidations. -/
def State.doAtomic (s : State) (r : Req) (op size addr : Nat) (lanes : List ALane) : State :=
  let e := s.senseLine r.vf r.line
  let s := e.1.spoil r.op r.vf e.2
  let old := BitVec.ofNat 64 (ofLeBytes (lineBytes (s.work r.line).1 (addr % 128) size))
  let x := atomRun op lanes old none
  let res := if (s.op r.op).any (fun o => o.kind = 2) then atomPlaces size x.2 else []
  match x.1 with
  | some n =>
    let w := wbytes addr (bytesOf size n)
    let y := s.accept r.vf r.line r.master r.coreOf 128 r.cls w
    let i := (y.1.l1Update r.coreOf r.line w).invalidate r.line y.2.2
    i.1.ackFor r.op y.2.1 i.2 r.lanes r.scope res (s.backWay r)
  | none =>
    let s := if (s.sline r.line).isSome then s.touch r.line else s.fill r.line r.cls false r.vf r.master
    (s.dropStale r.coreOf r.line).partBack r res

/-- A slice's data of a line is invalidated with its sharers; a locked line keeps its pinned way (16 R253). -/
def State.invalidateLine (s : State) (pa : Nat) : State :=
  let s := s.dropAll pa
  match s.sline pa with
  | some l => if s.pinned pa then s.setSline pa { l with valid := false } else s.delSline pa
  | none => s

/-- Apply a waiting write of a locked or held line (21 R318; 16 R250), or a recall: it leaves the requests in flight. One whose line has yet to be
read from its channel goes on as a request that has arrived, in its order (15 R237, R238; log entry 4). -/
def State.applyHeld (s : State) (id : Nat) : State :=
  match s.req id with
  | none => s
  | some r =>
    let t := s.setReq id none
    let wait := s.setReq id (some { r with held := false, here := true })
    match r.kind with
    | .write ws => if s.isHere r.line || r.sect < 128 then t.doWrite r ws else wait
    | .recall => (t.cleanLine r.line).invalidateLine r.line
    | .atomic op size addr lanes => if s.isHere r.line then t.doAtomic r op size addr lanes else wait
    | _ => wait

/-- The waiting requests of a line, in arrival order. -/
def State.heldOf (s : State) (f : Req → Bool) : List Nat :=
  let l := (tsome s.reqs).filter (fun e => e.2.held && f e.2)
  (sortBy (fun a b => a.1 ≤ b.1) (l.map (fun e => (e.2.seq, e.1)))).map (·.2)

/-- Whether a request is a write, or a recall, that a lock makes wait (21 R316). -/
def ReqKind.writes : ReqKind → Bool
  | .write _ => true
  | .recall => true
  | .atomic _ _ _ _ => true
  | _ => false

/-- Apply the waiting non-holder writes of a line, in arrival order (21 R318). -/
def State.applyWaiting (s : State) (pa : Nat) : State :=
  if s.heldWindow pa 128 then s
  else (s.heldOf (fun r => r.slice && r.line = pa && r.kind.writes)).foldl (fun s i => s.applyHeld i) s

end Sys2Proof.Machine
end

