-- ==== Sys2Proof/Machine/LockOps.lean ====
section
/-!
DEFINITION. LockOps.lean: lock chains at a home slice (21 R312 to R322): grants, handoffs, breaks, and the cohort's lock list.
-/
namespace Sys2Proof.Machine

/-- The lock-list slot that holds a line (21 R312). -/
def Cohort.lockSlot (c : Cohort) (line : Nat) : Option Nat :=
  ((c.locks.find? (fun e => e.2.line = line)).map (·.1))

/-- Change the lock-list entry of a line; the function answers none to free it. -/
def Cohort.modRef (c : Cohort) (line : Nat) (f : LockRef → Option LockRef) : Cohort :=
  match c.locks.find? (fun e => e.2.line = line) with
  | some (k, r) =>
    match f r with
    | some r' => { c with locks := tins k r' (tdel k c.locks) }
    | none => { c with locks := tdel k c.locks }
  | none => c

/-- The first free slot of the eight. -/
def Cohort.freeRef (c : Cohort) : Nat :=
  ((List.range 8).find? (fun k => !(c.locks.any (fun e => e.1 = k)))).getD 8

/-- How many lines the cohort holds (09 R161, NLOCK). -/
def Cohort.nlock (c : Cohort) : Nat := (c.locks.filter (fun e => e.2.holds)).length

/-- The next PC of a thread: the next word of the clause, or the next header (07 R129). -/
def nextPc (pc : BitVec 64) (last : Bool) : BitVec 64 :=
  let a := setFld pc 0 52 (fld pc 0 52 + 4)
  setFld a 60 4 (if last then 0 else fld pc 60 4 + 1)

/-- A word retires in the cohort: a non-spinning one returns HANGCNT to zero (02 R40, R41). -/
def Cohort.note (c : Cohort) (spin : Bool) : Cohort := if spin then c else { c with hangcnt := 0, hangrep := false }

/-- Release waiting threads to the word after the one they wait at (02 R21; 07 R134). -/
def Cohort.release (c : Cohort) (ls : Lanes) : Cohort :=
  let w := ls &&& c.waiting
  { (c.note (w = 0)) with
    waiting := c.waiting &&& ~~~w
    last := c.last &&& ~~~w
    pc := (lanesOf w).foldl (fun t l => tmod 0 t l (fun x => nextPc x (c.last.getLsbD l))) c.pc }

/-- Put a 32-bit status into VD of lanes, the rest of VD zero, and release the lanes (21 R325). -/
def State.landStatus (s : State) (tid coh vd : Nat) (lanes : Lanes) (status : Nat) : State :=
  let s := (lanesOf lanes).foldl (fun s l => s.vset tid coh l vd (BitVec.ofNat 128 status)) s
  s.modCoh tid coh (fun c => c.release lanes)

/-- The holding entry of a chain. -/
def LockSt.holder (l : LockSt) : Option ChainEntry := l.chain.find? (·.holds)

/-- Put a status on its way to a cohort. -/
def State.sendGrant (s : State) (g : Grant) : State :=
  let f := s.fresh
  ({ f.1 with grants := tset none f.1.grants f.2 (some g) } : State).mail (if (s.team g.tid).place = .resident then (s.team g.tid).core else 300)
    (s.homeSlice g.line) f.2

/-- A grant (21 R315): the lowest lane of the holding entry's LANES, with status 0, or 2 when the line is BROKEN; the
published image is taken (21 R312). -/
def State.grantHead (s : State) (pa : Nat) : State :=
  let l := s.lock pa
  match l.chain with
  | [] => s
  | e :: es =>
    let lane := lane1 (lowest e.lanes)
    let image := (s.work pa).1
    let s := s.setLock pa { l with chain := { e with lanes := e.lanes &&& ~~~lane, holds := true } :: es,
                                   locked := true, broken := false, image := image }
    let vd := match (s.coh e.tid e.coh).locks.find? (fun r => r.2.line = pa) with
      | some (_, r) => r.vd
      | none => 0
    s.sendGrant { tid := e.tid, coh := e.coh, line := pa, lanes := lane, status := if l.broken then 2 else 0, vd := vd }

/-- The entries after the holder, absent ones moved to the tail until a present one is found (21 R317). -/
def firstPresent : List ChainEntry → List ChainEntry → Option (ChainEntry × List ChainEntry)
  | [], _ => none
  | e :: es, moved => if e.absent then firstPresent es (moved ++ [e]) else some (e, es ++ moved)

/-- A handoff (21 R317). -/
def State.handoff (s : State) (pa : Nat) : State :=
  let l := s.lock pa
  match l.chain with
  | [] => s
  | e :: es =>
    if e.holds && e.lanes != 0 then s.grantHead pa
    else
      let s := if e.holds then s.modCoh e.tid e.coh (fun c => c.modRef pa (fun _ => none)) else s
      let rest := if e.holds then es else e :: es
      match firstPresent rest [] with
      | some (h, t) => (s.setLock pa { l with chain := h :: t }).grantHead pa
      | none => s.setLock pa { l with chain := rest, locked := false, image := 0, broken := l.broken && !rest.isEmpty }

/-- The holder's L1 copy is no lock line any more: it goes (21 R315). -/
def State.dropMark (s : State) (pa : Nat) : State :=
  match (s.lock pa).holder with
  | some e =>
    if (s.core e.core).l1.any (fun x => x.1 = pa && x.2.lock = some (e.tid, e.coh)) then s.l1Drop 0 e.core pa else s
  | none => s

/-- The end of a holder's turn (21 R318): data, image, waiting writes, handoff. It answers the data's tag and the invalidations on their way. -/
def State.unlock (s : State) (vf pa master : Nat) (ws : List WByte) : State × BitVec 16 × List Nat :=
  let s := s.dropMark pa
  let r := if ws.isEmpty then (s, (0 : BitVec 16), []) else
    let x := s.accept vf pa master (if master < 128 then master else 300) 128 0 ws
    let i := x.1.invalidate pa x.2.2
    (i.1, x.2.1, i.2)
  let s := r.1
  let s := s.setLock pa { s.lock pa with image := (s.work pa).1 }
  ((s.applyWaiting pa).handoff pa, r.2.1, r.2.2)

/-- Break a line that a cohort holds, at termination (retire false) or retirement (21 R321, R322): unlock without data,
BROKEN, handoff, and a broken-lock report. -/
def State.breakLine (s : State) (pa tid coh : Nat) (retire : Bool) : State :=
  let l := s.lock pa
  match l.holder with
  | some e =>
    if e.tid = tid && e.coh = coh then
      let es := l.chain.filter (fun x => !x.holds && (x.tid != tid || (retire && x.coh != coh)))
      let s := s.setLock pa { l with chain := { e with lanes := 0 } :: es, broken := true }
      let s := (s.unlock e.vf pa 300 []).1
      s.report e.vf (rec512 [0x06 + e.vf * 2 ^ 8 + e.core * 2 ^ 16 + e.slot * 2 ^ 23 + coh * 2 ^ 28, pa, 0, nbit retire,
        s.timebase.toNat])
    else s
  | none => s

/-- Remove a team's waiting entries from every chain (21 R321). -/
def State.dropWaiters (s : State) (tid : Nat) : State :=
  s.locks.foldl (fun s e =>
    let l := s.lock e.1
    let es := l.chain.filter (fun x => x.holds || x.tid != tid)
    s.setLock e.1 { l with chain := es, broken := l.broken && !(es.isEmpty && !l.locked) }) s

/-- Break every line that a cohort holds, in the order of its lock list; then those whose grant has not landed (21 R321, R322). -/
def State.breakAll (s : State) (tid coh : Nat) (retire : Bool) : State :=
  let listed := (tvals (s.coh tid coh).locks).map (·.line)
  let other := (s.locks.filter (fun l => l.2.mine tid coh && !(listed.contains l.1))).map (·.1)
  let s := (listed ++ other).foldl (fun s l => s.breakLine l tid coh retire) s
  s.modCoh tid coh (fun c => { c with locks := [] })

/-- Mark the chain entries of a team's cohorts absent at its stop (21 R320), or present on its new core. -/
def State.markAbsent (s : State) (tid : Nat) : State :=
  s.locks.foldl (fun s e =>
    let l := s.lock e.1
    s.setLock e.1 { l with chain := l.chain.map (fun x => if x.tid = tid then { x with absent := true } else x) }) s

/-- The restore's marks (21 R320): present, the new core, and a grant at once where the line has no holder. -/
def State.markPresent (s : State) (tid : Nat) : State :=
  let t := s.team tid
  s.locks.foldl (fun s e =>
    let l := s.lock e.1
    if l.chain.any (fun x => x.tid = tid) then
      let l := { l with chain := l.chain.map (fun x =>
        if x.tid = tid then { x with absent := false, core := t.core, slot := t.slot } else x) }
      let s := s.setLock e.1 l
      if l.holder.isNone then
        match firstPresent l.chain [] with
        | some (h, r) => (s.setLock e.1 { l with chain := h :: r }).grantHead e.1
        | none => s
      else s
    else s) s

/-- Whether a lock request for a line is refused (21 R314; 18 R277). -/
def State.lockFull (s : State) (pa : Nat) : Bool :=
  let k := s.sliceSet pa
  let mine := s.locks.filter (fun e => s.homeSlice e.1 = k.1 && !e.2.chain.isEmpty)
  ((s.lock pa).chain.isEmpty && 12 ≤ (mine.filter (fun e => s.sliceSet e.1 = k)).length) ||
    1024 ≤ (mine.foldl (fun n e => n + e.2.chain.length) 0)

end Sys2Proof.Machine
end

