-- ==== Sys2Proof/Machine/Ops.lean ====
section
/-!
DEFINITION. Ops.lean: what every meaning is made of: the issuing group and its registers, retirement of a word, taking a
fault and termination (09 R159 to R165), translation (18 R264 to R267), the runs of a team (10 R174), and the core clock.
-/
namespace Sys2Proof.Machine

abbrev Out := Host.Outcome State Fault Refusal

-- the issuing group -------------------------------------------------------------------------------------------------------

/-- The issuing cohort, its team and its group. -/
def State.me (s : State) : Cohort := s.coh s.cur.tid s.cur.coh
def State.myTeam (s : State) : Team := s.team s.cur.tid
def State.modMe (s : State) (f : Cohort → Cohort) : State := s.modCoh s.cur.tid s.cur.coh f
def State.G (s : State) : Lanes := s.cur.lanes
def State.myCore (s : State) : Core := s.core s.myTeam.core

/-- Register s r as the core clock began (02 R38); s63 reads 0 (05 R91). -/
def Cohort.sget (c : Cohort) (r : Nat) : BitVec 64 :=
  if r = 63 then 0
  else match c.pre with
    | some p => tget 0 p.s r
    | none => tget 0 c.s r

def State.sget (s : State) (r : Nat) : BitVec 64 := s.me.sget r

/-- Write register s r; a write of s63 is discarded (05 R91). -/
def Cohort.sset (c : Cohort) (r : Nat) (v : BitVec 64) : Cohort := if r = 63 then c else { c with s := Machine.tset 0 c.s r v }

def State.sset (s : State) (r : Nat) (v : BitVec 64) : State := s.modMe (fun c => c.sset r v)

/-- The lanes whose predicate p r is true; p7 is always true (05 R91). -/
def Cohort.pget (c : Cohort) (r : Nat) : Lanes := if r = 7 then BitVec.allOnes 32 else tget 0 c.p r

/-- Write predicate p r in some lanes; a write of p7 is discarded (03 R56). -/
def Cohort.pset (c : Cohort) (r : Nat) (ls v : Lanes) : Cohort :=
  if r = 7 then c else { c with p := Machine.tset 0 c.p r ((tget 0 c.p r &&& ~~~ls) ||| (v &&& ls)) }

def State.pset (s : State) (r : Nat) (ls v : Lanes) : State := s.modMe (fun c => c.pset r ls v)

/-- ACTIVE(): the threads of the group whose guard is true (03 R52). -/
def State.active (s : State) (g : Nat) : Lanes := s.G &&& s.me.pget g

/-- Register v r of a lane of the issuing cohort. -/
def State.v (s : State) (lane r : Nat) : BitVec 128 := s.vget s.cur.tid s.cur.coh lane r

def State.setV (s : State) (lane r : Nat) (x : BitVec 128) : State := s.vset s.cur.tid s.cur.coh lane r x

/-- Write register v r in each lane of a set, each value from the lane. -/
def State.eachV (s : State) (ls : Lanes) (r : Nat) (f : Nat → BitVec 128) : State :=
  ((lanesOf ls).map (fun l => (l, f l))).foldl (fun s x => s.setV x.1 r x.2) s

/-- Threads go to the next word (03 R47; 07 R129). -/
def State.advance (s : State) (ls : Lanes) : State :=
  s.modMe (fun c => { c with
    pc := (lanesOf ls).foldl (fun t l => tmod 0 t l (fun x => nextPc x (s.cur.idx = s.cur.count))) c.pc })

/-- The word is done: its threads go to the next word. -/
def State.done (s : State) (spin : Bool := false) : State := (s.advance s.G).modMe (fun c => c.note spin)

/-- The word is done in some threads; the others have been parked, or wait. Where no thread is done, nothing retires (02 R40). -/
def State.doneIn (s : State) (ls : Lanes) (spin : Bool := false) : State := (s.advance ls).modMe (fun c => c.note (spin || ls = 0))

/-- Threads enter a hardware wait at their word (02 R21), which retires at the wait's end. -/
def State.suspend (s : State) (ls : Lanes) : State :=
  s.modMe (fun c => { c with
    waiting := c.waiting ||| ls
    last := if s.cur.idx = s.cur.count then c.last ||| ls else c.last &&& ~~~ls })

/-- The threads that can issue: neither waiting, parked nor exited (02 R21). -/
def Cohort.runnable (c : Cohort) : Lanes := ~~~(c.waiting ||| c.parked ||| c.exited)

/-- Whether one more operation may attach to a flag (03 R49). -/
def State.flagFree (s : State) (f : Nat) : Bool := 12 ≤ f || tget 0 s.me.f f < 63

/-- Draw a free value: a value the spec leaves open (log entry 3). -/
def State.draw (s : State) : State × BitVec 64 := ({ s with freeCtr := s.freeCtr + 1 }, Config.freeWord s.freeCtr)

/-- Count n events of a code at a core; `quad` is 4 for an event without one (24 R346). -/
def Core.count (c : Core) (ev quad n : Nat) : Core :=
  { c with perfc := (List.range 16).foldl (fun t i =>
      let x := tget 0 c.perfsel i
      if fld x 0 8 = ev && (quad = 4 || fld x 8 4 = 0 || bit x (8 + quad)) then
        tmod 0 t i (· + BitVec.ofNat 64 n) else t) c.perfc }

def State.count (s : State) (core ev quad n : Nat) : State := s.modCore core (fun c => c.count ev quad n)

-- records and queues (09 R161, R162; 25 R348) -------------------------------------------------------------------------------

/-- What a fault record says beyond who and where (09 R161). -/
structure FaultInfo where
  cause : Nat
  detail : Nat := 0
  pages : List Nat := []
  more : Bool := false
  access : Nat := 0
  lanes : Lanes := 0
  fseq : Nat := 0
deriving DecidableEq, Repr

/-- The class of a cause (09 R159, R161). -/
def faultClass (cause : Nat) : Nat := if cause < 0x10 then 0 else if cause = 0x30 then 2 else 1

/-- The words of a fault record (09 R161). -/
def State.faultWords (s : State) (tid coh : Nat) (pc : BitVec 64) (x : FaultInfo) (term : Bool) : List Nat :=
  let t := s.team tid
  [0x01 + t.vf * 2 ^ 8 + t.core * 2 ^ 16 + t.slot * 2 ^ 23 + coh * 2 ^ 28 + faultClass x.cause * 2 ^ 34 + x.cause * 2 ^ 36 +
      x.pages.length * 2 ^ 44 + nbit x.more * 2 ^ 47 + x.access * 2 ^ 48 + nbit term * 2 ^ 51 +
      (s.coh tid coh).nlock * 2 ^ 52,
    pc.toNat, x.lanes.toNat + x.detail % 65536 * 2 ^ 32 + x.fseq * 2 ^ 48] ++
    (List.range 4).map (fun i => x.pages.getD i 0) ++ [s.timebase.toNat]

/-- Whether a function's fault queue has a place for a record (25 R348). -/
def State.fqRoom (s : State) (vf : Nat) : Bool :=
  let f := s.fn vf
  f.fqlgd != 0 && (f.fqwr - f.fqrd).toNat < 2 ^ f.fqlgd && s.mapped vf (f.fqbase + 64 * (f.fqwr.toNat % 2 ^ f.fqlgd))

/-- Write a record to the fault queue, and signal it. -/
def State.fqPut (s : State) (vf : Nat) (r : BitVec 512) : State :=
  let f := s.fn vf
  ((s.setFn vf { f with fqwr := f.fqwr + 1 }).poke vf (f.fqbase + 64 * (f.fqwr.toNat % 2 ^ f.fqlgd)) (bytesOf 64 r)).signal vf 1

/-- The park-table entries in use of a function (09 R158). -/
def State.parkCount (s : State) (vf : Nat) : Nat := ((tsome s.parks).filter (fun e => e.1 / 65536 = vf)).length

/-- Whether a record can be written now: a place in the queue and, when it parks, in the park table (09 R162). -/
def State.canRecord (s : State) (r : FRec) : Bool := s.fqRoom r.vf && (r.park.isNone || s.parkCount r.vf < 256)

/-- Write a record and make its park-table entry. -/
def State.record (s : State) (r : FRec) : State :=
  let s := s.fqPut r.vf r.data
  match r.park with
  | some p => { s with parks := tset none s.parks (r.vf * 65536 + r.fseq) (some p) }
  | none => s

/-- Send a record: at once, or after those that wait before it; beyond 16 waiting ones, a record of a non-replayable fault
is dropped (09 R162; 25 R348). -/
def State.sendRecord (s : State) (r : FRec) : State :=
  let older := s.frecs.filter (fun x => x.vf = r.vf)
  if s.canRecord r && !(older.any (fun x => s.canRecord x)) then s.record r
  else if r.park.isNone && 16 ≤ (older.filter (fun x => x.park.isNone)).length then
    s.setFn r.vf { s.fn r.vf with fqdrop := min ((s.fn r.vf).fqdrop + 1) (2 ^ 32 - 1) }
  else { s with frecs := s.frecs ++ [r] }

/-- Take the next FSEQ of a function (09 R158). -/
def State.takeFseq (s : State) (vf : Nat) : State × Nat :=
  let n := tget 1 s.fseq vf
  ({ s with fseq := tset 1 s.fseq vf (if n = 0xFFFF then 1 else n + 1) }, n.toNat)

-- termination (09 R165) -------------------------------------------------------------------------------------------------------

/-- Pass over withdrawn commands at a channel's head (log entry 14). -/
def skipGone : List CopyCmd → BitVec 64 → List CopyCmd × BitVec 64
  | [], w => ([], w)
  | x :: xs, w => if x.op = 0 then skipGone xs (w + BitVec.ofNat 64 x.len) else (x :: xs, w)

def Chan.skip (h : Chan) : Chan := { h with queue := (skipGone h.queue h.chwp).1, chwp := (skipGone h.queue h.chwp).2 }

/-- Withdraw copy commands that have delivered nothing: their length stays in their channel as a tombstone, and their ranges
are cleared (11 R201; log entry 14). -/
def Core.withdraw (c : Core) (f : CopyCmd → Bool) : Core :=
  { c with
    chans := c.chans.map (fun e => (e.1, { e.2 with queue := e.2.queue.map (fun x =>
      if f x then { x with op := 0, tid := 0 } else x) }.skip))
    rlocks := c.rlocks.filter (fun e => !((c.chans.any (fun h => h.2.queue.any (fun x => f x && x.op = e.2.op))) &&
      e.2.engine < 8)) }

/-- The end of a cohort's threads by termination. -/
def Cohort.stopped (c : Cohort) : Cohort :=
  { c with waiting := 0, parked := 0, exited := BitVec.allOnes 32, hw := [], polls := [], holds := [], unf := none, pre := none,
           retired := true }

/-- An abort of a section is taken; an earlier one stands (16 R256, R258). -/
def Section.aborted (x : Section) (now : Nat) : Section := if x.abort then x else { x with abort := true, abortAt := now }

/-- What termination does to a pumphouse core: its queued and running launches and sections of the team abort (15 R239;
16 R256); a section that has yet to claim its slices ends. -/
def Pump.abortFor (p : Pump) (tid now : Nat) : Pump :=
  { p with
    queue := p.queue.map (fun l => if l.graph.isNone && l.tid = tid then { l with abort := true } else l)
    mesh := p.mesh.map (fun l => if l.graph.isNone && l.tid = tid then { l with abort := true } else l)
    run := p.run.map (fun r => if r.launch.graph.isNone && r.launch.tid = tid then
      { r with
        launch := { r.launch with abort := true }
        ended := if r.launch.kind = 2 && p.sect.any (fun x => x.phase = 0) then some (r.ended.getD 8) else r.ended } else r)
    sect := if p.run.any (fun r => r.launch.graph.isNone && r.launch.tid = tid && r.launch.kind = 2) then
        p.sect.map (fun x => x.aborted now) else p.sect }

/-- Terminate a team (09 R165): its record goes to the fault queue; its boarding requests, park-table entries, waiting
records, task deque (19 R293), slack (05 R95), locks and sections end; its node fails with TERMINATED (19 R280). TEAM_RELEASE releases its runs. -/
def State.terminate (s : State) (tid : Nat) (r : BitVec 512) : State :=
  let t := s.team tid
  if t.terminated then s
  else
    let s := s.sendRecord { vf := t.vf, data := r }
    let gone := (tsome s.parks).filter (fun e => e.2.tid = tid)
    let dead (x : CopyCmd) : Bool := x.tid = tid && x.wait.isSome
    let s : State := { s with
      parks := gone.foldl (fun p e => tset none p e.1 none) s.parks
      frecs := s.frecs.filter (fun f => !(f.park.any (fun p => p.tid = tid)))
      -- what a queue arbiter has answered one of its words goes with it
      reqs := s.reqs.filter (fun e => !(e.2.any (fun r => r.tid = tid && r.held && !r.slice)))
      pumps := s.pumps.map (fun (e : Nat × Pump) => (e.1, e.2.abortFor tid s.pclk)) }
    let s := (t.cohs.foldl (fun s e => s.breakAll tid e.1 false) s).dropWaiters tid
    let lost := ((s.core t.core).chans.map (fun h => h.2.queue.filter dead)).flatten ++ t.copies
    let s := lost.foldl (fun s x => s.endOp x.op) (s.modCore t.core (fun c => c.withdraw dead))
    let ends := (s.core t.core).boards.filter (fun e => e.2.tid = tid && e.2.state = 1)
    let s := ((ends.map (·.2.op)) ++ (t.boards.map (·.op))).foldl State.endOp s
    let s := s.modCore t.core (fun c => { c with
      rlocks := c.rlocks.filter (fun e => !(ends.any (fun b => 28 + b.1 = e.1)))
      boards := c.boards.map (fun e =>
        (e.1, if e.2.state != 0 && e.2.tid = tid then (if e.2.state = 2 then { e.2 with cancel := true } else {}) else e.2)) })
    let s := s.modTeam tid (fun t => { t with
      terminated := true, boards := [], copies := [], deque := [], slack := [], cohs := t.cohs.map (fun e => (e.1, e.2.stopped)) })
    { s with graphs := s.graphs.map (fun g => (g.1, if g.1 = t.graph then
      { g.2 with nodes := g.2.nodes.map (fun n => (n.1, if n.1 = t.node then { n.2 with failed := true } else n.2)) } else g.2)) }

/-- A team consumes an uncorrectable error at a word (09 R159, R161; 10 R182): the error log gets it, with the first words of the machine
check's record, and the team is terminated. -/
def State.machineCheck (s : State) (tid coh : Nat) (pc : BitVec 64) (lanes : Lanes) (access : Nat) (e : Nat × Nat × Nat) : State :=
  let ws := s.faultWords tid coh pc { cause := 0x30, pages := if e.2.2 = 0 then [] else [e.2.2], access := access, lanes := lanes } true
  (s.logError 0x11 (s.team tid).vf e.1 e.2.1 e.2.2 (ws.take 4)).terminate tid (rec512 ws)

/-- The same for an engine's operation, when it has met one: its team hears of it (10 R182). -/
def State.engineCheck (s : State) (tid coh : Nat) (pc : BitVec 64) (e : Option (Nat × Nat × Nat)) : State :=
  match e with
  | some e => s.machineCheck tid coh pc 0 5 e
  | none => s

-- program faults (09 R164) ----------------------------------------------------------------------------------------------------

/-- The causes whose LANES are every thread of the issuing group (09 R161). -/
def groupCause (c : Nat) : Bool := (0x10 ≤ c && c ≤ 0x13) || c = 0x19 || c = 0x1A || c = 0x1C

/-- Take a program fault of a group that stands at `pc`; `back` is TRAPPC. With a handler, and outside one, the group enters
it (R164); otherwise the team is terminated (R165). -/
def State.programFault (s : State) (tid coh : Nat) (grp : Lanes) (pc back : BitVec 64) (x : FaultInfo) : State :=
  let t := s.team tid
  let c := s.coh tid coh
  let x := if groupCause x.cause then { x with lanes := grp } else x
  let ws := s.faultWords tid coh pc x false
  if t.launch.trapvec = 0 || c.trapstat then s.terminate tid (rec512 (s.faultWords tid coh pc x true))
  else
    s.setCoh tid coh { c with
      s := (List.range 7).foldl (fun r i => tset 0 r (56 + i) (BitVec.ofNat 64 (ws.getD i 0))) c.s
      trappc := back
      trapstat := true
      stkcur := t.launch.privw
      waiting := c.waiting &&& ~~~grp
      last := c.last &&& ~~~grp
      pc := (lanesOf grp).foldl (fun r l => tset 0 r l (BitVec.ofNat 64 (fld t.launch.trapvec 0 52))) c.pc }

/-- The PC of the group's word (07 R129): the lowest lane's DEPTH. -/
def State.herePc (s : State) : BitVec 64 :=
  let p := setFld (0 : BitVec 64) 0 52 s.cur.addr
  setFld (setFld p 60 4 s.cur.idx) 52 8 (fld (tget 0 s.me.pc (lowest s.G)) 52 8)

/-- The issuing group's word ends as FAULT (00 R8; 09 R164). Parked lanes of the word stay parked (21 R324). -/
def State.raise (s : State) (x : FaultInfo) : State :=
  let pc := s.herePc
  let s := if x.cause = 0x15 then s.count s.myTeam.core 0x0A 4 1 else s
  s.programFault s.cur.tid s.cur.coh (s.G &&& ~~~s.me.parked) pc pc x

/-- Illegal instruction (09 R161): DETAIL holds the opcode and the class, PAGE0 the word. -/
def State.illegal (s : State) : State :=
  s.raise { cause := 0x10, detail := s.cur.word / 2 ^ 24 + s.cur.cls * 256, pages := [s.cur.word] }

/-- Register range (09 R161): DETAIL is the first register number that fails. -/
def State.badReg (s : State) (r : Nat) : State := s.raise { cause := 0x12, detail := r }

-- parking (09 R160, R162) -------------------------------------------------------------------------------------------------------

/-- A lane that failed translation: its cause, the address whose part failed, and the walker's refusal, if any. -/
structure BadLane where
  lane : Nat
  cause : Nat
  addr : Nat
  report : Option Refused := none
deriving DecidableEq, Repr

/-- The first addresses on distinct 64 KiB pages, in order. -/
def distinctPages : List Nat → List Nat → List Nat
  | [], acc => acc.reverse
  | a :: as, acc => if acc.any (fun b => b / 65536 = a / 65536) then distinctPages as acc else distinctPages as (a :: acc)

/-- The walks that have found no leaf for some lanes, each one miss of the translation cache (24 R346); one that is refused makes one report, however
many lanes wait for it (18 R270). -/
def State.badWalks (s : State) (core vf : Nat) (bads : List BadLane) : State :=
  let walked := bads.filter (fun b => !((s.core core).tlb.any (fun t => t.vf = vf && t.va = b.addr / 2 ^ t.lg)))
  let s := s.count core 0x09 4 (distinctPages (walked.map (·.addr)) []).length
  (bads.foldl (fun (acc : List (Nat × Refused)) b => match b.report with
    | some r => if acc.any (fun x => x = (b.addr / 65536, r)) then acc else acc ++ [(b.addr / 65536, r)]
    | none => acc) []).foldl (fun s x => s.refuseAt vf (0x116 + dieOf core) 5 x.2) s

/-- Park lanes at their word and send their records, one for each cause (09 R162). -/
def State.park (s : State) (bads : List BadLane) (size access : Nat) : State :=
  let tid := s.cur.tid
  let coh := s.cur.coh
  let vf := (s.team tid).vf
  let pc := s.herePc
  let ls := lanesFrom (bads.map (·.lane))
  let s := s.modMe (fun c => { c with
    parked := c.parked ||| ls, last := if s.cur.idx = s.cur.count then c.last ||| ls else c.last &&& ~~~ls })
  let s := s.badWalks (s.team tid).core vf bads
  [0x01, 0x02].foldl (fun s cause =>
    let bs := bads.filter (fun b => b.cause = cause)
    if bs.isEmpty then s
    else
      let pgs := distinctPages (bs.map (·.addr)) []
      let f := s.takeFseq vf
      let lanes := lanesFrom (bs.map (·.lane))
      let x : FaultInfo := { cause := cause, detail := size, pages := pgs.take 4, more := 4 < pgs.length, access := access,
                             lanes := lanes, fseq := f.2 }
      f.1.sendRecord { vf := vf, data := rec512 (f.1.faultWords tid coh pc x false), fseq := f.2,
                       park := some { tid := tid, coh := coh, lanes := lanes } }) s

-- translation (18 R264 to R267) -------------------------------------------------------------------------------------------------

/-- The end of a walk: a leaf, a page fault of cause 0x01 or 0x02 with the refusal that made it, or a table's line that it has to wait for: one that
a section holds (16 R249), or that has yet to be read from its channel (15 R238). -/
inductive Walked where
  | leaf (t : Tlb)
  | bad (cause : Nat) (report : Option Refused)
  | need (line : Nat)
deriving DecidableEq, Repr

/-- The lower bits of the levels' indexes and the number of index bits, level 1 first; with the alignment of the next
table, as a count of bits (18 R264). -/
def walkLevels : List (Nat × Nat × Nat) := [(36, 16, 9), (30, 6, 12), (21, 9, 8), (16, 5, 0)]

/-- The walk of 18 R266 from table t, at the levels that remain, without the check of rights. -/
def State.walkFrom (s : State) (vf va master : Nat) : List (Nat × Nat × Nat) → Nat → Walked
  | [], _ => .bad 0x01 none
  | (lo, n, al) :: rest, t =>
    let a := t + 8 * (va / 2 ^ lo % 2 ^ n)
    if (s.home (lineAt a)).isNone then .bad 0x01 none
    else
      match s.readRefusal vf a master with
      | some r => .bad 0x01 (some r)
      | none =>
        let e : BitVec 64 := BitVec.ofNat 64 (s.peekN a 8)
        if s.heldWindow (lineAt a) 128 || !(s.isHere (lineAt a)) then .need (lineAt a)
        else if !(bit e 0) || fld e 52 12 != 0 then .bad 0x01 none
        else if bit e 1 then
          if fld e 5 2 = 3 || fld e 8 8 != 0 || fld e 16 (lo - 16) != 0 then .bad 0x01 none
          else if bit e 7 then .bad 0x02 none
          else
            let base := fld e lo (52 - lo) * 2 ^ lo
            if s.mapped vf (base + va % 2 ^ lo) then
              .leaf ⟨vf, va / 2 ^ lo, lo, base, fld e 5 2, bit e 2, bit e 3, bit e 4, lineAt a⟩
            else .bad 0x01 none
        else if rest.isEmpty || fld e 2 6 != 0 || fld e 0 al / 256 != 0 then .bad 0x01 none
        else s.walkFrom vf va master rest (fld e 8 44 * 256)

/-- The walk of a function's address by a master: a TROOT of 0 faults (18 R266). -/
def State.walk (s : State) (vf va master : Nat) : Walked :=
  let root := (tget 0 s.troot vf).toNat
  if root = 0 then .bad 0x01 none else s.walkFrom vf va master walkLevels root

/-- Rights: 1 PR, 2 PW, 4 PX (18 R367). -/
def Tlb.allows (t : Tlb) (need : Nat) : Bool :=
  (need % 2 = 0 || t.pr) && (need / 2 % 2 = 0 || t.pw) && (need / 4 % 2 = 0 || t.px)

/-- The physical address that a leaf gives an address. -/
def Tlb.place (t : Tlb) (va : Nat) : Nat := t.pa + va % 2 ^ t.lg

/-- A translation at a core: done, waiting for a walk, or a fault. -/
inductive Trans where
  | ok (pa kind line : Nat)
  | miss
  | bad (cause : Nat) (report : Option Refused)
deriving DecidableEq, Repr

/-- Translate an address at a core, through its translation cache (18 R266, R267). A miss whose walk would find a leaf waits
for it; one whose walk faults, faults now. -/
def State.translate (s : State) (core vf va need : Nat) : Trans :=
  match (s.core core).tlb.find? (fun t => t.vf = vf && t.va = va / 2 ^ t.lg) with
  | some t => if t.allows need then .ok (t.place va) t.kind t.line else .bad 0x01 none
  | none =>
    match s.walk vf va (0x116 + dieOf core) with
    | .leaf t => if t.allows need then .miss else .bad 0x01 none
    | .bad c r => .bad c r
    | .need _ => .miss

/-- Translate for an engine, without a translation cache: the physical address and kind, or the fault. -/
def State.transNow (s : State) (vf va need master : Nat) : Except Nat (Nat × Nat) :=
  match s.walk vf va master with
  | .leaf t => if t.allows need then .ok (t.place va, t.kind) else .error 0x01
  | .bad c _ => .error c
  | .need _ => .error 0x01

/-- The same for a unit of the module, which reports a refused walk (18 R266, R270): the physical address and kind. -/
def State.transFor (s : State) (vf va need master : Nat) : State × Option (Nat × Nat) :=
  match s.walk vf va master with
  | .leaf t => (s, if t.allows need then some (t.place va, t.kind) else none)
  | .bad _ (some r) => (s.refuseAt vf master 5 r, none)
  | .bad _ none => (s, none)
  | .need l => (s.missAt vf l master, none)

/-- Start the walk of a miss, or join one in flight (18 R267). -/
def State.startWalk (s : State) (core vf page : Nat) : State :=
  let die := dieOf core
  match (tsome s.walks).find? (fun w => w.2.die = die && w.2.vf = vf && w.2.page = page) with
  | some (k, w) =>
    if w.cores.contains core then s
    else
      let s := s.count core 0x09 4 1
      { s with walks := tset none s.walks k (some { w with cores := core :: w.cores }) }
  | none =>
    let f := (s.count core 0x09 4 1).fresh
    { f.1 with walks := tset none f.1.walks f.2 (some ⟨die, vf, page, [core]⟩) }

/-- A part of a lane's access: its address, its place in the lane's data, its length, and where it goes. -/
structure Piece where
  va : Nat
  at_ : Nat
  len : Nat
  pa : Nat := 0
  kind : Nat := 0
  line : Nat := 0
deriving DecidableEq, Repr, Inhabited

/-- What became of the parts of the lanes' accesses (09 R160, stage 3). -/
structure Transed where
  misses : List Nat := []
  bads : List BadLane := []
  good : List (Nat × List Piece) := []
deriving DecidableEq, Repr

/-- Translate the parts of one lane: every part is translated before any performs (13 R215). -/
def State.transPieces (s : State) (core vf need : Nat) : List Piece → List Nat × Option (Nat × Nat × Option Refused) × List Piece
  | [] => ([], none, [])
  | p :: ps =>
    let r := s.transPieces core vf need ps
    match s.translate core vf p.va need with
    | .ok pa k l => (r.1, r.2.1, { p with pa := pa, kind := k, line := l } :: r.2.2)
    | .miss => (p.va / 65536 :: r.1, r.2.1, r.2.2)
    | .bad c rep => (r.1, some (c, p.va, rep), r.2.2)

/-- Translate the parts of all lanes. -/
def State.transAll (s : State) (need : Nat) (ls : List (Nat × List Piece)) : Transed :=
  let t := s.myTeam
  ls.foldr (fun x acc =>
    let r := s.transPieces t.core t.vf need x.2
    { misses := r.1 ++ acc.misses
      bads := match r.2.1 with
        | some (c, a, rep) => ⟨x.1, c, a, rep⟩ :: acc.bads
        | none => acc.bads
      good := if r.2.1.isNone then (x.1, r.2.2) :: acc.good else acc.good }) {}

/-- Stage 3 of 09 R160: with a miss the group waits for its walks, and `hold` answers what else it waits for; otherwise the lanes
that fault park (`all`: every lane of the group parks with the one access, 11 R191), and the rest perform by `k`, which gets
the lanes' translated parts. -/
def State.translated (s : State) (need access size : Nat) (ls : List (Nat × List Piece))
    (k : State → List (Nat × List Piece) → State) (hold : List (Nat × List Piece) → Option State := fun _ => none)
    (all : Bool := false) : State :=
  let r := s.transAll need ls
  if !r.misses.isEmpty then
    (dedup r.misses).foldl (fun s p => s.startWalk s.myTeam.core s.myTeam.vf p) s
  else if let some t := hold r.good then t
  else
    let bads := if all then (r.bads.map (fun b => (lanesOf s.G).map (fun l => { b with lane := l }))).flatten else r.bads
    k (if bads.isEmpty then s else s.park bads size access) r.good

-- the runs of a team (10 R174) ----------------------------------------------------------------------------------------------------

/-- Where byte i of a team's scratchpad run stands in its core's SRAM. -/
def Team.scrKey (t : Team) (i : Nat) : Nat :=
  524288 * t.scrBanks.getD ((t.scrOff + i) / 524288) 0 + (t.scrOff + i) % 524288

/-- Bytes of a team's run: space 2 scratchpad, space 3 operand buffer. -/
def State.runRead (s : State) (t : Team) (space i n : Nat) : List Byte :=
  let c := s.core t.core
  (List.range n).map (fun k => if space = 3 then tget 0 c.opbuf (t.opOff + i + k) else tget 0 c.sram (t.scrKey (i + k)))

/-- The SRAM word that holds byte i of a team's run. -/
def Team.runWord (t : Team) (space i : Nat) : Nat := if space = 3 then opWord (t.opOff + i) else t.scrKey i / 8

/-- An uncorrectable error in bytes of a team's run as they are read, with its address in the run's space; corrected ones are logged (10 R182). -/
def State.senseRun (s : State) (t : Team) (space i n : Nat) : State × Option (Nat × Nat × Nat) :=
  if s.upsets.isEmpty then (s, none)
  else
    (dedup ((List.range n).map (fun k => t.runWord space (i + k)))).foldl (fun r w =>
      let e := r.1.sense t.vf 0 t.core w (space * 2 ^ 60 + i + ((List.range n).find? (fun k => t.runWord space (i + k) = w)).getD 0)
      (e.1, r.2.orElse (fun _ => e.2))) (s, none)

/-- The places of a core's SRAM from lo on, n of them, at which a bit is wrong. -/
def State.wrongIn (s : State) (core lo n : Nat) : List Nat :=
  (s.upsets.map (fun e => e.1)).filterMap (fun k =>
    let p := k / 8 % 2 ^ 56
    if k % 8 = 0 && k / 8 / 2 ^ 56 = core && lo ≤ p && p < lo + n then some p else none)

/-- The same for SRAM places of a core outside the runs, whose address no rule gives. -/
def State.sensePlaces (s : State) (vf core lo n : Nat) : State × Option (Nat × Nat × Nat) :=
  (s.wrongIn core lo n).foldl (fun r w =>
    let e := r.1.sense vf 0 core w 0
    (e.1, r.2.orElse (fun _ => e.2))) (s, none)

/-- SRAM places of a core are written whole. -/
def State.mendPlaces (s : State) (core lo n : Nat) : State :=
  { s with upsets := s.upsets.filter (fun e => !((s.wrongIn core lo n).any (fun p => upKey 0 core p = e.1))) }

/-- The four SRAM places of a deque's task, by how many were pushed before it, and those of a weight plane (0 shadow, 1 active), its scales from 2^16
on: which of a core's SRAM words hold them no rule says (log entry 34). -/
def taskPlace (tid n : Nat) : Nat := 2 ^ 55 + (tid * 65536 + n % 65536) * 4

def planePlace (k : Nat) : Nat := 2 ^ 54 + k * 2 ^ 17

/-- What the reader of n tasks of a deque from the i-th on meets (10 R182). -/
def State.senseTasks (s : State) (t : Team) (tid i n : Nat) (vf : Nat) : State × Option (Nat × Nat × Nat) :=
  (List.range n).foldl (fun r j =>
    let e := r.1.sensePlaces vf t.core (taskPlace tid (t.taken + i + j)) 4
    (e.1, r.2.orElse (fun _ => e.2))) (s, none)

/-- Tasks are pushed to a deque, each written whole. -/
def State.pushTasks (s : State) (tid : Nat) (ts : List (BitVec 256)) : State :=
  let t := s.team tid
  ((List.range ts.length).foldl (fun s j => s.mendPlaces t.core (taskPlace tid (t.taken + t.deque.length + j)) 4) s).modTeam tid
    (fun t => { t with deque := t.deque ++ ts })

/-- Write bytes of a team's run, each under its mask. A word that is written whole holds what is written (10 R182). -/
def State.runWrite (s : State) (t : Team) (space : Nat) (ws : List WByte) : State :=
  let full := (ws.filter (fun w => w.mask = 255)).map (fun w => t.runWord space w.addr)
  let mended := s.upsets.filter (fun e => !(full.any (fun w => upKey 0 t.core w = e.1 && 8 ≤ (full.filter (· = w)).length)))
  ({ s with upsets := mended } : State).modCore t.core (fun c => ws.foldl (fun c w =>
    if space = 3 then { c with opbuf := tmod 0 c.opbuf (t.opOff + w.addr) (fun b => mergeByte b w.data w.mask) }
    else { c with sram := tmod 0 c.sram (t.scrKey w.addr) (fun b => mergeByte b w.data w.mask) }) c)

/-- T_i of a launch (02 R28). -/
def Launch.unit (l : Launch) (i : Nat) : Nat := ((l.levels.take i).map (fun d => fld d 0 32)).foldl (· * ·) 1

/-- The teams of one gang unit (02 R35): the outermost level bound to core, strip or die; 1 without one. -/
def Launch.gang (l : Launch) : Nat :=
  match ((List.range l.nlev).filter (fun i => 3 ≤ fld (l.levels.getD i 0) 32 3 && fld (l.levels.getD i 0) 32 3 ≤ 5)).getLast? with
  | some i => max 1 (l.unit i / (32 * l.n))
  | none => 1

/-- The team that a remote-scratch rank names (10 R173): of the same launch and gang unit, on the ranked core; of several,
the issuing team itself, else the lowest-numbered (log entry 15). -/
def State.remoteTeam (s : State) (tid rank : Nat) : Option Nat :=
  let t := s.team tid
  match (s.polder t.polder).cores[rank]? with
  | none => none
  | some core =>
    let same := s.teams.filter (fun e => e.2.place = .resident && e.2.core = core && e.2.graph = t.graph && e.2.node = t.node &&
      e.2.number / t.launch.gang = t.number / t.launch.gang)
    if same.any (fun e => e.1 = tid) then some tid
    else (sortBy (fun a b => a.1 ≤ b.1) (same.map (fun e => (e.2.number, e.1)))).head?.map (·.2)

/-- The range-lock entry that an access hits (13 R217; 18 R276). -/
def Core.rangeHit (c : Core) (space vf lo n : Nat) (wr : Bool) : Option Nat :=
  (c.rlocks.find? (fun e => e.2.valid && e.2.space = space && (space != 0 || e.2.vf = vf) && lo < e.2.fin &&
    e.2.base < lo + n && (wr || e.2.kind != 0))).map (·.1)

/-- A team's deque becomes q, `front` of its oldest tasks having gone; what a draining FIFO bank held of it has gone with them (11 R205). -/
def State.setDeque (s : State) (tid : Nat) (q : List (BitVec 256)) (front : Nat := 0) : State :=
  (s.modTeam tid (fun t => { t with deque := q, taken := t.taken + front })).modCore (s.team tid).core (fun c => { c with drains := c.drains.map (fun d =>
    { d with tasks := d.tasks.map (fun e => if e.1 = tid then (tid, min (e.2 - front) q.length) else e) }) })

/-- A pre-emption of a team is asked for in a core clock (09 R167). -/
def Team.ask (t : Team) (a : Asker) (clk : Nat) : Team := { t with asks := t.asks ++ [a], askClk := clk }

-- the core clock ---------------------------------------------------------------------------------------------------------------

/-- A chain entry's timeout counts down while the entry is present (21 R319). -/
def ChainEntry.tick (e : ChainEntry) : ChainEntry :=
  if e.absent || e.tleft = 0 then e
  else if e.tleft = 1 then { e with sub := min 256 (e.sub + 1) }
  else if e.sub + 1 = 256 then { e with tleft := e.tleft - 1, sub := 0 }
  else { e with sub := e.sub + 1 }

/-- A resident cohort's counters in one core clock (02 R40; 21 R312; 09 R169); its pre-clock values go. The clock in which a
non-spinning word retires counts too, so that HANGCNT reads 1 after it (log entry 40). -/
def Cohort.tick (c : Cohort) : Cohort :=
  { c with
    pre := none
    hangcnt := if c.retired || c.runnable = 0 || c.hangcnt.toNat = 2 ^ 48 - 1 then c.hangcnt else c.hangcnt + 1
    lockwait := if c.locks.any (fun r => r.2.wait != 0) then c.lockwait + 1 else c.lockwait
    hw := c.hw.map (fun e => (e.1, if 1 < e.2.remain then { e.2 with remain := e.2.remain - 1 } else e.2)) }

/-- The barrier's timeout in one core clock (07 R138). -/
def Barrier.tick (b : Barrier) : Barrier := if b.bounded && 1 < b.remain then { b with remain := b.remain - 1 } else b

/-- Signatures enter a convergence register (08 R147 to R149): CNT saturates, SIGc wraps
at 16 bits, which is the model's choice (log entry 45). -/
def signed (k : BitVec 1024) (coh n : Nat) : BitVec 1024 :=
  setFld (setFld k 16 11 (min 2047 (fld k 16 11 + n))) (512 + 16 * coh) 16 (fld k (512 + 16 * coh) 16 + n)

/-- The signatures of a core clock take effect at its end (08 R149). -/
def Team.applySigs (t : Team) : Team :=
  { t with ksigs := [], k := t.ksigs.foldl (fun r x => tset 0 r x.1 (signed (tget 0 r x.1) x.2.1 x.2.2)) t.k }

/-- A new core clock begins. -/
def State.tick (s : State) : State :=
  let s := s.flushLate
  { s with
    clk := s.clk + 1
    cores := s.cores.map (fun e => (e.1, { e.2 with perfPre := e.2.perfc }))
    teams := s.teams.map (fun e => (e.1, if e.2.place = .resident then
      { e.2.applySigs with cohs := e.2.cohs.map (fun x => (x.1, x.2.tick)), bar := e.2.bar.tick } else e.2))
    locks := s.locks.map (fun e => (e.1, { e.2 with chain := e.2.chain.map ChainEntry.tick })) }

/-- The values of cohort-scope state as the core clock began, taken at its first issue (02 R38). -/
def Cohort.snap (c : Cohort) : Cohort :=
  if c.pre.isSome then c
  else { c with pre := some {
    s := c.s, m := c.m, f := c.f, fpflags := c.fpflags, valloc := c.valloc, mvratio := c.mvratio, hangctl := c.hangctl,
    hangcnt := c.hangcnt, lockwait := c.lockwait, trappc := c.trappc, trapstat := c.trapstat, stkcur := c.stkcur } }

end Sys2Proof.Machine
end

