-- ==== Sys2Proof/Machine/Interlock.lean ====
section
/-!
DEFINITION. Interlock.lean: what a word reads and an alu word writes, as 06 R104 interlocks it, and when a port's unit takes a word
(02 R36). Registers are named as in `Pending`: v r is r, s r is 64 + r, p r is 128 + r.
-/
namespace Sys2Proof.Machine

/-- The core clocks from an alu word's issue to the landing of its result (06 R104). -/
def aluLatency (w : Nat) : Nat :=
  let op := w / 2 ^ 24
  if 0xC8 ≤ op && op ≤ 0xCD then 10
  else if (0xC0 ≤ op && op ≤ 0xCE) || op = 0x59 || op = 0x5A then 6
  else if 0x80 ≤ op && op ≤ 0x83 then 8
  else if (0x0C ≤ op && op ≤ 0x17) || (0x60 ≤ op && op ≤ 0xBF) || (op = 0xE0 && 2 ≤ w % 64 && w % 64 ≤ 4) then 4
  else 2

/-- The unit of a port that takes such words less often than every clock, and its interval: 0 the estimates, 1 the reductions (06 R104). -/
def aluUnit (w : Nat) : Option (Nat × Nat) :=
  let op := w / 2 ^ 24
  if 0x80 ≤ op && op ≤ 0x83 then some (0, 4) else if 0xC8 ≤ op && op ≤ 0xCD then some (1, 2) else none

/-- Whether a word writes under its guard only: all but `sel` and the unguarded formats (03 R51, R52). -/
def aluGuarded (w : Nat) : Bool := let op := w / 2 ^ 24; op != 0x4F && op < 0xD0

/-- The register that an alu word writes (03 R51, R65); none where the write is discarded (05 R91). -/
def aluWrite (w : Nat) : Option Nat :=
  let op := w / 2 ^ 24
  let d := w / 2 ^ 18 % 64
  let b := w / 2 ^ 6 % 64
  let sr (r : Nat) : Option Nat := if r = 63 then none else some (64 + r)
  if 0x50 ≤ op && op ≤ 0x57 then (if d / 8 = 7 then none else some (128 + d / 8))
  else if op = 0x5A || op = 0xC4 || (0xC8 ≤ op && op ≤ 0xCD) then sr b
  else if 0xE0 ≤ op then sr d
  else some d

/-- The registers that an alu word reads: of its group's lanes, and, by a cross-lane word, of every lane (03 R51, R65, R66; 06 R105). -/
def aluReads (w : Nat) : List Nat × List Nat :=
  let op := w / 2 ^ 24
  let d := w / 2 ^ 18 % 64
  let a := w / 2 ^ 12 % 64
  let b := w / 2 ^ 6 % 64
  let g := 128 + w % 8
  let one := (0x48 ≤ op && op ≤ 0x4A) || op = 0x58 || 0x78 ≤ op && op ≤ 0xBF
  if op = 0x57 then ([g, 128 + a % 8] ++ (if 4 ≤ d % 8 then [] else [128 + b % 8]), [])
  else if op = 0x59 then ([g, 64 + b], [])
  else if op = 0xC0 then ([g, b], [a])
  else if (0xC1 ≤ op && op ≤ 0xC3) || op = 0xCE then ([g, 64 + b], [a])
  else if op = 0xC4 then ([g], [128 + a % 8])
  else if op = 0x5A || (0xC8 ≤ op && op ≤ 0xCD) then ([g], [a])
  else if op = 0xE0 then ([64 + a, 64 + b], [])
  else if 0xE1 ≤ op then ([64 + a], [])
  else if op = 0xDF then ([], [])
  else if 0xD0 ≤ op then ((if 0xD3 ≤ op && op ≤ 0xD5 then [d, a] else [a]), [])
  else if one then ([g, a], [])
  else if op = 0x4D || (0x6C ≤ op && op ≤ 0x6E) then ([g, d, a, b], [])
  else ([g, a, b], [])

/-- The registers that a word of another class reads (03 R51, R54, R68 to R73); `q` and `r` are the argument and result registers of the
recursion words (23 R330). -/
def wordReads (cls w q r : Nat) : List Nat :=
  let op := w / 2 ^ 24
  let d := w / 2 ^ 18 % 64
  let a := w / 2 ^ 12 % 64
  let b := w / 2 ^ 6 % 64
  let g := 128 + w % 8
  let pol := 64 + 56 + w / 2 ^ 9 % 8
  if cls = 1 then
    if op = 0x40 then [g]
    else if op = 0x48 || op = 0x49 then [64 + d, 64 + a, 64 + b]
    else if 0x4A ≤ op then [64 + a]
    else if op = 0x10 then [64 + a, pol]
    else if op = 0x11 then [64 + d, 64 + a, pol]
    else if 0x41 ≤ op then [g, a, pol]
    else if op ≤ 0x07 || (0x12 ≤ op && op ≤ 0x14) then [g, a, pol]
    else [g, d, a, pol]
  else if cls = 3 then
    if op = 0x05 || op = 0x06 then [g, a] else if op ≤ 0x04 || (0x10 ≤ op && op ≤ 0x13) then [g] else []
  else if cls = 4 then
    if op = 0x01 || op = 0x08 || op = 0x09 then [64 + a, 64 + b]
    else if op = 0x02 then [g, d, 64 + b]
    else if op = 0x03 then [g, 64 + b]
    else if op = 0x10 then [g, d, d + 1]
    else if op = 0x18 then [g, a, 64 + b]
    else if op = 0x19 then [g, a]
    else if op = 0x1A then (if w / 8 % 8 = 0 then [g, a] else [g, a, d])
    else if op = 0x1B then (if w / 8 % 2 = 0 then [g, a] else [g, 64 + b])
    else if op = 0x20 then [a, 64 + b]
    else if op = 0x21 then g :: (List.range q).map (d + ·)
    else if op = 0x22 then (List.range r).map (d + ·)
    else [g]
  else if cls = 5 then (if op = 0x01 || op = 0x08 || op = 0x0A then [64 + a, 64 + b] else [64 + a])
  else if cls = 6 && op = 0x02 then [64 + d]
  else []

/-- Whether a register of some lanes has a write under way that an earlier clock issued (06 R104): of the words of one clock each reads what
stood before it (02 R38). -/
def Cohort.inFlight (c : Cohort) (clk reg : Nat) (lanes : Lanes) : Bool :=
  c.pend.any (fun e => e.reg = reg && e.since < clk && clk < e.until_ && (64 ≤ reg && reg < 128 || e.lanes &&& lanes != 0))

/-- Whether a word waits at issue for an operand of its group, or its port's unit for its interval to pass (02 R36; 06 R104). -/
def State.interlocked (s : State) (port tid coh : Nat) (g : Lanes) (cls w : Nat) : Bool :=
  let c := s.coh tid coh
  if cls = 0 then
    let r := aluReads w
    r.1.any (fun x => c.inFlight s.clk x g) || r.2.any (fun x => c.inFlight s.clk x (BitVec.allOnes 32)) ||
      (match aluUnit w with
       | some u => s.clk < tget 0 (s.core (s.team tid).core).units ((c.quad * 2 + port) * 2 + u.1)
       | none => false)
  else
    let o := (c.unf.map (·.obj)).getD {}
    (wordReads cls w o.argq o.resq).any (fun x => c.inFlight s.clk x g)

/-- An alu word of a group has issued on a port in this clock: its write is under way, and its unit busy (06 R104). `guard` are the lanes in
which the word's predicate is true. -/
def State.noteAlu (s : State) (port tid coh : Nat) (g guard : Lanes) (w : Nat) : State :=
  let ls := if aluGuarded w then g &&& guard else g
  let s := match aluUnit w with
    | some u => s.modCore (s.team tid).core (fun k =>
        { k with units := tset 0 k.units (((s.coh tid coh).quad * 2 + port) * 2 + u.1) (s.clk + u.2) })
    | none => s
  s.modCoh tid coh (fun c =>
    let old := c.pend.filter (fun e => s.clk < e.until_)
    match aluWrite w with
    | some r => { c with pend := if ls = 0 then old else old ++ [⟨r, ls, s.clk, s.clk + aluLatency w⟩] }
    | none => { c with pend := old })

end Sys2Proof.Machine
end

