-- ==== Sys2Proof/Machine/Fetch.lean ====
section
/-!
DEFINITION. Fetch.lean: which words a group executes (02 R22, R36; 03 R46, R47, R58, R59; 07 R129): fetching, the clause's
header, and decoding.
-/
namespace Sys2Proof.Machine

/-- What a fetch gives: the word, or a group that waits for a walk or has parked. -/
inductive Fetched where
  | word (w : Nat) (s : State)
  | none (s : State)

/-- Fetch a word of the issuing group: the word the cohort's quad holds, else memory's, with PX (03 R58, R59; 18 R367). A fetched word is held
until `fencei` (log entry 5). A word with an uncorrectable error ends the team (10 R182). -/
def State.fetch (s : State) (a : Nat) : Fetched :=
  let t := s.myTeam
  match s.me.words.find? (fun e => e.1 = a) with
  | some (_, w) => .word w.toNat s
  | none =>
    match s.translate t.core t.vf a 4 with
    | .ok pa _ _ =>
      if let some t := s.awaits t.vf pa t.core then .none t
      else
        let r := s.readLine t.vf (lineAt pa) t.core s.cur.tid s.cur.coh
        match r.2.2 with
        | some e => .none (r.1.machineCheck s.cur.tid s.cur.coh s.herePc s.G 3 e)
        | none =>
          let w : BitVec 32 := BitVec.ofNat 32 (ofLeBytes (lineBytes r.2.1 (pa % 128) 4))
          .word w.toNat (r.1.modMe (fun c => { c with words := tins a w (tdel a c.words) }))
    | .miss => .none (s.startWalk t.core t.vf (a / 65536))
    | .bad c rep => .none (s.park ((lanesOf s.G).map (fun l => ⟨l, c, a, rep⟩)) 4 3)

/-- Illegal clause at the header (03 R46): PAGE0 is the header word. -/
def State.badClause (s : State) (h w : Nat) : State :=
  { s with cur := { s.cur with addr := h, idx := 0 } }.raise { cause := 0x11, pages := [w] }

/-- What an issue comes to: the instruction that the group executes, with the state it executes in; or an end without one. -/
inductive Issue where
  | run (i : Instr) (s : State)
  | done (s : State)

/-- The group of a lane: the runnable threads that share its ADDR and IDX (02 R22). -/
def Cohort.group (c : Cohort) (lane : Nat) : Lanes :=
  let p := tget 0 c.pc lane
  lanesBy (fun l => c.runnable.getLsbD l && fld (tget 0 c.pc l) 0 52 = fld p 0 52 && fld (tget 0 c.pc l) 60 4 = fld p 60 4)

/-- Whether a group holds one of its quad's 24 instruction-buffer entries (02 R37): every cohort's oldest group does, and the
rest go to further groups in the order of their creation. -/
def State.hasEntry (s : State) (tid coh : Nat) (g : Lanes) : Bool :=
  let q := (s.coh tid coh).quad
  let mine := (s.core (s.team tid).core).groups.filter (fun e => (s.coh e.1 e.2.1).quad = q)
  let isFirst (e : Nat × Nat × Lanes) : Bool := (mine.find? (fun x => x.1 = e.1 && x.2.1 = e.2.1)) = some e
  let firsts := (mine.filter isFirst).length
  isFirst (tid, coh, g) || ((mine.filter (fun e => !(isFirst e))).take (24 - firsts)).contains (tid, coh, g)

/-- The group that a core's grouping stage offers next (02 R36): its quad, team, cohort and lanes. -/
def State.offer (s : State) (core : Nat) : Option (Nat × Nat × Nat × Lanes) := (s.core core).stage.head?

/-- The lanes of the offer, when it is made to the group of a lane of a cohort; no lanes otherwise. -/
def State.offered (s : State) (tid coh lane : Nat) : Lanes :=
  match s.offer (s.team tid).core with
  | some (_, t, c, g) => if t = tid && c = coh && lane < 32 && g.getLsbD lane then g else 0
  | none => 0

/-- Whether a lane's group may issue in this core clock on a port: the grouping stage offers it, as the groups stood when the clock began
(02 R22, R36), the port is its quad's next, and its team has not ended; at a header, no pre-emption is asked (09 R167). -/
def State.mayIssue (s : State) (port tid coh lane : Nat) : Bool :=
  let t := s.team tid
  let c := s.coh tid coh
  t.place = .resident && !t.terminated && s.offered tid coh lane != 0 && s.offered tid coh lane &&& ~~~c.runnable = 0 && port < 2 &&
    port = tget 0 (s.core t.core).ports c.quad && !(!t.asks.isEmpty && fld (tget 0 c.pc lane) 60 4 = 0)

/-- Whether a cohort's role may issue a class (02 R23, R24). -/
def Launch.mayRun (l : Launch) (coh cls : Nat) : Bool :=
  if l.ncopy ≤ coh && coh < l.ncopy + l.nmtx then cls != 1 else cls != 2

/-- The role fault, at the clause's header (02 R25). -/
def State.badRole (s : State) (h e : Nat) : State :=
  { s with cur := { s.cur with addr := h, idx := 0 } }.raise { cause := 0x13, detail := e }

/-- Whether a cohort's threads stand as they did. -/
def Cohort.stands (c d : Cohort) : Bool := c.pc = d.pc && c.waiting = d.waiting && c.parked = d.parked && c.exited = d.exited

/-- The cohort's place in its quad's round-robin order (02 R36): by team slot, then cohort index, the model's choice (log entry 45). -/
def rrPlace (slot coh : Nat) : Nat := slot * 32 + coh

/-- The round-robin pointer moves past a cohort (02 R36; 03 R45). -/
def State.passCohort (s : State) (tid coh : Nat) : State :=
  let t := s.team tid
  s.modCore t.core (fun c => { c with rr := tset 0 c.rr (s.coh tid coh).quad (rrPlace t.slot coh + 1) })

/-- The admission holds of a group end when it is past its next word (11 R204). -/
def Core.dropHolds (c : Core) (tid coh : Nat) (g : Lanes) (pc : BitVec 64) : Core :=
  { c with chans := c.chans.map (fun e => (e.1,
      match e.2.hold with
      | some (t, h, l, p) =>
        if t = tid && h = coh && g.getLsbD l && (fld p 0 52 != fld pc 0 52 || fld p 60 4 != fld pc 60 4) then
          { e.2 with hold := none } else e.2
      | none => e.2)) }

/-- The word that the group of a lane executes. The class, SETA and SETB are those of its clause's header, which a group that goes on
inside a clause checks too, with the role check of 02 R25 (03 R46; 07 R129). YLD moves the pointer when the clause's last word issues; a
group that leaves the clause earlier does not move it (03 R45; log entry 40). On either port the pointer moves past the word's own cohort, though that
cohort may not have had port 0 (02 R39; log entry 45). A word whose operands are not free of interlock, or whose unit is busy, does not issue (02
R36; 06 R104). -/
def State.issue (s : State) (port tid coh lane : Nat) : Issue :=
  if !(s.mayIssue port tid coh lane) then .done s
  else
    let g := s.offered tid coh lane
    let pc := tget 0 (s.coh tid coh).pc lane
    let addr := fld pc 0 52
    let idx := fld pc 60 4
    let h := (addr + 2 ^ 52 - 4 * idx) % 2 ^ 52
    let s := s.modCoh tid coh (fun c =>
      { c.snap with pre := c.snap.pre.map (fun p => { p with lanes := p.lanes ||| g }) })
    let s := s.modCore (s.team tid).core (fun c => c.dropHolds tid coh g pc)
    let s := { s with cur := { tid := tid, coh := coh, lanes := g, addr := addr, idx := idx, port := port } }
    let s := if port = 0 then s.passCohort tid coh else s
    if addr % 4 != 0 then
      .done (s.draw.1.badClause h (fld s.draw.2 0 32))
    else
      match s.fetch h with
      | .none s => .done s
      | .word hw s =>
        match decode 7 hw with
        | .ok (.clauseHeader y b a w e c) =>
          if idx = 0 then
            .run (.clauseHeader y b a w e c) { s with cur := { s.cur with count := c, cls := e, seta := a, setb := b, word := hw } }
          else if !(s.myTeam.launch.mayRun coh e) then .done (s.badRole h e)
          else if c < idx then .done (s.badClause h hw)
          else
            match s.fetch addr with
            | .none s => .done s
            | .word x s =>
              let s := { s with cur := { s.cur with
                count := c, cls := e, seta := a, setb := b, word := x, yld := y = 1 && idx = c } }
              match decode e x with
              | .ok i =>
                if s.interlocked port tid coh g e x then .done s
                else .run i (if s.cur.yld then s.passCohort tid coh else s)
              | .error _ => .done s.illegal
        | _ => .done (s.badClause h hw)

end Sys2Proof.Machine
end

