-- ==== Sys2Proof/Machine/Operands.lean ====
section
/-!
DEFINITION. Operands.lean: the register checks of 03 R57 and the operand forms of the alu formats (03 R51; 06 R103, R105).
-/
namespace Sys2Proof.Machine

/-- VALLOC as the core clock began: the allocation that an issue is checked against (03 R57; 05 R96). -/
def Cohort.alloc (c : Cohort) : Nat :=
  match c.pre with
  | some p => p.valloc
  | none => c.valloc

/-- A register field as a check: whether its number is legal, and the number (03 R57). Fields are listed from the highest
bit position down, runs from their first register up (09 R161). -/
abbrev RegCheck := Bool × Nat

/-- v register r. -/
def State.vr (s : State) (r : Nat) : RegCheck := (r < 8 * s.me.alloc, r)

/-- A run of n v registers. -/
def State.vrun (s : State) (r n : Nat) : List RegCheck := (List.range n).map (fun i => s.vr (r + i))

/-- m register r. -/
def mr (r : Nat) : RegCheck := (decide (r ≤ 11), r)

/-- a register r: any, in a team that owns the accumulators. -/
def State.ar (s : State) (r : Nat) : RegCheck := (s.myTeam.launch.acc, r)

/-- The register-range check of a word, before any effect (03 R58 order 3). -/
def State.checked (s : State) (rs : List RegCheck) (k : State) : Out :=
  match rs.find? (fun r => !r.1) with
  | some r => .next (s.badReg r.2)
  | none => .next k

/-- The end of a guarded word: spinning when its guard is false everywhere (02 R41). -/
def State.guarded (s : State) (g : Nat) (k : State) (spin : Bool := false) : State := k.done (spin || s.active g = 0)

/-- A3: VD := F(VA, VB) in each active thread. -/
def State.opVV (s : State) (d a b g : Nat) (f : BitVec 128 → BitVec 128 → BitVec 128) : Out :=
  s.checked [s.vr d, s.vr a, s.vr b] (s.guarded g (s.eachV (s.active g) d (fun l => f (s.v l a) (s.v l b))))

/-- A3 with VD as a source too. -/
def State.opVVV (s : State) (d a b g : Nat) (f : BitVec 128 → BitVec 128 → BitVec 128 → BitVec 128) : Out :=
  s.checked [s.vr d, s.vr a, s.vr b] (s.guarded g (s.eachV (s.active g) d (fun l => f (s.v l d) (s.v l a) (s.v l b))))

/-- A3 with VB zero: VD := F(VA). -/
def State.opV (s : State) (d a g : Nat) (f : BitVec 128 → BitVec 128) : Out :=
  s.checked [s.vr d, s.vr a] (s.guarded g (s.eachV (s.active g) d (fun l => f (s.v l a))))

/-- AI: VD := F(VD, VA) in every thread of the group. -/
def State.opI (s : State) (d a : Nat) (f : BitVec 128 → BitVec 128 → BitVec 128) : Out :=
  s.checked [s.vr d, s.vr a] ((s.eachV s.G d (fun l => f (s.v l d) (s.v l a))).done)

/-- UU: SD := F(SA, SB), once for each issue of the group (06 R126). -/
def State.opS (s : State) (d a b : Nat) (f : BitVec 64 → BitVec 64 → BitVec 64) : Out :=
  .next ((s.sset d (f (s.sget a) (s.sget b))).done)

/-- Element by element, E = 128 / w (06 R103). -/
def elems (w : Nat) (f : BitVec w → BitVec w → BitVec w) (x y : BitVec 128) : BitVec 128 :=
  ofElems ((List.range (128 / w)).map (fun i => f (elem w i x) (elem w i y)))

/-- Element by element, one operand. -/
def elems1 (w : Nat) (f : BitVec w → BitVec w) (x : BitVec 128) : BitVec 128 :=
  ofElems ((List.range (128 / w)).map (fun i => f (elem w i x)))

/-- Element by element at the width that the low opcode bits select: 8, 16, 32 or 64 (03 R65). -/
def elemsAt (w : Nat) (f : (n : Nat) → BitVec n → BitVec n → BitVec n) : BitVec 128 → BitVec 128 → BitVec 128 :=
  elems (8 * 2 ^ w) (f (8 * 2 ^ w))

/-- One element of a register replaced. -/
def setElem (n i : Nat) (x : BitVec 128) (v : Nat) : BitVec 128 := setFld x (n * i) n v

/-- A uniform result: SB := f, and the word is done (06 R122, R123). -/
def State.uniform (s : State) (g d : Nat) (x : BitVec 64) : State := s.guarded g (s.sset d x)

end Sys2Proof.Machine
end

