-- ==== Sys2Proof/Machine/Flags.lean ====
section
/-!
DEFINITION. Flags.lean: comparison outcomes (03 R56; 06 R114) and FPFLAGS (04 R87, R88); floating operations on registers
with their flags (06 R116 to R119), and stochastic rounding (04 R85).
-/
namespace Sys2Proof.Machine

/-- An integer comparison by its COND code (03 R56): 0 eq, 1 ne, 2 lt, 3 le, 4 gt, 5 ge. -/
def condInt (c : Nat) (x y : Int) : Bool :=
  match c with
  | 0 => x = y
  | 1 => x ≠ y
  | 2 => x < y
  | 3 => x ≤ y
  | 4 => y < x
  | _ => y ≤ x

/-- A floating comparison by its COND code (06 R114): -0 equals +0; with a NaN only ne and un are true. -/
def condFloat (c : Nat) (x y : FVal) : Bool :=
  if x = .nan || y = .nan then c = 1 || c = 6
  else if c = 6 then false
  else condInt c (x.cmp false y) 0

/-- FPFLAGS as the core clock began (02 R38). -/
def Cohort.fpNow (c : Cohort) : BitVec 32 :=
  match c.pre with
  | some p => p.fpflags
  | none => c.fpflags

/-- The mode in FPFLAGS.RM (04 R87). -/
def State.rm (s : State) : Mode := modeOf (fld s.me.fpNow 8 2)

/-- OR flags into FPFLAGS, in port order (04 R88). -/
def State.orFlags (s : State) (f : BitVec 32) : State := s.modMe (fun c => { c with fpflags := c.fpflags ||| f })

/-- Write VD in each active thread, and OR the flags of all of them into FPFLAGS. -/
def State.eachVF (s : State) (ls : Lanes) (d : Nat) (f : Nat → BitVec 128 × BitVec 32) : State :=
  (s.eachV ls d (fun l => (f l).1)).orFlags ((lanesOf ls).foldl (fun a l => a ||| (f l).2) 0)

/-- The elements of a register, given their codes and flags. -/
def packElems (w : Nat) (l : List (Nat × BitVec 32)) : BitVec 128 × BitVec 32 :=
  (ofElems (l.map (fun x => BitVec.ofNat w x.1)), l.foldl (fun a x => a ||| x.2) 0)

/-- The three arithmetic types: 0 f32, 1 f16, 2 bf16 (03 R65). -/
def arithFmt (t : Nat) : Fmt := if t = 0 then f32 else if t = 1 then f16 else bf16

/-- The element width of an arithmetic type. -/
def arithW (t : Nat) : Nat := if t = 0 then 32 else 16

/-- Floating element by element: an exact value from the operands VA, VB and VD, and whether it is invalid, rounded once in
FPFLAGS.RM (06 R116). -/
def floatElems (t : Nat) (mode : Mode) (f : FVal → FVal → FVal → FVal × Bool) (a b d : BitVec 128) : BitVec 128 × BitVec 32 :=
  let w := arithW t
  let fm := arithFmt t
  packElems w ((List.range (128 / w)).map (fun i =>
    let r := f (fm.decode (elem w i a).toNat) (fm.decode (elem w i b).toNat) (fm.decode (elem w i d).toNat)
    let x := fm.round mode r.1
    (x.1, if r.2 then x.2 ||| NV else x.2)))

/-- A3, floating: VD := F(VA, VB, VD) with flags. -/
def State.opF (s : State) (t d a b g : Nat) (f : Mode → FVal → FVal → FVal → FVal × Bool) : Out :=
  s.checked [s.vr d, s.vr a, s.vr b]
    (s.guarded g (s.eachVF (s.active g) d (fun l => floatElems t s.rm (f s.rm) (s.v l a) (s.v l b) (s.v l d))))

/-- An estimate on the four FP32 elements (06 R117). -/
def State.opEst (s : State) (d a g : Nat) (f : BitVec 32 → BitVec 32 × BitVec 32) : Out :=
  s.checked [s.vr d, s.vr a] (s.guarded g (s.eachVF (s.active g) d (fun l =>
    packElems 32 ((List.range 4).map (fun i => let r := f (elem 32 i (s.v l a)); (r.1.toNat, r.2))))))

/-- The rounding mode of a conversion's control field, stochastic apart (03 R67). -/
def State.cvtMode (s : State) (r : Nat) : Mode := if r = 5 then s.rm else modeOf r

/-- A conversion of four elements with one mode: `f` answers a code and flags. -/
def cvtFour (f : Mode → Nat → Nat × BitVec 32) (mode : Mode) (codes : List Nat) : List (Nat × BitVec 32) :=
  codes.map (f mode)

/-- A stochastic conversion: the state advances once for every element (04 R85). Answers the codes and the last state. -/
def cvtStoch (f : Mode → Nat → Nat × BitVec 32) : List Nat → BitVec 32 → List (Nat × BitVec 32) × BitVec 32
  | [], x => ([], x)
  | c :: cs, x =>
    let y := srNext x
    let r := cvtStoch f cs y
    (f (.stoch (fld y 16 16)) c :: r.1, r.2)

/-- The first four elements of a register, w bits each. -/
def four (w : Nat) (x : BitVec 128) : List Nat := (List.range 4).map (fun i => (elem w i x).toNat)

/-- Codes shifted into VD (06 R119). -/
def shiftIn (b : Nat) (codes : List Nat) (d : BitVec 128) : BitVec 128 :=
  let packed : BitVec 128 := BitVec.ofNat 128 (codes.foldr (fun c a => c % 2 ^ b + a * 2 ^ b) 0)
  if b = 6 then ((d.setWidth 120 >>> 24) ||| (packed.setWidth 120 <<< 96)).setWidth 128
  else (d >>> (4 * b)) ||| (packed <<< (128 - 4 * b))

/-- A conversion to four 32-bit elements, from four w-bit elements (06 R119). -/
def State.opCvtWide (s : State) (d a r g w : Nat) (f : Mode → Nat → Nat × BitVec 32) : Out :=
  s.checked [s.vr d, s.vr a] (s.guarded g (s.eachVF (s.active g) d (fun l =>
    packElems 32 (cvtFour f (s.cvtMode r) (four w (s.v l a))))))

/-- A conversion from four FP32 elements to b-bit codes shifted into VD (06 R119), stochastic or not (04 R85). -/
def State.opCvtNarrow (s : State) (d a r g b : Nat) (fm : Fmt) : Out :=
  let f (m : Mode) (c : Nat) : Nat × BitVec 32 := fm.round m (f32.decode c)
  let src (l : Nat) : List Nat := four 32 (s.v l a)
  let sr (l : Nat) : BitVec 32 := tget 0 s.me.sr l
  let res (l : Nat) : List (Nat × BitVec 32) :=
    if r = 4 then (cvtStoch f (src l) (sr l)).1 else cvtFour f (s.cvtMode r) (src l)
  let out (l : Nat) : BitVec 128 × BitVec 32 :=
    (shiftIn b ((res l).map (·.1)) (s.v l d), (res l).foldl (fun x y => x ||| y.2) 0)
  let t := s.eachVF (s.active g) d out
  let next (m : Tab (BitVec 32)) (l : Nat) : Tab (BitVec 32) := tset 0 m l (cvtStoch f (src l) (sr l)).2
  let t := if r = 4 then t.modMe (fun c => { c with sr := (lanesOf (s.active g)).foldl next c.sr }) else t
  s.checked [s.vr d, s.vr a] (s.guarded g t)

/-- A widening of a code to FP32, exact (04 R86). -/
def widen (fm : Fmt) (_ : Mode) (c : Nat) : Nat × BitVec 32 := ((f32.round .near (fm.decode c)).1, 0)

/-- The reduction tree of 04 R90 over lane numbers: absent members pass the other on, a NaN with its payload too, though 04 R75 would make a
NaN result canonical: the model's choice (log entry 45). -/
def treeLevel {α : Type} (f : α → α → α) : List (Option α) → List (Option α)
  | x :: y :: l =>
    (match x, y with
     | some a, some b => some (f a b)
     | some a, none => some a
     | none, b => b) :: treeLevel f l
  | l => l

/-- Five levels over 32 lanes. -/
def tree32 {α : Type} (f : α → α → α) (l : List (Option α)) : Option α :=
  (treeLevel f (treeLevel f (treeLevel f (treeLevel f (treeLevel f l))))).headD none

end Sys2Proof.Machine
end

