-- ==== Sys2Proof/Machine/Alu.lean ====
section
/-!
DEFINITION. Alu.lean: the alu class, class 0 (06 R103 to R128). HOLD affects only timing (03 R53).
-/
namespace Sys2Proof.Machine

/-- Clamped to the signed range of w bits (04 R74). -/
def clampI (w : Nat) (x : Int) : BitVec w :=
  if x < -(2 ^ (w - 1)) then BitVec.ofInt w (-(2 ^ (w - 1)))
  else if 2 ^ (w - 1) - 1 < x then BitVec.ofInt w (2 ^ (w - 1) - 1)
  else BitVec.ofInt w x

/-- Clamped to the unsigned range of w bits (04 R74). -/
def clampN (w : Nat) (x : Int) : BitVec w :=
  if x < 0 then 0 else if 2 ^ w - 1 < x then BitVec.allOnes w else BitVec.ofInt w x

/-- Shifts: a count of the width or more gives 0, or copies of the sign (06 R107, R126). -/
def shlB {n : Nat} (x : BitVec n) (k : Nat) : BitVec n := if n ≤ k then 0 else x <<< k
def shrB {n : Nat} (x : BitVec n) (k : Nat) : BitVec n := if n ≤ k then 0 else x >>> k
def sarB {n : Nat} (x : BitVec n) (k : Nat) : BitVec n :=
  if n ≤ k then (if x.msb then BitVec.allOnes n else 0) else x.sshiftRight k

/-- The number of one bits (06 R109). -/
def popc32 (x : BitVec 32) : BitVec 32 := BitVec.ofNat 32 (lanesOf x).length

/-- The number of zero bits above the highest one bit (06 R109). -/
def clz32 (x : BitVec 32) : BitVec 32 := BitVec.ofNat 32 (32 - blen x.toNat)

/-- Bit k moved to bit 31 - k (06 R109). -/
def brev32 (x : BitVec 32) : BitVec 32 := lanesBy (fun i => x.getLsbD (31 - i))

/-- `bfx`: extract from a by the position and length in b (06 R110). -/
def bfx (signed : Bool) (a b : BitVec 32) : BitVec 32 :=
  let pos := fld b 0 8
  let len := min (fld b 8 8) 32
  let x := if 32 ≤ pos then 0 else a >>> pos
  if len = 0 then 0
  else if signed then BitVec.ofInt 32 (sextNat len x.toNat)
  else BitVec.ofNat 32 (x.toNat % 2 ^ len)

/-- `bfi`: insert the low bits of a into d by the position and length in b (06 R110). -/
def bfi (d a b : BitVec 32) : BitVec 32 :=
  let pos := fld b 0 8
  let len := min (fld b 8 8) 32
  let mask : BitVec 32 := BitVec.ofNat 32 ((2 ^ len - 1) * 2 ^ pos)
  (d &&& ~~~mask) ||| ((a <<< pos) &&& mask)

/-- `lea` (06 R111). -/
def lea (a b : BitVec 128) : BitVec 128 := setFld a 0 52 (fld a 0 52 + fld b 0 64)

/-- A compare writes PD in each active thread; it is spinning (06 R114; 02 R41). -/
def State.cmpWith (s : State) (d a b g : Nat) (f : BitVec 128 → BitVec 128 → Bool) : Out :=
  s.checked [s.vr a, s.vr b]
    (s.guarded g (s.pset d (s.active g) (lanesBy (fun l => f (s.v l a) (s.v l b)))) true)

/-- Predicate logic writes PD in each active thread; it is spinning (06 R115; 02 R41). -/
def State.predWith (s : State) (d g : Nat) (v : Lanes) : Out := .next (s.guarded g (s.pset d (s.active g) v) true)

/-- Codes element by element in an arithmetic type (06 R116). -/
def elemsFmt (t : Nat) (f : Nat → Nat → Nat) (x y : BitVec 128) : BitVec 128 :=
  (packElems (arithW t) ((List.range (128 / arithW t)).map (fun i =>
    (f (elem (arithW t) i x).toNat (elem (arithW t) i y).toNat, 0)))).1

/-- A code with its sign changed; a NaN gives the canonical NaN (06 R116). -/
def signOp (t : Nat) (f : Bool → Bool) (c : Nat) : Nat :=
  let fm := arithFmt t
  if fm.decode c = .nan then fm.nanc else fm.sign (f (2 ^ fm.sgn ≤ c)) (c % 2 ^ fm.sgn)

/-- VD := VA of a source lane, as it stood before the core clock (06 R105, R120). -/
def State.shuffle (s : State) (d a g : Nat) (src : Nat → Nat) : State :=
  s.guarded g (s.eachV (s.active g) d (fun l => s.vgetPre s.cur.tid s.cur.coh (src l) a))

/-- Element 0 of VA of each lane, absent where the lane is not active (04 R90; 06 R123). -/
def State.redLanes (s : State) (a g : Nat) : List (Option (BitVec 32)) :=
  (List.range 32).map (fun l =>
    if (s.active g).getLsbD l then some (elem 32 0 (s.vgetPre s.cur.tid s.cur.coh l a)) else none)

/-- add R107. -/
def execAdd (w d a b _ g : Nat) (s : State) : Out :=
  s.opVV d a b g (elemsAt w (fun _ x y => x + y))

/-- sub R107. -/
def execSub (w d a b _ g : Nat) (s : State) : Out :=
  s.opVV d a b g (elemsAt w (fun _ x y => x - y))

/-- mul, the low half R107. -/
def execMul (w d a b _ g : Nat) (s : State) : Out :=
  s.opVV d a b g (elemsAt w (fun _ x y => x * y))

/-- mulhi.i, the high half of the signed product R107. -/
def execMulhiI (w d a b _ g : Nat) (s : State) : Out :=
  s.opVV d a b g (elemsAt w (fun n x y => BitVec.ofInt n (x.toInt * y.toInt / 2 ^ n)))

/-- mulhi.n, the high half of the unsigned product R107. -/
def execMulhiN (w d a b _ g : Nat) (s : State) : Out :=
  s.opVV d a b g (elemsAt w (fun n x y => BitVec.ofNat n (x.toNat * y.toNat / 2 ^ n)))

/-- min.i R107. -/
def execMinI (w d a b _ g : Nat) (s : State) : Out :=
  s.opVV d a b g (elemsAt w (fun _ x y => if x.toInt ≤ y.toInt then x else y))

/-- min.n R107. -/
def execMinN (w d a b _ g : Nat) (s : State) : Out :=
  s.opVV d a b g (elemsAt w (fun _ x y => if x.toNat ≤ y.toNat then x else y))

/-- max.i R107. -/
def execMaxI (w d a b _ g : Nat) (s : State) : Out :=
  s.opVV d a b g (elemsAt w (fun _ x y => if y.toInt ≤ x.toInt then x else y))

/-- max.n R107. -/
def execMaxN (w d a b _ g : Nat) (s : State) : Out :=
  s.opVV d a b g (elemsAt w (fun _ x y => if y.toNat ≤ x.toNat then x else y))

/-- shl: a count of the width or more gives 0 R107. -/
def execShl (w d a b _ g : Nat) (s : State) : Out :=
  s.opVV d a b g (elemsAt w (fun _ x y => shlB x y.toNat))

/-- shr.n R107. -/
def execShrN (w d a b _ g : Nat) (s : State) : Out :=
  s.opVV d a b g (elemsAt w (fun _ x y => shrB x y.toNat))

/-- shr.i: sign fill R107. -/
def execShrI (w d a b _ g : Nat) (s : State) : Out :=
  s.opVV d a b g (elemsAt w (fun _ x y => sarB x y.toNat))

/-- adds.i, clamped R107. -/
def execAddsI (w d a b _ g : Nat) (s : State) : Out :=
  s.opVV d a b g (elemsAt w (fun n x y => clampI n (x.toInt + y.toInt)))

/-- adds.n, clamped R107. -/
def execAddsN (w d a b _ g : Nat) (s : State) : Out :=
  s.opVV d a b g (elemsAt w (fun n x y => clampN n (x.toNat + y.toNat : Int)))

/-- subs.i, clamped R107. -/
def execSubsI (w d a b _ g : Nat) (s : State) : Out :=
  s.opVV d a b g (elemsAt w (fun n x y => clampI n (x.toInt - y.toInt)))

/-- subs.n, clamped R107. -/
def execSubsN (w d a b _ g : Nat) (s : State) : Out :=
  s.opVV d a b g (elemsAt w (fun n x y => clampN n ((x.toNat : Int) - y.toNat)))

/-- and of 128 bits. R108. -/
def execAnd (d a b _ g : Nat) (s : State) : Out :=
  s.opVV d a b g (fun x y => x &&& y)

/-- or of 128 bits. R108. -/
def execOr (d a b _ g : Nat) (s : State) : Out :=
  s.opVV d a b g (fun x y => x ||| y)

/-- xor of 128 bits. R108. -/
def execXor (d a b _ g : Nat) (s : State) : Out :=
  s.opVV d a b g (fun x y => x ^^^ y)

/-- andn of 128 bits. R108. -/
def execAndn (d a b _ g : Nat) (s : State) : Out :=
  s.opVV d a b g (fun x y => x &&& ~~~y)

/-- popc.w. R109. -/
def execPopcW (d a _ g : Nat) (s : State) : Out :=
  s.opV d a g (elems1 32 popc32)

/-- clz.w. R109. -/
def execClzW (d a _ g : Nat) (s : State) : Out :=
  s.opV d a g (elems1 32 clz32)

/-- brev.w. R109. -/
def execBrevW (d a _ g : Nat) (s : State) : Out :=
  s.opV d a g (elems1 32 brev32)

/-- bfx.n32. R110. -/
def execBfxN32 (d a b _ g : Nat) (s : State) : Out :=
  s.opVV d a b g (elems 32 (bfx false))

/-- bfx.i32. R110. -/
def execBfxI32 (d a b _ g : Nat) (s : State) : Out :=
  s.opVV d a b g (elems 32 (bfx true))

/-- bfi.w: VD is a source. R110. -/
def execBfiW (d a b _ g : Nat) (s : State) : Out :=
  s.opVVV d a b g (fun z x y => ofElems ((List.range 4).map (fun i => bfi (elem 32 i z) (elem 32 i x) (elem 32 i y))))

/-- lea: a signed offset on bits [51:0]. R111. -/
def execLea (d a b _ g : Nat) (s : State) : Out :=
  s.opVV d a b g lea

/-- sel: GUARD is the selector, and every thread writes. R112. -/
def execSel (d a b _ g : Nat) (s : State) : Out :=
  s.checked [s.vr d, s.vr a, s.vr b]
    ((s.eachV s.G d (fun l => if (s.me.pget g).getLsbD l then s.v l a else s.v l b)).done)

/-- cmp.c.i32. R114. -/
def execCmpI32 (d c a b _ g : Nat) (s : State) : Out :=
  s.cmpWith d a b g (fun x y => condInt c ((elem 32 0 x).toInt) ((elem 32 0 y).toInt))

/-- cmp.c.n32. R114. -/
def execCmpN32 (d c a b _ g : Nat) (s : State) : Out :=
  s.cmpWith d a b g (fun x y => condInt c ((elem 32 0 x).toNat : Int) ((elem 32 0 y).toNat))

/-- cmp.c.i64. R114. -/
def execCmpI64 (d c a b _ g : Nat) (s : State) : Out :=
  s.cmpWith d a b g (fun x y => condInt c ((elem 64 0 x).toInt) ((elem 64 0 y).toInt))

/-- cmp.c.n64. R114. -/
def execCmpN64 (d c a b _ g : Nat) (s : State) : Out :=
  s.cmpWith d a b g (fun x y => condInt c ((elem 64 0 x).toNat : Int) ((elem 64 0 y).toNat))

/-- cmp.c.f32. R114. -/
def execCmpF32 (d c a b _ g : Nat) (s : State) : Out :=
  s.cmpWith d a b g (fun x y => condFloat c (f32.decode (elem 32 0 x).toNat) (f32.decode (elem 32 0 y).toNat))

/-- cmp.c.f16. R114. -/
def execCmpF16 (d c a b _ g : Nat) (s : State) : Out :=
  s.cmpWith d a b g (fun x y => condFloat c (f16.decode (elem 16 0 x).toNat) (f16.decode (elem 16 0 y).toNat))

/-- cmp.c.bf16. R114. -/
def execCmpBf16 (d c a b _ g : Nat) (s : State) : Out :=
  s.cmpWith d a b g (fun x y => condFloat c (bf16.decode (elem 16 0 x).toNat) (bf16.decode (elem 16 0 y).toNat))

/-- pand. R115. -/
def execPand (d a b g : Nat) (s : State) : Out :=
  s.predWith d g (let x := s.me.pget a; let y := s.me.pget b; x &&& y)

/-- por. R115. -/
def execPor (d a b g : Nat) (s : State) : Out :=
  s.predWith d g (let x := s.me.pget a; let y := s.me.pget b; x ||| y)

/-- pxor. R115. -/
def execPxor (d a b g : Nat) (s : State) : Out :=
  s.predWith d g (let x := s.me.pget a; let y := s.me.pget b; x ^^^ y)

/-- pandn. R115. -/
def execPandn (d a b g : Nat) (s : State) : Out :=
  s.predWith d g (let x := s.me.pget a; let y := s.me.pget b; x &&& ~~~y)

/-- pmov. R115. -/
def execPmov (d a g : Nat) (s : State) : Out :=
  s.predWith d g (s.me.pget a)

/-- pnot. R115. -/
def execPnot (d a g : Nat) (s : State) : Out :=
  s.predWith d g (~~~(s.me.pget a))

/-- mov. R113. -/
def execMov (d a _ g : Nat) (s : State) : Out :=
  s.opV d a g id

/-- mvs: SB into both halves of VD. R113. -/
def execMvs (d b g : Nat) (s : State) : Out :=
  s.checked [s.vr d] (s.guarded g (s.eachV (s.active g) d (fun _ => ofElems [s.sget b, s.sget b])))

/-- mfv: VA[63:0] of the lowest active lane. R113. -/
def execMfv (a b _ g : Nat) (s : State) : Out :=
  s.checked [s.vr a]
    (if s.active g = 0 then s.done true else (s.sset b ((s.vgetPre s.cur.tid s.cur.coh (lowest (s.active g)) a).setWidth 64)).done)

/-- fadd. R116. -/
def execFadd (t d a b _ g : Nat) (s : State) : Out :=
  s.opF t d a b g (fun m x y _ => x.add m y)

/-- fsub. R116. -/
def execFsub (t d a b _ g : Nat) (s : State) : Out :=
  s.opF t d a b g (fun m x y _ => x.add m y.neg)

/-- fmul. R116. -/
def execFmul (t d a b _ g : Nat) (s : State) : Out :=
  s.opF t d a b g (fun _ x y _ => x.mul y)

/-- fma: one rounding; VD is the addend. R116. -/
def execFma (t d a b _ g : Nat) (s : State) : Out :=
  s.opF t d a b g (fun m x y z => let p := x.mul y; let q := p.1.add m z; (q.1, p.2 || q.2))

/-- fmin. R116, R76. -/
def execFmin (t d a b _ g : Nat) (s : State) : Out :=
  s.opVV d a b g (elemsFmt t (minmaxF (arithFmt t) false))

/-- fmax. R116, R76. -/
def execFmax (t d a b _ g : Nat) (s : State) : Out :=
  s.opVV d a b g (elemsFmt t (minmaxF (arithFmt t) true))

/-- fabs; a NaN gives the canonical NaN. R116. -/
def execFabs (t d a _ g : Nat) (s : State) : Out :=
  s.opV d a g (fun x => elemsFmt t (fun c _ => signOp t (fun _ => false) c) x x)

/-- fneg; a NaN gives the canonical NaN. R116. -/
def execFneg (t d a _ g : Nat) (s : State) : Out :=
  s.opV d a g (fun x => elemsFmt t (fun c _ => signOp t not c) x x)

/-- frcp.f32. R117. -/
def execFrcpF32 (d a _ g : Nat) (s : State) : Out :=
  s.opEst d a g frcpF32

/-- frsq.f32. R117. -/
def execFrsqF32 (d a _ g : Nat) (s : State) : Out :=
  s.opEst d a g frsqF32

/-- fex2.f32. R117. -/
def execFex2F32 (d a _ g : Nat) (s : State) : Out :=
  s.opEst d a g fex2F32

/-- flg2.f32. R117. -/
def execFlg2F32 (d a _ g : Nat) (s : State) : Out :=
  s.opEst d a g flg2F32

/-- cvt.f32.f16. R118, R119. -/
def execCvtF32F16 (d a r _ _ g : Nat) (s : State) : Out :=
  s.opCvtWide d a r g 16 (widen f16)

/-- cvt.f16.f32. R118, R119. -/
def execCvtF16F32 (d a r _ _ g : Nat) (s : State) : Out :=
  s.opCvtNarrow d a r g 16 f16

/-- cvt.f32.bf16. R118, R119. -/
def execCvtF32Bf16 (d a r _ _ g : Nat) (s : State) : Out :=
  s.opCvtWide d a r g 16 (widen bf16)

/-- cvt.bf16.f32. R118, R119. -/
def execCvtBf16F32 (d a r _ _ g : Nat) (s : State) : Out :=
  s.opCvtNarrow d a r g 16 bf16

/-- cvt.f32.i32. R118, R119. -/
def execCvtF32I32 (d a r _ _ g : Nat) (s : State) : Out :=
  s.opCvtWide d a r g 32 (fun m c => f32.round m (FVal.ofInt (BitVec.ofNat 32 c).toInt))

/-- cvt.f32.n32. R118, R119. -/
def execCvtF32N32 (d a r _ _ g : Nat) (s : State) : Out :=
  s.opCvtWide d a r g 32 (fun m c => f32.round m (FVal.ofInt c))

/-- cvt.i32.f32. R118, R119. -/
def execCvtI32F32 (d a r _ _ g : Nat) (s : State) : Out :=
  s.opCvtWide d a r g 32 (fun m c => let x := roundInt true m (f32.decode c); (x.1.toNat, x.2))

/-- cvt.n32.f32. R118, R119. -/
def execCvtN32F32 (d a r _ _ g : Nat) (s : State) : Out :=
  s.opCvtWide d a r g 32 (fun m c => let x := roundInt false m (f32.decode c); (x.1.toNat, x.2))

/-- cvt.e2m3.f32. R118, R119. -/
def execCvtE2m3F32 (d a r _ _ g : Nat) (s : State) : Out :=
  s.opCvtNarrow d a r g 6 e2m3

/-- cvt.e3m2.f32. R118, R119. -/
def execCvtE3m2F32 (d a r _ _ g : Nat) (s : State) : Out :=
  s.opCvtNarrow d a r g 6 e3m2

/-- cvt.e2m1.f32. R118, R119. -/
def execCvtE2m1F32 (d a r _ _ g : Nat) (s : State) : Out :=
  s.opCvtNarrow d a r g 4 e2m1

/-- cvt.f32.e2m3. R118, R119. -/
def execCvtF32E2m3 (d a r _ _ g : Nat) (s : State) : Out :=
  s.opCvtWide d a r g 6 (widen e2m3)

/-- cvt.f32.e3m2. R118, R119. -/
def execCvtF32E3m2 (d a r _ _ g : Nat) (s : State) : Out :=
  s.opCvtWide d a r g 6 (widen e3m2)

/-- cvt.f32.e2m1: code 0x8 is FPFLAGS.X4 (R81). R118, R119. -/
def execCvtF32E2m1 (d a r _ _ g : Nat) (s : State) : Out :=
  s.opCvtWide d a r g 4 (fun m c => if c = 8 then widen f16 m (fld s.me.fpNow 16 16) else widen e2m1 m c)

/-- cvt.s8pN.f32. R118, R119. -/
def execCvtS8pnF32 (n d a r i _ g : Nat) (s : State) : Out :=
  s.opCvtNarrow d a r g 8 (s8p n (i = 1))

/-- cvt.f32.s8pN. R118, R119. -/
def execCvtF32S8pn (n d a r i _ g : Nat) (s : State) : Out :=
  s.opCvtWide d a r g 8 (widen (s8p n (i = 1)))

/-- cvt.n8pN.f32. R118, R119. -/
def execCvtN8pnF32 (n d a r i _ g : Nat) (s : State) : Out :=
  s.opCvtNarrow d a r g 8 (n8p n (i = 1))

/-- cvt.f32.n8pN. R118, R119. -/
def execCvtF32N8pn (n d a r i _ g : Nat) (s : State) : Out :=
  s.opCvtWide d a r g 8 (widen (n8p n (i = 1)))

/-- shfl.idx: the source lane from VB[4:0] of the lane. R120. -/
def execShflIdx (d a b _ g : Nat) (s : State) : Out :=
  s.checked [s.vr d, s.vr a, s.vr b] (s.shuffle d a g (fun l => fld (s.v l b) 0 5))

/-- shfl.up. R120. -/
def execShflUp (d a b _ g : Nat) (s : State) : Out :=
  s.checked [s.vr d, s.vr a] (s.shuffle d a g (fun l => let k := fld (s.sget b) 0 5; if k ≤ l then l - k else l))

/-- shfl.down. R120. -/
def execShflDown (d a b _ g : Nat) (s : State) : Out :=
  s.checked [s.vr d, s.vr a] (s.shuffle d a g (fun l => let k := fld (s.sget b) 0 5; if l + k ≤ 31 then l + k else l))

/-- shfl.xor. R120. -/
def execShflXor (d a b _ g : Nat) (s : State) : Out :=
  s.checked [s.vr d, s.vr a] (s.shuffle d a g (fun l => l ^^^ fld (s.sget b) 0 5))

/-- vote.ballot. R122. -/
def execVoteBallot (p b g : Nat) (s : State) : Out :=
  let v := s.active g &&& s.me.pget p
  .next (s.uniform g b (v.setWidth 64))

/-- vote.any. R122. -/
def execVoteAny (p b g : Nat) (s : State) : Out :=
  let v := s.active g &&& s.me.pget p
  .next (s.uniform g b (if v = 0 then 0 else 1))

/-- vote.all. R122. -/
def execVoteAll (p b g : Nat) (s : State) : Out :=
  let v := s.active g &&& s.me.pget p
  .next (s.uniform g b (if v = s.active g then 1 else 0))

/-- vote.uni. R122. -/
def execVoteUni (p b g : Nat) (s : State) : Out :=
  let v := s.active g &&& s.me.pget p
  .next (s.uniform g b (if v = s.active g || v = 0 then 1 else 0))

/-- redadd.i32, sign-extended. R123. -/
def execRedaddI32 (a b _ g : Nat) (s : State) : Out :=
  s.checked [s.vr a] (s.uniform g b (((tree32 (fun x y => x + y) (s.redLanes a g)).getD 0).signExtend 64))

/-- redadd.f32 by the tree of R90. R123. -/
def execRedaddF32 (a b _ g : Nat) (s : State) : Out :=
  s.checked [s.vr a] (s.uniform g b (((tree32 addF32 (s.redLanes a g)).getD 0).setWidth 64))

/-- redmin.i32, sign-extended. R123. -/
def execRedminI32 (a b _ g : Nat) (s : State) : Out :=
  s.checked [s.vr a] (s.uniform g b (((tree32 (fun x y => if x.toInt ≤ y.toInt then x else y) (s.redLanes a g)).getD 0).signExtend 64))

/-- redmin.f32 by the tree of R90. R123. -/
def execRedminF32 (a b _ g : Nat) (s : State) : Out :=
  s.checked [s.vr a] (s.uniform g b (((tree32 (fun x y => BitVec.ofNat 32 (minmaxF f32 false x.toNat y.toNat)) (s.redLanes a g)).getD 0).setWidth 64))

/-- redmax.i32, sign-extended. R123. -/
def execRedmaxI32 (a b _ g : Nat) (s : State) : Out :=
  s.checked [s.vr a] (s.uniform g b (((tree32 (fun x y => if y.toInt ≤ x.toInt then x else y) (s.redLanes a g)).getD 0).signExtend 64))

/-- redmax.f32 by the tree of R90. R123. -/
def execRedmaxF32 (a b _ g : Nat) (s : State) : Out :=
  s.checked [s.vr a] (s.uniform g b (((tree32 (fun x y => BitVec.ofNat 32 (minmaxF f32 true x.toNat y.toNat)) (s.redLanes a g)).getD 0).setWidth 64))

/-- bcast. R121. -/
def execBcast (d a b _ g : Nat) (s : State) : Out :=
  s.checked [s.vr d, s.vr a] (s.shuffle d a g (fun _ => fld (s.sget b) 0 5))

/-- ext.n8. R124. -/
def execExtN8 (d a x : Nat) (s : State) : Out :=
  s.opI d a (fun _ v => (elem 8 x v).setWidth 128)

/-- ins.n8. R124. -/
def execInsN8 (d a x : Nat) (s : State) : Out :=
  s.opI d a (fun z v => setElem 8 x z v.toNat)

/-- ext.n16. R124. -/
def execExtN16 (d a x : Nat) (s : State) : Out :=
  s.opI d a (fun _ v => (elem 16 x v).setWidth 128)

/-- ins.n16. R124. -/
def execInsN16 (d a x : Nat) (s : State) : Out :=
  s.opI d a (fun z v => setElem 16 x z v.toNat)

/-- ext.w. R124. -/
def execExtW (d a x : Nat) (s : State) : Out :=
  s.opI d a (fun _ v => (elem 32 x v).setWidth 128)

/-- ins.w. R124. -/
def execInsW (d a x : Nat) (s : State) : Out :=
  s.opI d a (fun z v => setElem 32 x z v.toNat)

/-- addii32. R125. -/
def execAddiI32 (d a i : Nat) (s : State) : Out :=
  s.opI d a (fun _ v => elems1 32 (fun x => x + (BitVec.ofNat 12 i).signExtend 32) v)

/-- andi. R125. -/
def execAndi (d a i : Nat) (s : State) : Out :=
  s.opI d a (fun _ v => elems1 32 (fun x => x &&& BitVec.ofNat 32 i) v)

/-- ori. R125. -/
def execOri (d a i : Nat) (s : State) : Out :=
  s.opI d a (fun _ v => elems1 32 (fun x => x ||| BitVec.ofNat 32 i) v)

/-- xori. R125. -/
def execXori (d a i : Nat) (s : State) : Out :=
  s.opI d a (fun _ v => elems1 32 (fun x => x ^^^ BitVec.ofNat 32 i) v)

/-- shliw. R125. -/
def execShliW (d a i : Nat) (s : State) : Out :=
  s.opI d a (fun _ v => elems1 32 (fun x => x <<< i) v)

/-- shrin32. R125. -/
def execShriN32 (d a i : Nat) (s : State) : Out :=
  s.opI d a (fun _ v => elems1 32 (fun x => x >>> i) v)

/-- shrii32. R125. -/
def execShriI32 (d a i : Nat) (s : State) : Out :=
  s.opI d a (fun _ v => elems1 32 (fun x => x.sshiftRight i) v)

/-- movi.i32. R125. -/
def execMoviI32 (d i : Nat) (s : State) : Out :=
  s.checked [s.vr d] ((s.eachV s.G d (fun _ => elems1 32 (fun _ => (BitVec.ofNat 12 i).signExtend 32) 0)).done)

/-- sadd. R126. -/
def execSadd (d a b : Nat) (s : State) : Out :=
  s.opS d a b (fun x y => x + y)

/-- ssub. R126. -/
def execSsub (d a b : Nat) (s : State) : Out :=
  s.opS d a b (fun x y => x - y)

/-- smul. R126. -/
def execSmul (d a b : Nat) (s : State) : Out :=
  s.opS d a b (fun x y => x * y)

/-- smulhii. R126. -/
def execSmulhiI (d a b : Nat) (s : State) : Out :=
  s.opS d a b (fun x y => BitVec.ofInt 64 (x.toInt * y.toInt / 2 ^ 64))

/-- smulhin. R126. -/
def execSmulhiN (d a b : Nat) (s : State) : Out :=
  s.opS d a b (fun x y => BitVec.ofNat 64 (x.toNat * y.toNat / 2 ^ 64))

/-- sand. R126. -/
def execSand (d a b : Nat) (s : State) : Out :=
  s.opS d a b (fun x y => x &&& y)

/-- sor. R126. -/
def execSor (d a b : Nat) (s : State) : Out :=
  s.opS d a b (fun x y => x ||| y)

/-- sxor. R126. -/
def execSxor (d a b : Nat) (s : State) : Out :=
  s.opS d a b (fun x y => x ^^^ y)

/-- sshl. R126. -/
def execSshl (d a b : Nat) (s : State) : Out :=
  s.opS d a b (fun x y => shlB x y.toNat)

/-- sshrn. R126. -/
def execSshrN (d a b : Nat) (s : State) : Out :=
  s.opS d a b (fun x y => shrB x y.toNat)

/-- sshri. R126. -/
def execSshrI (d a b : Nat) (s : State) : Out :=
  s.opS d a b (fun x y => sarB x y.toNat)

/-- smini. R126. -/
def execSminI (d a b : Nat) (s : State) : Out :=
  s.opS d a b (fun x y => if x.toInt ≤ y.toInt then x else y)

/-- smaxi. R126. -/
def execSmaxI (d a b : Nat) (s : State) : Out :=
  s.opS d a b (fun x y => if y.toInt ≤ x.toInt then x else y)

/-- sminn. R126. -/
def execSminN (d a b : Nat) (s : State) : Out :=
  s.opS d a b (fun x y => if x.toNat ≤ y.toNat then x else y)

/-- smaxn. R126. -/
def execSmaxN (d a b : Nat) (s : State) : Out :=
  s.opS d a b (fun x y => if y.toNat ≤ x.toNat then x else y)

/-- sslti. R126. -/
def execSsltI (d a b : Nat) (s : State) : Out :=
  s.opS d a b (fun x y => if x.toInt < y.toInt then 1 else 0)

/-- ssltn. R126. -/
def execSsltN (d a b : Nat) (s : State) : Out :=
  s.opS d a b (fun x y => if x.toNat < y.toNat then 1 else 0)

/-- sseq. R126. -/
def execSseq (d a b : Nat) (s : State) : Out :=
  s.opS d a b (fun x y => if x = y then 1 else 0)

/-- smov. R126. -/
def execSmov (d a : Nat) (s : State) : Out :=
  s.opS d a a (fun x _ => x)

/-- saddi. R127. -/
def execSaddi (d a i : Nat) (s : State) : Out :=
  s.opS d a a (fun x _ => x + (BitVec.ofNat 12 i).signExtend 64)

/-- slui. R127. -/
def execSlui (d a i : Nat) (s : State) : Out :=
  s.opS d a a (fun x _ => (x <<< 12) ||| BitVec.ofNat 64 i)

end Sys2Proof.Machine
end

