-- ==== Sys2Proof/Machine/Ecdsa.lean ====
section
/-!
DEFINITION. Ecdsa.lean: the check of an object's signature at bring-up: ECDSA over P-384 with SHA-384 (25 R353, R354). The curve and the hash are
the standards' (FIPS 186, FIPS 180), which the spec names and does not repeat (log entry 10).
-/
namespace Sys2Proof.Machine.Ecdsa

-- SHA-384 --------------------------------------------------------------------------------------------------------------------------

/-- The round constants, eight words of 64 bits in each number, the lowest word first. -/
def roundRows : List Nat := [
  0xab1c5ed5da6d8118923f82a4af194f9b59f111f1b605d0193956c25bf348b538e9b5dba58189dbbcb5c0fbcfec4d3b2f7137449123ef65cd428a2f98d728ae22,
  0xc19bf174cf6926949bdc06a725c7123580deb1fe3b1696b172be5d74f27b896f550c7dc3d5ffb4e2243185be4ee4b28c12835b0145706fbed807aa98a3030242,
  0x76f988da831153b55cb0a9dcbd41fbd44a7484aa6ea6e4832de92c6f592b0275240ca1cc77ac9c650fc19dc68b8cd5b5efbe4786384f25e3e49b69c19ef14ad2,
  0x142929670a0e6e7006ca6351e003826fd5a79147930aa725c6e00bf33da88fc2bf597fc7beef0ee4b00327c898fb213fa831c66d2db43210983e5152ee66dfab,
  0x92722c851482353b81c2c92e47edaee6766a0abb3c77b2a8650a73548baf63de53380d139d95b3df4d2c6dfc5ac42aed2e1b21385c26c92627b70a8546d22ffc,
  0x106aa07032bbd1b8f40e35855771202ad69906245565a910d192e819d6ef5218c76c51a30654be30c24b8b70d0f89791a81a664bbc423001a2bfe8a14cf10364,
  0x682e6ff3d6b2b8a35b9cca4f7763e3734ed8aa4ae3418acb391c0cb3c5c95a6334b0bcb5e19b48a82748774cdf8eeb991e376c085141ab5319a4c116b8d2d0c8,
  0xc67178f2e372532bbef9a3f7b2c67915a4506cebde82bde990befffa23631e288cc702081a6439ec84c87814a1f0ab7278a5636f43172f60748f82ee5defb2fc,
  0x1b710b35131c471b113f9804bef90dae0a637dc5a2c898a606f067aa72176fbaf57d4f7fee6ed178eada7dd6cde0eb1ed186b8c721c0c207ca273eceea26619c,
  0x6c44198c4a4758175fcb6fab3ad6faec597f299cfc657e2a4cc5d4becb3e42b6431d67c49c100d4c3c9ebe0a15c9bebc32caab7b40c7249328db77f523047d84]

def roundWord (t : Nat) : BitVec 64 := BitVec.ofNat 64 (roundRows.getD (t / 8) 0 / 2 ^ (64 * (t % 8)))

/-- The eight words of the hash as it begins. -/
def start : List (BitVec 64) := [0xcbbb9d5dc1059ed8, 0x629a292a367cd507, 0x9159015a3070dd17, 0x152fecd8f70e5939,
  0x67332667ffc00b31, 0x8eb44a8768581511, 0xdb0c2e0d64f98fa7, 0x47b5481dbefa4fa4]

/-- A number from bytes, the highest first. -/
def bigEndian (bs : List Byte) : Nat := bs.foldl (fun a b => a * 256 + b.toNat) 0

/-- A message with its padding, as blocks of 128 bytes. -/
def padded (m : List Byte) : List Byte :=
  m ++ [0x80] ++ List.replicate ((239 - m.length % 128) % 128) 0 ++
    (List.range 16).map (fun i => BitVec.ofNat 8 (8 * m.length / 2 ^ (8 * (15 - i))))

/-- The 80 words of a block's schedule, the latest first. -/
def schedule (block : List Byte) : List (BitVec 64) :=
  let first : List (BitVec 64) := ((List.range 16).map (fun i => BitVec.ofNat 64 (bigEndian ((block.drop (8 * i)).take 8)))).reverse
  (List.range 64).foldl (fun w _ =>
    let a := w.getD 14 0
    let b := w.getD 1 0
    let s0 := a.rotateRight 1 ^^^ a.rotateRight 8 ^^^ (a >>> 7)
    let s1 := b.rotateRight 19 ^^^ b.rotateRight 61 ^^^ (b >>> 6)
    (w.getD 15 0 + s0 + w.getD 6 0 + s1) :: w) first

/-- One round, on the eight working words. -/
def round (v : List (BitVec 64)) (k w : BitVec 64) : List (BitVec 64) :=
  match v with
  | [a, b, c, d, e, f, g, h] =>
    let s1 := e.rotateRight 14 ^^^ e.rotateRight 18 ^^^ e.rotateRight 41
    let t1 := h + s1 + ((e &&& f) ^^^ (~~~e &&& g)) + k + w
    let s0 := a.rotateRight 28 ^^^ a.rotateRight 34 ^^^ a.rotateRight 39
    let t2 := s0 + ((a &&& b) ^^^ (a &&& c) ^^^ (b &&& c))
    [t1 + t2, a, b, c, d + t1, e, f, g]
  | _ => v

/-- The hash after a block. -/
def compress (h : List (BitVec 64)) (block : List Byte) : List (BitVec 64) :=
  let ws := (schedule block).reverse
  let v := (List.range 80).foldl (fun v t => round v (roundWord t) (ws.getD t 0)) h
  List.zipWith (· + ·) h v

/-- SHA-384 of a message, as a number. -/
def sha384 (m : List Byte) : Nat :=
  let p := padded m
  let h := (List.range (p.length / 128)).foldl (fun h i => compress h ((p.drop (128 * i)).take 128)) start
  (h.take 6).foldl (fun a w => a * 2 ^ 64 + w.toNat) 0

-- P-384 ----------------------------------------------------------------------------------------------------------------------------

def fieldP : Nat := 2 ^ 384 - 2 ^ 128 - 2 ^ 96 + 2 ^ 32 - 1
def orderN : Nat := 0xffffffffffffffffffffffffffffffffffffffffffffffffc7634d81f4372ddf581a0db248b0a77aecec196accc52973
def baseG : Nat × Nat := (0xaa87ca22be8b05378eb1c71ef320ad746e1d3b628ba79b9859f741e082542a385502f25dbf55296c3a545e3872760ab7,
  0x3617de4a96262c6f5d9e98bf9292dc29f8f41dbd289a147ce9da3113b5f0b8c00a60b1ce1d7e819d7a431d7c90ea0e5f)

/-- x to the k modulo m, by the low bits of k. -/
def powMod (m : Nat) : Nat → Nat → Nat → Nat
  | 0, _, _ => 1 % m
  | bits + 1, x, k => (if k % 2 = 1 then x else 1) * powMod m bits (x * x % m) (k / 2) % m

/-- The inverse modulo a prime. -/
def inv (m x : Nat) : Nat := powMod m 384 (x % m) (m - 2)

/-- The sum of two points of the curve; none is the point at infinity. -/
def add (a b : Option (Nat × Nat)) : Option (Nat × Nat) :=
  match a, b with
  | none, q => q
  | p, none => p
  | some p, some q =>
    let third (l : Nat) : Option (Nat × Nat) :=
      let x := (l * l + 2 * fieldP - p.1 - q.1) % fieldP
      some (x, (l * (p.1 + fieldP - x) + fieldP - p.2) % fieldP)
    if p.1 = q.1 then
      if (p.2 + q.2) % fieldP = 0 then none else third ((3 * p.1 * p.1 + fieldP - 3) * inv fieldP (2 * p.2) % fieldP)
    else third ((q.2 + fieldP - p.2) * inv fieldP (q.1 + fieldP - p.1) % fieldP)

/-- k times a point, by the low bits of k. -/
def times : Nat → Nat → Option (Nat × Nat) → Option (Nat × Nat)
  | 0, _, _ => none
  | bits + 1, k, p => add (if k % 2 = 1 then p else none) (times bits (k / 2) (add p p))

/-- Whether r and s sign a message under a public key. -/
def verifies (key : Nat × Nat) (m : List Byte) (r s : Nat) : Bool :=
  let w := inv orderN s
  let x := add (times 384 (sha384 m * w % orderN) (some baseG)) (times 384 (r * w % orderN) (some key))
  1 ≤ r && r < orderN && 1 ≤ s && s < orderN && x.any (fun p => p.1 % orderN = r)

/-- Whether an object ends with a signature of the bytes before it: r, then s, 48 bytes each, the highest byte first (25 R354). -/
def signed (key : Nat × Nat) (object : List Byte) : Bool :=
  let n := object.length - 96
  let sig := object.drop n
  verifies key (object.take n) (bigEndian (sig.take 48)) (bigEndian (sig.drop 48))

end Sys2Proof.Machine.Ecdsa
end

