-- ==== Sys2Proof/Machine/MemOps.lean ====
section
/-!
DEFINITION. MemOps.lean: what the mem class is made of (09 R160; 10 R173 to R176; 11 R186 to R197; 13 R209 to R216): effective
addresses, the checks of stage 2, the policy operand, the order of a thread's accesses, and loads, stores and atomics.
-/
namespace Sys2Proof.Machine

/-- The space, rank and offset of a tagged pointer (10 R173). -/
def spaceOf (p : BitVec 64) : Nat := fld p 60 4
def rankOf (p : BitVec 64) : Nat := fld p 52 8
def offOf (p : BitVec 64) : Nat := fld p 0 52

/-- The effective address: the offset is added to bits [51:0] only (11 R186; 03 R54). -/
def effAddr (p : BitVec 64) (off u : Nat) : BitVec 64 :=
  setFld p 0 52 (((offOf p : Int) + sextNat 6 off * u) % 2 ^ 52).toNat

/-- The low pair of VA. -/
def State.ptr (s : State) (lane a : Nat) : BitVec 64 := (s.v lane a).setWidth 64

/-- STKCUR as the core clock began (10 R176). -/
def Cohort.stkNow (c : Cohort) : Nat :=
  match c.pre with
  | some p => p.stkcur
  | none => c.stkcur

/-- PRIVAREA of a cohort (02 R31). -/
def Team.privArea (t : Team) (coh : Nat) : Nat :=
  t.launch.privbase + (t.number * t.launch.n + coh) * t.launch.privw * 128

/-- The global address of private byte b of a lane (10 R176). -/
def Team.privAddr (t : Team) (coh lane b : Nat) : Nat :=
  (t.privArea coh + (b / 4 * 32 + lane) * 4 + b % 4) % 2 ^ 52

/-- A kind of access: 0 read, 1 write, 2 atomic (09 R161, ACCESS); what it needs (18 R367). -/
def needOf (access : Nat) : Nat := if access = 0 then 1 else if access = 1 then 2 else 3

/-- Stage 2 of 09 R160 for one access of n bytes: the space and rank (10 R173), the alignment, and for `stsix` the line (11
R190, R192, R195), the stack limit (10 R176), the range locks (13 R217). Answers the cause, DETAIL and PAGE0. -/
def State.stage2 (s : State) (access n align : Nat) (p : BitVec 64) : Option (Nat × Nat × Nat) :=
  let t := s.myTeam
  let o := offOf p
  let bad : Option (Nat × Nat × Nat) := some (0x1D, spaceOf p, p.toNat)
  let lock (space : Nat) : Option (Nat × Nat × Nat) :=
    ((s.core t.core).rangeHit space t.vf o n (access != 0)).map (fun e => (0x15, e, p.toNat))
  if align != 0 && o % align != 0 then bad
  else if access = 2 && (spaceOf p = 3 || spaceOf p = 5 || spaceOf p = 6) then bad
  else
    match spaceOf p with
    | 0 => if rankOf p != 0 || (n = 12 && 116 < o % 128) then bad else lock 0
    | 1 =>
      if rankOf p != 0 then bad
      else if s.me.stkNow ≤ (o + n - 1) / 4 then some (0x14, 0, max (o / 4) s.me.stkNow)
      else none
    | 2 =>
      if t.launch.scratch + t.launch.queue < o + n || (n = 12 && 116 < o % 128) then bad else lock 2
    | 3 => if rankOf p != 0 || t.launch.opbuf < o + n || (n = 12 && 116 < o % 128) then bad else lock 3
    | 4 =>
      match s.remoteTeam s.cur.tid (rankOf p) with
      | none => bad
      | some r =>
        let x := s.team r
        if x.launch.scratch + x.launch.queue < o + n || (n = 12 && 116 < o % 128) then bad
        else if x.core = t.core then lock 2
        else none
    | 5 => if rankOf p != 0 || (n = 12 && 116 < o % 128) then bad else none
    | 6 => if n = 12 && 116 < o % 128 then bad else none
    | _ => bad

/-- The lanes' failures at stage 2, as one fault: the cause of the lowest failing lane, with every lane that has it. -/
def stage2Fault (access : Nat) (fs : List (Nat × Option (Nat × Nat × Nat))) : Option FaultInfo :=
  match fs.find? (fun f => f.2.isSome) with
  | some (_, some (c, d, p)) =>
    some { cause := c, detail := d, pages := [p], access := access,
           lanes := lanesFrom ((fs.filter (fun f => f.2.any (fun x => x.1 = c))).map (·.1)) }
  | _ => none

/-- The parts of an access that are translated: one for each line of space 0, one for each private word (10 R176). -/
def State.pieces (s : State) (lane n : Nat) (p : BitVec 64) : List Piece :=
  let o := offOf p
  if spaceOf p = 0 then (splitLines (n + 1) o 0 n).map (fun x => { va := x.1 % 2 ^ 52, at_ := x.2.1, len := x.2.2 })
  else if spaceOf p = 1 then
    (List.range ((o + n - 1) / 4 + 1 - o / 4)).map (fun i =>
      let lo := max o ((o / 4 + i) * 4)
      let hi := min (o + n) ((o / 4 + i + 1) * 4)
      { va := s.myTeam.privAddr s.cur.coh lane lo, at_ := lo - o, len := hi - lo })
  else []

-- the policy operand (11 R187; 03 R54) --------------------------------------------------------------------------------------

/-- The policy operand's value. -/
def State.policy (s : State) (p : Nat) : BitVec 64 := s.sget (56 + p)

/-- The class of a line under a class field and a threshold field (11 R187). -/
def classOf (cls thr pa : Nat) : Nat := if thr = 0 || hash8 pa < thr then cls else 3

def l1Class (pol : BitVec 64) (pa : Nat) : Nat := classOf (fld pol 0 2) (fld pol 4 8) pa
def slClass (pol : BitVec 64) (pa : Nat) : Nat := classOf (fld pol 2 2) (fld pol 12 8) pa

-- order (11 R189, R192, R193; 13 R209, R210) ----------------------------------------------------------------------------------

/-- The bytes that a request names. -/
def ReqKind.bytes : ReqKind → List Nat
  | .read parts _ => (parts.map (fun p => (List.range p.2.2).map (fun i => p.2.1 + i))).flatten
  | .write ws => ws.map (·.addr)
  | .atomic _ size a _ => (List.range size).map (fun i => a + i)
  | .unlock ws => ws.map (·.addr)
  | _ => []

/-- Whether a request has yet to be taken, or an operation to end: their numbers are apart. -/
def State.isOut (s : State) (id : Nat) : Bool := (s.req id).isSome || (s.op id).isSome

/-- The requests of a word that has parked some lanes, which they follow when they have resumed: those of an operation, or a request (13 R216). -/
def State.redone (s : State) (lanes : Lanes) : List Nat :=
  ((tsome s.reqs).filter (fun e => s.me.redo.any (fun x => x.1 &&& lanes != 0 && (x.2 = e.2.op || x.2 = e.1)))).map (·.1)

/-- The requests of the cohort's lanes that must be taken before one to a line: on one line in order, but on UO pages only for a byte in common;
every acquire of the lanes; and, of lanes that have resumed, what the lanes that performed have sent (13 R209, R216; 11 R192). -/
def State.before (s : State) (lanes : Lanes) (line : Nat) (slice : Bool) (pk : Nat) (bytes : List Nat) : List Nat :=
  let mine (r : Req) : Bool := r.tid = s.cur.tid && r.coh = s.cur.coh && r.lanes &&& lanes != 0
  let meet (r : Req) : Bool :=
    r.slice = slice && r.line = line &&
      (if pk = 2 || r.pk = 2 then r.kind.bytes.any (fun b => bytes.contains b)
       else slice || r.kind.bytes.any (fun b => bytes.any (fun x => x / 128 = b / 128)))
  ((tsome s.reqs).filter (fun e => mine e.2 && meet e.2)).map (·.1) ++ s.redone lanes ++
    (s.me.acqs.filter (fun a => a.1 &&& lanes != 0 && s.isOut a.2)).map (·.2)

/-- The unfinished operations of the cohort that satisfy f. -/
def State.opsBy (s : State) (f : Op → Bool) : List Nat :=
  ((tsome s.ops).filter (fun e => e.2.tid = s.cur.tid && e.2.coh = s.cur.coh && f e.2)).map (·.1)

/-- The unfinished operations of the cohort's lanes, of some kinds: 0 loads, 1 stores, 2 atomics. -/
def State.opsOf (s : State) (lanes : Lanes) (f : Op → Bool) : List Nat := s.opsBy (fun o => o.lanes &&& lanes != 0 && f o)

/-- The earlier SO accesses of the lanes, unfinished (13 R210). -/
def State.soOps (s : State) (lanes : Lanes) : List Nat := s.opsOf lanes (fun o => o.so)

/-- A thread's accesses that a release at a scope waits for: its loads, stores, atomics and unlocks that have not completed at it (11
R192, R194). -/
def State.relOps (s : State) (lanes : Lanes) (scope : Nat) : List Nat := s.opsBy (fun o => (o.kind ≤ 2 || o.kind = 5) && o.owes lanes scope)

/-- Whether an acquire of the lanes has not performed yet (11 R192). -/
def State.acqPending (s : State) (lanes : Lanes) : Bool :=
  s.me.acqs.any (fun a => a.1 &&& lanes != 0 && s.isOut a.2)

/-- Whether `cas` lanes of a word of these lanes, or of the word that these lanes were parked at, have yet to go (11 R196; 13 R216): a later access
of theirs follows them. -/
def State.casPending (s : State) (lanes : Lanes) : Bool :=
  !(s.opsBy (fun o => o.rest.any (fun c => lanes.getLsbD c.lane))).isEmpty ||
    s.me.redo.any (fun x => x.1 &&& lanes != 0 && (s.op x.2).any (fun o => !o.rest.isEmpty))

/-- Whether a fence holds a mem word of the lanes (11 R193): a rel fence does not hold loads. -/
def State.fenced (s : State) (lanes : Lanes) (load : Bool) : Bool :=
  s.me.holds.any (fun h => h.lanes &&& lanes != 0 && !(h.kind = 1 && load) &&
    h.ops.any (fun i => (s.op i).any (fun o => o.owes (h.lanes &&& lanes) h.scope)))

/-- Lanes of the word that have parked follow, when they resume, what the others have sent: an operation, or a request (13 R216). -/
def State.noteRedo (s : State) (id : Nat) : State :=
  let ps := s.G &&& s.me.parked
  if ps = 0 then s else s.modMe (fun c => { c with redo := c.redo.filter (fun r => s.isOut r.2) ++ [(ps, id)] })

/-- A request leaves the core, or waits there for what it follows. -/
def State.addReq (s : State) (r : Req) : State × Nat :=
  let f := s.fresh
  (f.1.setReq f.2 (some { r with seq := f.2, waits := !(r.after.isEmpty && r.ops.isEmpty) }), f.2)

/-- A request of the issuing cohort, in its order; `ops` are operations that must have completed before, at the scope `rel`. -/
def State.send (s : State) (op : Nat) (lanes : Lanes) (kind : ReqKind) (line : Nat) (slice : Bool) (cls page pk : Nat)
    (ops : List Nat) (after : List Nat := []) (rel : Nat := 6) (part : Option Lanes := none) : State × Nat :=
  s.addReq { op := op, master := s.myTeam.core, vf := s.myTeam.vf, tid := s.cur.tid, coh := s.cur.coh, lanes := lanes,
             kind := kind, line := line, slice := slice, cls := cls, page := page, pk := pk,
             after := s.before lanes line slice pk kind.bytes ++ after, ops := ops, rel := rel, part := part }

/-- A request of a que-class word, which no acquire load holds (27 R363): of lock words on one line in their order (27 R361), and, of lanes that have
resumed, after what the others have sent. -/
def State.sendQue (s : State) (op : Nat) (lanes : Lanes) (kind : ReqKind) (line : Nat) (slice : Bool) (page pk : Nat) (ops : List Nat := [])
    (rel : Nat := 6) : State × Nat :=
  let locks (r : Req) : Bool := match r.kind with
    | .lock _ _ _ _ => true
    | .unlock _ => true
    | _ => false
  let same := (tsome s.reqs).filter (fun e => slice && e.2.tid = s.cur.tid && e.2.coh = s.cur.coh && e.2.lanes &&& lanes != 0 && e.2.line = line &&
    locks e.2)
  let q := s.addReq { op := op, master := s.myTeam.core, vf := s.myTeam.vf, tid := s.cur.tid, coh := s.cur.coh, lanes := lanes, kind := kind,
                      line := line, slice := slice, page := page, pk := pk, after := same.map (·.1) ++ s.redone lanes, ops := ops, rel := rel }
  (q.1.noteRedo q.2, q.2)

-- host and peer memory (10 R173; 18 R269; 25 R356) ----------------------------------------------------------------------------

/-- The access-table target of a space-5 or space-6 access, with TGT and TIDX of a refusal: the host port, or the link port
of the peer's module number; without a port the access is refused (log entry 16). -/
def State.extTarget (s : State) (space rank : Nat) : Option Nat × Nat × Nat :=
  if space = 5 then (some 272, 3, 0)
  else
    let p := tget 0xFF s.portmap rank
    if p < 16 then (some (273 + p), 4, p) else (none, 4, 0xFF)

/-- How a master's packets fare on their way to the host port, or to a link port (10 R183). -/
def State.extWay (s : State) (space rank master : Nat) : Way :=
  match (s.extTarget space rank).1 with
  | some t => s.wayTo master (if t = 272 then 3 else siteOf (portXY (t - 273)))
  | none => .arrives 8 none

/-- The refusal of an access on behalf of a function to the host or a peer: on its way, or at its port (18 R269, R270, R272). -/
def State.extRefusal (s : State) (p : BitVec 64) (vf master right : Nat) : Option Refused :=
  let t := s.extTarget (spaceOf p) (rankOf p)
  match s.extWay (spaceOf p) (rankOf p) master with
  | .drops x => some ⟨5, x, p.toNat⟩
  | _ => if t.1.any (fun t => s.permits t vf master right) && !(right = 1 && s.keyless vf) then none else some ⟨t.2.1, t.2.2, p.toNat⟩

/-- Read host or peer bytes for a master: refused, zero bytes and a report (18 R270); none when the packet never arrives. -/
def State.extRead (s : State) (p : BitVec 64) (n vf master : Nat) : State × Option (List Byte) :=
  let sp := spaceOf p
  match s.extRefusal p vf master 0 with
  | some r => (s.refuseAt vf master 0 r, some (List.replicate n 0))
  | none =>
    if (s.extWay sp (rankOf p) master).astray then (s, none)
    else (s, some (if sp = 5 then memBytes s.hostMem (offOf p) n else memBytes s.peerMem (rankOf p * 2 ^ 52 + offOf p) n))

/-- Write host or peer bytes for a master: refused, dropped. Answers whether the write is acknowledged. -/
def State.extWrite (s : State) (p : BitVec 64) (vf master : Nat) (bs : List (Nat × Byte × Byte)) : State × Bool :=
  let sp := spaceOf p
  match s.extRefusal p vf master 1 with
  | some r => (s.refuseAt vf master 1 r, true)
  | none =>
    let put (m : List Host.Cell) (base : Nat) : List Host.Cell :=
      bs.foldl (fun m b => tmod 0 m (base + b.1) (fun o => mergeByte o b.2.1 b.2.2)) m
    if (s.extWay sp (rankOf p) master).astray then (s, false)
    else if sp = 5 then ({ s with hostMem := put s.hostMem (offOf p) }, true)
    else ({ s with peerMem := put s.peerMem (rankOf p * 2 ^ 52 + offOf p) }, true)

-- private lines in the L1 (10 R175) -----------------------------------------------------------------------------------------------

/-- The private line of the issuing cohort, filled into the L1 on a miss, unless its class is no-allocate (log entry 17); with an uncorrectable
error that its reader meets. -/
def State.privLine (s : State) (line cls : Nat) : State × BitVec 1024 × Option (Nat × Nat × Nat) :=
  let core := s.myTeam.core
  let vf := s.myTeam.vf
  let fill (s : State) : State × BitVec 1024 × Option (Nat × Nat × Nat) :=
    let r := s.readLine vf line core s.cur.tid s.cur.coh
    if cls = 3 || r.2.2.isSome then r
    else (r.1.l1Put core line { data := r.2.1, priv := true, cls := cls, vf := vf, owner := s.cur.tid * 32 + s.cur.coh }, r.2.1, none)
  match (s.core core).l1Line line with
  | some l =>
    if l.priv then
      let e := s.sense vf 0 core (l1Word line) line
      ((e.1.count core 0x07 4 1).modCore core (fun c => c.l1Touch line), l.data, e.2)
    else fill ((s.count core 0x08 4 1).l1Drop 0 core line)
  | none => fill (s.count core 0x08 4 1)

/-- Put bytes into a private line that has been looked up: in the L1, dirty, and the issuing cohort's; with no L1 copy, through to the home slice, as an
operation of the cohort's own, which a release waits for (11 R194). -/
def State.privPut (s : State) (line : Nat) (ws : List WByte) : State :=
  let core := s.myTeam.core
  match ((s.core core).l1Line line).filter (·.priv) with
  | some l => s.modCore core (fun c => c.setL1 line
      { l with data := applyBytes l.data ws, dirty := true, vf := s.myTeam.vf, owner := s.cur.tid * 32 + s.cur.coh })
  | none =>
    let f := s.ownOp s.cur.tid s.cur.coh
    f.1.writeAck f.2 s.myTeam.vf line core ws

/-- Write bytes of a private line. Its fill has no consumer but the error log (10 R182). -/
def State.privWrite (s : State) (line cls : Nat) (ws : List WByte) : State :=
  let r := s.privLine line cls
  (match r.2.2 with
  | some e => r.1.logError 0x11 s.myTeam.vf e.1 e.2.1 e.2.2 []
  | none => r.1).privPut line ws

/-- Private reads (place, address, bytes): the lanes' words of one line are one access to it (10 R176). -/
def State.privReads (s : State) (cls : Nat → Nat) (parts : List (Nat × Nat × Nat)) :
    State × List (Nat × Byte) × Option (Nat × Nat × Nat) :=
  (dedup (parts.map (fun p => lineAt p.2.1))).foldl (fun r l =>
    let y := r.1.privLine l (cls l)
    (y.1, r.2.1 ++ partBytes y.2.1 (parts.filter (fun p => lineAt p.2.1 = l)), r.2.2.orElse (fun _ => y.2.2))) (s, [], none)

/-- Private writes, of one line together. -/
def State.privWrites (s : State) (cls : Nat → Nat) (ws : List WByte) : State :=
  (dedup (ws.map (fun w => lineAt w.addr))).foldl (fun s l => s.privWrite l (cls l) (ws.filter (fun w => lineAt w.addr = l))) s

/-- Bytes put into private lines that have been looked up. -/
def State.privPuts (s : State) (ws : List WByte) : State :=
  (dedup (ws.map (fun w => lineAt w.addr))).foldl (fun s l => s.privPut l (ws.filter (fun w => lineAt w.addr = l))) s

/-- What private accesses wait for at issue: a line that the L1 does not hold and that has to be read from its channel. -/
def State.privAwait (s : State) (lines : List Nat) : Option State :=
  lines.findSome? (fun l =>
    if ((s.myCore).l1Line l).any (fun x => x.priv) then none else s.awaits s.myTeam.vf l s.myTeam.core)

/-- A cohort's dirty private lines. -/
def State.dirtyPriv (s : State) (tid coh : Nat) : List Nat :=
  ((s.core (s.team tid).core).l1.filter (fun e => e.2.priv && e.2.dirty && e.2.owner = tid * 32 + coh)).map (·.1)

/-- Write them back: they complete beyond cohort scope (11 R194). -/
def State.flushPriv (s : State) (tid coh op : Nat) : State :=
  (s.dirtyPriv tid coh).foldl (fun s l => s.writeBack op (s.team tid).core l) s

/-- Whether a release at a scope beyond cohort has dirty private lines of the cohort to take to memory first (11 R194). -/
def State.unflushed (s : State) (scope : Nat) : Bool := 1 < scope && !(s.dirtyPriv s.cur.tid s.cur.coh).isEmpty

/-- They go, as stores of the cohort, which this release and every later one waits for. -/
def State.flushFor (s : State) : State :=
  let n := (s.dirtyPriv s.cur.tid s.cur.coh).length
  let f := s.newOp { tid := s.cur.tid, coh := s.cur.coh, lanes := BitVec.allOnes 32, kind := 1, left := n }
  f.1.flushPriv s.cur.tid s.cur.coh f.2

-- loads, stores, atomics --------------------------------------------------------------------------------------------------------

/-- One lane's access. -/
structure LaneAcc where
  lane : Nat
  ptr : BitVec 64
  parts : List Piece := []
deriving DecidableEq, Repr

/-- The parts in space 0 that the lanes name, by line and by ordering kind, in order: each access is of the kind of the mapping that translated
it (13 R209, R214). -/
def linesOf (as : List LaneAcc) : List ((Nat × Nat) × List (Nat × Piece)) :=
  let ps := (as.map (fun a => if spaceOf a.ptr = 0 then a.parts.map (fun p => (a.lane, p)) else [])).flatten
  let key (x : Nat × Piece) : Nat × Nat := (lineAt x.2.pa, x.2.kind)
  (ps.foldl (fun ks x => if ks.contains (key x) then ks else ks ++ [key x]) []).map (fun k => (k, ps.filter (fun x => key x = k)))

/-- The parts of a load by line alone: its lanes are read together, so that those on one byte receive one value (13 R216); of mappings of several
kinds an SO one prevails, then an RC one. -/
def loadLines (as : List LaneAcc) : List ((Nat × Nat) × List (Nat × Piece)) :=
  let gs := linesOf as
  (dedup (gs.map (·.1.1))).map (fun l =>
    let mine := gs.filter (fun g => g.1.1 = l)
    let kind := if mine.any (fun g => g.1.2 = 1) then 1 else if mine.any (fun g => g.1.2 = 0) then 0 else 2
    ((l, kind), (mine.map (·.2)).flatten))

/-- The remote teams that the lanes name. -/
def State.remotes (s : State) (as : List LaneAcc) : List (Nat × List LaneAcc) :=
  let rs := (as.filter (fun a => spaceOf a.ptr = 4)).map (fun a => ((s.remoteTeam s.cur.tid (rankOf a.ptr)).getD 0, a))
  (dedup (rs.map (·.1))).map (fun t => (t, (rs.filter (fun r => r.1 = t)).map (·.2)))

/-- A pointer to remote scratch that names the issuing team's own run is a pointer to its scratchpad: one arbiter takes both (10 R173; 13
R216). -/
def State.ownRun (s : State) (p : BitVec 64) : BitVec 64 :=
  if spaceOf p = 4 && s.remoteTeam s.cur.tid (rankOf p) = some s.cur.tid then setFld (setFld p 60 4 2) 52 8 0 else p

/-- The lanes of accesses. -/
def lanesIn (as : List LaneAcc) : Lanes := lanesFrom (as.map (·.lane))

/-- The lanes of a line's parts. -/
def lanesAt (ps : List (Nat × Piece)) : Lanes := lanesFrom (ps.map (·.1))

/-- The parts in private lines: place in a result, address, bytes. -/
def privParts (as : List LaneAcc) : List (Nat × Nat × Nat) :=
  (as.map (fun a => if spaceOf a.ptr = 1 then a.parts.map (fun p => (16 * a.lane + p.at_, p.pa, p.len)) else [])).flatten

/-- Whether an access is performed at issue: not at a home slice nor over the mesh. -/
def immediate (p : BitVec 64) : Bool := spaceOf p != 0 && spaceOf p != 4

/-- What a mem word is: its flag, its policy operand, whether it acquires, and, of a release, what it waits for and at which scope. -/
structure MemX where
  flag : Nat
  pol : BitVec 64 := 0
  acq : Bool := false
  ops : List Nat := []
  rel : Nat := 6
deriving DecidableEq, Repr

/-- Whether any part is on an SO page (13 R210). -/
def anySo (as : List LaneAcc) : Bool := as.any (fun a => a.parts.any (fun p => p.kind = 1))

/-- The operation of a mem word's lanes. -/
def State.memOp (s : State) (x : MemX) (dest : Dest) (kind : Nat) (as : List LaneAcc) : State × Nat :=
  let f := s.newOp { tid := s.cur.tid, coh := s.cur.coh, flag := x.flag, lanes := lanesIn as, dest := dest, kind := kind, so := anySo as,
                     pc := s.herePc }
  (f.1.noteRedo f.2, f.2)

/-- The parts of an operation: those sent, and those performed at issue, whose acknowledgements are on their way. -/
def State.setParts (s : State) (op : Nat) (sent now : List (Lanes × Nat)) : State :=
  let s := match s.op op with
    | some o => s.setOp op (some { o with left := sent.length + now.length, parts := sent ++ now })
    | none => s
  now.foldl (fun s p => s.ackFor op 0 [] p.1 p.2) s

/-- The result so far of an operation, and how many of its parts are out. -/
def State.setGot (s : State) (op left : Nat) (got : Tab Byte) : State :=
  match s.op op with
  | some o => s.setOp op (some { o with left := left, got := got })
  | none => s

/-- What an SO access of the word follows beside its line's order (13 R210, R215): the thread's earlier SO accesses, and its own part before. -/
def State.soBefore (s : State) (kind op : Nat) (lanes : Lanes) (own : List (Lanes × Nat)) : List Nat × List Nat :=
  if kind = 1 then ((s.soOps lanes).filter (· != op), (own.filter (fun q => q.1 &&& lanes != 0)).map (·.2)) else ([], [])

/-- What a load has found so far: bytes, how many parts are out, the requests, and those on SO pages. -/
structure Loading where
  s : State
  got : List (Nat × Byte) := []
  out : Nat := 0
  reqs : List Nat := []
  so : List (Lanes × Nat) := []

/-- The lanes load: L1 hits and local memories give their bytes at issue, the rest at their arbiters (10 R175; 13 R208). -/
def State.doLoad (s : State) (x : MemX) (dest : Dest) (n : Nat) (as : List LaneAcc) : State :=
  let t := s.myTeam
  let f := s.memOp x dest 0 as
  let op := f.2
  let p := f.1.privReads (l1Class x.pol) (privParts as)
  let r : Loading := as.foldl (fun (r : Loading) a =>
    match spaceOf a.ptr with
    | 2 | 3 =>
      let e := r.s.senseRun t (spaceOf a.ptr) (offOf a.ptr) n
      { r with s := e.1.spoil op t.vf e.2, got := r.got ++ place (16 * a.lane) (e.1.runRead t (spaceOf a.ptr) (offOf a.ptr) n) }
    | 5 | 6 =>
      let e := r.s.extRead a.ptr n t.vf t.core
      match e.2 with
      | some bs => { r with s := e.1, got := r.got ++ place (16 * a.lane) bs }
      | none => { r with s := e.1, out := r.out + 1 }
    | _ => r) { s := p.1.spoil op t.vf p.2.2, got := p.2.1 }
  -- the lines of space 0
  let r := (loadLines as).foldl (fun (r : Loading) l =>
    let s := r.s
    let line := l.1.1
    let kind := l.1.2
    let ls := lanesAt l.2
    let parts := l.2.map (fun y => (16 * y.1 + y.2.at_, y.2.pa, y.2.len))
    let hit := match s.l1Get t.core line s.cur.tid s.cur.coh with
      | some e =>
        if e.priv || kind = 1 || !(s.before ls line true kind (ReqKind.read parts none).bytes).isEmpty || !x.ops.isEmpty then none else some e.data
      | none => none
    let s := s.count t.core (if hit.isSome then 0x07 else 0x08) 4 1
    match hit with
    | some d =>
      let e := s.sense t.vf 0 t.core (l1Word line) line
      { r with s := (e.1.spoil op t.vf e.2).modCore t.core (fun c => c.l1Touch line), got := r.got ++ partBytes d parts }
    | none =>
      let cls := l1Class x.pol line
      let so := s.soBefore kind op ls r.so
      let q := s.send op ls (.read parts (if cls = 3 || kind = 1 then none else some cls)) line true (slClass x.pol line)
        (l.2.headD default).2.line kind (so.1 ++ x.ops) so.2 x.rel
      { r with s := q.1, out := r.out + 1, reqs := q.2 :: r.reqs, so := if kind = 1 then (ls, q.2) :: r.so else r.so }) r
  -- remote scratch
  let r := (r.s.remotes as).foldl (fun (r : Loading) m =>
    let parts := m.2.map (fun a => (16 * a.lane, offOf a.ptr, n))
    let q := r.s.send op (lanesIn m.2) (.read parts none) (r.s.team m.1).core false 0 m.1 0 x.ops [] x.rel
    { r with s := q.1, out := r.out + 1, reqs := q.2 :: r.reqs }) r
  let s := r.s.setGot op r.out (gather [] r.got)
  if x.acq then s.modMe (fun c => { c with acqs := c.acqs ++ r.reqs.map (fun q => (lanesIn as, q)) }) else s

/-- A store looks its line up in the L1, and hits or misses (10 R175; 24 R346). -/
def State.lookedUp (s : State) (core line : Nat) : State :=
  s.count core (if (s.l1Get core line s.cur.tid s.cur.coh).any (fun l => !l.priv) then 0x07 else 0x08) 4 1

/-- Merge a byte write into a list: of one byte the later data under its mask prevails (13 R213, R216). -/
def addByte (ws : List WByte) (w : WByte) : List WByte :=
  if ws.any (fun y => y.addr = w.addr) then
    ws.map (fun y => if y.addr = w.addr then
      { y with data := mergeByte y.data w.data w.mask, mask := y.mask ||| w.mask } else y)
  else ws ++ [w]

/-- The byte writes of a part, from a lane's bytes and masks; bytes with an empty mask are not written. -/
def partWrites (pa at_ len : Nat) (data : List (Byte × Byte)) : List WByte :=
  ((List.range len).map (fun i => let b := data.getD (at_ + i) (0, 0); { addr := pa + i, data := b.1, mask := b.2 : WByte })).filter
    (fun w => w.mask != 0)

/-- The byte writes of lanes' parts of a line, one request each (13 R216; 14 R220): of one byte the highest lane's value stays, whichever request
carries it. `lanes` are the lanes of one request, `all` the parts of every request of the word to the line. -/
def lineStore (data : Nat → List (Byte × Byte)) (all : List (Nat × Piece)) (mine : Nat × Piece → Bool) : List WByte :=
  let bytes (y : Nat × Piece) : List WByte := partWrites y.2.pa y.2.at_ y.2.len (data y.1)
  let others := (all.filter (fun y => !(mine y))).map (fun y => (y.1, bytes y))
  (all.filter mine).foldl (fun ws y =>
    let later := ((others.filter (fun z => y.1 < z.1)).map (·.2)).flatten
    (((bytes y).map (fun w => { w with mask := later.foldl (fun m z => if z.addr = w.addr then m &&& ~~~z.mask else m) w.mask })).filter
      (fun w => w.mask != 0)).foldl addByte ws) []

/-- The lanes store, ascending, so that of one byte the highest lane's value stays (13 R216). `data` are a lane's bytes with their masks. Local
memories take their part at issue; the lanes of a line are one request on RC and SO pages, and on UO pages as an open bit has it, one for each
lane (14 R220; log entry 3). A store is complete in stages: where it has been performed, and for which lanes (11 R194). -/
def State.doStore (s : State) (x : MemX) (n : Nat) (data : Nat → List (Byte × Byte)) (as : List LaneAcc) : State :=
  let t := s.myTeam
  let f := s.memOp x .none 1 as
  let op := f.2
  let s := f.1.privWrites (l1Class x.pol) ((as.map (fun a => if spaceOf a.ptr = 1 then
    (a.parts.map (fun p => partWrites p.pa p.at_ p.len (data a.lane))).flatten else [])).flatten)
  let y := as.foldl (fun (r : State × Lanes) a =>
    let full := partWrites (offOf a.ptr) 0 n (data a.lane)
    match spaceOf a.ptr with
    | 2 | 3 => (r.1.runWrite t (spaceOf a.ptr) full, r.2)
    | 5 | 6 =>
      let e := r.1.extWrite a.ptr t.vf t.core (full.map (fun w => (w.addr - offOf a.ptr, w.data, w.mask)))
      (e.1, if e.2 then r.2 else r.2 ||| lane1 a.lane)
    | _ => r) (s, 0)
  let groups := linesOf as
  let one (r : State × List (Lanes × Nat) × List (Lanes × Nat)) (l : (Nat × Nat) × List (Nat × Piece)) (ps : List (Nat × Piece)) :
      State × List (Lanes × Nat) × List (Lanes × Nat) :=
    let all := ((groups.filter (fun g => g.1.1 = l.1.1)).map (·.2)).flatten
    let ws := lineStore data (sortBy (fun a b => a.1 ≤ b.1) all) (fun y => ps.contains y)
    if ws.isEmpty then r
    else
      let ls := lanesAt ps
      let so := r.1.soBefore l.1.2 op ls r.2.2
      -- the lanes of a line are served when the last of its requests has been acknowledged
      let q := r.1.send op ls (.write ws) l.1.1 true (slClass x.pol l.1.1) (ps.headD default).2.line l.1.2 (so.1 ++ x.ops) so.2 x.rel
        (some (lanesAt l.2))
      (q.1, r.2.1 ++ [(lanesAt l.2, 0)], if l.1.2 = 1 then (ls, q.2) :: r.2.2 else r.2.2)
  let r := groups.foldl (fun (r : State × List (Lanes × Nat) × List (Lanes × Nat)) l =>
    let r := (r.1.lookedUp t.core l.1.1, r.2)
    if l.1.2 = 2 then
      let d := r.1.draw
      if bit d.2 0 then (lanesOf (lanesAt l.2)).foldl (fun r k => one r l (l.2.filter (fun y => y.1 = k))) (d.1, r.2)
      else one (d.1, r.2) l l.2
    else one r l l.2) (y.1, [], [])
  let r := (r.1.remotes as).foldl (fun (r : State × List (Lanes × Nat)) m =>
    let ws := m.2.foldl (fun ws a => (partWrites (offOf a.ptr) 0 n (data a.lane)).foldl addByte ws) []
    if ws.isEmpty then r
    else ((r.1.send op (lanesIn m.2) (.write ws) (r.1.team m.1).core false 0 m.1 0 x.ops [] x.rel).1, r.2 ++ [(lanesIn m.2, 0)])) (r.1, r.2.1)
  -- the parts performed at issue: in local memories, beyond the module, in the L1
  let at_ (f : Nat → Bool) : Lanes := lanesIn (as.filter (fun a => f (spaceOf a.ptr)))
  let now := [(at_ (fun k => k = 2 || k = 3), 0), (at_ (fun k => k = 5 || k = 6) &&& ~~~y.2, 6), (at_ (· = 1), 7)].filter (fun p => p.1 != 0)
  let gone := if y.2 = 0 then [] else [(y.2, 6)]
  r.1.setParts op (r.2 ++ gone) (if (r.2 ++ gone ++ now).isEmpty then [(0, 0)] else now)

/-- The element addresses that lanes name, with the lanes of each, ascending (11 R196). -/
def elementsOf (l : List (Nat × Nat)) : List (Nat × List Nat) :=
  (dedup (l.map (·.1))).map (fun a => (a, (l.filter (fun x => x.1 = a)).map (·.2)))

/-- The lanes' atomics at private elements, each lane's own: gathered from and put back into their words' lines, in one access to each line (10 R176;
11 R195). It answers the returned bytes. -/
def State.privAtomics (s : State) (id : Nat) (x : MemX) (op n : Nat) (v w : Nat → BitVec 64) (as : List LaneAcc) : State × List (Nat × Byte) :=
  let r := s.privReads (l1Class x.pol) (privParts as)
  let g := gather [] r.2.1
  let old (l : Nat) : BitVec 64 := BitVec.ofNat 64 (ofLeBytes ((List.range n).map (fun i => tget 0 g (16 * l + i))))
  let mine := as.filter (fun a => spaceOf a.ptr = 1)
  let ws := (mine.map (fun a => match atomNew op (old a.lane) (v a.lane) (w a.lane) with
    | some y => (a.parts.map (fun p => partWrites p.pa p.at_ p.len ((bytesOf n y).map (fun b => (b, (255 : Byte)))))).flatten
    | none => [])).flatten
  ((r.1.privPuts ws).spoil id s.myTeam.vf r.2.2, (mine.map (fun a => place (16 * a.lane) (bytesOf n (old a.lane)))).flatten)

/-- An atomic at an element of a team's scratchpad run (11 R195): the old value. -/
def State.runAtomic (s : State) (t : Team) (op n off : Nat) (v w : BitVec 64) : State × BitVec 64 × Option (Nat × Nat × Nat) :=
  let e := s.senseRun t 2 off n
  let old : BitVec 64 := BitVec.ofNat 64 (ofLeBytes (e.1.runRead t 2 off n))
  match atomNew op old v w with
  | some z => (e.1.runWrite t 2 (wbytes off (bytesOf n z)), old, e.2)
  | none => (e.1, old, e.2)

/-- A part of a `cas`, or of another atomic of one lane, with what it acts on. -/
def LaneAcc.toCas (a : LaneAcc) (op n team : Nat) (pol : BitVec 64) (v w : BitVec 64) : CasLane :=
  let p := a.parts.headD default
  { lane := a.lane, v := v, w := w, op := op, size := n, space := spaceOf a.ptr, addr := if spaceOf a.ptr = 0 then p.pa else offOf a.ptr,
    team := team, slc := slClass pol p.pa, page := p.line, pk := p.kind }

/-- A lane's atomic in its team's own run. -/
def State.hereAtomic (s : State) (id : Nat) (c : CasLane) : State × List (Nat × Byte) :=
  let r := s.runAtomic s.myTeam c.op c.size c.addr c.v c.w
  (r.1.spoil id s.myTeam.vf r.2.2, place (16 * c.lane) (bytesOf c.size r.2.1))

/-- The next lane of a `cas` goes (11 R196), when the one before has returned: at once where its cohort stands, else as a request. -/
def State.casNext (s : State) (id : Nat) (o : Op) (c : CasLane) (cs : List CasLane) : State :=
  let ls := lane1 c.lane
  if c.space = 2 then
    let r := s.hereAtomic id c
    match r.1.op id with
    | some p => r.1.setOp id (some { p with got := gather p.got r.2, rest := cs })
    | none => r.1
  else
    let s := s.setOp id (some { o with left := 1, rest := cs })
    let k := ReqKind.atomic c.op c.size c.addr [{ lane := c.lane, v := c.v, w := c.w }]
    if c.space = 0 then (s.send id ls k (lineAt c.addr) true c.slc c.page c.pk (s.soBefore c.pk id ls []).1).1
    else (s.send id ls k (s.team c.team).core false 0 c.team 0 []).1

/-- The lanes of a `cas` that can go now, up to one that is on its way. -/
def State.casRun (s : State) (id : Nat) : Nat → State
  | 0 => s
  | n + 1 =>
    match s.op id with
    | some o =>
      match o.rest with
      | c :: cs => if o.left = 0 then (s.casNext id o c cs).casRun id n else s
      | [] => s
    | none => s

/-- The lanes' atomics but for `cas` (11 R195 to R197): at home slices, in the L1, or at the owning core's SRAM; lanes that name one element are
one request. `ret` says that the old value returns. `cas` lanes go one by one. The other bits of VD keep the values they had at issue (03
R50). -/
def State.doAtomics (s : State) (x : MemX) (dest : Dest) (aop n : Nat) (ret : Bool) (v w : Nat → BitVec 64) (as : List LaneAcc) :
    State :=
  let f := s.memOp x dest (if ret then 2 else 1) as
  let op := f.2
  let kept := match dest with
    | .atomic vd _ => (as.map (fun a => place (16 * a.lane) (bytesOf 16 (s.v a.lane vd)))).flatten
    | _ => []
  let teamOf (a : LaneAcc) : Nat := (s.remoteTeam s.cur.tid (rankOf a.ptr)).getD 0
  -- private elements are their lanes' own
  let p := f.1.privAtomics op x aop n v w as
  let f := (p.1, op)
  if 12 ≤ aop then
    match f.1.op op with
    | some o =>
      let go := as.filter (fun a => spaceOf a.ptr != 1)
      (f.1.setOp op (some { o with
        got := gather [] (kept ++ p.2), rest := go.map (fun a => a.toCas aop n (teamOf a) x.pol (v a.lane) (w a.lane)) })).casRun op 33
    | none => f.1
  else
    let al (l : Nat) : ALane := { lane := l, v := v l, w := w l }
    let now := as.foldl (fun (r : State × List (Nat × Byte)) a =>
      if spaceOf a.ptr = 2 then
        let y := r.1.hereAtomic op (a.toCas aop n 0 x.pol (v a.lane) (w a.lane))
        (y.1, r.2 ++ y.2)
      else r) (f.1, p.2)
    -- space 0, by element and by the ordering kind of each lane's mapping
    let at0 := (as.filter (fun a => spaceOf a.ptr = 0)).map (fun a => (a.parts.headD default, a.lane))
    let r := [0, 1, 2].foldl (fun (r : State × List (Lanes × Nat)) kind =>
      let mine := at0.filter (fun e => e.1.kind = kind)
      (elementsOf (mine.map (fun e => (e.1.pa, e.2)))).foldl (fun r e =>
        let ls := lanesFrom e.2
        let page := ((mine.find? (fun y => y.1.pa = e.1)).getD default).1.line
        ((r.1.send op ls (.atomic aop n e.1 (e.2.map al)) (lineAt e.1) true (slClass x.pol e.1) page kind
          ((r.1.soBefore kind op ls []).1 ++ x.ops)).1, r.2 ++ [(ls, 0)])) r) (now.1, [])
    -- remote scratch
    let r := (r.1.remotes as).foldl (fun (r : State × List (Lanes × Nat)) m =>
      (elementsOf (m.2.map (fun a => (offOf a.ptr, a.lane)))).foldl (fun r e =>
        ((r.1.send op (lanesFrom e.2) (.atomic aop n e.1 (e.2.map al)) (r.1.team m.1).core false 0 m.1 0 x.ops).1,
          r.2 ++ [(lanesFrom e.2, 0)])) r) r
    if ret then r.1.setGot op r.2.length (gather [] (kept ++ now.2))
    else
      let here (k : Nat) : Lanes := lanesIn (as.filter (fun a => spaceOf a.ptr = k))
      let parts := [(here 2, 0), (here 1, 7)].filter (fun p => p.1 != 0)
      r.1.setParts op r.2 (if (r.2 ++ parts).isEmpty then [(0, 0)] else parts)

end Sys2Proof.Machine
end

