-- ==== Sys2Proof/Machine/MemI.lean ====
section
/-!
DEFINITION. MemI.lean: the mem class but for copies (11 R186 to R198): loads, stores, acquire and release forms, atomics and
reductions, fences and cache operations.
-/
namespace Sys2Proof.Machine

/-- A mem word's end: the lanes that have not parked go on (11 R186; 09 R160). -/
def State.memDone (s : State) (spin : Bool) : State := s.doneIn (s.G &&& ~~~s.me.parked) spin

/-- The active lanes' accesses of a plain form, unit `u`. -/
def State.laneAccs (s : State) (g a o u : Nat) : List LaneAcc :=
  (lanesOf (s.active g)).map (fun l => { lane := l, ptr := effAddr (s.ptr l a) o u })

/-- What accesses wait for at issue: an order that only requests keep (an acquire that has not performed, a release or an SO order before an
access that is performed at issue), or a private line. -/
def State.orderHold (s : State) (x : MemX) (as : List LaneAcc) (good : List (Nat × List Piece)) : Option State :=
  let now := lanesFrom ((as.filter (fun a => immediate a.ptr)).map (·.lane))
  let priv := good.filter (fun e => as.any (fun a => a.lane = e.1 && spaceOf a.ptr = 1))
  let so := lanesFrom ((priv.filter (fun e => e.2.any (fun p => p.kind = 1))).map (·.1))
  if s.acqPending now || (now != 0 && !x.ops.isEmpty) || (so != 0 && !(s.soOps so).isEmpty) then some s
  else s.privAwait (dedup ((priv.map (fun e => e.2.map (fun p => lineAt p.pa))).flatten))

/-- The common course of a word that accesses memory in lanes (09 R160): the checks of stage 2, translation, and `k` on the
lanes that perform. `spin` is R41's. -/
def State.accessWord (s : State) (access n align : Nat) (x : MemX) (as : List LaneAcc) (spin : Bool)
    (k : State → List LaneAcc → State) (uni : Bool := false) : State :=
  if as.isEmpty then s.done true
  else
    match stage2Fault access (as.map (fun a => (a.lane, s.stage2 access n align a.ptr))) with
    | some f => s.raise (if uni then { f with lanes := s.G } else f)
    | none =>
      let as := as.map (fun a => { a with ptr := s.ownRun a.ptr })
      s.translated (needOf access) access n (as.map (fun a => (a.lane, s.pieces a.lane n a.ptr)))
        (fun s good =>
          let as := good.map (fun e => { ((as.find? (fun a => a.lane = e.1)).getD ⟨0, 0, []⟩) with parts := e.2 })
          if as.isEmpty then s.memDone spin else (k s as).memDone spin)
        (s.orderHold x as) uni

/-- A word of the mem class issues when no fence holds it, no `cas` lane of its lanes has yet to go, and its flag takes one more operation (11
R193, R196; 03 R49); a word that no thread executes has its register checks alone (14 R221). A release at a scope beyond cohort first takes the
cohort's dirty private lines to memory (11 R194). -/
def State.memIssue (s : State) (lanes : Lanes) (flag : Nat) (load : Bool) (rs : List RegCheck) (k : State) (rel : Nat := 0) : Out :=
  if lanes = 0 then s.checked rs k
  else if s.fenced lanes load || s.casPending lanes || !(s.flagFree flag) then .next s
  else s.checked rs (if s.unflushed rel then s.flushFor else k)

/-- A plain load of n bytes (11 R188). -/
def State.load (s : State) (d a p o g n : Nat) (sx : Bool) : Out :=
  let x : MemX := { flag := s.cur.seta, pol := s.policy p }
  s.memIssue (s.active g) x.flag true [s.vr d, s.vr a]
    (s.accessWord 0 n 0 x (s.laneAccs g a o n) true (fun s as => s.doLoad x (.load d n sx) n as))

/-- ld.n8, zero-extended. R188. -/
def execLdN8 (d a p o g : Nat) (s : State) : Out := s.load d a p o g 1 false
/-- ld.i8, sign-extended to 32 bits. R188. -/
def execLdI8 (d a p o g : Nat) (s : State) : Out := s.load d a p o g 1 true
/-- ld.n16. R188. -/
def execLdN16 (d a p o g : Nat) (s : State) : Out := s.load d a p o g 2 false
/-- ld.i16. R188. -/
def execLdI16 (d a p o g : Nat) (s : State) : Out := s.load d a p o g 2 true
/-- ld.w. R188. -/
def execLdW (d a p o g : Nat) (s : State) : Out := s.load d a p o g 4 false
/-- ld.d. R188. -/
def execLdD (d a p o g : Nat) (s : State) : Out := s.load d a p o g 8 false
/-- ld.q. R188. -/
def execLdQ (d a p o g : Nat) (s : State) : Out := s.load d a p o g 16 false

/-- The n low bytes of a register, all written. -/
def plainData (n : Nat) (x : BitVec 128) : List (Byte × Byte) := (bytesOf n x).map (fun b => (b, 255))

/-- A store of n bytes; `data` gives the bytes and masks of a register (11 R188, R190). -/
def State.store (s : State) (v a p o g n u align : Nat) (data : BitVec 128 → List (Byte × Byte)) : Out :=
  let x : MemX := { flag := s.cur.setb, pol := s.policy p }
  s.memIssue (s.active g) x.flag false [s.vr v, s.vr a]
    (s.accessWord 1 n align x (s.laneAccs g a o u) false (fun t as => t.doStore x n (fun l => data (s.v l v)) as))

/-- st.n8. R188. -/
def execStN8 (v a p o g : Nat) (s : State) : Out := s.store v a p o g 1 1 0 (plainData 1)
/-- st.n16. R188. -/
def execStN16 (v a p o g : Nat) (s : State) : Out := s.store v a p o g 2 2 0 (plainData 2)
/-- st.w. R188. -/
def execStW (v a p o g : Nat) (s : State) : Out := s.store v a p o g 4 4 0 (plainData 4)
/-- st.d. R188. -/
def execStD (v a p o g : Nat) (s : State) : Out := s.store v a p o g 8 8 0 (plainData 8)
/-- st.q. R188. -/
def execStQ (v a p o g : Nat) (s : State) : Out := s.store v a p o g 16 16 0 (plainData 16)

/-- Bytes with masks made of w-bit fields whose enables stand from bit `en` on (11 R190). -/
def subData (w n en : Nat) (x : BitVec 128) : List (Byte × Byte) :=
  let mask : BitVec 128 := (List.range 16).foldl (fun m i =>
    if bit x (en + i) then m ||| BitVec.ofNat 128 ((2 ^ w - 1) * 2 ^ (w * i)) else m) 0
  (bytesOf n x).zip (bytesOf n mask)

/-- stnib: 16 nibbles under enables. R190. -/
def execStnib (v a p o g : Nat) (s : State) : Out := s.store v a p o g 8 8 8 (subData 4 8 64)
/-- stsix: 16 six-bit elements under enables. R190. -/
def execStsix (v a p o g : Nat) (s : State) : Out := s.store v a p o g 12 12 4 (subData 6 12 96)

/-- The one access of a uniform form (11 R191): a thread of its own, in the model the group's lowest lane. -/
def State.uniAcc (s : State) (a o : Nat) : List LaneAcc := [{ lane := lowest s.G, ptr := effAddr (s.sget a) o 8 }]

/-- ldu.d. R191. -/
def execLduD (d a p o : Nat) (s : State) : Out :=
  let x : MemX := { flag := s.cur.seta, pol := s.policy p }
  s.memIssue s.G x.flag true [] (s.accessWord 0 8 0 x (s.uniAcc a o) true (fun s as => s.doLoad x (.sload d) 8 as) true)

/-- stu.d. R191. -/
def execStuD (v a p o : Nat) (s : State) : Out :=
  let x : MemX := { flag := s.cur.setb, pol := s.policy p }
  s.memIssue s.G x.flag false []
    (s.accessWord 1 8 0 x (s.uniAcc a o) false (fun t as => t.doStore x 8 (fun _ => plainData 8 ((s.sget v).setWidth 128)) as) true)

/-- The active lanes' accesses at the pointer itself (11 R186). -/
def State.ptrAccs (s : State) (g a : Nat) : List LaneAcc :=
  (lanesOf (s.active g)).map (fun l => { lane := l, ptr := s.ptr l a })

/-- An acquire load (11 R192). -/
def State.loadAcq (s : State) (d a p g n : Nat) : Out :=
  let x : MemX := { flag := s.cur.seta, pol := s.policy p, acq := true }
  s.memIssue (s.active g) x.flag true [s.vr d, s.vr a]
    (s.accessWord 0 n n x (s.ptrAccs g a) true (fun s as => s.doLoad x (.load d n false) n as))

/-- ldacq.w. R192. -/
def execLdacqW (d a p _ g : Nat) (s : State) : Out := s.loadAcq d a p g 4
/-- ldacq.d. R192. -/
def execLdacqD (d a p _ g : Nat) (s : State) : Out := s.loadAcq d a p g 8
/-- ldacq.q. R192. -/
def execLdacqQ (d a p _ g : Nat) (s : State) : Out := s.loadAcq d a p g 16

/-- A release store (11 R192). -/
def State.storeRel (s : State) (v a p sc g n : Nat) : Out :=
  let x : MemX := { flag := s.cur.setb, pol := s.policy p, ops := s.relOps (s.active g) sc, rel := sc }
  s.memIssue (s.active g) x.flag false [s.vr v, s.vr a]
    (s.accessWord 1 n n x (s.ptrAccs g a) false (fun t as => t.doStore x n (fun l => plainData n (s.v l v)) as)) sc

/-- strel.w. R192. -/
def execStrelW (v a p sc g : Nat) (s : State) : Out := s.storeRel v a p sc g 4
/-- strel.d. R192. -/
def execStrelD (v a p sc g : Nat) (s : State) : Out := s.storeRel v a p sc g 8
/-- strel.q. R192. -/
def execStrelQ (v a p sc g : Nat) (s : State) : Out := s.storeRel v a p sc g 16

/-- An atomic that returns the old value (11 R195): operation `op` on n bytes; `cas` takes the new value from the next
element. -/
def State.atom (s : State) (op n d a p o g : Nat) : Out :=
  let x : MemX := { flag := s.cur.seta, pol := s.policy p }
  s.memIssue (s.active g) x.flag false [s.vr d, s.vr a]
    (s.accessWord 2 n n x (s.laneAccs g a o n) false
      (fun t as => t.doAtomics x (.atomic d n) op n true
        (fun l => BitVec.ofNat 64 (fld (s.v l d) 0 (8 * n))) (fun l => BitVec.ofNat 64 (fld (s.v l d) (8 * n) (8 * n))) as))

/-- atom.add.i32. R195. -/
def execAtomAddI32 (d a p o g : Nat) (s : State) : Out := s.atom 0 4 d a p o g
/-- atom.add.i64. R195. -/
def execAtomAddI64 (d a p o g : Nat) (s : State) : Out := s.atom 1 8 d a p o g
/-- atom.add.f32. R195. -/
def execAtomAddF32 (d a p o g : Nat) (s : State) : Out := s.atom 2 4 d a p o g
/-- atom.min.i32. R195. -/
def execAtomMinI32 (d a p o g : Nat) (s : State) : Out := s.atom 3 4 d a p o g
/-- atom.min.n32. R195. -/
def execAtomMinN32 (d a p o g : Nat) (s : State) : Out := s.atom 4 4 d a p o g
/-- atom.max.i32. R195. -/
def execAtomMaxI32 (d a p o g : Nat) (s : State) : Out := s.atom 5 4 d a p o g
/-- atom.max.n32. R195. -/
def execAtomMaxN32 (d a p o g : Nat) (s : State) : Out := s.atom 6 4 d a p o g
/-- atom.and.w. R195. -/
def execAtomAndW (d a p o g : Nat) (s : State) : Out := s.atom 7 4 d a p o g
/-- atom.or.w. R195. -/
def execAtomOrW (d a p o g : Nat) (s : State) : Out := s.atom 8 4 d a p o g
/-- atom.xor.w. R195. -/
def execAtomXorW (d a p o g : Nat) (s : State) : Out := s.atom 9 4 d a p o g
/-- atom.xchg.w. R195. -/
def execAtomXchgW (d a p o g : Nat) (s : State) : Out := s.atom 10 4 d a p o g
/-- atom.xchg.d. R195. -/
def execAtomXchgD (d a p o g : Nat) (s : State) : Out := s.atom 11 8 d a p o g
/-- atom.cas.w. R195. -/
def execAtomCasW (d a p o g : Nat) (s : State) : Out := s.atom 12 4 d a p o g
/-- atom.cas.d. R195. -/
def execAtomCasD (d a p o g : Nat) (s : State) : Out := s.atom 13 8 d a p o g

/-- A reduction: the atomic without its return (11 R197). -/
def State.mred (s : State) (op n v a p o g : Nat) : Out :=
  let x : MemX := { flag := s.cur.setb, pol := s.policy p }
  s.memIssue (s.active g) x.flag false [s.vr v, s.vr a]
    (s.accessWord 2 n n x (s.laneAccs g a o n) false
      (fun t as => t.doAtomics x .none op n false (fun l => BitVec.ofNat 64 (fld (s.v l v) 0 (8 * n))) (fun _ => 0) as))

/-- mred.add.i32. R197. -/
def execMredAddI32 (v a p o g : Nat) (s : State) : Out := s.mred 0 4 v a p o g
/-- mred.add.i64. R197. -/
def execMredAddI64 (v a p o g : Nat) (s : State) : Out := s.mred 1 8 v a p o g
/-- mred.add.f32. R197. -/
def execMredAddF32 (v a p o g : Nat) (s : State) : Out := s.mred 2 4 v a p o g
/-- mred.min.i32. R197. -/
def execMredMinI32 (v a p o g : Nat) (s : State) : Out := s.mred 3 4 v a p o g
/-- mred.min.n32. R197. -/
def execMredMinN32 (v a p o g : Nat) (s : State) : Out := s.mred 4 4 v a p o g
/-- mred.max.i32. R197. -/
def execMredMaxI32 (v a p o g : Nat) (s : State) : Out := s.mred 5 4 v a p o g
/-- mred.max.n32. R197. -/
def execMredMaxN32 (v a p o g : Nat) (s : State) : Out := s.mred 6 4 v a p o g
/-- mred.and.w. R197. -/
def execMredAndW (v a p o g : Nat) (s : State) : Out := s.mred 7 4 v a p o g
/-- mred.or.w. R197. -/
def execMredOrW (v a p o g : Nat) (s : State) : Out := s.mred 8 4 v a p o g
/-- mred.xor.w. R197. -/
def execMredXorW (v a p o g : Nat) (s : State) : Out := s.mred 9 4 v a p o g

/-- fence: it is held by an earlier fence as every mem word is, completes at issue, and holds later mem words of its active threads until its condition holds for them at its scope. R193. -/
def execFence (sc k g : Nat) (s : State) : Out :=
  let ls := s.active g
  let t := if k != 0 && ls != 0 && s.unflushed sc then s.flushFor else s
  let ops := t.opsBy (fun o => o.owes ls sc && ((k != 1 && (o.kind = 0 || o.kind = 2)) || (k != 0 && (o.kind = 1 || o.kind = 2))))
  let t := if ls = 0 then t else t.modMe (fun c => { c with
    holds := c.holds.filter (fun h => h.ops.any (fun o => (s.op o).isSome)) ++ [{ lanes := ls, kind := k, ops := ops, scope := sc }] })
  .next (if s.fenced ls true then s else t.done true)

/-- A cache operation's translated lanes (11 R198): spaces 0 and 1 are translated, the others are left alone. The pointer checks of stage 2 are
those of every memory instruction (09 R160; 10 R173). `k` acts on the operation that the line's writes are acknowledged to. -/
def State.cacheWord (s : State) (a o g : Nat) (n : State → List LaneAcc → Nat) (k : State → Nat → List LaneAcc → State) : Out :=
  let as := s.laneAccs g a o 128
  s.memIssue (s.active g) s.cur.setb true [s.vr a]
    (if as.isEmpty then s.done true
     else
      match stage2Fault 0 (as.map (fun a => (a.lane, s.stage2 0 1 0 a.ptr))) with
      | some f => s.raise f
      | none =>
        s.translated 1 0 1 (as.map (fun a => (a.lane, s.pieces a.lane 1 a.ptr))) (fun s good =>
          let as := good.map (fun e => { ((as.find? (fun a => a.lane = e.1)).getD ⟨0, 0, []⟩) with parts := e.2 })
          if as.isEmpty then s.memDone false
          else
            let f := s.newOp { tid := s.cur.tid, coh := s.cur.coh, flag := s.cur.setb, lanes := lanesIn as, kind := 1, left := 1 + n s as }
            ((k f.1 f.2 as).ackFor f.2 0 []).memDone false))

/-- The physical lines that lanes name in spaces 0 and 1. -/
def cacheLines (as : List LaneAcc) : List (Nat × Bool) :=
  let ls := ((as.map (fun a => a.parts.map (fun p => (lineAt p.pa, decide (spaceOf a.ptr = 1))))).flatten)
  ls.foldl (fun acc x => if acc.contains x then acc else acc ++ [x]) []

/-- How many of some lines are dirty in the core's L1. -/
def State.dirtyIn (s : State) (ls : List (Nat × Bool)) : Nat :=
  (ls.filter (fun l => ((s.myCore).l1Line l.1).any (fun x => x.dirty))).length

/-- cclean: a dirty private line is written back and stays valid. R198. -/
def execCclean (a _ o g : Nat) (s : State) : Out :=
  let mine (as : List LaneAcc) : List (Nat × Bool) := (cacheLines as).filter (·.2)
  s.cacheWord a o g (fun s as => s.dirtyIn (mine as)) (fun s op as => (mine as).foldl (fun s l => s.writeBack op s.myTeam.core l.1) s)

/-- cflush: a dirty line is written back, then the copy goes, and leaves the slice's directory. R198. -/
def execCflush (a _ o g : Nat) (s : State) : Out :=
  s.cacheWord a o g (fun s as => s.dirtyIn (cacheLines as)) (fun s op as => (cacheLines as).foldl (fun s l => s.l1Drop op s.myTeam.core l.1) s)

/-- A line is prefetched for a lane: into the L1, of space 1 at once. An uncorrectable error goes to the log only. -/
def State.prefetch (s : State) (pol : BitVec 64) (line lane : Nat) (priv : Bool) : State :=
  let c1 := l1Class pol line
  if c1 = 3 || ((s.myCore).l1Line line).isSome then s
  else if let some x := if priv then s.readRefusal s.myTeam.vf line s.myTeam.core else none then s.refuseAt s.myTeam.vf s.myTeam.core 0 x
  else if priv then
    let r := s.privLine line c1
    match r.2.2 with
    | some e => r.1.logError 0x11 s.myTeam.vf e.1 e.2.1 e.2.2 []
    | none => r.1
  else (s.send 0 (lane1 lane) (.fill false c1) line true (slClass pol line) 0 0 []).1

/-- pfetch: a space-0 or space-1 line is filled under the policy operand; no fault. A translation that misses is walked for as any is (18 R267); of
each refused walk there is one report. R198. -/
def execPfetch (a p o g : Nat) (s : State) : Out :=
  let t := s.myTeam
  let as := (s.laneAccs g a o 128).filter (fun a => spaceOf a.ptr < 2 && rankOf a.ptr = 0 && (spaceOf a.ptr = 0 || offOf a.ptr / 4 < s.me.stkNow))
  let pol := s.policy p
  s.memIssue (s.active g) 15 true [s.vr a] (
    let r := s.transAll 1 (as.map (fun a => (a.lane, s.pieces a.lane 1 a.ptr)))
    if !r.misses.isEmpty then (dedup r.misses).foldl (fun s p => s.startWalk t.core t.vf p) s
    else
      let s := s.badWalks t.core t.vf r.bads
      (r.good.foldl (fun s e =>
        let priv := as.any (fun a => a.lane = e.1 && spaceOf a.ptr = 1)
        s.prefetch pol (lineAt (e.2.headD default).pa) e.1 priv) s).done true)

end Sys2Proof.Machine
end

