-- ==== Sys2Proof/Machine/Board.lean ====
section
/-!
DEFINITION. Board.lean: the boarding request slots of a core (20 R296, R302 to R307): their ends and their disarming.
-/
namespace Sys2Proof.Machine

def Core.boardAt (c : Core) (i : Nat) : BoardSlot := tget {} c.boards i
def Core.setBoard (c : Core) (i : Nat) (b : BoardSlot) : Core := { c with boards := Machine.tset {} c.boards i b }

/-- END codes (20 R307). -/
def endDone : Nat := 0
def endCancelled : Nat := 1
def endRefused : Nat := 2
def endAbsent : Nat := 3
def endRemoved : Nat := 4
def endCorrupt : Nat := 5

/-- The ring-destination lock of a request goes (20 R304; 18 R276). -/
def Core.unlockBoard (c : Core) (i : Nat) : Core := { c with rlocks := c.rlocks.filter (fun e => e.1 != 28 + i) }

/-- A request ends: it completes its `board` (20 R304). A refill, or a request of a terminated team, frees its slot. -/
def State.endBoard (s : State) (core i fin : Nat) : State :=
  let b := (s.core core).boardAt i
  let f := s.fresh
  let gone := 4 ≤ i || (s.team b.tid).terminated
  let s := f.1.modCore core (fun c => (c.setBoard i (if gone then {} else
    { b with state := 3, fin := fin, pending := false, cancel := false, op := 0, order := f.2 })).unlockBoard i)
  s.endOp b.op

/-- The slots that hold an armed or landing request for which f holds. -/
def Core.boardsOf (c : Core) (f : BoardSlot → Bool) : List (Nat × BoardSlot) :=
  c.boards.filter (fun e => (e.2.state = 1 || e.2.state = 2) && f e.2)

/-- A word, or its team's retirement, disarms requests (20 R306): it reaches the stop at the next ring clock (R308). -/
def State.disarm (s : State) (core : Nat) (f : BoardSlot → Bool) : State :=
  ((s.core core).boardsOf (fun b => f b && b.quit = 0)).foldl (fun s e =>
    s.modCore core (fun c => c.setBoard e.1 { e.2 with quit := s.rclk + 1 })) s

/-- A request is disarmed (20 R306): an armed one ends CANCELLED; a landing one completes its landing first. -/
def State.cancelBoard (s : State) (core i : Nat) : State :=
  let b := (s.core core).boardAt i
  if b.state = 1 then s.endBoard core i endCancelled
  else s.modCore core (fun c => c.setBoard i { b with quit := 0, cancel := true })

/-- The disarms that have reached a stop take effect (20 R308). -/
def State.takeQuits (s : State) (core : Nat) : State :=
  ((s.core core).boardsOf (fun b => b.quit != 0 && b.quit ≤ s.rclk)).foldl (fun s e => s.cancelBoard core e.1) s

/-- Whether a request of a kind is landing. -/
def State.landing (s : State) (core : Nat) (f : BoardSlot → Bool) : Bool :=
  (s.core core).boards.any (fun e => e.2.state = 2 && f e.2)

/-- The plane that a request delivers into: 0 shadow, 1 active (20 R310: a refill follows its plane). -/
def BoardSlot.into (b : BoardSlot) (plane : Nat) : Bool := b.dest = 0 && b.plane = plane

end Sys2Proof.Machine
end

