-- ==== Sys2Proof/Machine/Waits.lean ====
section
/-!
DEFINITION. Waits.lean: what the cohort event arbiter does (07 R133 to R140; 05 R96, R97; 09 R169): mask waits, the team
barrier, donations, and the retirement of cohorts (02 R43).
-/
namespace Sys2Proof.Machine

/-- A mask register, as the event before left it (07 R133). -/
def Cohort.mget (c : Cohort) (m : Nat) : Lanes := tget 0 c.m m

def Cohort.mset (c : Cohort) (m : Nat) (v : Lanes) : Cohort := { c with m := Machine.tset 0 c.m m v }

/-- The records of a kind. -/
def Cohort.hwOf (c : Cohort) (f : HwRec → Bool) : List (Nat × HwRec) := c.hw.filter (fun e => f e.2)

/-- Free the records that satisfy f. -/
def Cohort.freeHw (c : Cohort) (f : HwRec → Bool) : Cohort := { c with hw := c.hw.filter (fun e => !(f e.2)) }

/-- The lanes of a list of records. -/
def hwLanes (l : List (Nat × HwRec)) : Lanes := l.foldl (fun a e => a ||| e.2.lanes) 0

/-- The record that an arrival joins (09 R169): the `bar` record; an unbounded `waitm` one with the same MA, MB and PS; the
open part of a donation; else a free one of the six. None: the group stands at its word. -/
def Cohort.hwPlace (c : Cohort) (h : HwRec) : Option Nat :=
  let joins (e : Nat × HwRec) : Bool :=
    e.2.kind = h.kind && (h.kind != 1 || (h.remain = 0 && e.2.remain = 0 && e.2.ma = h.ma && e.2.mb = h.mb && e.2.ps = h.ps))
  match c.hw.find? joins with
  | some (k, _) => some k
  | none => (List.range 6).find? (fun k => !(c.hw.any (fun e => e.1 = k)))

/-- Arrive at a record: `t` is the arrival's place in the arbiter's order. -/
def Cohort.arrive (c : Cohort) (k t : Nat) (h : HwRec) : Cohort :=
  match c.hw.find? (fun e => e.1 = k) with
  | some (_, o) => { c with hw := tins k { o with lanes := o.lanes ||| h.lanes, mb := h.mb, last := t } (tdel k c.hw) }
  | none => { c with hw := tins k { h with first := t, last := t } c.hw }

/-- Complete the mask wait on a register when every lane set in it is exited (07 R134): the waiters go on, the register is
reloaded from the MB of the last arrival, and predicates that PS names become true. -/
def Cohort.tryMask (c : Cohort) (ma : Nat) : Cohort :=
  let rs := c.hwOf (fun h => h.kind = 1 && h.ma = ma)
  if rs.isEmpty || c.mget ma &&& ~~~c.exited != 0 then c
  else
    let mb := (rs.foldl (fun (b : Nat × Nat) e => if b.1 ≤ e.2.last then (e.2.last, e.2.mb) else b) (0, 0)).2
    let c := c.mset ma (c.mget mb)
    let c := rs.foldl (fun c e => if e.2.ps = 0 then c else c.pset (e.2.ps - 1) e.2.lanes e.2.lanes) c
    (c.freeHw (fun h => h.kind = 1 && h.ma = ma)).release (hwLanes rs)

/-- Complete every mask wait that is complete, in ascending order of the registers, before the barrier: the spec does not order two waits
that one event completes (log entry 40). -/
def Cohort.tryMasks (c : Cohort) : Cohort := (List.range 12).foldl (fun c ma => c.tryMask ma) c

/-- Whether the open barrier is complete (07 R137): in every cohort, every lane set in m(MREG) is exited. -/
def Team.barDone (t : Team) : Bool :=
  t.bar.isOpen && (List.range t.launch.n).all (fun i =>
    let c := tget {} t.cohs i
    c.retired || c.mget t.bar.mreg &&& ~~~c.exited = 0)

/-- The end of a barrier's generation (07 R137, R138). MREG keeps the generation's register until the next one: the spec does not say
what it reads in between (log entry 40). -/
def Barrier.ended (b : Barrier) : Barrier :=
  { b with isOpen := false, gen := b.gen + 1, waitcoh := 0, remain := 0, bounded := false }

/-- Complete the barrier when it is complete: every waiting thread goes on, each such cohort's m(MREG) is reloaded. -/
def Team.tryBar (t : Team) : Team :=
  if t.barDone then
    { t with
      bar := t.bar.ended
      cohs := t.cohs.map (fun e =>
        match (e.2.hwOf (fun h => h.kind = 2)).head? with
        | some (_, h) => (e.1, ((e.2.mset t.bar.mreg (e.2.mget h.mb)).freeHw (fun h => h.kind = 2)).release h.lanes)
        | none => e) }
  else t

-- donation (07 R140; 05 R96, R97) --------------------------------------------------------------------------------------------

/-- The open part of a donation: its record, with the partner and the count that its IMM16 names. -/
def Cohort.part (c : Cohort) : Option HwRec := ((c.hwOf (fun h => h.kind = 3 || h.kind = 4)).head?).map (·.2)

/-- An illegal-instruction fault for threads that wait at a `donate` or `accept` (05 R97; 07 R140). -/
def State.partFault (s : State) (tid coh : Nat) : State :=
  match (s.coh tid coh).part with
  | some h =>
    let s := s.modCoh tid coh (fun c => c.freeHw (fun h => h.kind = 3 || h.kind = 4))
    let pc := tget 0 (s.coh tid coh).pc (lowest h.lanes)
    let op := if h.kind = 3 then 0x18 else 0x19
    s.programFault tid coh h.lanes pc pc { cause := 0x10, detail := op + 3 * 256, pages := [op * 2 ^ 24 + h.imm] }
  | none => s

/-- Whether two open parts name each other. -/
def paired (d e : Nat) (hd he : HwRec) : Bool :=
  hd.kind = 3 && he.kind = 4 && hd.imm % 32 = e && he.imm % 32 = d

/-- A pair that names different counts faults in both cohorts (05 R97). -/
def State.pairCheck (s : State) (tid coh : Nat) : State :=
  match (s.coh tid coh).part with
  | none => s
  | some h =>
    let o := h.imm % 32
    match (s.coh tid o).part with
    | none => s
    | some h' =>
      if (paired coh o h h' || paired o coh h' h) && h.imm / 32 != h'.imm / 32 then (s.partFault tid coh).partFault tid o
      else s

/-- The parts that wait for a cohort that has retired end in a fault (07 R140). -/
def State.partnerCheck (s : State) (tid coh : Nat) : State :=
  match (s.coh tid coh).part with
  | some h => if (s.coh tid (h.imm % 32)).retired then s.partFault tid coh else s
  | none => s

/-- Registers [lo, hi) of a cohort that an outstanding long-latency write names (02 R43; 05 R96). -/
def State.regBusy (s : State) (tid coh lo hi : Nat) : Bool :=
  let meets (r n : Nat) : Bool := r < hi && lo < r + n
  (tsome s.ops).any (fun e => e.2.tid = tid && e.2.coh = coh && (match e.2.dest with
    | .load r _ _ => meets r 1
    | .atomic r _ => meets r 1
    | .regs r n => meets r n
    | _ => false)) ||
  (tvals (s.coh tid coh).locks).any (fun r => r.wait != 0 && meets r.vd 1)

-- retirement (02 R43) -----------------------------------------------------------------------------------------------------------

/-- The corrupted-tile fault (20 R305; 09 R161). -/
def tileFault (x : Nat × Nat) : FaultInfo :=
  { cause := 0x19, detail := x.2, pages := [x.1 / 2 ^ 20 + x.1 % 2 ^ 20 * 2 ^ 16] }

/-- The slack of the quads in which a team still has a cohort that has not retired (05 R95): the rest is free. -/
def Team.keepSlack (t : Team) : Team :=
  { t with slack := t.slack.filter (fun g => t.cohs.any (fun c => c.2.quad = g / 128 && !c.2.retired)) }

/-- A cohort without a runnable, waiting or parked thread retires, and breaks the lines it holds (21 R322). With a corrupted
tile outstanding the fault is handled as one without a handler (20 R305). The last cohort's retirement disarms the team's
boarding requests (20 R306). -/
def State.tryRetire (s : State) (tid coh : Nat) : State :=
  let c := s.coh tid coh
  if c.retired || c.exited != BitVec.allOnes 32 then s
  else
    match c.tiles with
    | x :: _ => s.terminate tid (rec512 (s.faultWords tid coh 0 (tileFault x) true))
    | [] =>
      let s := (s.breakAll tid coh true).modCoh tid coh (fun c => { c with retired := true, holds := [], words := [], pre := none })
      let s := s.modTeam tid Team.keepSlack
      let t := s.team tid
      if (List.range t.launch.n).all (fun i => (s.coh tid i).retired) then s.disarm t.core (fun b => b.tid = tid) else s

end Sys2Proof.Machine
end

