-- ==== Sys2Proof/Machine/Ctl.lean ====
section
/-!
DEFINITION. Ctl.lean: clause headers (03 R45 to R48; 02 R24, R25) and the ctl class (07 R129 to R140).
-/
namespace Sys2Proof.Machine

-- the header ---------------------------------------------------------------------------------------------------------------

/-- The flags as the core clock began: whether every flag that WAIT names is clear (03 R48). -/
def Cohort.flagsClear (c : Cohort) (w : Nat) : Bool :=
  (List.range 12).all (fun i => w / 2 ^ i % 2 = 0 || tget 0 (match c.pre with
    | some p => p.f
    | none => c.f) i = 0)

/-- Whether a word of class mtx is a gated stream (08 R149). -/
def gatedWord (w : Nat) : Bool :=
  match decode 2 w with
  | .ok (.mstream _ _ _ _ g _ _) => g = 1
  | .ok (.mbatch _ _ _ g _) => g = 1
  | _ => false

/-- Threads pass the header: the next word is word 1 of the clause (07 R129). A header leaves HANGCNT as it is: it is no instruction
(02 R41; log entry 40). -/
def State.passHeader (s : State) : State := s.advance s.G

/-- The first corrupted tile of the cohort faults at the header of the issuing group (20 R305). -/
def State.takeTile (s : State) : State :=
  match s.me.tiles with
  | x :: xs => (s.modMe (fun c => { c with tiles := xs })).raise (tileFault x)
  | [] => s

/-- The clause header, checked by the fetch (03 R46): the role check (02 R25), WAIT (R48), and before a gated stream the gate: the group
stands here until GATE_ACCEPT takes it past (08 R149), also while its first word waits for a walk. A first word that cannot be fetched
faults as word 1. -/
def execClauseHeader (_ _ _ w e _ : Nat) (s : State) : Out :=
  if !s.me.tiles.isEmpty then .next s.takeTile
  else if !(s.myTeam.launch.mayRun s.cur.coh e) then .next (s.badRole s.cur.addr e)
  else if !(s.me.flagsClear w) then .next s
  else if e = 2 then
    match s.fetch ((s.cur.addr + 4) % 2 ^ 52) with
    | .word x t => if gatedWord x then .next t else .next t.passHeader
    | .none t => .next (if t.me.parked = s.me.parked then t else s.passHeader)
  else .next s.passHeader

-- transfers ----------------------------------------------------------------------------------------------------------------

/-- A PC that continues at a header, with another DEPTH (07 R129). -/
def jumpPc (p : BitVec 64) (a depth : Nat) : BitVec 64 := setFld (setFld (setFld p 0 52 a) 60 4 0) 52 8 depth

/-- Threads continue at the header that f gives for each, with DEPTH changed by d (07 R129, R131); the other threads of the
group go to the next word. Parked threads stay. -/
def State.transfer (s : State) (ls : Lanes) (f d : Nat → Nat) (spin : Bool) : State :=
  (s.doneIn (s.G &&& ~~~ls &&& ~~~s.me.parked) spin).modMe (fun c =>
    { (c.note (spin || ls = 0)) with pc := (lanesOf ls).foldl (fun t l => tmod 0 t l (fun p => jumpPc p (f l) (d (fld p 52 8)))) c.pc })

/-- The target of a 21-bit offset, in words from the branch (03 R55). -/
def State.target (s : State) (o : Nat) : Nat := (((s.cur.addr : Int) + 4 * sextNat 21 o) % 2 ^ 52).toNat

/-- br. R131. -/
def execBr (o g : Nat) (s : State) : Out :=
  .next (s.transfer (s.active g) (fun _ => s.target o) id true)

/-- bra: all or none. R131. -/
def execBra (o g : Nat) (s : State) : Out :=
  .next (s.transfer (if s.active g = 0 then 0 else s.G) (fun _ => s.target o) id true)

/-- The two words of a call frame at private word w, as parts of one access (07 R131). -/
def State.framePieces (s : State) (lane w : Nat) : List Piece :=
  [0, 1].map (fun i => { va := s.myTeam.privAddr s.cur.coh lane (4 * (w + i)), at_ := 4 * i, len := 4 })

/-- A stack-limit fault of the lanes whose frame word f names is outside the private words (07 R131; 09 R161). -/
def stackFault (ls : Lanes) (bad : Nat → Bool) (w : Nat → Int) : Option FaultInfo :=
  let b := (lanesOf ls).filter bad
  if b.isEmpty then none
  else some { cause := 0x14, pages := [((w (b.headD 0)) % 2 ^ 64).toNat], lanes := lanesFrom b, access := 4 }

/-- What the accesses to translated frames wait for at issue, as those of a mem word do: a `cas` lane of a word before that has yet to go, an
acquire, and on SO pages the earlier SO accesses (11 R192, R196; 13 R210); or a private line. -/
def State.frameHold (s : State) (good : List (Nat × List Piece)) : Option State :=
  let ls := lanesFrom (good.map (·.1))
  let so := lanesFrom ((good.filter (fun e => e.2.any (fun p => p.kind = 1))).map (·.1))
  if s.casPending ls || s.acqPending ls || !(s.soOps so).isEmpty then some s
  else s.privAwait (dedup ((good.map (fun e => e.2.map (fun p => lineAt p.pa))).flatten))

/-- A call: every active thread pushes the address after the word, and transfers (07 R130, R131). -/
def State.callTo (s : State) (g : Nat) (f : Nat → Nat) : State :=
  let ls := s.active g
  let depth (l : Nat) : Nat := fld (tget 0 s.me.pc l) 52 8
  let w (l : Nat) : Int := (s.me.stkNow : Int) - 2 - 2 * depth l
  let back := bytesOf 8 (BitVec.ofNat 64 ((s.cur.addr + 4) % 2 ^ 52))
  if ls = 0 then s.done true
  else
    match stackFault ls (fun l => depth l = 255 || w l < 0) w with
    | some x => s.raise x
    | none =>
      s.translated 3 4 4 ((lanesOf ls).map (fun l => (l, s.framePieces l (w l).toNat))) (fun s good =>
        let s := s.privWrites (fun _ => 0)
          ((good.map (fun e => (e.2.map (fun p => partWrites p.pa p.at_ p.len (back.map (fun b => (b, 255))))).flatten)).flatten)
        s.transfer (lanesFrom (good.map (·.1))) f (· + 1) false) s.frameHold

/-- call. R131. -/
def execCall (o g : Nat) (s : State) : Out := .next (s.callTo g (fun _ => s.target o))

/-- ret. R131; where active lanes fail in both ways, a depth of 0 comes first: an illegal instruction (log entry 40). -/
def execRet (g : Nat) (s : State) : Out :=
  let ls := s.active g
  let depth (l : Nat) : Nat := fld (tget 0 s.me.pc l) 52 8
  let w (l : Nat) : Int := (s.me.stkNow : Int) - 2 * depth l
  .next (
    if ls = 0 then s.done true
    else if (lanesOf ls).any (fun l => depth l = 0) then s.illegal
    else
      match stackFault ls (fun l => w l < 0) w with
      | some x => s.raise x
      | none =>
        s.translated 3 4 4 ((lanesOf ls).map (fun l => (l, s.framePieces l (w l).toNat))) (fun s good =>
          let ls := lanesFrom (good.map (·.1))
          let r := s.privReads (fun _ => 0) ((good.map (fun e => e.2.map (fun p => (8 * e.1 + p.at_, p.pa, p.len)))).flatten)
          let got := gather [] r.2.1
          match r.2.2 with
          | some e => r.1.machineCheck s.cur.tid s.cur.coh s.herePc ls 4 e
          | none => r.1.transfer ls (fun l => ofLeBytes ((List.range 8).map (fun i => tget 0 got (8 * l + i))) % 2 ^ 52) (fun d => d - 1) false)
          s.frameHold)

/-- jmpi. R131. -/
def execJmpi (a _ g : Nat) (s : State) : Out :=
  s.checked [s.vr a] (s.transfer (s.active g) (fun l => fld (s.v l a) 0 52) id (s.active g = 0))

/-- calli. R131. -/
def execCalli (a _ g : Nat) (s : State) : Out := s.checked [s.vr a] (s.callTo g (fun l => fld (s.v l a) 0 52))

-- reconvergence ------------------------------------------------------------------------------------------------------------

/-- join. R134. -/
def execJoin (a b : Nat) (s : State) : Out :=
  s.checked [mr a, mr b] ((s.modMe (fun c => c.mset a (c.mget a ||| (c.mget b &&& s.G)))).done)

/-- leave. What it completes ends with the core clock (`State.closeTeam`). R134, R137. -/
def execLeave (a : Nat) (s : State) : Out :=
  s.checked [mr a] ((s.modMe (fun c => c.mset a (c.mget a &&& ~~~s.G))).done)

/-- Threads arrive at a record and wait. The fresh number is the arrival's place in the arbiter's order. -/
def State.arriveAt (s : State) (k : Nat) (h : HwRec) : State :=
  let f := s.fresh
  (f.1.modMe (fun c => c.arrive k f.2 h)).suspend s.G

/-- waitm: the arrival; completions follow every arrival of the core clock (09 R171). R134, R169. -/
def execWaitm (a b p n : Nat) (s : State) : Out :=
  let h : HwRec := { kind := 1, lanes := s.G, ma := a, mb := b, ps := p, remain := if n = 0 then 0 else 256 * n + 1 }
  match s.me.hwPlace h with
  | none => s.checked [mr a, mr b] s
  | some k =>
    s.checked [mr a, mr b] ((s.modMe (fun c => c.mset a (c.mget a &&& ~~~s.G))).arriveAt k h)

/-- bar. A record of a first arrival keeps its lowest lane in `imm`. R137, R169. -/
def execBar (a b n : Nat) (s : State) : Out :=
  let bar := s.myTeam.bar
  let h : HwRec := { kind := 2, lanes := s.G, ma := a, mb := b, imm := lowest s.G }
  if a ≤ 11 && b ≤ 11 && bar.isOpen && bar.mreg != a then .next s.illegal
  else
    match s.me.hwPlace h with
    | none => s.checked [mr a, mr b] s
    | some k =>
      s.checked [mr a, mr b] (
        let s := s.modTeam s.cur.tid (fun t => { t with
          bar :=
            let o := if t.bar.isOpen then t.bar
              else { t.bar with isOpen := true, mreg := a, bounded := n != 0, remain := if n = 0 then 0 else 256 * n + 1 }
            { o with waitcoh := o.waitcoh ||| lane1 s.cur.coh } })
        (s.modMe (fun c => c.mset a (c.mget a &&& ~~~s.G))).arriveAt k h)

/-- exit: the active threads become exited, and the cohort may retire; the waits that this completes end with the core clock. During an
unfolding it is illegal (23 R333). R132, R43. -/
def execExit (g : Nat) (s : State) : Out :=
  let ls := s.active g
  .next (
    if ls = 0 then s.done true
    else if s.me.unf.isSome then s.illegal
    else
      let s := (s.advance (s.G &&& ~~~ls)).modMe (fun c => { (c.note false) with exited := c.exited ||| ls })
      s.tryRetire s.cur.tid s.cur.coh)

/-- nop. R132. -/
def execNop (_ : Nat) (s : State) : Out := .next (s.done true)

/-- yield: the round-robin pointer moves past the cohort, on port 1 too (log entry 45). R132. -/
def execYield (g : Nat) (s : State) : Out :=
  .next (if s.active g = 0 then s.done true else (s.passCohort s.cur.tid s.cur.coh).done true)

/-- brk: with breakpoints armed for the VF, the team is asked to stop and Plodor gets the code. R132, R167. -/
def execBrk (c g : Nat) (s : State) : Out :=
  .next (
    if s.active g = 0 then s.done true
    else if tget false s.brk s.myTeam.vf then
      let s : State := { s with plodor := s.plodor ++ [(s.myTeam.vf, c)] }
      (s.modTeam s.cur.tid (fun t => t.ask (.plodor c) s.clk)).done
    else s.done)

-- donation -----------------------------------------------------------------------------------------------------------------

/-- A `donate` (kind 3) or `accept` (kind 4): the checks of R97 at issue, and the cohort's open part (R140); its pairing is seen at the
end of the core clock. No register number
fails in a range fault of these words: its DETAIL is a free value (log entry 3). -/
def State.donation (s : State) (kind g c : Nat) : Out :=
  let h : HwRec := { kind := kind, lanes := s.G, imm := g * 32 + c }
  let other := match s.me.part with
    | some o => o.kind != kind || o.imm != h.imm
    | none => false
  .next (
    if other || c = s.cur.coh || s.myTeam.launch.n ≤ c || c % 4 != s.cur.coh % 4 then s.illegal
    else if (kind = 3 && (g = 0 || s.me.alloc ≤ g)) || (kind = 4 && 8 < s.me.alloc + g) then
      s.draw.1.badReg (fld s.draw.2 0 16)
    else if (s.coh s.cur.tid c).retired then s.illegal
    else
      match s.me.hwPlace h with
      | none => s
      | some k => s.arriveAt k h)

/-- donate. R140. -/
def execDonate (g c : Nat) (s : State) : Out := s.donation 3 g c

/-- accept. R140. -/
def execAccept (g c : Nat) (s : State) : Out := s.donation 4 g c

end Sys2Proof.Machine
end

