-- ==== Sys2Proof/Machine/Sys.lean ====
section
/-!
DEFINITION. Sys.lean: the sys class (09 R166): system registers (05 R92 to R94; 24 R343 to R345), `trap`, `tret`, `fencei`.
-/
namespace Sys2Proof.Machine

/-- The values of cohort-scope state that a read in this core clock sees (02 R38). -/
def Cohort.now (c : Cohort) : Pre :=
  match c.pre with
  | some p => p
  | none => { valloc := c.valloc, fpflags := c.fpflags, mvratio := c.mvratio, hangctl := c.hangctl, hangcnt := c.hangcnt,
              lockwait := c.lockwait, trappc := c.trappc, trapstat := c.trapstat, stkcur := c.stkcur }

/-- The linear number of a thread (02 R28). -/
def Team.linear (t : Team) (coh lane : Nat) : Nat := t.number * 32 * t.launch.n + coh * 32 + lane

/-- The stochastic-rounding state that a seed gives a thread (05 R94; 02 R31). -/
def seedOf (seed g : Nat) : BitVec 32 :=
  let x : BitVec 32 := BitVec.ofNat 32 (seed + g * 0x9E3779B9)
  if x = 0 then 1 else x

/-- IDENT (05 R93). -/
def State.ident (s : State) (tid coh : Nat) : BitVec 64 :=
  let t := s.team tid
  BitVec.ofNat 64 (t.core + (s.coh tid coh).quad * 2 ^ 7 + dieOf t.core * 2 ^ 9 + t.slot * 2 ^ 11 + coh * 2 ^ 16 + t.vf * 2 ^ 21 +
    t.polder * 2 ^ 29)

/-- A system register by its number, for the group's lowest thread (05 R92), as it stood before the current core clock (24 R344): the module's
counters that issues do not advance stand as they do now. None for an unassigned or privileged one. -/
def State.sysRead (s : State) (n : Nat) : Option (BitVec 64) :=
  let t := s.myTeam
  let p := s.me.now
  let c := s.myCore
  if n = 0x000 then some (s.ident s.cur.tid s.cur.coh)
  else if n = 0x001 then some t.launch.addr
  else if n = 0x002 then some (BitVec.ofNat 64 t.number)
  else if n = 0x003 then some (BitVec.ofNat 64 t.nteams)
  else if n = 0x004 then some (BitVec.ofNat 64 p.valloc)
  else if n = 0x005 then some (BitVec.ofNat 64 (t.privArea s.cur.coh))
  else if n = 0x006 then some (BitVec.ofNat 64 p.stkcur)
  else if n = 0x008 then some (p.fpflags.setWidth 64)
  else if n = 0x009 then some ((tget 0 s.me.sr (lowest s.G)).setWidth 64)
  else if n = 0x00A then some p.mvratio
  else if 0x010 ≤ n && n ≤ 0x017 then some (t.launch.levels.getD (n - 0x010) 0)
  else if n = 0x020 then some s.timebase
  else if n = 0x021 then some p.hangctl
  else if n = 0x022 then some (p.hangcnt.setWidth 64)
  else if n = 0x023 then some p.lockwait
  else if n = 0x024 then
    some (BitVec.ofNat 64 ((List.range 4).foldl (fun a i => a + (tget 0 s.ringlap i).toNat * 2 ^ (16 * i)) 0))
  else if n = 0x025 then some c.ringmiss
  else if n = 0x026 then some c.ringcrc
  else if 0x030 ≤ n && n ≤ 0x037 then some (tget {} c.chans (n - 0x030)).chwp
  else if 0x040 ≤ n && n ≤ 0x04F then some (tget 0 c.perfPre (n - 0x040))
  else if n = 0x070 then some p.trappc
  else if n = 0x071 then some (BitVec.ofNat 64 (nbit p.trapstat))
  else none

/-- The counters, whose reads fences and acquires order (24 R343, R345). -/
def isCounter (n : Nat) : Bool :=
  n = 0x020 || (0x022 ≤ n && n ≤ 0x026) || (0x030 ≤ n && n ≤ 0x037) || (0x040 ≤ n && n ≤ 0x04F)

/-- mfsr. R166, R73. -/
def execMfsr (r n : Nat) (s : State) : Out :=
  match s.sysRead n with
  | none => .next s.illegal
  | some v =>
    if isCounter n && (s.fenced s.G true || s.acqPending s.G) then .next s
    else .next ((s.sset r v).done true)

/-- The value that `mtsr` stores of a source value in FPFLAGS, MVRATIO and HANGCTL (05 R94; 04 R87). -/
def fpStored (v : BitVec 64) : BitVec 32 := v.setWidth 32 &&& 0xFFFF033F
def ratioStored (v : BitVec 64) : BitVec 64 := if 256 < v.toNat then 256 else v
def hangStored (v : BitVec 64) : BitVec 64 := if v.toNat < 10 then 10 else if 40 < v.toNat then 40 else v

/-- The effect of `mtsr`; none for a register that it may not write (03 R73; 05 R92). -/
def State.sysWrite (s : State) (n : Nat) (v : BitVec 64) : Option State :=
  if n = 0x008 then some (s.modMe (fun c => { c with fpflags := fpStored v }))
  else if n = 0x009 then
    some (s.modMe (fun c => { c with sr := (lanesOf s.G).foldl (fun t l =>
      Machine.tset 0 t l (seedOf (fld v 0 32) (s.myTeam.linear s.cur.coh l))) c.sr }))
  else if n = 0x00A then some (s.modMe (fun c => { c with mvratio := ratioStored v }))
  else if n = 0x021 then some (s.modMe (fun c => { c with hangctl := hangStored v }))
  else if n = 0x070 then some (s.modMe (fun c => { c with trappc := v }))
  else none

/-- mtsr. R166, R73, R94. -/
def execMtsr (r n : Nat) (s : State) : Out :=
  match s.sysWrite n (s.sget r) with
  | none => .next s.illegal
  | some t => .next t.done

/-- trap: TRAPPC is the word after it. R166, R164. -/
def execTrap (c : Nat) (s : State) : Out :=
  let pc := s.herePc
  .next (s.programFault s.cur.tid s.cur.coh s.G pc (nextPc pc (s.cur.idx = s.cur.count)) { cause := 0x1C, detail := c })

/-- tret: the group returns to TRAPPC; the header of the clause resumed into is checked when the group issues. R166. -/
def execTret (s : State) : Out :=
  let p := s.me.now
  if !p.trapstat then .next s.illegal
  else
    .next (s.modMe (fun c => { (c.note false) with
      trapstat := false
      stkcur := s.myTeam.launch.stklim
      pc := (lanesOf s.G).foldl (fun t l => Machine.tset 0 t l p.trappc) c.pc }))

/-- Whether every one of some operations has ended. -/
def State.ended (s : State) (ops : List Nat) : Bool := ops.all (fun o => (s.op o).isNone)

/-- fencei: the group waits for the cohort's stores; then the words that its quad holds are discarded. R166, R59. It counts as no fence for
HANGCNT: a non-spinning word (02 R40, R41; log entry 40). -/
def execFencei (s : State) : Out :=
  let ops := s.opsOf (BitVec.allOnes 32) (fun o => o.kind = 1)
  if ops.isEmpty then .next ((s.modMe (fun c => { c with words := [] })).done)
  else .next ((s.modMe (fun c => { c with polls := c.polls ++ [⟨s.G, .fencei ops⟩] })).suspend s.G)

end Sys2Proof.Machine
end

