-- ==== Sys2Proof/Machine/Copy.lean ====
section
/-!
DEFINITION. Copy.lean: copy channels (11 R199 to R204) and bank modes (11 R205).
-/
namespace Sys2Proof.Machine

-- acceptance ---------------------------------------------------------------------------------------------------------------

/-- A channel of a core. -/
def Core.chan (c : Core) (ch : Nat) : Chan := tget {} c.chans ch

def Core.setChan (c : Core) (ch : Nat) (h : Chan) : Core := { c with chans := Machine.tset {} c.chans ch h }

/-- Whether another group's admission hold stands on a channel (11 R204). -/
def State.heldChan (s : State) (h : Chan) : Bool :=
  match h.hold with
  | none => false
  | some (t, c, l, p) =>
    let x := s.coh t c
    let live := (s.team t).place = .resident && !(x.exited.getLsbD l) && tget 0 x.pc l = p
    live && !(t = s.cur.tid && c = s.cur.coh && s.G.getLsbD l)

/-- The first n free range-lock entries below 28 (18 R276). -/
def Core.freeLocks (c : Core) (n : Nat) : Option (List Nat) :=
  let fs := (List.range 28).filter (fun k => !(c.rlocks.any (fun e => e.1 = k)))
  if fs.length < n then none else some (fs.take n)

/-- Register ranges in the range-lock table. -/
def Core.addLocks (c : Core) (ks : List Nat) (ls : List RLock) : Core :=
  { c with rlocks := (ks.zip ls).foldl (fun t e => Machine.tset {} t e.1 e.2) c.rlocks }

/-- Clear the entries of an operation's engine. -/
def Core.clearLocks (c : Core) (op : Nat) : Core := { c with rlocks := c.rlocks.filter (fun e => e.2.op != op) }

/-- The checks of R200 on one side of a copy: its spaces, its alignment, and the end of its run. -/
def State.copySide (s : State) (out : Bool) (p : BitVec 64) (len : Nat) : Bool :=
  let t := s.myTeam
  offOf p % 16 = 0 &&
  (match spaceOf p with
   | 0 => out && rankOf p = 0
   | 5 => out && rankOf p = 0
   | 6 => out
   | 2 => !out && offOf p + len ≤ t.launch.scratch + t.launch.queue
   | 3 => !out && rankOf p = 0 && offOf p + len ≤ t.launch.opbuf
   | _ => false)

/-- The range-lock entries of a command (11 R203): none for a range in space 5 or 6. -/
def copyLocks (x : CopyCmd) : List RLock :=
  let one (p : BitVec 64) (kind : Nat) : List RLock :=
    if spaceOf p = 5 || spaceOf p = 6 then []
    else [{ valid := true, kind := kind, space := spaceOf p, vf := x.vf, tid := x.tid, engine := x.ch, base := offOf p,
            fin := offOf p + x.len, op := x.op }]
  one x.src 0 ++ one x.dst 1

/-- Put a command into its channel (11 R199, R203), when it has room and the table has; CHIS advances. -/
def Core.takeCopy (c : Core) (x : CopyCmd) : Option Core :=
  let h := c.chan x.ch
  let ls := copyLocks x
  if 16 ≤ h.queue.length then none
  else
    (c.freeLocks ls.length).map (fun ks =>
      (c.addLocks ks ls).setChan x.ch { h with queue := h.queue ++ [{ x with p := h.chis }], chis := h.chis + BitVec.ofNat 64 x.len })

/-- `cpin` and `cpout` (11 R199, R200). -/
def State.copy (s : State) (isIn : Bool) (d a b ch : Nat) : Out :=
  let dst := s.sget d
  let src := s.sget a
  let n := s.sget b
  let t := s.myTeam
  let len := fld n 0 24
  let addr (s : State) (p : BitVec 64) : State := s.raise { cause := 0x1D, detail := spaceOf p, pages := [p.toNat], lanes := s.G }
  .next (
    if !(s.copySide (!isIn) dst len) then addr s dst
    else if !(s.copySide isIn src len) then addr s src
    else if n.toNat % 16 != 0 || n.toNat != len then
      -- the rule names SD or SA, and not which (log entry 3)
      addr s.draw.1 (if bit s.draw.2 0 then dst else src)
    else if len = 0 then s.done
    else if s.heldChan (s.myCore.chan ch) || !(s.flagFree s.cur.setb) then s
    else
      let f := s.newOp { tid := s.cur.tid, coh := s.cur.coh, flag := s.cur.setb, kind := 3 }
      match s.myCore.takeCopy { op := f.2, tid := s.cur.tid, coh := s.cur.coh, vf := t.vf, isIn := isIn, dst := dst, src := src,
                                len := len, ch := ch, pc := s.herePc } with
      | some c => (f.1.setCore t.core c).done
      | none => s)

/-- cpin. R200. -/
def execCpin (d a b c : Nat) (s : State) : Out := s.copy true d a b c
/-- cpout. R200. -/
def execCpout (d a b c : Nat) (s : State) : Out := s.copy false d a b c

/-- cpwait: with threshold s63 it sets the admission hold for the group. R204. -/
def execCpwait (d a c : Nat) (s : State) : Out :=
  let h := s.myCore.chan c
  let w := if (s.sget a).toNat ≤ h.chis.toNat then s.sget a else h.chis
  .next (
    if a = 63 && s.heldChan h then s
    else if w.toNat ≤ h.chwp.toNat then
      let t := (s.sset d h.chis).done
      if a = 63 then
        let l := lowest s.G
        t.modCore t.myTeam.core (fun m => m.setChan c { h with hold := some (s.cur.tid, s.cur.coh, l, tget 0 t.me.pc l) })
      else t
    else (s.modMe (fun x => { x with polls := x.polls ++ [⟨s.G, .cpwait c w d h.chis⟩] })).suspend s.G)

-- delivery (11 R200 to R203) -----------------------------------------------------------------------------------------------------

/-- Whether a line's writes wait at its slice, for a section (16 R249) or a lock (21 R316). -/
def State.lineWaits (s : State) (pa : Nat) : Bool := s.heldWindow pa 128 || (s.lock pa).locked

/-- What became of the translation of a command's pages: their bases and the lines of their leaves, or the cause and the addresses of the pages
that fault with it, and the walks' refusals; or the tables' lines that the walks wait for. -/
inductive Paged where
  | ok (pages : Tab Nat) (leaves : List Nat)
  | bad (cause : Nat) (pages : List Nat) (reports : List Refused)
  | need (lines : List Nat)

/-- Translate the 64 KiB pages of a range. -/
def State.copyPages (s : State) (vf core need base len : Nat) : Paged :=
  let ps := (List.range ((base % 65536 + len + 65535) / 65536)).map (fun i =>
    let va := if i = 0 then base else (base / 65536 + i) * 65536
    (va % 2 ^ 52, s.walk vf (va % 2 ^ 52) (0x116 + dieOf core)))
  let bad := (ps.map (fun p =>
    match p.2 with
    | .leaf t => if t.allows need then [] else [(p.1, 0x01, (none : Option Refused))]
    | .bad c r => [(p.1, c, r)]
    | .need _ => [])).flatten
  let need := (ps.map (fun p => match p.2 with
    | .need l => [l]
    | _ => [])).flatten
  let good := (ps.map (fun p =>
    match p.2 with
    | .leaf t => [(p.1 / 65536, t.place (p.1 / 65536 * 65536), t.line)]
    | _ => [])).flatten
  if !need.isEmpty then .need need
  else
  match bad with
  | [] => .ok (good.foldl (fun t e => tins e.1 e.2.1 (tdel e.1 t)) []) (dedup (good.map (·.2.2)))
  | b :: bs =>
    let same := (b :: bs).filter (fun x => x.2.1 = b.2.1)
    .bad b.2.1 (same.map (·.1)) ((same.map (fun x => x.2.2.toList)).flatten)

/-- The leaves' lines come to their slices, with the core's translation cache as a sharer: a later write to one waits for the command (10 R179;
18 R267). Whether every one could be registered. -/
def State.shareLeaves (s : State) (core : Nat) (ls : List Nat) : State × Bool :=
  let t := ls.foldl (fun s l => (s.fill l 0).share l (128 + core)) s
  (t, ls.all (fun l => (t.sline l).isSome))

/-- The global side of a command, with its need: 1 a source, 2 a destination (18 R367). -/
def CopyCmd.global (x : CopyCmd) : Option (BitVec 64 × Nat) :=
  let p := if x.isIn then x.src else x.dst
  if spaceOf p = 0 then some (p, if x.isIn then 1 else 2) else none

/-- A command's replayable fault (11 R200): its record has an FSEQ of its own, and the command waits for its RESUME. -/
def State.copyFault (s : State) (core : Nat) (x : CopyCmd) (cause : Nat) (pages : List Nat) (reps : List Refused) : State :=
  let s := reps.foldl (fun s r => s.refuseAt x.vf (0x116 + dieOf core) 5 r) s
  let f := s.takeFseq x.vf
  let y := { x with wait := some f.2 }
  let s := f.1.modCore core (fun c =>
    let h := c.chan x.ch
    c.setChan x.ch { h with queue := h.queue.map (fun z => if z.op = x.op then y else z) })
  let w := s.faultWords x.tid x.coh x.pc { cause := cause, detail := x.len, pages := pages.take 4, more := decide (4 < pages.length),
                                           access := 5, fseq := f.2 } false
  s.sendRecord { vf := x.vf, data := rec512 w, fseq := f.2,
                 park := some { tid := x.tid, coh := x.coh, lanes := 0, copy := some y } }

/-- The physical pieces of n bytes from offset j of a command's global side: address, place, length. -/
def CopyCmd.spans (x : CopyCmd) (p : BitVec 64) (j n : Nat) : List (Nat × Nat × Nat) :=
  (splitLines (n + 1) (offOf p + j) 0 n).map (fun e =>
    (tget 0 x.pages (e.1 % 2 ^ 52 / 65536) + e.1 % 65536, e.2.1, e.2.2))

/-- The head command of a channel delivers n bytes more (11 R202): CHWP advances, its locked destination shrinks, and with its last byte it
completes. -/
def State.copied (s : State) (core : Nat) (x : CopyCmd) (n : Nat) : State :=
  let last := x.len ≤ x.fin + n
  let s := s.modCore core (fun c =>
    let h := c.chan x.ch
    let c := c.setChan x.ch { h with
      chwp := h.chwp + BitVec.ofNat 64 n
      queue := if last then h.queue.drop 1 else { x with fin := x.fin + n, out := 0, writes := [] } :: h.queue.drop 1 }
    let c := c.count 0x0C 4 1
    if last then (c.clearLocks x.op).setChan x.ch (c.chan x.ch).skip
    else { c with rlocks := c.rlocks.map (fun e =>
      if e.2.op = x.op && e.2.kind = 1 then (e.1, { e.2 with base := e.2.base + n }) else e) })
  if last then s.endOp x.op else s

/-- The next piece of a translated `cpin`: up to 128 bytes, delivered when they stand in SRAM (11 R202). -/
def State.pieceIn (s : State) (core : Nat) (x : CopyCmd) (n : Nat) (spans : List (Nat × Nat × Nat)) : State :=
  let t := s.team x.tid
  let put (s : State) (bs : List Byte) : State := (s.runWrite t (spaceOf x.dst) (wbytes (offOf x.dst + x.fin) bs)).copied core x n
  if spaceOf x.src = 0 then
    match spans.findSome? (fun e => s.awaits x.vf e.1 core) with
    | some t => t
    | none =>
      let r := spans.foldl (fun (r : State × List Byte) e =>
        let l := r.1.readLine x.vf (lineAt e.1) core x.tid 32
        (l.1.engineCheck x.tid x.coh x.pc l.2.2, r.2 ++ lineBytes l.2.1 (e.1 % 128) e.2.2)) (s, [])
      put r.1 r.2
  else
    match s.extRead (setFld x.src 0 52 (offOf x.src + x.fin)) n x.vf core with
    | (u, some bs) => put u bs
    | (u, none) => u

/-- The next piece of a translated `cpout`: it is delivered when its writes are acknowledged, after their invalidations (11 R202; 10 R178). On a
locked or held line the write waits at the slice as any other (21 R316; 16 R249). -/
def State.pieceOut (s : State) (core : Nat) (x : CopyCmd) (n : Nat) (spans : List (Nat × Nat × Nat)) : State :=
  let t := s.team x.tid
  let e := s.senseRun t (spaceOf x.src) (offOf x.src + x.fin) n
  let bs := s.runRead t (spaceOf x.src) (offOf x.src + x.fin) n
  if spaceOf x.dst = 0 then
    match spans.findSome? (fun e => if s.lineWaits (lineAt e.1) then none else s.awaits x.vf e.1 core) with
    | some t => t
    | none =>
      let f := (e.1.engineCheck x.tid x.coh x.pc e.2).newOp { tid := x.tid, coh := 32, kind := 1, left := spans.length }
      let s := spans.foldl (fun s e => s.writeAck f.2 x.vf e.1 core (wbytes e.1 ((bs.drop e.2.1).take e.2.2))) f.1
      s.modCore core (fun c => let h := c.chan x.ch; c.setChan x.ch { h with
        queue := { x with out := n, writes := [f.2] } :: h.queue.drop 1 })
  else
    let w := (e.1.engineCheck x.tid x.coh x.pc e.2).extWrite (setFld x.dst 0 52 (offOf x.dst + x.fin)) x.vf core
      ((List.range n).zip (bs.map (fun b => (b, (255 : Byte)))))
    if w.2 then w.1.copied core x n else w.1

/-- A translated command goes on: with the answers it waits for, or with its next piece. -/
def State.copyPiece (s : State) (core : Nat) (x : CopyCmd) : State :=
  let n := min 128 (x.len - x.fin)
  if x.out != 0 then (if x.writes.all (fun i => (s.op i).isNone) then s.copied core x x.out else s)
  else
    let spans := x.spans (if x.isIn then x.src else x.dst) x.fin n
    if x.isIn then s.pieceIn core x n spans else s.pieceOut core x n spans

/-- The event of a channel: its head command is translated whole, and delivers its next piece. Where a leaf's line finds no way in its slice, the
command is translated again for its next piece (log entry 42). R200, R202. -/
def execCopyPieceDelivery (s : State) : Out :=
  let core := s.arg 0
  .next (match ((s.core core).chan (s.arg 1)).queue with
    | [] => s
    | x :: _ =>
      if x.wait.isSome then s
      else if x.ok || x.out != 0 then s.copyPiece core x
      else
        let put (s : State) (y : CopyCmd) : State := s.modCore core (fun c =>
          c.setChan x.ch { c.chan x.ch with queue := y :: (c.chan x.ch).queue.drop 1 })
        match x.global with
        | none => (put s { x with ok := true }).copyPiece core { x with ok := true }
        | some (p, need) =>
          match s.copyPages x.vf core need (offOf p) x.len with
          | .ok ps ls =>
            let r := s.shareLeaves core ls
            let y := { x with ok := r.2, pages := ps, leaves := ls }
            (put r.1 y).copyPiece core y
          | .need ls => ls.foldl (fun s l => s.wantFor (x.vf, l, 0x116 + dieOf core)) s
          | .bad c ps rs => s.copyFault core x c ps rs)

-- bank modes (11 R205) -----------------------------------------------------------------------------------------------------------

/-- The mode that a bank will have when the drains accepted so far are over. -/
def Core.modeThen (c : Core) (b : Nat) : Nat :=
  match (c.drains.filter (fun d => d.bank = b)).getLast? with
  | some d => d.mode
  | none => tget 0 c.modes b

/-- The scratchpad banks that a team's run lies in (10 R174). -/
def Team.banksOf (t : Team) : List Nat :=
  let n := t.launch.scratch + t.launch.queue
  if n = 0 then []
  else (List.range (t.scrBanks.length)).filterMap (fun i =>
    if t.scrOff / 524288 ≤ i && i ≤ (t.scrOff + n - 1) / 524288 then some (t.scrBanks.getD i 0) else none)

/-- Whether a team holds granules and runs of a core: until its release (02 R44) or the end of its save (09 R168), or from its new
placement on (R170). -/
def Team.on (t : Team) (core : Nat) : Bool := (t.place = .resident || t.place = .stopped || (t.place = .saved && t.due)) && t.core = core

/-- Whether a team's runs are in use in a core. -/
def Team.placed (t : Team) (core : Nat) : Bool := (t.place = .resident || t.place = .stopped) && t.core = core

/-- The tasks that stand in a FIFO bank: which of a core's FIFO banks holds a task is not said, so each may hold all of them (log entry 18). -/
def State.tasksIn (s : State) (core b : Nat) : List (Nat × Nat) :=
  if tget 0 (s.core core).modes b = 2 then
    (s.teams.filter (fun t => t.2.placed core && !t.2.deque.isEmpty)).map (fun t => (t.1, t.2.deque.length)) else []

/-- bankmode. R205. -/
def execBankmode (a m : Nat) (s : State) : Out :=
  let x := s.sget a
  let b := fld x 0 4
  let c := s.myCore
  .next (
    if 3 ≤ m || x.toNat != b then s.illegal
    else if c.modeThen b = 1 && m != 1 && (tvals s.teams).any (fun t => t.on s.myTeam.core && t.banksOf.contains b) then s.illegal
    else if !(s.flagFree s.cur.setb) then s
    else if !(c.drains.any (fun d => d.bank = b)) && tget 0 c.modes b = m then s.done
    else
      let f := s.newOp { tid := s.cur.tid, coh := s.cur.coh, flag := s.cur.setb, kind := 3 }
      (f.1.modCore s.myTeam.core (fun c => { c with drains := c.drains ++ [{ bank := b, mode := m, op := f.2, tasks := s.tasksIn s.myTeam.core b }] })).done)

/-- Whether a FIFO bank's drain is over (11 R205): the tasks that it held have been taken; later pushes went elsewhere. -/
def State.drained (s : State) (core : Nat) (d : Drain) : Bool :=
  d.tasks.all (fun e => !((s.team e.1).placed core) || min e.2 (s.team e.1).deque.length = 0)

/-- A bank leaves scratchpad mode: its contents become undefined, free values (11 R205; log entry 3). -/
def State.scramble (s : State) (core b : Nat) : State :=
  let n := s.freeCtr
  { s with freeCtr := n + 1 }.modCore core (fun c => { c with
    sram := memWrite c.sram (524288 * b) ((List.range 524288).map (fun k => Config.freeByte n k)) })

/-- Leaving cache mode, the core's L1 lines are written back, and acknowledged to the drain's operation (11 R205; log entry 18). -/
def State.drainL1 (s : State) (core op : Nat) : State :=
  let ls := ((s.core core).l1.filter (fun e => e.2.dirty)).map (·.1)
  let s := match s.op op with
    | some o => s.setOp op (some { o with left := o.left + ls.length })
    | none => s
  ls.foldl (fun s l => s.writeBack op core l) s

/-- A bank's new mode takes effect, when it has drained: leaving cache mode, the L1's lines are then invalidated; leaving scratchpad mode, the
contents become undefined. R205. -/
def execBankmodeDrainComplete (s : State) : Out :=
  let core := s.arg 0
  let b := s.arg 1
  .next (match (s.core core).drains.find? (fun d => d.bank = b) with
    | none => s
    | some d =>
      let old := tget 0 (s.core core).modes b
      let caches := old = 0 && d.mode != 0
      if !(s.drained core d) then s
      else if caches && (s.core core).l1.any (fun e => e.2.dirty) then s.drainL1 core d.op
      else if (s.op d.op).any (fun o => o.left != 0) then s
      else
        let s := if caches then (((s.core core).l1).map (·.1)).foldl (fun s l => s.l1Drop 0 core l) s else s
        let s := if old = 1 && d.mode != 1 then s.scramble core b else s
        let s := s.modCore core (fun c => { c with
          drains := c.drains.filter (fun x => x.op != d.op)
          modes := Machine.tset 0 c.modes b d.mode })
        s.endOp d.op)

end Sys2Proof.Machine
end

