-- ==== Sys2Proof/Machine/Que.lean ====
section
/-!
DEFINITION. Que.lean: carved queues and stage rings (19 R286 to R291) and task deques (19 R292 to R295). An operation on a queue
word is one step of the arbiter of the core that holds it: in the word's issue on its own core, else when its packet is taken there (19 R288).
-/
namespace Sys2Proof.Machine

-- queue control words (19 R286) ---------------------------------------------------------------------------------------------

def qBase (w : BitVec 64) : Nat := fld w 0 23
def qDepth (w : BitVec 64) : Nat := 2 ^ fld w 23 4
def qElem (w : BitVec 64) : Nat := 8 * 2 ^ fld w 27 3
def qKind (w : BitVec 64) : Nat := fld w 30 2
def qHead (w : BitVec 64) : Nat := fld w 32 16
def qTail (w : BitVec 64) : Nat := fld w 48 16
def qCount (w : BitVec 64) : Nat := (qTail w + 2 ^ 16 - qHead w) % 2 ^ 16
def qSlot (w : BitVec 64) (n : Nat) : Nat := qBase w + qElem w * (n % qDepth w)

/-- The bytes of a queue's storage (19 R286). -/
def qBytes (w : BitVec 64) : Nat := qDepth w * qElem w + (if qKind w = 1 then 8 * ((qDepth w + 63) / 64) else 0)

/-- The bytes of a team's scratchpad run. -/
def Team.runLen (t : Team) : Nat := t.launch.scratch + t.launch.queue

/-- Bytes of a target team's run as the queue arbiter reads them. A corrupted word may name bytes outside the run: the effect
stays within it (19 R287), and what is read there is a free value (log entry 3). -/
def State.qRead (s : State) (t : Team) (off n : Nat) : List Byte :=
  (List.range n).map (fun i => if off + i < t.runLen then ((s.runRead t 2 (off + i) 1).headD 0) else Config.freeByte s.freeCtr (off + i))

def State.qWrite (s : State) (t : Team) (off : Nat) (bs : List Byte) : State :=
  s.runWrite t 2 ((wbytes off bs).filter (fun w => w.addr < t.runLen))

/-- The queue word of a target team. -/
def State.qWord (s : State) (t : Team) (off : Nat) : BitVec 64 := BitVec.ofNat 64 (ofLeBytes (s.runRead t 2 off 8))

/-- The team whose queue word a pointer names (19 R288): none when the address check fails. -/
def State.qTeam (s : State) (p : BitVec 64) : Option Nat :=
  let tid := if spaceOf p = 2 then some s.cur.tid else if spaceOf p = 4 then s.remoteTeam s.cur.tid (rankOf p) else none
  match tid with
  | some r =>
    let t := s.team r
    if offOf p % 8 = 0 && t.launch.scratch ≤ offOf p && offOf p + 8 ≤ t.runLen then some r else none
  | none => none

/-- A fault of a queue instruction (19 R288): PAGE0 is the word's pointer. Its ACCESS is a free value: these accesses are not
translated and no rule gives their code (18 R367; log entry 3). -/
def State.qFault (s : State) (cause : Nat) (p : BitVec 64) (lanes : Lanes) : State :=
  s.draw.1.raise { cause := cause, detail := if cause = 0x1D then spaceOf p else 0, pages := [p.toNat], lanes := lanes,
                   access := fld s.draw.2 0 3 }

/-- The phase bit of a slot: its byte and its bit (19 R286). -/
def qPhase (w : BitVec 64) (ix : Nat) : Nat × Nat :=
  let j := ix % 2 ^ 16 % qDepth w
  (qBase w + qDepth w * qElem w + j / 8, j % 8)

/-- Whether a stage ring's phase bit equals ph (19 R291). -/
def State.phaseIs (s : State) (tid off ix ph : Nat) : Bool :=
  let t := s.team tid
  let w := s.qWord t off
  let j := qPhase w ix
  nbit (bit ((s.qRead t j.1 1).headD 0) j.2) = ph

/-- Whether the phase that a waiting group of a team asks for has come (19 R291). -/
def State.swtMet (s : State) (tid : Nat) (ptr : BitVec 64) (ix ph : Nat) : Bool :=
  match (if spaceOf ptr = 2 then some tid else s.remoteTeam tid (rankOf ptr)) with
  | some r => s.phaseIs r (offOf ptr) ix ph
  | none => false

/-- An `swt` whose arbiter has answered waits already (19 R291). -/
def State.wakeAnswers (s : State) : State :=
  (tsome s.reqs).foldl (fun s e => match e.2.kind with
    | .answer (.wait ix ph) p a =>
      if !a.met && s.swtMet e.2.tid p ix ph then s.setReq e.1 (some { e.2 with kind := .answer (.wait ix ph) p { a with met := true } }) else s
    | _ => s) s

/-- The arbiter step that changes a phase bit tests it for every waiting group (19 R291): those whose phase has come go on. -/
def State.wakeSwt (s : State) : State :=
  s.teams.foldl (fun s t => if t.2.place != .resident then s else
    t.2.cohs.foldl (fun s c =>
      let met := c.2.polls.filter (fun p => match p.wait with
        | .swt ptr ix ph => s.swtMet t.1 ptr ix ph
        | _ => false)
      if met.isEmpty then s
      else s.modCoh t.1 c.1 (fun d => { d with polls := d.polls.filter (fun p => !(met.contains p)) }.release
        (met.foldl (fun (a : Lanes) (p : Poll) => a ||| p.lanes) 0))) s) s.wakeAnswers

/-- A REF pointer in the issuing team's spaces 2 and 3 (19 R288). -/
def Team.refOk (t : Team) (p : BitVec 64) (n : Nat) : Bool :=
  offOf p % 8 = 0 &&
  (if spaceOf p = 2 then decide (offOf p + n ≤ t.runLen)
   else decide (spaceOf p = 3) && rankOf p = 0 && decide (offOf p + n ≤ t.launch.opbuf))

/-- The lanes that the address checks of `qpush` and `qpop` find wrong: all of them for the word, or those with a wrong REF pointer. -/
def Team.qBad (t : Team) (w : BitVec 64) (vals : List (Nat × BitVec 64)) (ref : Bool) : Lanes :=
  if qKind w != 0 || (!ref && qElem w != 8) then lanesFrom (vals.map (·.1))
  else if ref then lanesFrom ((vals.filter (fun v => !(t.refOk v.2 (qElem w)))).map (·.1))
  else 0

/-- The REF accesses of lanes that hit a range lock, as a fault: they are accesses of their threads (13 R217; 09 R160). -/
def State.refFault (s : State) (t : Team) (vals : List (Nat × BitVec 64)) (n : Nat) (wr : Bool) : Option (Nat × Nat × Nat × Lanes) :=
  (stage2Fault (nbit wr) (vals.map (fun v =>
    (v.1, ((s.core t.core).rangeHit (spaceOf v.2) t.vf (offOf v.2) n wr).map (fun e => (0x15, e, v.2.toNat)))))).map (fun f =>
      (f.cause, f.detail, f.pages.headD 0, f.lanes))

/-- An uncorrectable error in the elements that lanes name by REF (10 R182). -/
def State.refSense (s : State) (t : Team) (vals : List (Nat × BitVec 64)) (n : Nat) : State × Option (Nat × Nat × Nat) :=
  vals.foldl (fun r v =>
    let e := r.1.senseRun t (spaceOf v.2) (offOf v.2) n
    (e.1, r.2.orElse (fun _ => e.2))) (s, none)

/-- An address or overflow fault of a queue operation. -/
def qNo (cause : Nat) (ptr : BitVec 64) (lanes : Lanes) : QueAns := { fault := some (cause, 0, ptr.toNat, lanes) }

/-- The arbiter's step of `qinit` (19 R288, R289). -/
def State.initStep (s : State) (grp : Lanes) (q : Nat) (p v : BitVec 64) : State × QueAns :=
  let t := s.team q
  let o := offOf p
  if qKind v = 3 || qBase v % qElem v != 0 || qBase v < t.launch.scratch || t.runLen < qBase v + qBytes v ||
      (qKind v = 2 && (o != t.launch.scratch || fld v 27 3 != 2)) then (s, qNo 0x1D p grp)
  else
    let s := s.qWrite t o (bytesOf 8 (BitVec.ofNat 64 (fld v 0 32)))
    let ph := qBase v + qDepth v * qElem v
    let s := if qKind v = 1 then
        (List.range ((qDepth v + 7) / 8)).foldl (fun s i =>
          s.runWrite t 2 [{ addr := ph + i, data := 0, mask := if 8 ≤ qDepth v then 255 else BitVec.ofNat 8 (2 ^ qDepth v - 1) }]) s
      else s
    let s := if qKind v = 2 then s.setDeque q [] else s
    (s.wakeSwt, {})

/-- The arbiter's step of `qpush`, for a team's lanes (19 R288, R289). -/
def State.pushStep (s : State) (tid q : Nat) (p : BitVec 64) (vals : List (Nat × BitVec 64)) (ref : Bool) : State × QueAns :=
  let me := s.team tid
  let t := s.team q
  let w := s.qWord t (offOf p)
  let ls := lanesFrom (vals.map (·.1))
  let bad := me.qBad w vals ref
  let refs := if ref then vals else []
  let e := s.refSense me refs (qElem w)
  if bad != 0 then (s, qNo 0x1D p bad)
  else if let some x := s.refFault me refs (qElem w) false then (s, { fault := some x })
  else if qDepth w < qCount w + vals.length then (s, qNo 0x1B p ls)
  else if let some x := e.2 then (e.1, { bad := some x })
  else
    let x := vals.foldl (fun (x : State × Nat) v =>
      let e := if ref then x.1.runRead me (spaceOf v.2) (offOf v.2) (qElem w) else bytesOf 8 v.2
      (x.1.qWrite t (qSlot w x.2) e, x.2 + 1)) (e.1, qTail w)
    (x.1.qWrite t (offOf p) (bytesOf 8 (setFld w 48 16 x.2)), {})

/-- The arbiter's step of `qpop`, for a team's lanes (19 R288, R289). -/
def State.popStep (s : State) (tid q : Nat) (p : BitVec 64) (vals : List (Nat × BitVec 64)) (ref : Bool) : State × QueAns :=
  let me := s.team tid
  let t := s.team q
  let w := s.qWord t (offOf p)
  let full := vals.take (qCount w)
  let bad := me.qBad w vals ref
  let e := (List.range full.length).foldl (fun (y : State × Option (Nat × Nat × Nat)) i =>
    let e := y.1.senseRun t 2 (qSlot w (qHead w + i)) (qElem w)
    (e.1, y.2.orElse (fun _ => e.2))) (s, none)
  if bad != 0 then (s, qNo 0x1D p bad)
  else if let some x := s.refFault me (if ref then full else []) (qElem w) true then (s, { fault := some x })
  else
    let x := vals.foldl (fun (x : State × Nat × List (Nat × Byte)) v =>
      let some? := x.2.1 != qTail w
      let e := if some? then x.1.qRead t (qSlot w x.2.1) (qElem w) else []
      let u := if ref && some? then x.1.runWrite me (spaceOf v.2) (wbytes (offOf v.2) e) else x.1
      let low := if ref then bytesOf 8 v.2 else if some? then e.take 8 else []
      (u, if some? then (x.2.1 + 1) % 2 ^ 16 else x.2.1,
        x.2.2 ++ place (16 * v.1) low ++ place (16 * v.1 + 8) [if some? then 0 else 1])) (e.1, qHead w, [])
    let s := x.1.qWrite t (offOf p) (bytesOf 8 (setFld w 32 16 x.2.1))
    ({ s with freeCtr := s.freeCtr + 1 }, { got := x.2.2, bad := e.2 })

/-- The arbiter's step of `sarr` (19 R291). -/
def State.arrStep (s : State) (grp : Lanes) (q : Nat) (p : BitVec 64) (ix : Nat) : State × QueAns :=
  let t := s.team q
  let w := s.qWord t (offOf p)
  if qKind w != 1 then (s, qNo 0x1D p grp)
  else
    let j := qPhase w ix
    let old := (s.qRead t j.1 1).headD 0
    ((s.qWrite t j.1 [old ^^^ BitVec.ofNat 8 (2 ^ j.2)]).wakeSwt, {})

/-- The step of a queue arbiter for a queue word of a group of team `tid`, on team q's word (19 R288, R289, R291); a word that it cannot read right
answers so (10 R182). -/
def State.queStep (s : State) (tid : Nat) (grp : Lanes) (q : Nat) (p : BitVec 64) (x : QueOp) : State × QueAns :=
  let e := s.senseRun (s.team q) 2 (offOf p) 8
  match e.2 with
  | some z => (e.1, { bad := some z })
  | none =>
    match x with
    | .init v => e.1.initStep grp q p v
    | .push vals ref => e.1.pushStep tid q p vals ref
    | .pop vals ref => e.1.popStep tid q p vals ref
    | .arr ix => e.1.arrStep grp q p ix
    | .wait ix ph =>
      if qKind (e.1.qWord (e.1.team q) (offOf p)) != 1 then (e.1, qNo 0x1D p grp) else (e.1, { met := e.1.phaseIs q (offOf p) ix ph })

/-- What a core sends back for a request that has come over the mesh (10 R185); to itself it takes no packet. -/
def State.sendBack (s : State) (id : Nat) (r : Req) (kind : ReqKind) : State :=
  let f := s.fresh
  f.1.setReq id (some { r with master := r.line, line := r.master, kind := kind, page := r.tid, here := false, seq := f.2 })

/-- The reply to a remote-scratch access or a steal. -/
def State.replyTo (s : State) (id : Nat) (r : Req) (res : List (Nat × Byte)) : State :=
  if r.line = r.master then (s.setReq id none).partDone r.op res r.lanes r.scope else s.sendBack id r (.reply res)

/-- A queue word's packet at its core's arbiter (19 R295). For a team that has gone, or at a core that its queue's team has left (log entry 15), it does
nothing; a pop finds nothing there. -/
def State.queMesh (s : State) (id : Nat) (r : Req) (x : QueOp) (p : BitVec 64) (reached : Bool) : State :=
  if (s.team r.tid).terminated then s.setReq id none
  else
    let y := if reached && (s.team r.page).placed r.line then s.queStep r.tid r.lanes r.page p x
      else (s, match x with
        | .pop vals _ => { got := (vals.map (fun v => place (16 * v.1 + 8) [if reached then 1 else 0])).flatten : QueAns }
        | _ => {})
    y.1.sendBack id r (.answer x p y.2)

/-- The request, or the answer, of the issuing group's queue word. -/
def State.queReq (s : State) : Option (Nat × Req) :=
  (tsome s.reqs).find? (fun e => e.2.tid = s.cur.tid && e.2.coh = s.cur.coh && e.2.lanes &&& s.G != 0 &&
    (match e.2.kind with
     | .que _ _ => true
     | .answer _ _ _ => true
     | _ => false))

/-- The kind of access that a queue operation makes by REF: a push reads, a pop writes. -/
def QueOp.access : QueOp → Nat
  | .pop _ _ => 1
  | _ => 0

/-- A queue word completes its issue with its arbiter's answer (19 R288): a fault is precise at the word, an uncorrectable error that the arbiter met
ends the team (10 R182). -/
def State.queEnd (s : State) (x : QueOp) (p : BitVec 64) (a : QueAns) (k : State → QueAns → State) : State :=
  match a.bad, a.fault with
  | some e, _ => s.machineCheck s.cur.tid s.cur.coh s.herePc s.G 0 e
  | none, some (0x15, d, pg, ls) => s.raise { cause := 0x15, detail := d, pages := [pg], access := x.access, lanes := ls }
  | none, some (c, _, _, ls) => s.qFault c p ls
  | none, none => k s a

/-- A queue word's course (19 R288): its flag, the order of its lanes, its pointer. On its own core the arbiter acts in the word's issue; of another
core it is asked by a packet, and the group is not issuable until the answer has come. A release waits at a scope beyond cohort, in either space (19
R290); no acquire load holds it (27 R363). `k` ends the word. -/
def State.queWord (s : State) (lanes : Lanes) (flag : Nat) (b : Nat) (release : Bool) (rs : List RegCheck) (x : QueOp)
    (k : State → QueAns → State) : Out :=
  s.checked rs (
    if lanes = 0 then s.done true
    else
      let p := s.sget b
      match s.queReq, s.qTeam p with
      | some (id, r), _ =>
        match r.kind with
        | .answer _ _ a =>
          if r.held then ({ s with cur := { s.cur with lanes := s.G &&& r.lanes } }.setReq id none).queEnd x p a k else s
        | _ => s
      | none, none => s.qFault 0x1D p lanes
      | none, some r =>
        let core := (s.team r).core
        if !(s.flagFree flag) || s.casPending lanes then s
        else if release && s.unflushed 2 then s.flushFor
        else if release && !(s.relOps lanes 2).isEmpty then s
        else if core = s.myTeam.core then
          let y := s.queStep s.cur.tid s.G r p x
          y.1.queEnd x p y.2 k
        else (s.sendQue 0 s.G (.que x p) core false r 0).1)

/-- qinit. R288, R289. -/
def execQinit (a b : Nat) (s : State) : Out := s.queWord s.G 15 b false [] (.init (s.sget a)) (fun s _ => s.done)

/-- The low pairs of a register in the lanes of a queue word. -/
def State.queVals (s : State) (ls : Lanes) (v : Nat) : List (Nat × BitVec 64) := (lanesOf ls).map (fun l => (l, s.ptr l v))

/-- qpush. R288, R289. -/
def execQpush (v b r g : Nat) (s : State) : Out :=
  s.queWord (s.active g) s.cur.setb b true [s.vr v] (.push (s.queVals (s.active g) v) (r = 1)) (fun s _ => s.done)

/-- qpop. R288, R289. -/
def execQpop (v b r g : Nat) (s : State) : Out :=
  s.queWord (s.active g) s.cur.seta b false [s.vr v] (.pop (s.queVals (s.active g) v) (r = 1)) (fun s a =>
    (s.newOp { tid := s.cur.tid, coh := s.cur.coh, flag := s.cur.seta, lanes := s.active g, dest := .regs v 1, kind := 3, got := gather [] a.got,
               pc := s.herePc }).1.done)

/-- sarr. R291. -/
def execSarr (a b : Nat) (s : State) : Out :=
  s.queWord s.G s.cur.setb b true [] (.arr (s.sget a).toNat) (fun s _ => s.done)

/-- swt: a hardware wait unless the bit equals ph already. R291. -/
def execSwt (a b p : Nat) (s : State) : Out :=
  let ix := fld (s.sget a) 0 16
  let q := s.sget b
  s.queWord s.G 15 b false [] (.wait ix p) (fun s x =>
    if x.met || s.swtMet s.cur.tid q ix p then s.done
    else (s.modMe (fun c => { c with polls := c.polls ++ [⟨s.G, .swt q ix p⟩] })).suspend s.G)

-- task deques (19 R292 to R294) ---------------------------------------------------------------------------------------------------

/-- The depth of a team's task word, when it has one (19 R286, R292). -/
def State.taskDepth (s : State) (t : Team) : Option Nat :=
  if t.launch.queue < 8 then none
  else
    let w := s.qWord t t.launch.scratch
    if qKind w = 2 then some (qDepth w) else none

/-- The task of a lane: register v below v + 1 (19 R292). The task instructions hold VD / 2 (their words have bit 18 zero, R294). -/
def State.task (s : State) (l v : Nat) : BitVec 256 := s.v l (v + 1) ++ s.v l v

def taskKey (t : BitVec 256) : Nat := fld t 224 32

/-- tspawn. R294. -/
def execTspawn (h g : Nat) (s : State) : Out :=
    s.checked (s.vrun (2 * h) 2) (
      let v := 2 * h
      let ls := s.active g
      let t := s.myTeam
      if ls = 0 then s.done true
      else
        let ts := ((lanesOf ls).map (fun l => s.task l v)).filter (fun x => taskKey x != 0)
        match s.taskDepth t with
        | none => s.qFault 0x1B (BitVec.ofNat 64 (2 * 2 ^ 60 + t.launch.scratch)) ls
        | some d =>
          if d < t.deque.length + ts.length then s.qFault 0x1B (BitVec.ofNat 64 (2 * 2 ^ 60 + t.launch.scratch)) ls
          else if !(s.flagFree s.cur.setb) || s.casPending ls then s
          else if s.unflushed 4 then s.flushFor
          else if !(s.relOps ls 4).isEmpty then s
          else (s.pushTasks s.cur.tid ts).done)

/-- Give tasks to lanes, in order: the results' places, and the lanes left without one. -/
def giveTasks : List Nat → List (BitVec 256) → List (Nat × Byte) × List Nat
  | [], _ => ([], [])
  | l :: ls, [] => ([], l :: ls)
  | l :: ls, t :: ts =>
    let r := giveTasks ls ts
    (place (32 * l) (bytesOf 32 t) ++ r.1, r.2)

/-- Whether a task instruction's word may issue now, after its register checks. -/
def State.taskWord (s : State) (v g : Nat) (k : State) : Out :=
    s.checked (s.vrun v 2) (
      if s.active g = 0 then s.done true
      else if !(s.flagFree s.cur.seta) || s.casPending (s.active g) then s
      else k)

/-- ttake: each lane pops the newest task. R294. -/
def execTtake (h g : Nat) (s : State) : Out :=
  s.taskWord (2 * h) g (
    let v := 2 * h
    let ls := s.active g
    let t := s.myTeam
    let q := if (s.taskDepth t).isSome then t.deque else []
    let n := min (popLanes ls) q.length
    let r := giveTasks (lanesOf ls) (q.reverse.take n)
    let e := s.senseTasks t s.cur.tid (q.length - n) n t.vf
    let f := e.1.newOp { tid := s.cur.tid, coh := s.cur.coh, flag := s.cur.seta, lanes := ls, dest := .regs v 2, kind := 3,
                         got := gather [] r.1, bad := e.2 }
    (f.1.setDeque s.cur.tid (t.deque.take (t.deque.length - n))).done)

/-- The victims of a steal (19 R294): the other resident teams of the node in the polder, in cyclic order of core rank and
slot after the issuer. -/
def State.victims (s : State) : List Nat :=
  let t := s.myTeam
  let cores := (s.polder t.polder).cores
  let key (x : Team) : Nat := (cores.findIdx (· = x.core)) * 32 + x.slot
  let me := key t
  let all := s.teams.filter (fun e => e.1 != s.cur.tid && e.2.place = .resident && e.2.graph = t.graph && e.2.node = t.node &&
    e.2.polder = t.polder && cores.contains e.2.core)
  (sortBy (fun a b => a.1 ≤ b.1) (all.map (fun e => ((key e.2 + 8192 - me) % 8192, e.1)))).map (·.2)

/-- One victim's step (19 R294): a team that does not stand on the core that the steal has reached gives nothing (R293), nor one that the packet does
not reach. -/
def State.stealStep (s : State) (id : Nat) (r : Req) (lanes : List Nat) (reached : Bool) : List Nat → State
  | [] => s.setReq id none
  | v :: vs =>
    let t := s.team v
    let q := if reached && t.place = .resident && t.core = r.line && (s.taskDepth t).isSome then t.deque else []
    let n := min lanes.length q.length
    let x := giveTasks lanes (q.take n)
    let e := s.senseTasks t v 0 n (s.team r.tid).vf
    let s := e.1.spoil r.op (s.team r.tid).vf e.2
    let s := if n = 0 then s else s.setDeque v (t.deque.drop n) n
    if vs.isEmpty || x.2.isEmpty then s.replyTo id r x.1
    else
      let s := match s.op r.op with
        | some o => s.setOp r.op (some { o with got := gather o.got x.1 })
        | none => s
      let f := s.fresh
      f.1.setReq id (some { r with here := false, seq := f.2, kind := .steal x.2 vs, line := (s.team (vs.headD 0)).core, page := vs.headD 0 })

/-- The visits of a steal to victims on its own core, up to one elsewhere. -/
def State.ownVisits (s : State) (id : Nat) (r : Req) : List Nat → State
  | [] => s
  | v :: vs =>
    if r.line != r.master || r.waits then s
    else
      match r.kind with
      | .steal lanes _ =>
        let t := s.stealStep id r lanes true (v :: vs)
        match t.req id with
        | some q => t.ownVisits id q vs
        | none => t
      | _ => s

/-- tsteal: the victims are visited one by one, each in a step of its core's queue arbiter. R294. -/
def execTsteal (h g : Nat) (s : State) : Out :=
  s.taskWord (2 * h) g (
    let v := 2 * h
    let ls := s.active g
    let vs := s.victims
    let f := s.newOp { tid := s.cur.tid, coh := s.cur.coh, flag := s.cur.seta, lanes := ls, dest := .regs v 2, kind := 3,
                       left := if vs.isEmpty then 0 else 1 }
    match vs with
    | [] => f.1.done
    | x :: _ =>
      let q := f.1.sendQue f.2 ls (.steal (lanesOf ls) vs) (s.team x).core false x 0
      let t := q.1.modMe (fun c => { c with acqs := c.acqs.filter (fun a => s.isOut a.2) ++ [(ls, f.2)] })
      -- victims on its own core are visited in its issue, as the arbiter's own word (R295)
      (match t.req q.2 with
       | some r => t.ownVisits q.2 r vs
       | none => t).done)

end Sys2Proof.Machine
end

