-- ==== Sys2Proof/Machine/Lock.lean ====
section
/-!
DEFINITION. Lock.lean: the lock instructions (21 R324 to R326) and the lock steps of a home slice (21 R314, R315, R318, R319).
-/
namespace Sys2Proof.Machine

-- the instructions ------------------------------------------------------------------------------------------------------------

/-- The common course of a lock word (21 R324): the address check, translation, and `k` on the other lanes, each with its
physical address and the line of its leaf. -/
def State.lockWord (s : State) (g a need access size align : Nat) (spin : Bool)
    (k : State → List (Nat × Piece) → State) : State :=
  let ls := s.active g
  if ls = 0 then s.done true
  else if s.casPending ls then s
  else
    match stage2Fault access ((lanesOf ls).map (fun l =>
        let p := s.ptr l a
        (l, if spaceOf p != 0 || rankOf p != 0 || offOf p % align != 0 then some (0x1D, spaceOf p, p.toNat) else none))) with
    | some f => s.raise f
    | none =>
      s.translated need access size ((lanesOf ls).map (fun l => (l, [{ va := offOf (s.ptr l a), at_ := 0, len := size : Piece }])))
        (fun s good => if good.isEmpty then s.memDone spin else k s (good.map (fun e => (e.1, e.2.headD default))))

/-- The lines that lanes name, in order of their lowest lanes, with the lanes of each. -/
def lockLines (good : List (Nat × Piece)) : List (Nat × Piece × Lanes) :=
  (dedup (good.map (fun e => lineAt e.2.pa))).map (fun l =>
    let mine := good.filter (fun e => lineAt e.2.pa = l)
    (l, (mine.headD (0, default)).2, lanesFrom (mine.map (·.1))))

/-- The checks of `llock` and `ltry` after translation (21 R324): self-lock, and the limit of 8 lines. -/
def State.lockFault (s : State) (a : Nat) (good : List (Nat × Piece)) : Option FaultInfo :=
  let held (l : Nat) : Bool := (s.me.lockSlot l).isSome
  let fresh := (lockLines good).filter (fun e => !(held e.1))
  let extra := (fresh.drop (8 - s.me.locks.length)).map (·.1)
  stage2Fault 2 (good.map (fun e =>
    let l := lineAt e.2.pa
    (e.1, if held l then some (0x17, 0, (s.ptr e.1 a).toNat) else if extra.contains l then some (0x16, 0, (s.ptr e.1 a).toNat) else none)))

/-- Make the lock-list entry of a line (21 R312). -/
def Cohort.addRef (c : Cohort) (r : LockRef) : Cohort := { c with locks := tins c.freeRef r (tdel c.freeRef c.locks) }

/-- llock: each lane waits for its line's status. R325. -/
def execLlock (d a b g : Nat) (s : State) : Out :=
  let t := min (s.sget b).toNat (2 ^ 24 - 1)
  s.checked [s.vr d, s.vr a] (s.lockWord g a 3 2 128 128 false (fun s good =>
    match s.lockFault a good with
    | some f => s.raise f
    | none =>
      let ls := lanesFrom (good.map (·.1))
      let s := (lockLines good).foldl (fun s e =>
        let va := s.ptr (lowest e.2.2) a
        let s := s.modMe (fun c => c.addRef { line := e.1, va := va, wait := e.2.2, vd := d })
        (s.sendQue 0 e.2.2 (.lock va e.2.2 t false) e.1 true e.2.1.line e.2.1.kind).1) s
      (s.suspend ls).doneIn (s.G &&& ~~~ls &&& ~~~s.me.parked)))

/-- A lock word issues when its flag takes one more operation; one that no thread executes has its register checks alone (14 R221). -/
def State.lockIssue (s : State) (g flag : Nat) (rs : List RegCheck) (k : State) : Out :=
  if s.active g != 0 && !(s.flagFree flag) then .next s else s.checked rs k

/-- ltry: it never joins a chain. R325. -/
def execLtry (d a g : Nat) (s : State) : Out :=
  s.lockIssue g s.cur.seta [s.vr d, s.vr a] (s.lockWord g a 3 2 128 128 false (fun s good =>
    match s.lockFault a good with
    | some f => s.raise f
    | none =>
      let lines := lockLines good
      let f := s.newOp { tid := s.cur.tid, coh := s.cur.coh, flag := s.cur.seta, lanes := lanesFrom (good.map (·.1)),
                         dest := .regs d 1, kind := 3, left := lines.length, pc := s.herePc }
      let s := lines.foldl (fun s e =>
        let va := s.ptr (lowest e.2.2) a
        let s := s.modMe (fun c => c.addRef { line := e.1, va := va, vd := d })
        (s.sendQue f.2 e.2.2 (.lock va e.2.2 0 true) e.1 true e.2.1.line e.2.1.kind).1) f.1
      -- an acquire until its status has landed (21 R315, R325)
      (s.modMe (fun c => { c with acqs := c.acqs.filter (fun a => s.isOut a.2) ++ [(lanesFrom (good.map (·.1)), f.2)] })).memDone false))

/-- The data accesses of `lunlock` that hit a range lock, as a fault (13 R217; 09 R160). -/
def State.unlockHit (s : State) (a g n : Nat) : Option FaultInfo :=
  if n = 0 then none
  else stage2Fault 2 ((lanesOf (s.active g)).map (fun l =>
    let p := s.ptr l a
    (l, if spaceOf p != 0 || rankOf p != 0 || offOf p % n != 0 then none
        else ((s.myCore).rangeHit 0 s.myTeam.vf (offOf p) n true).map (fun e => (0x15, e, p.toNat)))))

/-- Whether every active lane's address passes the address check of 21 R324. -/
def State.lockAddrOk (s : State) (a g align : Nat) : Bool :=
  (lanesOf (s.active g)).all (fun l => let p := s.ptr l a
    spaceOf p = 0 && rankOf p = 0 && offOf p % align = 0)

/-- lunlock, with n bytes of data from register v, or none: one unlock for each line, a release at device scope; unlocks of different lines are not
ordered (27 R361). R325. -/
def State.lunlock (s : State) (v : Option Nat) (a g n : Nat) : Out :=
  let al := if n = 0 then 128 else n
  s.lockIssue g s.cur.setb ((v.map (fun r => s.vr r)).toList ++ [s.vr a]) (
    if s.active g != 0 && s.casPending (s.active g) then s
    else if let some f := if s.lockAddrOk a g al then s.unlockHit a g n else none then s.raise f
    else if s.active g != 0 && s.unflushed 5 then s.flushFor
    else s.lockWord g a 3 2 al al false (fun s good =>
      if good.any (fun e => !(s.me.locks.any (fun r => r.2.line = lineAt e.2.pa && r.2.holds))) then s.illegal
      else
        let lines := lockLines good
        let ls := lanesFrom (good.map (·.1))
        let f := s.newOp { tid := s.cur.tid, coh := s.cur.coh, flag := s.cur.setb, lanes := ls, kind := 5, left := lines.length,
                           parts := lines.map (fun e => (e.2.2, 0)), pc := s.herePc }
        let s := lines.foldl (fun t e =>
          let last := ((good.filter (fun x => lineAt x.2.pa = e.1)).getLast?).getD (0, default)
          let ws := match v with
            | some r => wbytes last.2.pa (bytesOf n (s.v last.1 r))
            | none => []
          (t.sendQue f.2 e.2.2 (.unlock ws) e.1 true e.2.1.line e.2.1.kind
            ((s.relOps e.2.2 5).filter (fun i => (s.op i).any (fun o => o.kind != 5))) 5).1) f.1
        s.memDone false))

/-- lunlock. R325. -/
def execLunlock (a g : Nat) (s : State) : Out := s.lunlock none a g 0
/-- lunlock.w. R325. -/
def execLunlockW (v a g : Nat) (s : State) : Out := s.lunlock (some v) a g 4
/-- lunlock.d. R325. -/
def execLunlockD (v a g : Nat) (s : State) : Out := s.lunlock (some v) a g 8
/-- lunlock.q. R325. -/
def execLunlockQ (v a g : Nat) (s : State) : Out := s.lunlock (some v) a g 16

/-- lstat: it orders no access. R326. -/
def execLstat (d a g : Nat) (s : State) : Out :=
  s.lockIssue g s.cur.seta [s.vr d, s.vr a] (s.lockWord g a 1 0 128 128 true (fun s good =>
    let lines := lockLines good
    let f := s.newOp { tid := s.cur.tid, coh := s.cur.coh, flag := s.cur.seta, lanes := lanesFrom (good.map (·.1)),
                       dest := .regs d 1, kind := 3, left := lines.length }
    let s := lines.foldl (fun s e =>
      (s.addReq { op := f.2, master := s.myTeam.core, vf := s.myTeam.vf, tid := s.cur.tid, coh := s.cur.coh, lanes := 0,
                  kind := .lstat e.2.2, line := e.1, page := e.2.1.line }).1) f.1
    s.memDone true))

/-- The lock-list entry as `lstat.list` writes it (21 R326). -/
def LockRef.listed (r : LockRef) : BitVec 128 :=
  BitVec.ofNat 128 (r.va.toNat + r.wait.toNat * 2 ^ 64 + 2 ^ 96 + nbit r.holds * 2 ^ 97)

/-- lstat.list. R326. -/
def execLstatList (d b g : Nat) (s : State) : Out :=
  s.lockIssue g s.cur.seta [s.vr d] (
    let ls := s.active g
    if ls = 0 then s.done true
    else
      let x := match s.me.locks.find? (fun e => e.1 = fld (s.sget b) 0 3) with
        | some (_, r) => r.listed
        | none => 0
      let got := gather [] ((lanesOf ls).map (fun l => place (16 * l) (bytesOf 16 x))).flatten
      ((s.newOp { tid := s.cur.tid, coh := s.cur.coh, flag := s.cur.seta, lanes := ls, dest := .regs d 1, kind := 3,
                  got := got }).1).done true)

-- the slice's steps ------------------------------------------------------------------------------------------------------------------

/-- Where a request's packet goes: its home slice, or its core. -/
def State.packetEnd (s : State) (r : Req) : Nat := if r.slice then s.homeSlice r.line else r.line

/-- How it fares (10 R183 to R185; 18 R272). What a core asks of its own queue arbiter takes no route. -/
def State.wayOf (s : State) (r : Req) : Way :=
  if r.slice then s.way r.master (s.homeSlice r.line)
  else if r.master = r.line then .arrives 0 none
  else s.wayTo r.master (siteOf (coreXY r.line))

/-- Whether an earlier packet of the same master to the same place has yet to arrive (10 R184). A master's packets to one place are of one class. -/
def State.behind (s : State) (id : Nat) (r : Req) : Bool :=
  (tsome s.reqs).any (fun e => e.1 != id && e.2.master = r.master && e.2.slice = r.slice && s.packetEnd e.2 = s.packetEnd r && !e.2.waits &&
    !e.2.here && e.2.seq < r.seq)

/-- Whether a request may arrive now: of one core clock, a slice takes its inputs in their order (14 R222), and a queue arbiter its core's own words
before (19 R295); a relayed packet comes out of its relay buffer (10 R185). -/
def State.inTurn (s : State) (id : Nat) (r : Req) : Bool :=
  match s.wayOf r with
  | .arrives k relay =>
    let last := if r.slice then let x := s.slice (s.packetEnd r); (x.inClk, x.inRank) else let c := s.core r.line; (c.inClk, c.inRank)
    (last.1 != s.clk || last.2 ≤ k) && (r.slice || (s.core r.line).stage.isEmpty) &&
      (match relay with
       | some x => s.slices.any (fun e => siteOf (sliceXY e.1) = x && e.2.relay.contains id)
       | none => true)
  | .drops _ => true
  | _ => false

/-- Whether a request may leave its core: what it follows has been taken, and has completed (13 R209, R210; 11 R192). -/
def State.mayLeave (s : State) (r : Req) : Bool :=
  r.after.all (fun i => (s.req i).isNone && (s.op i).isNone) && r.ops.all (fun i => !((s.op i).any (fun o => o.owes r.lanes r.rel)))

/-- Whether an earlier request for the same line has arrived at its slice and waits for the line's data: it goes first (19 R19; 14 R222). -/
def State.waitsFirst (s : State) (id : Nat) (r : Req) : Bool :=
  (tsome s.reqs).any (fun e => e.1 != id && r.slice && e.2.slice && e.2.line = r.line && e.2.here && !e.2.held && (!r.here || e.2.seq < r.seq))

/-- Whether a request may be taken. -/
def State.ready (s : State) (id : Nat) (r : Req) : Bool :=
  !r.held && !r.waits && (if r.here then !(s.waitsFirst id r) else !(s.behind id r) && s.inTurn id r)

/-- A request arrives: its input is noted, and it leaves its relay buffer. -/
def State.comeIn (s : State) (id : Nat) (r : Req) : State :=
  if r.here then s
  else
    let k := match s.wayOf r with
      | .arrives k _ => k
      | _ => 8
    let s : State := { s with slices := s.slices.map (fun e => (e.1, { e.2 with relay := e.2.relay.filter (· != id) })) }
    let s := if r.slice then s.setSlice (s.packetEnd r) { s.slice (s.packetEnd r) with inClk := s.clk, inRank := k }
      else s.modCore r.line (fun c => { c with inClk := s.clk, inRank := k })
    let f := s.fresh
    f.1.setReq id (some { r with here := true, seq := f.2 })

/-- What a request that may be taken at its slice or core does there: `k` gets the state with the request arrived, and the request. -/
def State.taking (s : State) (k : State → Nat → Req → State) : State :=
  match s.req (s.arg 0) with
  | none => s
  | some r =>
    if s.ready (s.arg 0) r then
      let t := s.comeIn (s.arg 0) r
      let r := (t.req (s.arg 0)).getD r
      if t.waitsFirst (s.arg 0) r then t else k t (s.arg 0) r
    else s

/-- An access to a window that its slice holds waits there, in a way of its own; one that finds no way stays in its link (16 R249). -/
def State.holdReq (s t : State) (id : Nat) (r : Req) : State :=
  if t.noWay r.line then s else (t.takeWay r.line).setReq id (some { r with held := true })

/-- The state of a line as `lstat` reads it (21 R326). -/
def State.lockState (s : State) (pa tid coh : Nat) : BitVec 64 :=
  let l := s.lock pa
  let mine := l.chain.filter (fun e => e.tid = tid && e.coh = coh)
  let w := nbit l.locked + nbit (l.mine tid coh) * 2 + nbit (mine.any (fun e => e.lanes != 0)) * 4 + l.chain.length * 16
  BitVec.ofNat 64 (match l.holder with
    | some e => w + nbit e.absent * 8 + e.core * 2 ^ 32 + e.slot * 2 ^ 39 + e.coh * 2 ^ 44 + e.vf * 2 ^ 49
    | none => w)

/-- The register for the statuses of a request's line. -/
def State.lockVd (s : State) (r : Req) : Nat :=
  match (s.coh r.tid r.coh).locks.find? (fun e => e.2.line = r.line) with
  | some (_, x) => x.vd
  | none => 0

/-- Refuse a lock request: status 3 in every lane (21 R314). -/
def State.lockRefused (s : State) (r : Req) (lanes : Lanes) (vd : Nat) : State :=
  s.sendGrant { tid := r.tid, coh := r.coh, line := r.line, lanes := lanes, status := 3, vd := vd, op := r.op }

/-- A lock request is taken at its slice (21 R314, R325). The access table's refusal gives status 3 too (log entry 19). -/
def State.takeLock (s : State) (id : Nat) (r : Req) (lanes : Lanes) (tleft : Nat) (isTry : Bool) : State :=
  let s := s.setReq id none
  let t := s.team r.tid
  let pa := r.line
  let vd := s.lockVd r
  if t.terminated then s
  else if let some s := s.turnedAway r 2 false then s.lockRefused r lanes vd
  else
    let l := s.lock pa
    let busy := l.holder.isSome
    if isTry && busy then
      s.sendGrant { tid := r.tid, coh := r.coh, line := pa, lanes := lanes, status := 1, vd := vd, op := r.op }
    else if s.lockFull pa then s.lockRefused r lanes vd
    else
      let e : ChainEntry := { tid := r.tid, coh := r.coh, vf := r.vf, core := t.core, slot := t.slot,
                              absent := t.place != .resident, lanes := if isTry then 0 else lanes, tleft := tleft }
      if busy then s.setLock pa { l with chain := l.chain ++ [e] }
      else
        let s := s.fill pa 0
        if isTry then
          let u := (s.setLock pa { chain := { e with holds := true } :: l.chain, locked := true, broken := false, image := (s.work pa).1 }).sendGrant
            { tid := r.tid, coh := r.coh, line := pa, lanes := lanes, status := if l.broken then 2 else 0, vd := vd, op := r.op,
              got := true }
          -- a cohort that has retired meanwhile holds it at its retirement, and it breaks (21 R322)
          if (s.coh r.tid r.coh).retired then u.breakLine pa r.tid r.coh true else u
        else (s.setLock pa { l with chain := e :: l.chain }).grantHead pa

/-- LOCK_REQUEST: a grant carries the line, which is read for it first; a held window's waits (16 R249). R314. -/
def execLockRequest (s : State) : Out :=
  .next (s.taking (fun t id r =>
    match r.kind with
    | .lock _ lanes tleft isTry =>
      if (s.refusalAt r.vf r.line r.master 2 false).isSome then t.takeLock id r lanes tleft isTry
      else if t.heldWindow r.line 128 then s.holdReq t id r
      else if let some x := t.missRefusal r.vf r.line then
        ((t.setReq id none).refuseAt r.vf r.master 2 x).lockRefused r lanes (t.lockVd r)
      else if t.isHere r.line || (t.lock r.line).holder.isSome then t.takeLock id r lanes tleft isTry
      else t.want r.vf r.line r.master id
    | _ => s))

/-- Where a status lands (21 R315, R325): with an acquisition, the line comes to the core's L1 as the cohort's lock line; one with bits that cannot
be corrected stays at its slice (10 R182), and one whose data a spillway has taken from its slice stays away (16 R253). -/
def State.landGrant (s : State) (g : Grant) : State :=
  let core := (s.team g.tid).core
  let won := g.status = 0 || g.status = 2
  let s := if won && (s.team g.tid).place = .resident && (s.lock g.line).mine g.tid g.coh && (s.sline g.line).isSome &&
      (s.senseLine (s.team g.tid).vf g.line).2.isNone then
      ((s.l1Drop 0 core g.line).l1Put core g.line { data := (s.work g.line).1, vf := (s.team g.tid).vf,
                                                    lock := some (g.tid, g.coh) }).share g.line core
    else s
  let s := s.modCoh g.tid g.coh (fun c => c.modRef g.line (fun r =>
    let r := { r with wait := r.wait &&& ~~~g.lanes, holds := r.holds || won }
    if r.holds || r.wait != 0 then some r else none))
  if g.op = 0 then s.landStatus g.tid g.coh g.vd g.lanes g.status
  else
    s.partDone g.op ((lanesOf g.lanes).map (fun l =>
      (16 * l, BitVec.ofNat 8 (if g.got && l != lowest g.lanes then 1 else g.status))))

/-- LOCK_GRANT: a status, the next packet of its slice, reaches its cohort, once its team is resident. R315, R320. -/
def execLockGrant (s : State) : Out :=
  .next (match tget none s.grants (s.arg 0) with
    | some g =>
      let t := s.team g.tid
      let u := s.unmail (s.arg 0)
      let s' : State := { u with grants := tset none s.grants (s.arg 0) none }
      if !(s.isNext (s.arg 0)) then s
      else if t.terminated || t.place = .gone then s'
      -- of `ltry` a status that is on its way at the stop lands before the save (09 R168)
      else if t.place = .resident || (t.place = .stopped && g.op != 0) then s'.landGrant g
      else u
    | none => s)

/-- An unlock is taken at its slice (21 R318); of a line that its cohort no longer holds, it only answers. Data that is refused is dropped; an
unlock that a router drops never comes to the slice (18 R270, R272). -/
def State.takeUnlock (s : State) (id : Nat) (r : Req) (ws : List WByte) : State :=
  let s := s.setReq id none
  let lost := match s.wayOf r with
    | .drops _ => true
    | _ => false
  let away := if ws.isEmpty && !lost then none else s.turnedAway r 1 true
  let no := away.isSome
  let s := away.getD s
  if !lost && (s.lock r.line).mine r.tid r.coh then
    let x := s.unlock r.vf r.line r.master (if no then [] else ws)
    x.1.ackFor r.op x.2.1 x.2.2 r.lanes r.scope [] (s.backWay r)
  else s.ackFor r.op 0 [] r.lanes r.scope [] (s.backWay r)

/-- UNLOCK_STEP. R318. -/
def execUnlockStep (s : State) : Out :=
  .next (s.taking (fun t id r =>
    match r.kind with
    | .unlock ws => if t.heldWindow r.line 128 then s.holdReq t id r else t.takeUnlock id r ws
    | _ => s))

/-- The deadlock report (21 R319). -/
def State.deadlock (s : State) (pa : Nat) (e : ChainEntry) : BitVec 512 :=
  let l := s.lock pa
  let h := match l.holder with
    | some h => h.core + h.slot * 2 ^ 7 + h.coh * 2 ^ 12 + h.vf * 2 ^ 17 + nbit h.absent * 2 ^ 23
    | none => 2 ^ 24
  rec512 [0x05 + e.vf * 2 ^ 8 + e.core * 2 ^ 16 + e.slot * 2 ^ 23 + e.coh * 2 ^ 28, pa, h + l.chain.length * 2 ^ 32,
    e.lanes.toNat, s.timebase.toNat]

/-- An entry's timeout: its waiting lanes are released with status 1 (21 R319). -/
def State.lockTimeout (s : State) (pa tid coh : Nat) : State :=
  let mine (e : ChainEntry) : Bool := e.tid = tid && e.coh = coh && e.tleft = 1 && 256 ≤ e.sub && !e.absent
  match (s.lock pa).chain.find? mine with
    | none => s
    | some e =>
      let vd := match (s.coh e.tid e.coh).locks.find? (fun r => r.2.line = pa) with
        | some (_, r) => r.vd
        | none => 0
      let rep := s.deadlock pa e
      let l := s.lock pa
      let chain := (l.chain.map (fun x => if mine x then { x with lanes := 0, tleft := 0, sub := 0 } else x)).filter
        (fun x => x.holds || x.lanes != 0)
      let s := s.setLock pa { l with chain := chain, broken := l.broken && (l.locked || !chain.isEmpty) }
      let s := if e.lanes = 0 then s else s.sendGrant { tid := e.tid, coh := e.coh, line := pa, lanes := e.lanes, status := 1, vd := vd }
      s.report e.vf rep

/-- LOCK_TIMEOUT: a grant that an unlock makes in the same core clock comes first (21 R315). R319. -/
def execLockTimeout (s : State) : Out :=
  let pa := s.arg 0
  .next (if (tsome s.reqs).any (fun e => e.2.slice && e.2.line = pa && s.ready e.1 e.2) then s else s.lockTimeout pa (s.arg 1) (s.arg 2))

/-- The timeouts that expire in a core clock, at its end (21 R315, R319). -/
def State.lockTimeouts (s : State) : State :=
  s.locks.foldl (fun s l => l.2.chain.foldl (fun s e => s.lockTimeout l.1 e.tid e.coh) s) s

end Sys2Proof.Machine
end

