-- ==== Sys2Proof/Machine/Recursion.lean ====
section
/-!
DEFINITION. Recursion.lean: the recursion unfolding engine (23 R329 to R341, R368): its instructions, dispatches, level ends and
the release.
-/
namespace Sys2Proof.Machine

-- objects and frames (23 R330, R331) ---------------------------------------------------------------------------------------------

/-- The fields of a recursion object from its eight words. -/
def recObj (w : List (BitVec 64)) : RecObj :=
  let x := w.getD 5 0
  { divpc := w.getD 0 0, basepc := w.getD 1 0, combpc := w.getD 2 0, farea := (w.getD 3 0).toNat, falen := (w.getD 4 0).toNat,
    argq := fld x 0 3, resq := fld x 3 3, maxch := fld x 8 4, dlim := fld x 12 7, w := fld x 19 6, frsz := fld x 25 13 }

/-- BFCAP (23 R331). -/
def RecObj.bfcap (o : RecObj) : Nat := 1 + (o.w - 1) * (o.dlim + o.maxch)

/-- Whether a recursion object is within its limits (23 R330, R331). -/
def recOk (w : List (BitVec 64)) : Bool :=
  let o := recObj w
  let x := w.getD 5 0
  [o.divpc, o.basepc, o.combpc].all (fun p => p != 0 && p.toNat % 4 = 0) &&
    o.farea < 2 ^ 52 && o.farea % 128 = 0 && 1 ≤ o.argq && o.argq ≤ 4 && 1 ≤ o.resq && o.resq ≤ 4 && fld x 6 2 = 0 &&
    1 ≤ o.maxch && o.maxch ≤ 8 && o.dlim ≤ 64 && 1 ≤ o.w && o.w ≤ 32 && o.frsz % 32 = 0 &&
    32 + 16 * (o.argq + o.resq) ≤ o.frsz && o.frsz ≤ 4096 && fld x 38 26 = 0 && w.getD 6 0 = 0 && w.getD 7 0 = 0 &&
    512 + o.frsz * (o.bfcap + o.w * o.dlim * o.maxch) ≤ o.falen

/-- The address of a frame. -/
def RecObj.frame (o : RecObj) (f : Nat) : Nat := o.farea + 512 + o.frsz * f

/-- The stack slot of a lane (23 R331). -/
def RecObj.slot (o : RecObj) (lane i : Nat) : Nat := o.bfcap + lane * o.dlim * o.maxch + i

/-- A frame's first 16 bytes (23 R331). -/
def FrameInfo.head (x : FrameInfo) (state : Nat) : List Byte :=
  bytesOf 16 (BitVec.ofNat 128 (x.parent % 2 ^ 32 + x.nch * 2 ^ 32 + x.cidx * 2 ^ 36 + x.depth * 2 ^ 39 + state * 2 ^ 46 +
    x.first * 2 ^ 64))

/-- A new frame's record: its header, zeros, and its argument. -/
def FrameInfo.record (x : FrameInfo) (arg : List Byte) : List Byte := x.head 0 ++ List.replicate 16 0 ++ arg

def Unf.frameInfo (u : Unf) (f : Nat) : FrameInfo := tget {} u.info f
def Unf.setInfo (u : Unf) (f : Nat) (x : FrameInfo) : Unf := { u with info := Machine.tset {} u.info f x }
def Unf.cur (u : Unf) (l : Nat) : LaneCur := tget {} u.lane l
def Unf.setCur (u : Unf) (l : Nat) (x : LaneCur) : Unf := { u with lane := Machine.tset {} u.lane l x }

/-- The argument of a lane: q registers from r on, 16 bytes each. -/
def State.regBytes (s : State) (lane r q : Nat) : List Byte :=
  ((List.range q).map (fun i => bytesOf 16 (s.v lane (r + i)))).flatten

-- accesses -----------------------------------------------------------------------------------------------------------------------

/-- The parts of an access to n bytes of global memory, for the words' own accesses (stage 3 of 09 R160). -/
def linePieces (va n : Nat) : List Piece :=
  (splitLines (n + 1) va 0 n).map (fun x => { va := x.1 % 2 ^ 52, at_ := x.2.1, len := x.2.2 })

/-- Write translated parts, on behalf of a team, each acknowledged to `op`. -/
def State.putParts (s : State) (op tid : Nat) (ps : List Piece) (bs : List Byte) : State :=
  let t := s.team tid
  ps.foldl (fun s p => s.writeAck op t.vf (lineAt p.pa) t.core (wbytes p.pa ((bs.drop p.at_).take p.len))) s

/-- Read translated parts, with an uncorrectable error that their reader meets (10 R182). -/
def State.getParts (s : State) (tid coh : Nat) (ps : List Piece) : State × List Byte × Option (Nat × Nat × Nat) :=
  let t := s.team tid
  ps.foldl (fun r p =>
    let x := r.1.readLine t.vf (lineAt p.pa) t.core tid coh
    (x.1, r.2.1 ++ lineBytes x.2.1 (p.pa % 128) p.len, r.2.2.orElse (fun _ => x.2.2))) (s, [], none)

/-- Why an engine access cannot go on: a fault, with its cause, its pages, and the refused walks (23 R368); or the tables' lines that its walks have yet
to get from their channels. -/
inductive EngStop where
  | fault (cause : Nat) (pages : List Nat) (reports : List Refused)
  | lines (ls : List Nat)

/-- The parts of an engine access, translated, or why it cannot go on. -/
def State.engMap (s : State) (tid va n : Nat) : Except EngStop (List Piece) :=
  let t := s.team tid
  match s.copyPages t.vf t.core 3 va n with
  | .ok m _ => .ok ((linePieces va n).map (fun p => { p with pa := tget 0 m (p.va / 65536) + p.va % 65536 }))
  | .bad c ps rs => .error (.fault c ps rs)
  | .need ls => .error (.lines ls)

/-- The record and the park-table entry of an engine access that faults (23 R368). -/
def State.engFault (s : State) (tid coh : Nat) (u : Unf) (lanes : Lanes) (size cause : Nat) (pages : List Nat) (rs : List Refused) : State :=
  let t := s.team tid
  let s := rs.foldl (fun s r => s.refuseAt t.vf (0x116 + dieOf t.core) 5 r) s
  let f := s.takeFseq t.vf
  let w := f.1.faultWords tid coh u.pc { cause := cause, detail := size, pages := pages.take 4, more := decide (4 < pages.length),
                                         access := 5, lanes := lanes, fseq := f.2 } false
  f.1.sendRecord { vf := t.vf, data := rec512 w, fseq := f.2,
                   park := some { tid := tid, coh := coh, lanes := lanes, engine := true } }

/-- Whether an engine step of some lanes waits for a RESUME (23 R368). -/
def State.engWaits (s : State) (tid coh : Nat) (lanes : Lanes) : Bool :=
  let is (p : Park) : Bool := p.engine && p.tid = tid && p.coh = coh && p.lanes &&& lanes != 0
  (tsome s.parks).any (fun e => is e.2) || s.frecs.any (fun f => f.park.any is)

/-- An engine access that cannot go on: its fault, or the wait for its lines. -/
def State.engStop (s : State) (tid coh : Nat) (u : Unf) (lanes : Lanes) (size : Nat) (e : EngStop) : State :=
  match e with
  | .fault c ps rs => s.engFault tid coh u lanes size c ps rs
  | .lines ls => ls.foldl (fun s l => s.missAt (s.team tid).vf l (0x116 + dieOf (s.team tid).core)) s

/-- Several engine accesses of one step: all are translated before any performs. `k` gets their parts. -/
def State.engStep (s : State) (tid coh : Nat) (u : Unf) (lanes : Lanes) (as : List (Nat × Nat))
    (k : State → List (List Piece) → State) : State :=
  if s.engWaits tid coh lanes then s
  else
    match as.find? (fun a => (s.engMap tid a.1 a.2).toOption.isNone) with
    | some a =>
      match s.engMap tid a.1 a.2 with
      | .error e => s.engStop tid coh u lanes a.2 e
      | .ok _ => s
    | none => k s (as.map (fun a => ((s.engMap tid a.1 a.2).toOption).getD []))

def State.setUnf (s : State) (tid coh : Nat) (u : Option Unf) : State := s.modCoh tid coh (fun c => { c with unf := u })

/-- The engine of a cohort has begun an operation: those that have ended are forgotten. -/
def State.engOwn (s : State) (tid coh id : Nat) : State :=
  s.modCoh tid coh (fun c => { c with unf := c.unf.map (fun u => { u with ops := u.ops.filter (fun i => (s.op i).isSome) ++ [id] }) })

/-- Writes of the engine's own, an operation of some lanes' work: what depends on it waits until they have landed (23 R340, R341). -/
def State.engPut (s : State) (tid coh : Nat) (lanes : Lanes) (ws : List (List Piece × List Byte)) : State :=
  let f := s.newOp { tid := tid, coh := coh, lanes := lanes, kind := 4, left := (ws.map (fun w => w.1.length)).foldl (· + ·) 0 }
  ws.foldl (fun s w => s.putParts f.2 tid w.1 w.2) (f.1.engOwn tid coh f.2)

/-- The control block's new contents: the device's own (23 R341), free values (log entry 3). No dispatch waits until they have landed; a stop does. -/
def State.writeBlock (s : State) (tid coh : Nat) (ps : List Piece) : State :=
  { s with freeCtr := s.freeCtr + 1 }.engPut tid coh 0 [(ps, (List.range 512).map (fun i => Config.freeByte s.freeCtr i))]

/-- The lanes that the engine works for. -/
def Unf.width (u : Unf) : Lanes := lanesBy (fun l => l < u.obj.w)

/-- The engine writes its control block, at `unfold` and at a pre-emption's stop; a write that faults is due until a RESUME, or the restore (23
R341, R368). `due` is what the engine has to do with the block when the write has been made. -/
def State.saveBlock (s : State) (tid coh : Nat) (u : Unf) (due : Nat) : State :=
  match s.engMap tid u.obj.farea 512 with
  | .ok ps => (s.setUnf tid coh (some { u with due := due })).writeBlock tid coh ps
  | .error e => (s.setUnf tid coh (some { u with due := due + 2 })).engStop tid coh u u.width 512 e

/-- An engine that owes its control block a write, or a reading, does that first (23 R341, R368). -/
def State.dueBlock (s : State) (tid coh : Nat) (u : Unf) : State :=
  s.engStep tid coh u u.width [(u.obj.farea, 512)] (fun s ps =>
    let s := if 2 ≤ u.due then s.writeBlock tid coh (ps.getD 0 []) else s
    let r := if u.due % 2 = 1 then s.getParts tid coh (ps.getD 0 []) else (s, [], none)
    (r.1.modCoh tid coh (fun c => { c with unf := c.unf.map (fun x => { x with due := 0 }) })).engineCheck tid coh u.pc r.2.2)

-- the phases (23 R334 to R336) ---------------------------------------------------------------------------------------------------------

/-- Give each frame of a list to its lane, by its place modulo W: a routine of one kind. -/
def Unf.assign (u : Unf) (kind : Nat) (fs : List (Nat × Nat)) : Unf :=
  fs.foldl (fun u x => let l := x.1 % u.obj.w
    u.setCur l { u.cur l with todo := (u.cur l).todo ++ [(kind, x.2)] }) u

/-- The places of a level's frames. -/
def placesOf (fs : List Nat) : List (Nat × Nat) := (List.range fs.length).zip fs

/-- Begin a level: its divides in the breadth-first phase, or, at the switch level, the depth-first phase. -/
def Unf.begin (u : Unf) : Unf :=
  let sw := u.frames.isEmpty || u.obj.w ≤ u.frames.length || u.level = u.obj.dlim
  { u with phase := if sw then 1 else 0 }.assign 0 (placesOf u.frames)

/-- The next level of the combine phase that emitted children (23 R336); with none left the root's result stands. -/
def Unf.combine (u : Unf) : List (List Nat) → Unf
  | [] => { u with phase := 2, levels := [], isOver := true }
  | l :: ls =>
    let fs := (placesOf l).filter (fun x => (u.frameInfo x.2).nch != 0)
    if fs.isEmpty then u.combine ls else { u with phase := 2, levels := ls }.assign 2 fs

/-- Whether every lane has ended its routines. -/
def Unf.idle (u : Unf) : Bool := (List.range u.obj.w).all (fun l => (u.cur l).kind = 3 && (u.cur l).todo.isEmpty)

/-- What a lane has to do once a routine has ended (23 R334, R335). -/
def Unf.after (u : Unf) (l : Nat) : Unf :=
  let c := u.cur l
  let i := u.frameInfo c.frame
  let more :=
    if c.kind != 0 then []
    else if i.nch = 0 then [(1, c.frame)]
    else if u.phase = 0 then []
    else (List.range i.nch).map (fun k => (0, i.first + k)) ++ [(2, c.frame)]
  u.setCur l { kind := 3, todo := more ++ c.todo }

-- the instructions ---------------------------------------------------------------------------------------------------------------

/-- unfold. R332. -/
def execUnfold (d a b : Nat) (s : State) : Out :=
  let p := s.sget b
  let bad (s : State) : State := s.raise { cause := 0x1D, detail := spaceOf p, pages := [p.toNat], lanes := s.G }
  let l0 := lowest s.G
  s.checked [s.vr d, s.vr a] (
    if spaceOf p != 0 || rankOf p != 0 || offOf p % 64 != 0 then bad s
    else
      s.translated 1 0 64 [(l0, linePieces (offOf p) 64)] (all := true) (fun s good =>
        if good.isEmpty then s
        else
          let r := s.getParts s.cur.tid s.cur.coh (good.headD (0, [])).2
          let s := r.1
          let w : List (BitVec 64) := (List.range 8).map (fun i => BitVec.ofNat 64 (ofLeBytes ((r.2.1.drop (8 * i)).take 8)))
          let o := recObj w
          if let some e := r.2.2 then s.machineCheck s.cur.tid s.cur.coh s.herePc s.G 0 e
          else if !(recOk w) then bad s
          else if s.me.unf.isSome || !((List.range o.w).all (fun l => s.G.getLsbD l)) then s.illegal
          else
            match (s.vrun d o.resq ++ s.vrun a o.argq ++ s.vrun 1 (1 + o.argq)).find? (fun x => !x.1) with
            | some x => s.badReg x.2
            | none =>
              let n := 32 + 16 * o.argq
              s.translated 3 1 n [(l0, linePieces (o.frame 0) n)] (all := true) (fun s good =>
                if good.isEmpty then s
                else
                  let u : Unf := { obj := o, vd := d, lanes := s.G, pc := s.herePc, last := s.cur.idx = s.cur.count,
                                   pcs := (lanesOf s.G).map (fun l => (l, tget 0 s.me.pc l)), frames := [0] }
                  let s := (s.suspend s.G).saveBlock s.cur.tid s.cur.coh u.begin 0
                  s.engPut s.cur.tid s.cur.coh u.width [((good.headD (0, [])).2, ({} : FrameInfo).record (s.regBytes 0 a o.argq))])))

/-- A lane's cursor in the unfolding of the issuing cohort; kind 3 without one. -/
def State.laneCur (s : State) (l : Nat) : LaneCur :=
  match s.me.unf with
  | some u => u.cur l
  | none => {}

/-- The object of the unfolding in progress. -/
def State.obj (s : State) : RecObj := ((s.me.unf).getD {}).obj

/-- The operation of a `spawnf` or a `fret`: it completes with the last of its writes, and the engine waits for it (23 R340). -/
def State.recOp (s : State) (lanes : Lanes) (parts : Nat) : State × Nat :=
  let f := s.newOp { tid := s.cur.tid, coh := s.cur.coh, flag := s.cur.setb, lanes := lanes, kind := 1, left := max 1 parts }
  let t := f.1.engOwn s.cur.tid s.cur.coh f.2
  (if parts = 0 then t.ackFor f.2 0 [] else t, f.2)

/-- How many parts the lanes' accesses have. -/
def partsIn (good : List (Nat × List Piece)) : Nat := (good.map (fun e => e.2.length)).foldl (· + ·) 0

/-- spawnf. R337. -/
def execSpawnf (v g : Nat) (s : State) : Out :=
  let ls := s.active g
  let o := s.obj
  s.checked (s.vrun v (if s.me.unf.isSome then o.argq else 1)) (
    match s.me.unf with
    | none => if ls = 0 then s.done true else s.illegal
    | some u =>
      if ls = 0 then s.done true
      else
        let cause (l : Nat) : Nat :=
          let c := u.cur l
          if c.kind != 0 || o.maxch ≤ c.spawned then 0x10
          else if (u.frameInfo c.frame).depth = o.dlim then 0x18
          else 0
        match (lanesOf ls).find? (fun l => cause l != 0) with
        | some l =>
          if cause l = 0x10 then s.illegal
          else
            let path := (u.frameInfo (u.cur l).frame).path
            s.raise { cause := 0x18, detail := o.dlim, pages := (List.range 3).map (fun i => path / 2 ^ (64 * i) % 2 ^ 64), access := 1,
                      lanes := lanesFrom ((lanesOf ls).filter (fun l => cause l = 0x18)) }
        | none =>
          if !(s.flagFree s.cur.setb) || s.casPending ls then s
          else
            let n := 32 + 16 * o.argq
            let child (l : Nat) : Nat :=
              let c := u.cur l
              o.slot l ((if u.phase = 0 then 0 else o.maxch * (u.frameInfo c.frame).depth) + c.spawned)
            s.translated 3 1 n ((lanesOf ls).map (fun l => (l, linePieces (o.frame (child l)) n ++
                (linePieces (o.frame (u.cur l).frame) 16).map (fun q => { q with at_ := q.at_ + n })))) (fun s good =>
              let r := good.foldl (fun (r : List (List Piece × List Byte) × Unf) e =>
                let u := r.2
                let c := u.cur e.1
                let i := u.frameInfo c.frame
                let x : FrameInfo := { parent := c.frame, depth := i.depth + 1, cidx := c.spawned,
                                       path := i.path + c.spawned * 8 ^ i.depth }
                let i := { i with nch := c.spawned + 1, first := if u.phase = 0 then 0 else if c.spawned = 0 then child e.1 else i.first }
                let u := ((u.setInfo (child e.1) x).setInfo c.frame i).setCur e.1 { c with spawned := c.spawned + 1 }
                (r.1 ++ [(e.2, x.record (s.regBytes e.1 v o.argq) ++ i.head 1)], u)) ([], u)
              if good.isEmpty then s.memDone false
              else
                let f := (s.setUnf s.cur.tid s.cur.coh (some r.2)).recOp (lanesFrom (good.map (·.1))) (partsIn good)
                (r.1.foldl (fun t w => t.putParts f.2 s.cur.tid w.1 w.2) f.1).memDone false))

/-- Lanes end their routines and re-enter the engine's wait (23 R338). -/
def State.endRoutines (s : State) (ls : Lanes) : State :=
  s.modMe (fun c =>
    match c.unf with
    | none => c
    | some u =>
      { (c.note false) with
        unf := some ((lanesOf ls).foldl (fun u l => u.after l) u)
        waiting := c.waiting ||| ls
        last := if u.last then c.last ||| ls else c.last &&& ~~~ls
        pc := (lanesOf ls).foldl (fun t l => Machine.tset 0 t l (tget 0 u.pcs l)) c.pc })

/-- fret: a release at cohort scope. R338, R340. -/
def execFret (v : Nat) (s : State) : Out :=
  let o := s.obj
  s.checked (s.vrun v (if s.me.unf.isSome then o.resq else 1)) (
    match s.me.unf with
    | none => s.illegal
    | some u =>
      if (lanesOf s.G).any (fun l => (u.cur l).kind = 3) then s.illegal
      else if !(s.flagFree s.cur.setb) || s.casPending s.G || !(s.relOps s.G 1).isEmpty then s
      else
        let n := 16 * o.resq
        let put (l : Nat) : Bool := (u.cur l).kind != 0
        s.translated 3 1 n ((lanesOf s.G).map (fun l =>
            let f := o.frame (u.cur l).frame
            (l, if put l then linePieces (f + 32 + 16 * o.argq) n ++ (linePieces f 16).map (fun q => { q with at_ := q.at_ + n })
                else []))) (fun s good =>
          let ls := lanesFrom (good.map (·.1))
          if ls = 0 then s
          else
            let f := s.recOp ls (partsIn good)
            let t := good.foldl (fun t e =>
              if put e.1 then t.putParts f.2 s.cur.tid e.2 (s.regBytes e.1 v o.resq ++ (u.frameInfo (u.cur e.1).frame).head 2) else t) f.1
            t.endRoutines ls))

/-- cres. R339. -/
def execCres (d g : Nat) (s : State) : Out :=
  let ls := s.active g
  let o := s.obj
  s.checked (s.vrun d (if s.me.unf.isSome then o.resq else 1)) (
    match s.me.unf with
    | none => if ls = 0 then s.done true else s.illegal
    | some u =>
      if ls = 0 then s.done true
      else if (lanesOf ls).any (fun l => (u.cur l).kind != 2) then s.illegal
      else if !(s.flagFree s.cur.seta) || s.casPending ls then s
      else
        let n := 16 * o.resq
        s.translated 1 0 n ((lanesOf ls).map (fun l =>
            let c := u.cur l
            let i := u.frameInfo c.frame
            (l, if c.next < i.nch then linePieces (o.frame (i.first + c.next) + 32 + 16 * o.argq) n else []))) (fun s good =>
          if good.isEmpty then s.memDone false
          else
            let r := good.foldl (fun (r : State × List (Nat × Byte) × Option (Nat × Nat × Nat)) e =>
              let x := r.1.getParts s.cur.tid s.cur.coh e.2
              (x.1, r.2.1 ++ place (n * e.1) x.2.1, r.2.2.orElse (fun _ => x.2.2))) (s, [], none)
            let s := (r.1.newOp { tid := s.cur.tid, coh := s.cur.coh, flag := s.cur.seta, lanes := lanesFrom (good.map (·.1)),
                                  dest := .regs d o.resq, kind := 3, got := gather [] r.2.1, pc := s.herePc, bad := r.2.2 }).1
            (s.setUnf s.cur.tid s.cur.coh (some (good.foldl (fun u e =>
              u.setCur e.1 { u.cur e.1 with next := (u.cur e.1).next + 1 }) u))).memDone false))

-- the engine's steps ------------------------------------------------------------------------------------------------------------------

/-- Dispatch a routine of a frame on a lane (23 R333). -/
def State.dispatch (s : State) (tid coh lane kind f : Nat) (rest : List (Nat × Nat)) (u : Unf) : State :=
  let o := u.obj
  let a := o.frame f
  s.engStep tid coh u (lane1 lane) [(a, 32 + 16 * o.argq), (o.farea, 512)] (fun s ps =>
    let r := s.getParts tid coh (ps.getD 0 [])
    if r.2.2.isSome then r.1.engineCheck tid coh u.pc r.2.2
    else
    let i := u.frameInfo f
    let head := ((ps.getD 0 []).filter (fun p => p.at_ < 16)).map (fun p => { p with len := min p.len (16 - p.at_) })
    let s := r.1.setUnf tid coh (some (u.setCur lane { kind := kind, frame := f, spawned := 0, next := 0, todo := rest }))
    let s := if kind = 0 then s.engPut tid coh (lane1 lane) [(head, i.head 1)] else s
    let s := s.writeBlock tid coh (ps.getD 1 [])
    let v1 : BitVec 128 := BitVec.ofNat 128 (a + i.depth * 2 ^ 64 + (i.nch + i.cidx * 2 ^ 4 + kind * 2 ^ 7) * 2 ^ 96)
    let s := (List.range o.argq).foldl (fun s q =>
      s.vset tid coh lane (2 + q) (BitVec.ofNat 128 (ofLeBytes ((r.2.1.drop (32 + 16 * q)).take 16)))) (s.vset tid coh lane 1 v1)
    let pc := if kind = 0 then o.divpc else if kind = 1 then o.basepc else o.combpc
    s.modCoh tid coh (fun c => { c with
      waiting := c.waiting &&& ~~~(lane1 lane)
      last := c.last &&& ~~~(lane1 lane)
      pc := Machine.tset 0 c.pc lane (jumpPc (tget 0 c.pc lane) (fld pc 0 52) (fld (tget 0 u.pcs lane) 52 8)) }))

/-- Whether an engine may act on some lanes for a team's unfolding: the team is resident and not terminated, no stop has taken its control block,
and every `spawnf`, `fret` and write of the engine's own on those lanes has completed; lanes are otherwise unordered (23 R335, R340, R341). -/
def State.engOn (s : State) (tid : Nat) (u : Unf) (lanes : Lanes) : Bool :=
  (s.team tid).place = .resident && !(s.team tid).terminated && !(u.due % 2 = 1 && !(s.team tid).asks.isEmpty) &&
    u.ops.all (fun i => (s.op i).all (fun o => o.lanes &&& lanes = 0))

/-- ROUTINE_DISPATCH. R333. -/
def execRoutineDispatch (s : State) : Out :=
  let tid := s.arg 0
  let coh := s.arg 1
  let l := s.arg 2
  .next (match (s.coh tid coh).unf with
    | none => s
    | some u =>
      match (u.cur l).todo with
      | [] => s
      | (k, f) :: rest =>
        if !(s.engOn tid u (lane1 l)) || (u.cur l).kind != 3 then s
        else if u.due != 0 then s.dueBlock tid coh u
        else s.dispatch tid coh l k f rest u)

/-- The end of a breadth-first level (23 R334, R337): the children's records move to consecutive indices. -/
def State.moveLevel (s : State) (tid coh : Nat) (u : Unf) : State :=
  let o := u.obj
  let n := 32 + 16 * o.argq
  let base := u.frames.foldl max 0 + 1
  -- the children in order: parent, lane of the parent, child index
  let kids := ((placesOf u.frames).map (fun x =>
    (List.range (u.frameInfo x.2).nch).map (fun c => (x.2, o.slot (x.1 % o.w) c)))).flatten
  let moves := (List.range kids.length).zip kids
  let firsts := u.frames.map (fun f => (f, ((moves.find? (fun m => m.2.1 = f)).map (fun m => base + m.1)).getD 0))
  let as := (moves.map (fun m => [(o.frame m.2.2, n), (o.frame (base + m.1), n)])).flatten ++
    u.frames.map (fun f => (o.frame f, 16)) ++ [(o.farea, 512)]
  s.engStep tid coh u (lanesBy (fun l => l < o.w)) as (fun s ps =>
    let got := moves.foldl (fun (r : State × List (List Byte) × Option (Nat × Nat × Nat)) m =>
      let x := r.1.getParts tid coh (ps.getD (2 * m.1) [])
      (x.1, r.2.1 ++ [x.2.1], r.2.2.orElse (fun _ => x.2.2))) (s, [], none)
    if got.2.2.isSome then got.1.engineCheck tid coh u.pc got.2.2
    else
    let u := moves.foldl (fun u m => u.setInfo (base + m.1) (u.frameInfo m.2.2)) u
    let u := firsts.foldl (fun u f => if (u.frameInfo f.1).nch = 0 then u
      else u.setInfo f.1 { u.frameInfo f.1 with first := f.2 }) u
    let heads := ((List.range firsts.length).zip firsts).map (fun f =>
      let i := u.frameInfo f.2.1
      -- a frame without children holds its base result already (R336)
      (ps.getD (2 * moves.length + f.1) [], i.head (if i.nch = 0 then 2 else 1)))
    let u := { u with levels := u.frames :: u.levels, level := u.level + 1, frames := (List.range kids.length).map (fun i => base + i) }
    -- the next level is dispatched when these have landed (R337)
    ((got.1.setUnf tid coh (some u.begin)).engPut tid coh u.width
      (moves.map (fun m => (ps.getD (2 * m.1 + 1) [], got.2.1.getD m.1 [])) ++ heads)).writeBlock tid coh (ps.getD (as.length - 1) []))

/-- LEVEL_END: every lane has ended its routines; the next level, or the next phase. R334 to R337. -/
def execLevelEnd (s : State) : Out :=
  let tid := s.arg 0
  let coh := s.arg 1
  .next (match (s.coh tid coh).unf with
    | none => s
    | some u =>
      if !(s.engOn tid u (BitVec.allOnes 32)) || u.isOver || !u.idle then s
      else if u.due != 0 then s.dueBlock tid coh u
      else if u.phase = 0 then s.moveLevel tid coh u
      else
        s.engStep tid coh u (lanesBy (fun l => l < u.obj.w)) [(u.obj.farea, 512)] (fun s ps =>
          (s.setUnf tid coh (some (u.combine u.levels))).writeBlock tid coh (ps.getD 0 [])))

/-- UNFOLD_RELEASE: the root's result goes to VD of every thread of the group. R332, R340. -/
def execUnfoldRelease (s : State) : Out :=
  let tid := s.arg 0
  let coh := s.arg 1
  .next (match (s.coh tid coh).unf with
    | none => s
    | some u =>
      if !(s.engOn tid u (BitVec.allOnes 32)) || !u.isOver then s
      else if u.due != 0 then s.dueBlock tid coh u
      else
        let o := u.obj
        s.engStep tid coh u u.lanes [(o.frame 0 + 32 + 16 * o.argq, 16 * o.resq)] (fun s ps =>
          let r := s.getParts tid coh (ps.getD 0 [])
          if r.2.2.isSome then r.1.engineCheck tid coh u.pc r.2.2
          else
          let s := (lanesOf u.lanes).foldl (fun s l => (List.range o.resq).foldl (fun s q =>
            s.vset tid coh l (u.vd + q) (BitVec.ofNat 128 (ofLeBytes ((r.2.1.drop (16 * q)).take 16)))) s) r.1
          (s.setUnf tid coh none).modCoh tid coh (fun c => c.release u.lanes)))

end Sys2Proof.Machine
end

