-- ==== Sys2Proof/Machine/Mtx.lean ====
section
/-!
DEFINITION. Mtx.lean: the mtx class (08 R141 to R157): tile records, convergence registers, and acceptance into the matrix
queue. The queue executes in Engine.lean.
-/
namespace Sys2Proof.Machine

-- formats (08 R143) ----------------------------------------------------------------------------------------------------------

/-- Matrix groups: 0 none, 1 E8, 2 I8, 3 E4, 4 B16, 5 H16. Reserved codes have none. -/
def fmtGroup (f : Nat) : Nat :=
  if (1 ≤ f && f ≤ 7) || (9 ≤ f && f ≤ 15) || f = 0x11 || f = 0x12 then 1
  else if f = 0x10 then 2
  else if f = 0x13 then 3
  else if f = 0x14 then 4
  else if f = 0x15 then 5
  else 0

/-- Whether a code is listed. -/
def fmtKnown (f : Nat) : Bool := f = 0 || f = 0x16 || fmtGroup f != 0

/-- The bits of an element. -/
def fmtBits (f : Nat) : Nat :=
  if f = 0x11 || f = 0x12 then 6 else if f = 0x13 then 4 else if f = 0x14 || f = 0x15 then 16 else if f = 0x16 then 32 else 8

/-- D and the rows of a plane (08 R143, R151). -/
def groupDepth (g : Nat) : Nat := if g = 3 then 512 else if g = 4 || g = 5 then 128 else 256

-- tile records (08 R142) -------------------------------------------------------------------------------------------------------

def Tile.valid (t : Tile) : Bool := bit t 0
def Tile.inf (t : Tile) : Bool := bit t 1
def Tile.scl (t : Tile) : Bool := bit t 2
def Tile.blk (t : Tile) : Nat := if bit t 3 then 32 else 16
def Tile.sfmt (t : Tile) : Bool := bit t 4
def Tile.pl (t : Tile) : Nat := fld t 5 2
def Tile.wpg (t : Tile) : Bool := bit t 7
def Tile.fmt (t : Tile) : Nat := fld t 8 8
def Tile.x (t : Tile) : BitVec 16 := BitVec.ofNat 16 (fld t 16 16)
def Tile.wpch (t : Tile) : Nat := fld t 32 3
def Tile.base (t : Tile) : Nat := fld t 64 21
def Tile.len (t : Tile) : Nat := fld t 96 22
def Tile.rows (t : Tile) : Nat := fld t 128 11
def Tile.cols (t : Tile) : Nat := fld t 144 10
def Tile.rstride (t : Tile) : Nat := fld t 160 21
def Tile.sbase (t : Tile) : Nat := fld t 192 21
def Tile.sstride (t : Tile) : Nat := fld t 224 21
def Tile.wpbase (t : Tile) : Nat := fld t 256 64
def Tile.setPl (t : Tile) (p : Nat) : Tile := setFld t 5 2 p

/-- The bytes of a row. -/
def Tile.rowBytes (t : Tile) : Nat := (t.cols * fmtBits t.fmt + 7) / 8

/-- The end of the last row, and of the last scale byte as an activation tile and as a weight tile. -/
def Tile.rowsEnd (t : Tile) : Nat := t.base + (t.rows - 1) * t.rstride + t.rowBytes
def Tile.actEnd (t : Tile) : Nat := t.sbase + (t.rows - 1) * t.sstride + (t.cols + t.blk - 1) / t.blk
def Tile.wtEnd (t : Tile) : Nat := t.sbase + ((t.rows + t.blk - 1) / t.blk - 1) * t.sstride + t.cols

/-- The bits of an image that are not reserved (08 R142). -/
def tileBits : Tile :=
  BitVec.ofNat 512 ((2 ^ 35 - 1) + (2 ^ 21 - 1 + (2 ^ 22 - 1) * 2 ^ 32) * 2 ^ 64 +
    (2 ^ 11 - 1 + (2 ^ 10 - 1) * 2 ^ 16 + (2 ^ 21 - 1) * 2 ^ 32) * 2 ^ 128 + (2 ^ 21 - 1 + (2 ^ 21 - 1) * 2 ^ 32) * 2 ^ 192 +
    (2 ^ 64 - 1) * 2 ^ 256)

/-- Whether a record's contents are legal for `tset` (08 R144). A scale layout is legal when the activation's or the weight's
last byte lies in the range (log entry 20). -/
def Tile.ok (t : Tile) : Bool :=
  fmtKnown t.fmt && t.rows != 0 && t.cols != 0 && (!t.scl || fmtGroup t.fmt = 1 || fmtGroup t.fmt = 3) &&
    t.rowsEnd ≤ t.base + t.len && (!t.scl || min t.actEnd t.wtEnd ≤ t.base + t.len)

def Team.tile (t : Team) (i : Nat) : Tile := tget 0 t.t i
def Team.setTile (t : Team) (i : Nat) (x : Tile) : Team := { t with t := Machine.tset 0 t.t i x }
def State.setTile (s : State) (i : Nat) (x : Tile) : State := s.modTeam s.cur.tid (fun t => t.setTile i x)

/-- Whether two records' ranges meet. -/
def Tile.meets (a b : Tile) : Bool := a.base < b.base + b.len && b.base < a.base + a.len

/-- tresv. R144. -/
def execTresv (t l o : Nat) (s : State) : Out :=
  let x : Tile := BitVec.ofNat 512 (1 + 4096 * o * 2 ^ 64 + 4096 * 2 ^ l * 2 ^ 96)
  let clash := (tvals s.myTeam.t).any (fun (y : Tile) => y.valid && x.meets y)
  .next (if o % 2 ^ l != 0 || s.myTeam.launch.opbuf / 4096 < o + 2 ^ l || (s.myTeam.tile t).valid || clash then s.illegal
    else (s.setTile t x).done)

/-- Whether a matrix-queue operation names a record (08 R144). -/
def MOp.names : MOp → Nat → Bool
  | .wload t _, i => t = i
  | .mstream _ t _ _ _ _, i => t = i
  | .mbatch t _ _ _, i => t = i
  | .astore _ t _ _ _, i => t = i
  | _, _ => false

/-- Whether a boarding request of a team has a record as its destination. -/
def BoardSlot.toTile (b : BoardSlot) (tid t : Nat) : Bool := b.tid = tid && b.dest = 1 && b.t = t

/-- tfree: it disarms the boarding requests into the record, and is held until the stop has ended them and the operations that name it have ended.
R144, R306. -/
def execTfree (t : Nat) (s : State) : Out :=
  let core := s.myTeam.core
  .next (
    if !(s.myTeam.tile t).valid then s.done
    else if s.myCore.mq.any (fun e => e.tid = s.cur.tid && e.mop.names t) then s
    else
      let s := s.disarm core (fun b => b.toTile s.cur.tid t)
      if ((s.core core).boardsOf (fun b => b.toTile s.cur.tid t)).isEmpty then (s.setTile t 0).done else s)

/-- tset. R144. -/
def execTset (t i : Nat) (s : State) : Out :=
  let old := s.myTeam.tile t
  let img : Tile := BitVec.ofNat 512 (ofLeBytes (s.runRead s.myTeam 3 (64 * i) 64))
  let x : Tile := setFld (setFld (Tile.setPl (setFld img 0 1 1) 0) 64 21 old.base) 96 22 old.len
  .next (if !old.valid || s.myTeam.launch.opbuf < 64 * i + 64 then s.illegal
    else
      let e := s.senseRun s.myTeam 3 (64 * i) 64
      if let some y := e.2 then e.1.machineCheck s.cur.tid s.cur.coh s.herePc s.G 0 y
      else if img &&& ~~~tileBits != 0 || !(Tile.ok x) then e.1.illegal
      else (e.1.setTile t x).done)

/-- tset.rows. R144. -/
def execTsetRows (t n : Nat) (s : State) : Out :=
  let old := s.myTeam.tile t
  let x : Tile := Tile.setPl (setFld old 128 11 n) 0
  .next (if !old.valid || !(Tile.ok x) then s.illegal else (s.setTile t x).done)

-- convergence registers (08 R147 to R149) -----------------------------------------------------------------------------------------

def Team.kreg (t : Team) (i : Nat) : BitVec 1024 := tget 0 t.k i
def State.modK (s : State) (i : Nat) (f : BitVec 1024 → BitVec 1024) : State :=
  s.modTeam s.cur.tid (fun t => { t with k := Machine.tset 0 t.k i (f (t.kreg i)) })

def kReq (k : BitVec 1024) : Nat := fld k 0 11
def kCnt (k : BitVec 1024) : Nat := fld k 16 11

/-- Every SIG zero. -/
def kClear (k : BitVec 1024) : BitVec 1024 := setFld k 512 512 0

/-- kset.arm. R148. -/
def execKsetArm (k n : Nat) (s : State) : Out := .next ((s.modK k (fun x => setFld x 0 11 (n + 1))).done)

/-- kset.sign: each thread of the group signs, at the end of the core clock. R148, R149. -/
def execKsetSign (k : Nat) (s : State) : Out :=
  .next ((s.modTeam s.cur.tid (fun t => { t with ksigs := t.ksigs ++ [(k, s.cur.coh, popLanes s.G)] })).done)

/-- kset.off. R148. -/
def execKsetOff (k : Nat) (s : State) : Out := .next ((s.modK k (fun x => kClear (setFld (setFld x 0 11 0) 16 11 0))).done)

/-- Whether a gate is open. R149. -/
def gateOpen (k : BitVec 1024) : Bool := kReq k = 0 || kReq k ≤ kCnt k

/-- What a gate's acceptance does. R149. -/
def passGate (k : BitVec 1024) : BitVec 1024 :=
  if kReq k = 0 then k
  else
    let c := setFld k 16 11 (kCnt k - kReq k)
    setFld (kClear c) 32 32 (fld c 32 32 + 1)

-- acceptance (08 R141, R146, R150) ---------------------------------------------------------------------------------------------------

/-- The range-lock entries of an operation on a record (08 R146): kind 0 the rows and scales of an activation tile, 1 the rows of a
destination, 2 the rows and scales of a weight tile. A raw record's rows are those of 8-bit elements (R143), also for `astore`, which writes 32-bit
words: the model's choice (log entry 45). -/
def State.tileLocks (s : State) (t : Tile) (kind op : Nat) : List RLock :=
  let one (b e : Nat) : RLock := { valid := true, kind := kind % 2, space := 3, vf := s.myTeam.vf, tid := s.cur.tid,
                                   engine := 8, base := b, fin := e, op := op }
  if !t.valid || t.rows = 0 then []
  else one t.base t.rowsEnd :: (if kind != 1 && t.scl then [one t.sbase (if kind = 0 then t.actEnd else t.wtEnd)] else [])

/-- Accept an operation into the matrix queue, or stand at the word while the queue or the range-lock table is full (08 R141,
R146). `f` gives the locks, with the operation's number. -/
def State.enqueue (s : State) (flag : Nat) (lanes : Lanes) (dest : Dest) (left : Nat) (mop : MOp) (f : Nat → List RLock) (k : State → State) :
    State :=
  let core := s.myTeam.core
  let n := s.newOp { tid := s.cur.tid, coh := s.cur.coh, flag := flag, lanes := lanes, dest := dest, kind := 3, left := left,
                     pc := s.herePc }
  let ls := f n.2
  if 64 ≤ s.myCore.mq.length || !(s.flagFree flag) then s
  else
    match s.myCore.freeLocks ls.length with
    | none => s
    | some ks =>
      (k (n.1.modCore core (fun c => { c.addLocks ks ls with
        mq := c.mq ++ [{ op := n.2, tid := s.cur.tid, coh := s.cur.coh, mop := mop }] }))).done

/-- wload. R151; it uses the record as it stands at acceptance, as every queued operation does: the model's choice (log entry 45). -/
def execWload (t : Nat) (s : State) : Out :=
  let x := s.myTeam.tile t
  s.checked [s.ar 0] (s.enqueue s.cur.setb s.G .none 1 (.wload t x) (fun op => s.tileLocks x 2 op) id)

/-- wswap. R152. -/
def execWswap (s : State) : Out :=
  s.checked [s.ar 0] (s.enqueue 12 s.G .none 1 .wswap (fun _ => []) id)

/-- M of a stream word: 0 means 128 (08 R154). -/
def rowsOf (m : Nat) : Nat := if m = 0 then 128 else m

/-- The threads of the group stand at their clause's header again (08 R149: a closed gate is an unmet WAIT). -/
def State.toHeader (s : State) : State :=
  s.modMe (fun c => { c with pc := (lanesOf s.G).foldl (fun t l => tmod 0 t l (fun p =>
    setFld (setFld p 0 52 (fld p 0 52 + 2 ^ 52 - 4 * s.cur.idx)) 60 4 0)) c.pc })

/-- A stream word (08 R149, R154, R155): when it is gated it is the first word of its clause, and the gate must be open; a group that comes
to it behind the header stands at the header until then. -/
def State.stream (s : State) (t k g m : Nat) (mop : MOp) : State :=
  let x := s.myTeam.tile t
  if (g = 1 && s.cur.idx != 1) || !x.valid || x.rows < m then s.illegal
  else if g = 1 && !(gateOpen (s.myTeam.kreg k)) then s.toHeader
  else
    s.enqueue s.cur.setb s.G .none 1 mop (fun op => s.tileLocks x 0 op)
      (fun s => if g = 1 then s.modK k passGate else s)

/-- mstream. R154; the check of o + M comes before the register-range check of R141, those of the record after it: the model's choice (log entry 45). -/
def execMstream (t a k v g o m : Nat) (s : State) : Out :=
  if 128 < 16 * o + rowsOf m then .next s.illegal
  else
    s.checked [s.ar a] (s.stream t k g (rowsOf m) (.mstream a t (s.myTeam.tile t) (rowsOf m) (16 * o) (v = 1)))

/-- mbatch. R155. -/
def execMbatch (t k v g m : Nat) (s : State) : Out :=
  if m = 0 || 64 < m then .next s.illegal
  else s.checked [s.ar 0] (s.stream t k g m (.mbatch t (s.myTeam.tile t) m (v = 1)))

/-- aread. R156. -/
def execAread (r a q c d h e : Nat) (s : State) : Out :=
  s.checked [s.ar a, s.vr d]
    (s.enqueue s.cur.seta s.G (.regs d 1) 1 (.aread a (8 * r + q) c h e d s.G) (fun _ => []) id)

/-- astore. R156; o + M > 128 is an illegal instruction, as for `mstream` (log entry 40). -/
def execAstore (t a o m : Nat) (s : State) : Out :=
  let x := s.myTeam.tile t
  if 128 < 16 * o + rowsOf m then .next s.illegal
  else
    s.checked [s.ar a] (
      if !x.valid || x.rows < rowsOf m then s.illegal
      else s.enqueue s.cur.setb s.G .none 1 (.astore a t x (rowsOf m) (16 * o)) (fun op => s.tileLocks x 1 op) id)

/-- azero. R156; o + M > 128 is an illegal instruction, as for `mstream` (log entry 40). -/
def execAzero (a o m : Nat) (s : State) : Out :=
  if 128 < 16 * o + rowsOf m then .next s.illegal
  else
    s.checked [s.ar a]
      (s.enqueue 12 s.G .none 1 (.azero a (rowsOf m) (16 * o)) (fun _ => []) id)

end Sys2Proof.Machine
end

