-- ==== Sys2Proof/Machine/Engine.lean ====
section
/-!
DEFINITION. Engine.lean: the matrix queue executes its entries in acceptance order (08 R150 to R156), each when it reaches the
head and the rows that it reads have been delivered (R145); gated words are accepted (R149).
-/
namespace Sys2Proof.Machine

-- values (04 R77 to R83, R89) -----------------------------------------------------------------------------------------------------

/-- An element's value (08 R143; 04 R75 to R81). -/
def elemVal (fmt : Nat) (inf : Bool) (x : BitVec 16) (c : Nat) : FVal :=
  if 1 ≤ fmt && fmt ≤ 7 then (s8p fmt inf).decode c
  else if 9 ≤ fmt && fmt ≤ 15 then (n8p (fmt - 8) inf).decode c
  else if fmt = 0x10 then FVal.ofInt (sextNat 8 c)
  else if fmt = 0x11 then e2m3.decode c
  else if fmt = 0x12 then e3m2.decode c
  else if fmt = 0x13 then (if c = 8 then f16.decode x.toNat else e2m1.decode c)
  else if fmt = 0x14 then bf16.decode c
  else f16.decode c

/-- A scale's value (04 R83). -/
def scaleVal (sfmt : Bool) (c : Nat) : FVal := (if sfmt then s8p 4 false else n8p 1 false).decode c

/-- A scaled element (04 R83). -/
def scaled (v : FVal) (sc : Option FVal) : FVal :=
  match sc with
  | some x => (v.mul x).1
  | none => v

/-- The code of b bits at bit j * b of some bytes. -/
def codeAt (bs : List Byte) (b j : Nat) : Nat :=
  let o := b * j
  ofLeBytes ((bs.drop (o / 8)).take 3) / 2 ^ (o % 8) % 2 ^ b

/-- Row i of a record's tile, as its bytes. -/
def State.tileRow (s : State) (t : Team) (x : Tile) (i : Nat) : List Byte :=
  s.runRead t 3 (x.base + i * x.rstride) x.rowBytes

/-- X(r, i) of 08 R154 for a whole row. -/
def State.actRow (s : State) (t : Team) (x : Tile) (r d : Nat) : List FVal :=
  let bs := s.tileRow t x r
  let sc := if x.scl then s.runRead t 3 (x.sbase + r * x.sstride) ((x.cols + x.blk - 1) / x.blk) else []
  (List.range d).map (fun i =>
    if x.cols ≤ i then .fin false 0 0
    else scaled (elemVal x.fmt x.inf x.x (codeAt bs (fmtBits x.fmt) i))
      (if x.scl then some (scaleVal x.sfmt (sc.getD (i / x.blk) 0).toNat) else none))

/-- W(i, n) of 08 R154. -/
def Plane.weight (p : Plane) (i n : Nat) : FVal :=
  let c := if fmtBits p.fmt = 16 then
      (tget 0 p.w (2 * (i * 256 + n))).toNat + (tget 0 p.w (2 * (i * 256 + n) + 1)).toNat * 256
    else (tget 0 p.w (i * 256 + n)).toNat
  scaled (elemVal p.fmt p.inf p.x c)
    (if p.scl then some (scaleVal p.sfmt (tget 0 p.sc (i / (if p.blk then 32 else 16) * 256 + n)).toNat) else none)

/-- The exact sum of a group of 16 positions (04 R89). A position at or beyond COLS has X = 0 (08 R154), and 0 times an infinite or NaN weight is
NaN: the model's choice (log entry 45). -/
def group16 (xs : List FVal) (w : Nat → FVal) (j : Nat) : FVal :=
  sumExact ((List.range 16).map (fun i => ((xs.getD (16 * j + i) (.fin false 0 0)).mul (w (16 * j + i))).1))

/-- One addition into an accumulator word (08 R154). -/
def accAdd (isInt : Bool) (acc : BitVec 32) (g : FVal) : BitVec 32 :=
  if isInt then
    match g with
    | .fin n m e => acc + BitVec.ofInt 32 (units n m e 0)
    | _ => acc
  else BitVec.ofNat 32 (f32.round .near ((f32.decode acc.toNat).add .near g).1).1

/-- Where an accumulator element stands. -/
def accKey (a row col : Nat) : Nat := (a * 128 + row) * 256 + col

def Core.setAcc (c : Core) (k : Nat) (v : BitVec 32) : Core := { c with acc := Machine.tset 0 c.acc k v }

/-- The value of every element that a stream whose formats do not fit writes (08 R154, R155). -/
def accNan : BitVec 32 := 0x7FC00000

-- the queue's head ---------------------------------------------------------------------------------------------------------------

/-- The head of a core's matrix queue, in a clock in which it goes on. -/
def State.mhead (s : State) (core : Nat) : Option MEntry := if (s.core core).mqAt ≤ s.clk then (s.core core).mq.head? else none

/-- The head of a matrix queue goes on after n core clocks. -/
def State.headIn (s : State) (core n : Nat) : State := s.modCore core (fun c => { c with mqAt := s.clk + n })

/-- Put the head back changed. -/
def Core.setHead (c : Core) (e : MEntry) : Core := { c with mq := e :: c.mq.drop 1 }

/-- The head completes: its locks go, its operation ends. -/
def State.mdone (s : State) (core : Nat) (e : MEntry) : State :=
  (s.modCore core (fun c => { c.clearLocks e.op with mq := c.mq.drop 1 })).endOp e.op

/-- Whether row i of a tile has been delivered (08 R145): a threshold beyond the CHIS at which the row's wait began counts as that CHIS
(11 R204). The threshold is a 64-bit sum, as CHWP is: the model's choice (log entry 45). -/
def rowReady (c : Core) (x : Tile) (i : Nat) (chis : BitVec 64) : Bool :=
  min ((x.wpbase + i * x.rstride + x.rowBytes) % 2 ^ 64) chis.toNat ≤ (c.chan x.wpch).chwp.toNat

/-- The bytes of the operand buffer that m rows of a tile and their scales take: places and lengths. -/
def rowRanges (x : Tile) (m : Nat) : List (Nat × Nat) :=
  (List.range m).map (fun i => (x.base + i * x.rstride, x.rowBytes)) ++
    (if x.scl then (List.range m).map (fun r => (x.sbase + r * x.sstride, (x.cols + x.blk - 1) / x.blk)) else [])

/-- What a stream meets in the active plane: its weights' bytes and its scales (10 R182). -/
def State.sensePlane (s : State) (core vf : Nat) : State × Option (Nat × Nat × Nat) :=
  let p := (s.core core).active
  let d := groupDepth (fmtGroup p.fmt)
  let a := s.sensePlaces vf core (planePlace 1) (if p.empty then 0 else d * 32 * (if fmtBits p.fmt = 16 then 2 else 1))
  let b := a.1.sensePlaces vf core (planePlace 1 + 2 ^ 16) (if p.empty || !p.scl then 0 else d / (if p.blk then 32 else 16) * 32)
  (b.1, a.2.orElse (fun _ => b.2))

/-- Whether an operation reads the active plane. -/
def MOp.streams : MOp → Bool
  | .mstream _ _ _ _ _ _ | .mbatch _ _ _ _ => true
  | _ => false

/-- An operation of the queue reads bytes of its team's run, and a stream the active plane, and performs by `k`; its team hears of an uncorrectable error in them (10 R182). -/
def State.sensed (s : State) (e : MEntry) (rs : List (Nat × Nat)) (k : State → State) : State :=
  let t := s.team e.tid
  let pc := ((s.op e.op).map (·.pc)).getD 0
  let r := rs.foldl (fun (r : State × Option (Nat × Nat × Nat)) x =>
    let y := r.1.senseRun t 3 x.1 x.2
    (y.1, r.2.orElse (fun _ => y.2))) (s, none)
  let q := if e.mop.streams then r.1.sensePlane t.core t.vf else (r.1, none)
  (k q.1).engineCheck e.tid e.coh pc (r.2.orElse (fun _ => q.2))

/-- From row i on, with the CHIS its wait began with, the first of k rows that has not been delivered, with its own CHIS; the wait of a row
begins when the row before it is there. -/
def rowsFrom (c : Core) (x : Tile) : Nat → Nat → Option (BitVec 64) → Nat × Option (BitVec 64)
  | 0, i, _ => (i, none)
  | k + 1, i, h =>
    let chis := h.getD (c.chan x.wpch).chis
    if rowReady c x i chis then rowsFrom c x k (i + 1) none else (i, some chis)

/-- Whether the n rows that an entry reads are there (08 R145); with WPG = 0 it does not wait. -/
def rowsReady (c : Core) (x : Tile) (n : Nat) (e : MEntry) : Bool := !x.wpg || n ≤ (rowsFrom c x (n - e.row) e.row e.chis).1

/-- An engine operation that reads n rows of a record waits for each in its turn, and performs by `k` when they are there. -/
def State.onRows (s : State) (core : Nat) (e : MEntry) (x : Tile) (n : Nat) (k : State → State) : State :=
  let c := s.core core
  if rowsReady c x n e then k s
  else
    let r := rowsFrom c x (n - e.row) e.row e.chis
    s.modCore core (fun c => c.setHead { e with row := r.1, chis := r.2 })

/-- Change the records of a team by their PL (08 R151, R152). -/
def State.modPl (s : State) (tid : Nat) (f : Nat → Nat) : State :=
  s.modTeam tid (fun t => { t with t := t.t.map (fun e => (e.1, Tile.setPl e.2 (f (Tile.pl e.2)))) })

/-- A request's end for a plane's refill (20 R310). -/
def State.endRefill (s : State) (core plane : Nat) : State :=
  ((s.core core).boardsOf (fun b => b.into plane)).foldl (fun s e =>
    if 4 ≤ e.1 then s.endBoard core e.1 endCancelled else s) s

/-- The core clocks that a `wload` takes: 1,024 bytes of the operand buffer in each (08 R151). -/
def fillClocks (x : Tile) : Nat :=
  if fmtGroup x.fmt = 0 then 1
  else
    let rows := min x.rows (groupDepth (fmtGroup x.fmt))
    let cols := min x.cols 256
    (rows * cols * fmtBits x.fmt / 8 + 1023) / 1024 + (if x.scl then ((rows + x.blk - 1) / x.blk * cols + 1023) / 1024 else 0)

/-- The plane that a `wload` makes (08 R151). -/
def State.loadPlane (s : State) (t : Team) (x : Tile) : Plane :=
  if fmtGroup x.fmt = 0 then {}
  else
    let rows := min x.rows (groupDepth (fmtGroup x.fmt))
    let cols := min x.cols 256
    let b := fmtBits x.fmt
    let w := (List.range rows).foldl (fun w k =>
      let bs := s.tileRow t x k
      (List.range cols).foldl (fun w n =>
        let c := codeAt bs b n
        if b = 16 then
          Machine.tset 0 (Machine.tset 0 w (2 * (k * 256 + n)) (BitVec.ofNat 8 c)) (2 * (k * 256 + n) + 1) (BitVec.ofNat 8 (c / 256))
        else Machine.tset 0 w (k * 256 + n) (BitVec.ofNat 8 c)) w) []
    let sc := if x.scl then
        (List.range ((rows + x.blk - 1) / x.blk)).foldl (fun sc q =>
          (gather sc (place (q * 256) (s.runRead t 3 (x.sbase + q * x.sstride) cols)))) []
      else []
    { w := w, sc := sc, fmt := x.fmt, inf := x.inf, x := x.x, scl := x.scl, blk := x.blk = 32, sfmt := x.sfmt, empty := false }

/-- WLOAD_FILL: it begins when no delivery is landing in the shadow plane, and completes when the plane is full. R151. -/
def execWloadFill (s : State) : Out :=
  let core := s.arg 0
  .next (match s.mhead core with
    | some e =>
      match e.mop with
      | .wload t x =>
        if s.landing core (fun b => b.into 0) then s
        else if !e.filling then
          s.onRows core e x (min x.rows (groupDepth (fmtGroup x.fmt))) (fun s =>
            ((s.endRefill core 0).modCore core (fun c => c.setHead { e with filling := true })).headIn core (fillClocks x))
        else
          let rows := min x.rows (groupDepth (fmtGroup x.fmt))
          let scales := if x.scl then (List.range ((rows + x.blk - 1) / x.blk)).map (fun q => (x.sbase + q * x.sstride, min x.cols 256)) else []
          s.sensed e ((List.range rows).map (fun i => (x.base + i * x.rstride, x.rowBytes)) ++ scales) (fun s =>
            let s := (s.modCore core (fun c => { c with shadow := s.loadPlane (s.team e.tid) x })).mendPlaces core (planePlace 0) (2 ^ 17)
            let s := (s.modPl e.tid (fun p => if p = 1 then 0 else p)).modTeam e.tid (fun u => u.setTile t ((u.tile t).setPl 1))
            s.mdone core e)
      | _ => s
    | none => s)

/-- The planes' places are exchanged with them. -/
def State.swapPlaces (s : State) (core : Nat) : State :=
  let x := (s.wrongIn core (planePlace 0) (2 ^ 18)).map (fun p =>
    (upKey 0 core (if p < planePlace 1 then p + 2 ^ 17 else p - 2 ^ 17), s.upset 0 core p))
  x.foldl (fun s e => { s with upsets := tset 0 s.upsets e.1 e.2 }) (s.mendPlaces core (planePlace 0) (2 ^ 18))

/-- WSWAP_EXECUTE. R152; 20 R310: a refill follows its plane. -/
def execWswapExecute (s : State) : Out :=
  let core := s.arg 0
  .next (match s.mhead core with
    | some e =>
      match e.mop with
      | .wswap =>
        if s.landing core (fun b => b.into 0) then s
        else
          let s := s.modCore core (fun c => { c with
            active := c.shadow, shadow := c.active
            boards := c.boards.map (fun b => (b.1, if 4 ≤ b.1 then { b.2 with plane := 1 - b.2.plane } else b.2)) })
          ((s.swapPlaces core).modPl e.tid (fun p => if p = 1 then 2 else if p = 2 then 1 else p)).mdone core e
      | _ => s
    | none => s)

/-- Whether a refill of the active plane is awaited (08 R153). -/
def State.refilling (s : State) (core : Nat) : Bool := !((s.core core).boardsOf (fun b => b.into 1)).isEmpty

/-- The elements that a stream writes: its row of the tile, the element's place, and the first and the count of its groups of
16 positions. -/
abbrev StreamElem := Nat × Nat × Nat × Nat

/-- Run a stream: each element starts from its value or from zero, and its groups are added in ascending order (08 R154,
R155; 04 R89). `ok` says that the formats fit; an EMPTY plane leaves the values (R153), also where
they do not: the model's choice (log entry 45). -/
def State.runStream (s : State) (core : Nat) (t : Team) (x : Tile) (ovr ok : Bool) (row : Nat → List StreamElem) (m : Nat) : State :=
  let p := (s.core core).active
  let isInt := fmtGroup p.fmt = 2
  (List.range m).foldl (fun s r =>
    let xs := s.actRow t x r (groupDepth (fmtGroup p.fmt))
    s.modCore core (fun c => (row r).foldl (fun c e =>
      let old : BitVec 32 := if ovr then 0 else tget 0 c.acc e.2.1
      let v := if p.empty then old
        else if !ok then accNan
        else (List.range e.2.2.2).foldl (fun a j => accAdd isInt a (group16 xs (fun i => p.weight i e.1) (e.2.2.1 + j))) old
      c.setAcc e.2.1 v) c)) s

/-- The elements of row r of an `mstream` (08 R154): every column, all groups. -/
def streamRow (a o d r : Nat) : List StreamElem := (List.range 256).map (fun n => (n, accKey a (o + r) n, 0, d / 16))

/-- The elements of row r of an `mbatch` (08 R155): sixteen members, one group each. -/
def batchRow (r : Nat) : List StreamElem :=
  ((List.range 16).map (fun j => (List.range 256).map (fun n => (n, accKey (j / 2) (64 * (j % 2) + r) n, j, 1)))).flatten

/-- A stream goes on: the array accepts its next row, in a clock that the matrix duty admits, when the row is there (08 R145, R154; 25 R357), or,
40 clocks after the last, the stream completes by `k`: what its rows give is written then, which nothing can tell from a row at a time, for what
reads accumulators comes after it in the queue. -/
def State.streamOn (s : State) (core : Nat) (e : MEntry) (x : Tile) (m : Nat) (k : State → State) : State :=
  let c := s.core core
  if m ≤ e.row then k s
  else if s.md ≤ s.clk % 16 then s
  else
    let chis := e.chis.getD (c.chan x.wpch).chis
    if x.wpg && !(rowReady c x e.row chis) then s.modCore core (fun c => c.setHead { e with chis := some chis })
    else
      ((s.modCore core (fun c => c.setHead { e with row := e.row + 1, chis := none })).count core 0x0B 4 1).headIn core
        (if e.row + 1 = m then 40 else if fmtGroup x.fmt = 4 || fmtGroup x.fmt = 5 then 2 else 1)

/-- MSTREAM_EXECUTE. R154. -/
def execMstreamExecute (s : State) : Out :=
  let core := s.arg 0
  .next (match s.mhead core with
    | some e =>
      match e.mop with
      | .mstream a _ x m o ovr =>
        if s.refilling core then s
        else
          s.streamOn core e x m (fun s =>
            let p := (s.core core).active
            let ok := fmtGroup x.fmt != 0 && fmtGroup x.fmt = fmtGroup p.fmt
            s.sensed e (rowRanges x m) (fun s =>
              (s.runStream core (s.team e.tid) x ovr ok (streamRow a o (groupDepth (fmtGroup p.fmt))) m).mdone core e))
      | _ => s
    | none => s)

/-- MBATCH_EXECUTE. R155. -/
def execMbatchExecute (s : State) : Out :=
  let core := s.arg 0
  .next (match s.mhead core with
    | some e =>
      match e.mop with
      | .mbatch _ x m ovr =>
        if s.refilling core then s
        else
          s.streamOn core e x m (fun s =>
            let p := (s.core core).active
            let g := fmtGroup x.fmt
            let ok := (g = 1 || g = 2) && g = fmtGroup p.fmt && !(x.scl && x.blk = 32) && !(p.scl && p.blk) && x.cols = 256
            s.sensed e (rowRanges x m) (fun s =>
              (s.runStream core (s.team e.tid) x ovr ok batchRow m).mdone core e))
      | _ => s
    | none => s)

-- accumulator reads and stores (08 R156) ------------------------------------------------------------------------------------------------

/-- An accumulator word as FP32 or INT32, times 2^E. -/
def accVal (isInt : Bool) (w : BitVec 32) (e : Int) : FVal := (if isInt then FVal.ofInt w.toInt else f32.decode w.toNat).scale e

/-- An exact integer-valued quantity rounded to nearest-even and saturated to .i8. -/
def toI8 : FVal → Nat
  | .fin n m e =>
    let r := (roundUnits .near n m e 0 (fun k => k % 2 = 1)).1
    ((if n then -(Int.ofNat (min r 128)) else Int.ofNat (min r 127)) % 256).toNat
  | _ => 0

/-- The result of `aread` in a lane (08 R156): the binary8 formats saturate, with INF = 0; beyond the range of bf16 and f16, which always
have infinities, the result is an infinity (04 R86; log entry 40). -/
def areadLane (acc : Nat → BitVec 32) (cv h : Nat) (e : Int) (l : Nat) : BitVec 128 :=
  let fmt : Fmt := if cv = 2 then bf16 else if cv = 3 then f16 else if cv = 4 then s8p 4 false else if cv = 5 then s8p 3 false else e2m1
  if cv = 0 then ofElems ((List.range 4).map (fun i => acc (128 * h + 4 * l + i)))
  else if cv = 1 then
    ofElems ((List.range 4).map (fun i => BitVec.ofNat 32 (f32.round .near (accVal false (acc (128 * h + 4 * l + i)) e)).1))
  else
    let b := if cv ≤ 3 then 16 else if cv = 7 then 4 else 8
    let code (w : BitVec 32) : Nat := if cv = 6 then toI8 (accVal true w e) else (fmt.round .near (accVal false w e)).1
    ((List.range 8).foldl (fun (x : BitVec 128) i => x ||| (BitVec.ofNat 128 (code (acc (8 * l + i)) * 2 ^ (b * i)))) 0)

/-- AREAD_EXECUTE: the row is on its way to the registers, which it reaches 8 core clocks later; the queue completes one in a clock. R156. -/
def execAreadExecute (s : State) : Out :=
  let core := s.arg 0
  .next (match s.mhead core with
    | some e =>
      match e.mop with
      | .aread a row cv h sc _ lanes =>
        let acc := (s.core core).acc
        let res := ((lanesOf lanes).map (fun l =>
          place (16 * l) (bytesOf 16 (areadLane (fun n => tget 0 acc (accKey a row n)) cv h (sextNat 3 sc) l)))).flatten
        let s := ((s.modCore core (fun c => { c with mq := c.mq.drop 1 })).headIn core 1).partDone e.op res
        match s.op e.op with
        | some o => s.setOp e.op (some { o with due := s.clk + 8 })
        | none => s
      | _ => s
    | none => s)

/-- A stored element's code in a record's format: nearest-even and saturating (08 R156). -/
def storeCode (x : Tile) (w : BitVec 32) : Nat :=
  let f := x.fmt
  if f = 0 || f = 0x16 then w.toNat
  else if f = 0x10 then toI8 (accVal true w 0)
  else
    let fm : Fmt := if f ≤ 7 then s8p f x.inf else if f ≤ 15 then n8p (f - 8) x.inf else if f = 0x11 then e2m3
      else if f = 0x12 then e3m2 else if f = 0x13 then e2m1 else if f = 0x14 then bf16 else f16
    fm.sat (f32.decode w.toNat)

/-- The byte writes of a row: codes of b bits packed from its first byte on; bits beyond them stay. -/
def packRow (base b : Nat) (codes : List Nat) : List WByte :=
  let n := b * codes.length
  let v := codes.foldr (fun c a => c % 2 ^ b + a * 2 ^ b) 0
  (List.range ((n + 7) / 8)).map (fun i =>
    { addr := base + i, data := BitVec.ofNat 8 (v / 2 ^ (8 * i)), mask := BitVec.ofNat 8 (2 ^ (min 8 (n - 8 * i)) - 1) })

/-- An operation of the accumulators that takes n core clocks begins, or, after them, is done by `k` (08 R156). -/
def State.takes (s : State) (core : Nat) (e : MEntry) (n : Nat) (k : State → State) : State :=
  if e.row = 0 then (s.modCore core (fun c => c.setHead { e with row := 1 })).headIn core n else k s

/-- ASTORE_EXECUTE: one row in a core clock. Words stored unchanged take 32 bits each (log entry 20); nothing is written beyond the team's run. R156. -/
def execAstoreExecute (s : State) : Out :=
  let core := s.arg 0
  .next (match s.mhead core with
    | some e =>
      match e.mop with
      | .astore a _ x m o => s.takes core e m (fun s =>
        let t := s.team e.tid
        let b := if x.fmt = 0 then 32 else fmtBits x.fmt
        let acc := (s.core core).acc
        let rows := (List.range m).map (fun r =>
          packRow (x.base + r * x.rstride) b ((List.range (min x.cols 256)).map (fun n => storeCode x (tget 0 acc (accKey a (o + r) n)))))
        (s.runWrite t 3 (rows.flatten.filter (fun w => w.addr < t.launch.opbuf))).mdone core e)
      | _ => s
    | none => s)

/-- AZERO_EXECUTE: 16 rows in a core clock. R156. -/
def execAzeroExecute (s : State) : Out :=
  let core := s.arg 0
  .next (match s.mhead core with
    | some e =>
      match e.mop with
      | .azero a m o => s.takes core e ((m + 15) / 16) (fun s =>
        let s := s.modCore core (fun c => { c with
          acc := c.acc.filter (fun x => !(accKey a o 0 ≤ x.1 && x.1 < accKey a (o + m) 0)) })
        s.mdone core e)
      | _ => s
    | none => s)

/-- The event that a matrix-queue operation is taken by. -/
def MOp.step : MOp → State → Out
  | .wload _ _ => execWloadFill
  | .wswap => execWswapExecute
  | .mstream _ _ _ _ _ _ => execMstreamExecute
  | .mbatch _ _ _ _ => execMbatchExecute
  | .aread _ _ _ _ _ _ _ => execAreadExecute
  | .astore _ _ _ _ _ => execAstoreExecute
  | .azero _ _ _ => execAzeroExecute

-- gates (08 R149) -------------------------------------------------------------------------------------------------------------------------

/-- GATE_ACCEPT: a group that stands at the header before a gated stream, in its turn (02 R36), passes it, and its stream is accepted, when
the header's WAIT is met and the gate is open; a fault of the stream's word is taken in its place. R149. -/
def execGateAccept (s : State) : Out :=
  let tid := s.arg 0
  let coh := s.arg 1
  match s.issue (tget 0 (s.core (s.team tid).core).ports (s.coh tid coh).quad) tid coh (s.arg 2) with
  | .run (.clauseHeader _ _ _ w 2 _) t =>
    let a := (t.cur.addr + 4) % 2 ^ 52
    if !(t.myTeam.launch.mayRun t.cur.coh 2) || !(t.me.flagsClear w) || !t.me.tiles.isEmpty then .next s
    else
      match t.fetch a with
      | .none _ => .next s
      | .word x t =>
        let go (k : Nat) (f : State → Out) : Out :=
          if gateOpen (t.myTeam.kreg k) then
            let u := t.passHeader
            match f { u with cur := { u.cur with addr := a, idx := 1, word := x } } with
            | .next v => if (v.coh tid coh).stands (u.coh tid coh) then .next s else .next v
            | o => o
          else .next s
        match decode 2 x with
        | .ok (.mstream i b k v g o m) => if g = 1 then go k (execMstream i b k v g o m) else .next s
        | .ok (.mbatch i k v g m) => if g = 1 then go k (execMbatch i k v g m) else .next s
        | _ => .next s
  | _ => .next s

end Sys2Proof.Machine
end

