-- ==== Sys2Proof/Machine/SliceEv.lean ====
section
/-!
DEFINITION. SliceEv.lean: the steps of the home slices, of the mesh, of the landing of results, of the L1 and of the walkers (10
R175 to R180; 11 R186, R187; 13 R208 to R215; 18 R266, R267; 19 R295; 09 R162).
-/
namespace Sys2Proof.Machine

-- reads at a slice ----------------------------------------------------------------------------------------------------------------

/-- Put a line, as its slice holds it, into a requesting core's L1, and register the sharer (10 R175, R178). -/
def State.l1Fill (s : State) (core pa cls : Nat) (l : L1Line) : State :=
  match s.sline pa with
  | some x => (s.l1Put core pa { l with data := x.data, cls := cls }).share pa core
  | none => s

/-- Whether an L1 holds a line as a cohort's lock line. -/
def Core.marked (c : Core) (pa : Nat) : Bool := c.l1.any (fun e => e.1 = pa && e.2.lock.isSome)

/-- A read is performed at its slice (10 R175, R178; 21 R316): the line's bytes as the requester sees them. A miss that allocates fills the L1; but
a non-holder takes no copy of a locked line, a private line keeps its place, and bits that cannot be corrected stay where they are (10 R182). -/
def State.serveRead (s : State) (id : Nat) (r : Req) : State :=
  let e := s.senseLine r.vf r.line
  let s := (e.1.spoil r.op r.vf e.2).setReq id none
  let d := s.seen r.line r.tid r.coh
  let free := (!(s.lock r.line).locked || (s.lock r.line).mine r.tid r.coh) && e.2.isNone
  let own := ((s.core r.master).l1Line r.line).any (fun l => l.priv || l.lock.isSome)
  match r.kind with
  | .read parts l1 =>
    let s := s.partBack r (partBytes d parts)
    if 128 ≤ r.master || own then s
    else
      match l1 with
      | some cls =>
        -- a holder's copy of its locked line is its lock line (21 R315)
        let mark := if (s.lock r.line).locked then some (r.tid, r.coh) else none
        if free then s.l1Fill r.master r.line cls { vf := r.vf, lock := mark } else s.dropStale r.master r.line
      | none => s.dropStale r.master r.line
  | .fill priv cls =>
    if !(s.lock r.line).locked && e.2.isNone && ((s.core r.master).l1Line r.line).isNone then
      s.l1Fill r.master r.line cls { vf := r.vf, priv := priv } else s
  | _ => s

/-- An `lstat` is answered at its slice (21 R326): it reads no data. -/
def State.serveStat (s : State) (id : Nat) (r : Req) (lanes : Lanes) : State :=
  (s.setReq id none).partBack r (((lanesOf lanes).map (fun l => place (16 * l) (bytesOf 8 (s.lockState r.line r.tid r.coh)))).flatten)

/-- A read that is refused delivers zero bytes (18 R270). -/
def State.refuseRead (s : State) (id : Nat) (r : Req) : State :=
  let s := s.setReq id none
  match r.kind with
  | .read parts _ => s.partBack r (partZeros parts)
  | .lstat _ => s.partBack r []
  | _ => s

/-- SLICE_READ: a read, a prefetch or an `lstat` at its home slice's arbiter; a read of a window that is held waits (16 R249), and one that misses
waits for its line (15 R238). R208, R178. -/
def execSliceRead (s : State) : Out :=
  .next (s.taking (fun t id r =>
    match r.kind with
    | .write _ | .atomic _ _ _ _ | .lock _ _ _ _ | .unlock _ | .steal _ _ | .que _ _ | .answer _ _ _ | .reply _ => s
    | k =>
      if !r.slice then s
      else if let some u := t.turnedAway r 0 false then (u.pumpRefused r.op).refuseRead id r
      else if let .lstat lanes := k then t.serveStat id r lanes
      else if t.heldWindow r.line 128 then s.holdReq t id r
      else if let some x := t.missRefusal r.vf r.line then (t.refuseAt r.vf r.master 0 x).refuseRead id r
      else if (t.sline r.line).isSome then (t.touch r.line).serveRead id r
      else if t.isHere r.line then (t.fill r.line r.cls).serveRead id r
      else t.want r.vf r.line r.master id))

-- writes and atomics at a slice (10 R178; 11 R195; 21 R316) -----------------------------------------------------------------------

/-- Whether a request must wait at its slice because its line is locked by another (21 R316). -/
def State.lockedOut (s : State) (r : Req) : Bool := (s.lock r.line).locked && !((s.lock r.line).mine r.tid r.coh)

/-- A refused write is dropped, and acknowledged; a refused atomic returns zeros (18 R270). -/
def State.dropWrite (s : State) (id : Nat) (r : Req) : State :=
  let zeros := match r.kind with
    | .atomic _ size _ lanes => atomPlaces size (lanes.map (fun l => (l.lane, 0)))
    | _ => []
  (s.setReq id none).ackFor r.op 0 [] r.serves r.scope zeros (if r.slice then s.backWay r else (300, 128))

/-- A write or an atomic at its home slice: refused there, waiting for a section or an unlock, refused with the line's read, waiting for it, or
performed by `k`. A plain write that finds no way goes to its channel without a read (10 R178). -/
def State.takeWrite (s t : State) (id : Nat) (r : Req) (right : Nat) (k : State → State) : State :=
  if let some u := t.turnedAway r right true then (u.pumpRefused r.op).dropWrite id r
  else if t.heldWindow r.line r.sect then s.holdReq t id r
  else if t.lockedOut r then t.setReq id (some { r with held := true })
  else if r.sect < 128 || (right = 1 && t.noWay r.line) then k (t.setReq id none)
  else if let some x := t.missRefusal r.vf r.line then (t.refuseAt r.vf r.master right x).dropWrite id r
  else if t.isHere r.line then k (t.setReq id none)
  else t.want r.vf r.line r.master id

/-- SLICE_WRITE: a store reaches its home slice's arbiter. R178. -/
def execSliceWrite (s : State) : Out :=
  .next (s.taking (fun t id r =>
    match r.kind with
    | .write ws => if r.slice then s.takeWrite t id r 1 (fun u => u.doWrite r ws) else s
    | _ => s))

/-- SLICE_ATOMIC: an atomic or a reduction reaches its home slice's arbiter. R195, R196. -/
def execSliceAtomic (s : State) : Out :=
  .next (s.taking (fun t id r =>
    match r.kind with
    | .atomic op size addr lanes => if r.slice then s.takeWrite t id r 2 (fun u => u.doAtomic r op size addr lanes) else s
    | _ => s))

-- invalidations and acknowledgements (10 R178, R179) -------------------------------------------------------------------------------

/-- Whether a core still has an access under way that a leaf of a line translated (18 R267): a request, a lane of a `cas`, or a copy command. What
itself waits for the invalidation does not count. -/
def State.usesLeaf (s : State) (core line inv : Nat) : Bool :=
  let waits (op : Nat) : Bool := (tsome s.acks).any (fun a => a.2.op = op && a.2.invs.contains inv)
  (tsome s.reqs).any (fun e => e.2.master = core && e.2.slice && e.2.page = line && !(e.2.ops.any waits)) ||
    (tsome s.ops).any (fun e => (s.team e.2.tid).core = core && e.2.rest.any (fun c => c.page = line)) ||
    (s.core core).chans.any (fun h => h.2.queue.any (fun x => x.ok && x.leaves.contains line && !(x.writes.any waits)))

/-- INVALIDATION: a sharer takes an invalidation, the next packet of its slice, and leaves the directory. A translation cache answers only when the
accesses that it translated with the entry have been taken (18 R267). R178. -/
def execInvalidation (s : State) : Out :=
  .next (match tget none s.invs (s.arg 0) with
    | none => s
    | some i =>
      if !(s.isNext (s.arg 0)) then s
      else if 128 ≤ i.sharer && s.usesLeaf (i.sharer - 128) i.line (s.arg 0) then s.unmail (s.arg 0)
      else (s.dropCopy i.sharer i.line).unshare i.sharer i.line)

/-- WRITE_ACKNOWLEDGEMENT: a write's acknowledgement returns, after its invalidations'. Of a reduction that has met an uncorrectable error, its team
hears (10 R182). R178, R186. -/
def execWriteAcknowledgement (s : State) : Out :=
  .next (match tget none s.acks (s.arg 0) with
    | none => s
    | some a =>
      if a.invs.all (fun i => (tget none s.invs i).isNone) && s.isNext (s.arg 0) then
        let t := (({ s with acks := tset none s.acks (s.arg 0) none } : State).unmail (s.arg 0)).partDone a.op a.res a.lanes a.scope
        match s.op a.op with
        | some o =>
          match o.bad with
          | some e => if o.kind = 1 && o.left = 1 then t.machineCheck o.tid o.coh o.pc o.lanes 2 e else t
          | none => t
        | none => t
      else s)

/-- L1_EVICTION: the L1 gives up the victim of a line's set, which is no lock line, writing a dirty one back. R187, R175. -/
def execL1Eviction (s : State) : Out :=
  let core := s.arg 0
  .next (if l1Victim ((s.core core).l1Set (s.arg 1)) = some (s.arg 1) then s.l1Drop 0 core (s.arg 1) else s)

-- landing (11 R186, R188, R191, R195; 05 R95) -----------------------------------------------------------------------------------------

/-- The bytes of a result from a place on. -/
def resBytes (g : Tab Byte) (o n : Nat) : Nat := ofLeBytes ((List.range n).map (fun i => tget 0 g (o + i)))

/-- Write a result to its place. -/
def State.land (s : State) (o : Op) : State :=
  let each (s : State) (f : State → Nat → State) : State := (lanesOf o.lanes).foldl f s
  match o.dest with
  | .none => s
  | .load vd n sx =>
    each s (fun s l =>
      let v := resBytes o.got (16 * l) n
      s.vset o.tid o.coh l vd (if sx then (BitVec.ofInt 32 (sextNat (8 * n) v)).setWidth 128 else BitVec.ofNat 128 v))
  | .sload sd => s.modCoh o.tid o.coh (fun c => c.sset sd (BitVec.ofNat 64 (resBytes o.got (16 * lowest o.lanes) 8)))
  | .atomic vd _ => each s (fun s l => s.vset o.tid o.coh l vd (BitVec.ofNat 128 (resBytes o.got (16 * l) 16)))
  | .regs vd n =>
    each s (fun s l => (List.range n).foldl (fun s q =>
      s.vset o.tid o.coh l (vd + q) (BitVec.ofNat 128 (resBytes o.got (16 * (n * l + q)) 16))) s)

/-- Whether the cohort's registers can still be reached: its team stands in a core (02 R43; 09 R168). -/
def State.canLand (s : State) (o : Op) : Bool :=
  (s.team o.tid).place = .resident || (s.team o.tid).place = .stopped

/-- An operation's result comes in: to a pumphouse core's LDR, or to the registers of its lanes. With an uncorrectable error among it, the launch
ends, or the lanes' team takes a machine check (10 R182; 15 R232; 09 R159). -/
def State.landOp (s : State) (id : Nat) (o : Op) : State :=
  match o.pump, o.bad with
  | some pc, none =>
    let put (p : Pump) : Pump :=
      if p.run.any (fun r => r.ld = id) then { p with ports := { p.ports with ldr := BitVec.ofNat 64 (resBytes o.got 0 8) } } else p
    (s.modPump pc put).endOp id
  | some pc, some e => ((s.logError 0x11 (s.runVf pc) e.1 e.2.1 e.2.2 []).launchErr pc 7).endOp id
  | none, none => (if s.canLand o && !(s.team o.tid).terminated then s.land o else s).endOp id
  | none, some e =>
    if (s.team o.tid).terminated then (s.logError 0x11 (s.team o.tid).vf e.1 e.2.1 e.2.2 []).endOp id
    else (s.endOp id).machineCheck o.tid o.coh o.pc o.lanes (if o.kind = 2 then 2 else 0) e

/-- The parts of an operation that are next of their slices arrive (10 R184). -/
def State.takeParts (s : State) (id : Nat) : State :=
  s.inbox.foldl (fun s e => if e.2.2 = id && s.inbox.find? (fun x => x.1 = e.1 && x.2.1 = e.2.1) = some e then
    { s with inbox := s.inbox.erase e } else s) s

/-- LOAD_RETURN: a result whose parts are in is written, and the operation completes; of a `cas` with lanes left, the next lane goes (11 R196), where
its cohort stands in a core. R186. -/
def execLoadReturn (s : State) : Out :=
  let id := s.arg 0
  let s := s.takeParts id
  .next (match s.op id with
    | none => s
    | some o =>
      if s.inbox.any (fun e => e.2.2 = id) || s.clk < o.due || o.left != 0 || o.kind = 1 || o.kind = 4 || o.kind = 5 || (o.kind = 3 && o.dest = .none) then s
      else if o.rest.isEmpty then s.landOp id o
      else if (s.team o.tid).terminated || (s.team o.tid).place = .gone then s.setOp id (some { o with rest := [] })
      else if s.canLand o then ({ s with cur := { tid := o.tid, coh := o.coh } } : State).casRun id 33
      else s)

-- walks (18 R266, R267; 10 R179) -------------------------------------------------------------------------------------------------

/-- Keep a leaf in a core's translation cache: 2,048 entries, the oldest goes. -/
def Core.keepLeaf (c : Core) (t : Tlb) : Core :=
  let old := c.tlb.filter (fun x => !(x.vf = t.vf && x.va = t.va && x.lg = t.lg))
  { c with tlb := (t :: old).take 2048 }

/-- The walks of a die that are in flight: beyond 256, misses wait in their order (18 R267). -/
def State.inFlight (s : State) (die : Nat) : List (Nat × Walk) := ((tsome s.walks).filter (fun w => w.2.die = die)).take 256

/-- WALK_COMPLETION: the walk reads its tables; with a leaf, every cache whose miss it covers takes it and is registered as a sharer of its line;
without one, the accesses that waited fault when their groups issue again. R267. -/
def execWalkCompletion (s : State) : Out :=
  .next (match tget none s.walks (s.arg 0) with
    | none => s
    | some w =>
      if !((s.inFlight w.die).any (fun x => x.1 = s.arg 0)) then s
      else
        match s.walk w.vf (w.page * 65536) (0x116 + w.die) with
        | .leaf t =>
          let served := (tsome s.walks).filter (fun x => x.2.die = w.die && x.2.vf = w.vf && x.2.page * 65536 / 2 ^ t.lg = t.va)
          let s : State := { s with walks := served.foldl (fun ws x => tset none ws x.1 none) s.walks }
          (dedup ((served.map (·.2.cores)).flatten)).foldl (fun s c => (s.modCore c (fun k => k.keepLeaf t)).share t.line (128 + c)) (s.fill t.line 0)
        | .need l => s.wantFor (w.vf, l, 0x116 + w.die)
        | .bad _ _ => { s with walks := tset none s.walks (s.arg 0) none })

/-- FAULT_RECORD_DEFERRED: the oldest waiting record of a function that can be written is written. R162. -/
def execFaultRecordDeferred (s : State) : Out :=
  .next (match s.frecs.find? (fun r => r.vf = s.arg 0 && s.canRecord r) with
    | none => s
    | some r => ({ s with frecs := s.frecs.erase r }).record r)

-- the mesh (13 R208; 19 R294, R295; 10 R173) -----------------------------------------------------------------------------------------

/-- A remote-scratch access at its core's queue arbiter. Of a team that no longer stands there, reads give free values and writes are dropped (log
entry 15). -/
def State.meshAccess (s : State) (id : Nat) (r : Req) : State :=
  let t := s.team r.page
  let here := t.placed r.line
  let sense (s : State) (a n : Nat) : State := if here then let e := s.senseRun t 2 a n; e.1.spoil r.op t.vf e.2 else s
  let read (s : State) (a n : Nat) : List Byte :=
    if here then s.runRead t 2 a n else (List.range n).map (fun i => Config.freeByte s.freeCtr (a + i))
  let bump (s : State) : State := if here then s else { s with freeCtr := s.freeCtr + 1 }
  match r.kind with
  | .read parts _ =>
    let u := parts.foldl (fun s p => sense s p.2.1 p.2.2) s
    (bump u).replyTo id r ((parts.map (fun p => place p.1 (read u p.2.1 p.2.2))).flatten)
  | .write ws => (if here then s.runWrite t 2 ws else s).replyTo id r []
  | .atomic op size addr lanes =>
    let u := sense s addr size
    let x := atomRun op lanes (BitVec.ofNat 64 (ofLeBytes (read u addr size))) none
    let v := match x.1 with
      | some n => if here then u.runWrite t 2 (wbytes addr (bytesOf size n)) else u
      | none => u
    (bump v).replyTo id r (if (v.op r.op).any (fun o => o.kind = 2) then atomPlaces size x.2 else [])
  | .steal lanes vs => s.stealStep id r lanes true vs
  | .que op p => s.queMesh id r op p true
  | .answer _ _ _ => if (s.team r.tid).terminated then s.setReq id none else s.setReq id (some { r with held := true })
  | .reply res => (s.setReq id none).partDone r.op res r.lanes r.scope
  | _ => s

/-- One whose packet a router has dropped: it is refused (18 R270, R272). -/
def State.meshDropped (s : State) (id : Nat) (r : Req) (site : Nat) : State :=
  let kind := match r.kind with
    | .read _ _ => 0
    | .write _ => 1
    | .reply _ => 0
    | _ => 2
  let addr := match r.kind, r.kind.bytes with
    | .que _ p, _ => p.toNat
    | .answer _ p _, _ => p.toNat
    | _, a :: _ => 4 * 2 ^ 60 + a
    | _, [] => 0
  let u := s.refuseAt r.vf r.master kind ⟨5, site, addr⟩
  match r.kind with
  | .read parts _ => (u.setReq id none).partDone r.op (partZeros parts) r.lanes r.scope
  | .steal lanes vs => u.stealStep id r lanes false vs
  | .que op p => u.queMesh id r op p false
  | .answer _ _ _ => u.setReq id (some { r with held := true })
  | .reply _ => (u.setReq id none).partDone r.op [] r.lanes r.scope
  | _ => u.dropWrite id r

/-- MESH_OPERATION_AT_QUEUE_ARBITER: a remote-scratch access, or a steal, reaches its core's queue arbiter. R295. -/
def execMeshOperationAtQueueArbiter (s : State) : Out :=
  .next (s.taking (fun t id r =>
    if r.slice then s
    else
      match t.wayOf r with
      | .drops x => t.meshDropped id r x
      | _ => t.meshAccess id r))

end Sys2Proof.Machine
end

