-- ==== Sys2Proof/Machine/CohEv.lean ====
section
/-!
DEFINITION. CohEv.lean: the cohort event arbiter's own events (09 R171): completed donations (05 R96), timeouts (07 R134, R138),
hang reports (02 R40), corrupted tiles (20 R305), the return of granules (02 R43); the other waits (02 R21); and the order of the
PC groups (02 R37).
-/
namespace Sys2Proof.Machine

-- groups (02 R22, R36, R37) ----------------------------------------------------------------------------------------------------------

/-- The PC groups of a cohort, in ascending order of their lowest lanes. -/
def groupsFrom (c : Cohort) : Nat → Lanes → List Lanes
  | 0, _ => []
  | n + 1, left =>
    if left = 0 then []
    else
      let g := c.group (lowest left)
      g :: groupsFrom c n (left &&& ~~~g)

def Cohort.groups (c : Cohort) : List Lanes := groupsFrom c 32 c.runnable

/-- The groups, the most populous first; of equal ones the lower ADDR, then the lower IDX (02 R36). -/
def Cohort.byPopulation (c : Cohort) : List Lanes :=
  let key (g : Lanes) : Nat :=
    let p := tget 0 c.pc (lowest g)
    (32 - popLanes g) * 2 ^ 60 + fld p 0 52 * 16 + fld p 60 4
  sortBy (fun a b => key a ≤ key b) c.groups

/-- The old entry's part that keeps its place (02 R37): the part at the word after the one just executed, else the part with the
lowest thread of the old group. -/
def Cohort.keeps (c : Cohort) (old : Lanes) (next : Option (Nat × Nat)) : Option Lanes :=
  let parts := c.groups.filter (fun g => g &&& old != 0)
  let stays := match next with
    | some n => parts.find? (fun g => let p := tget 0 c.pc (lowest g); fld p 0 52 = n.1 && fld p 60 4 = n.2)
    | none => none
  match stays with
  | some g => some g
  | none => parts.find? (fun g => g.getLsbD (lowest (old &&& c.runnable)))

/-- The entries of a core's groups at the end of a core clock, by the groups that have issued in it (`Core.ran`). Kept entries stay in their
order; of merged groups the later one's goes; new groups follow in ascending order of their lowest threads, those of several cohorts with one
lowest thread in the order of the teams and cohorts (log entry 45). -/
def State.regroup (s : State) (core : Nat) : State :=
  let here := s.teams.filter (fun e => e.2.place = .resident && e.2.core = core)
  let kept := (s.core core).groups.foldl (fun (acc : List (Nat × Nat × Lanes)) e =>
    if !(here.any (fun t => t.1 = e.1)) then acc
    else
      let next := ((s.core core).ran.find? (fun r => r.1 = e.1 && r.2.1 = e.2.1 && r.2.2.1 = e.2.2)).map (fun r => r.2.2.2)
      match (s.coh e.1 e.2.1).keeps e.2.2 next with
      | some g => if acc.any (fun x => x.1 = e.1 && x.2.1 = e.2.1 && x.2.2 = g) then acc else acc ++ [(e.1, e.2.1, g)]
      | none => acc) []
  let all := (here.map (fun t => (t.2.cohs.map (fun c => c.2.groups.map (fun g => (t.1, c.1, g)))).flatten)).flatten
  let new := all.filter (fun x => !(kept.contains x))
  s.modCore core (fun c => { c with ran := [], groups := kept ++ sortBy (fun a b => lowest a.2.2 ≤ lowest b.2.2) new })

/-- The instruction-buffer order of every core with teams at the end of a core clock (02 R37). -/
def State.regroupAll (s : State) : State := (dedup (s.teams.map (fun t => t.2.core))).foldl (fun s c => s.regroup c) s

-- donations (05 R96) --------------------------------------------------------------------------------------------------------------------

/-- A donor's pair completes when both parts are open, name each other, and the writes outstanding to the granules have landed: the top
granules of the donor's map become the recipient's next ones (05 R96). -/
def State.tryDonation (s : State) (tid dn rc : Nat) : State :=
  let d := s.coh tid dn
  let e := s.coh tid rc
  match d.part, e.part with
  | some hd, some he =>
    let g := hd.imm / 32
    if !(paired dn rc hd he) || he.imm / 32 != g || (s.team tid).place != .resident ||
        s.regBusy tid dn (8 * (d.valloc - g)) (8 * d.valloc) then s
    else
      let gm := (List.range g).foldl (fun m i => Machine.tset 0 m (e.valloc + i) (tget 0 d.gmap (d.valloc - g + i))) e.gmap
      let s := s.setCoh tid rc { e with gmap := gm, valloc := e.valloc + g }
      let s := s.setCoh tid dn { d with
        valloc := d.valloc - g
        gmap := (List.range g).foldl (fun m i => Machine.tset 0 m (d.valloc - g + i) 0) d.gmap }
      let free (c : Cohort) (l : Lanes) : Cohort := (c.freeHw (fun h => h.kind = 3 || h.kind = 4)).release l
      (s.modCoh tid dn (fun c => free c hd.lanes)).modCoh tid rc (fun c => free c he.lanes)
  | _, _ => s

/-- DONATION_COMPLETE, at the end of a core clock: words of that clock were checked against the old allocations. R96, R140. -/
def execDonationComplete (s : State) : Out := .next (s.tryDonation (s.arg 0) (s.arg 1) (s.arg 2))

-- the end of a core clock (09 R171) -------------------------------------------------------------------------------------------------------

/-- The cohorts of a team whose donor's part is open, with the recipients they name. -/
def Team.donors (t : Team) : List (Nat × Nat) :=
  (t.cohs.filter (fun e => e.2.part.any (fun h => h.kind = 3))).map (fun e => (e.1, ((e.2.part).getD {}).imm % 32))

/-- The completions that a clock's arrivals have brought about: mask waits, the barrier, donations (09 R171, rank 2). -/
def State.settle (s : State) (tid : Nat) : State :=
  let s := s.modTeam tid (fun t => Team.tryBar { t with cohs := t.cohs.map (fun (e : Nat × Cohort) => (e.1, if e.2.retired then e.2 else e.2.tryMasks)) })
  (s.team tid).donors.foldl (fun s e => s.tryDonation tid e.1 e.2) s

/-- A group's timeout has expired: its lanes are expected again, go on, and its predicate becomes false (07 R134). -/
def State.expire (s : State) (tid coh k : Nat) : State :=
  match (s.coh tid coh).hw.find? (fun e => e.1 = k) with
  | some (_, h) =>
    if h.kind = 1 && h.remain = 1 then
      s.modCoh tid coh (fun c =>
        let c := c.mset h.ma (c.mget h.ma ||| h.lanes)
        let c := if h.ps = 0 then c else c.pset (h.ps - 1) h.lanes 0
        { c with hw := tdel k c.hw }.release h.lanes)
    else s
  | none => s

/-- WAITM_TIMEOUT: a timeout follows every arrival and completion of its core clock. R134, R135, R171. -/
def execWaitmTimeout (s : State) : Out :=
  .next (if (s.team (s.arg 0)).place = .resident then (s.settle (s.arg 0)).expire (s.arg 0) (s.arg 1) (s.arg 2) else s)

/-- A cohort's waiting lanes at an expired barrier: the lanes are expected again; the group of the first arrival faults at its
word, and the others stand at theirs. -/
def State.barFault (s : State) (tid coh mreg : Nat) : State :=
  match ((s.coh tid coh).hwOf (fun h => h.kind = 2)).head? with
  | none => s
  | some (_, h) =>
    let s := s.modCoh tid coh (fun c =>
      { (c.mset mreg (c.mget mreg ||| h.lanes)).freeHw (fun h => h.kind = 2) with
        waiting := c.waiting &&& ~~~h.lanes, last := c.last &&& ~~~h.lanes })
    let pc := tget 0 (s.coh tid coh).pc h.imm
    let grp := lanesFrom ((lanesOf h.lanes).filter (fun l =>
      let p := tget 0 (s.coh tid coh).pc l
      fld p 0 52 = fld pc 0 52 && fld p 60 4 = fld pc 60 4))
    s.programFault tid coh grp pc pc { cause := 0x1A }

/-- An expired barrier's generation ends with a fault in every cohort that has waiting threads (07 R138). -/
def State.expireBar (s : State) (tid : Nat) : State :=
  let b := (s.team tid).bar
  if b.isOpen && b.bounded && b.remain = 1 then
    (List.range (s.team tid).launch.n).foldl (fun s c => s.barFault tid c b.mreg) (s.modTeam tid (fun t => { t with bar := t.bar.ended }))
  else s

/-- BARRIER_TIMEOUT: an arrival or a `leave` of the clock that completes the barrier wins. R138, R171. -/
def execBarrierTimeout (s : State) : Out :=
  .next (if (s.team (s.arg 0)).place = .resident then (s.settle (s.arg 0)).expireBar (s.arg 0) else s)

/-- The end of a core clock for a resident team, in the ranks of 09 R171: completions, timeouts, and the faults of the barrier's timeout
and of donations that cannot be made. -/
def State.closeTeam (s : State) (tid : Nat) : State :=
  if (s.team tid).place != .resident then s
  else
    let s := s.settle tid
    let s := (s.team tid).cohs.foldl (fun s c => c.2.hw.foldl (fun s h => s.expire tid c.1 h.1) s) s
    let s := s.expireBar tid
    (s.team tid).cohs.foldl (fun s c => (s.pairCheck tid c.1).partnerCheck tid c.1) s

-- reports (02 R40, R42) ------------------------------------------------------------------------------------------------------------------

/-- A cohort's hang report, when it is due (02 R40, R42). -/
def State.hangReport (s : State) (tid coh : Nat) : State :=
  let t := s.team tid
  let c := s.coh tid coh
  if t.place = .resident && !c.hangrep && 2 ^ fld c.hangctl 0 6 ≤ c.hangcnt.toNat then
      let gs := c.byPopulation
      let pcs := (List.range 4).map (fun i => match gs[i]? with
        | some g => (tget 0 c.pc (lowest g)).toNat
        | none => 0)
      let r := rec512 ([0x02 + t.vf * 2 ^ 8 + t.core * 2 ^ 16 + t.slot * 2 ^ 23 + coh * 2 ^ 28, s.timebase.toNat,
        c.hangcnt.toNat + gs.length * 2 ^ 48] ++ pcs ++ [(gs.headD 0).toNat])
      (s.modCoh tid coh (fun c => { c with hangrep := true })).report t.vf r
    else s

/-- HANG_REPORT. R40, R42. -/
def execHangReport (s : State) : Out := .next (s.hangReport (s.arg 0) (s.arg 1))

/-- CORRUPTED_TILE_FAULT: the group of a lane that has reached a clause header takes the fault. R305. -/
def execCorruptedTileFault (s : State) : Out :=
  let tid := s.arg 0
  let coh := s.arg 1
  let c := s.coh tid coh
  let l := s.arg 2
  let pc := tget 0 c.pc l
  .next (match c.tiles with
    | x :: xs =>
      if c.runnable.getLsbD l && fld pc 60 4 = 0 && (s.team tid).place = .resident then
        (s.modCoh tid coh (fun c => { c with tiles := xs })).programFault tid coh (c.group l) pc pc (tileFault x)
      else s
    | [] => s)

-- granules (02 R43; 05 R95) -----------------------------------------------------------------------------------------------------------------

/-- GRANULE_RETURN: a granule of a retired cohort returns once the writes outstanding to its registers have landed; of a team that has a new place only
after its restore has written its registers back (05 R95, R102). R43. -/
def execGranuleReturn (s : State) : Out :=
  let tid := s.arg 0
  let coh := s.arg 1
  let j := s.arg 2
  let c := s.coh tid coh
  let here := (s.team tid).place = .resident || (s.team tid).place = .stopped
  .next (if here && c.retired && j < c.valloc && !(c.returned.contains j) && !(s.regBusy tid coh (8 * j) (8 * j + 8)) then
      s.modCoh tid coh (fun c => { c with returned := j :: c.returned })
    else s)

-- the waits without a record (02 R21; 11 R204; 15 R235; 19 R291; 09 R166) ------------------------------------------------------------------

/-- Test the condition of some threads' wait again: what ends with it. A `pumpwait` whose read an access table refuses ends with zero (15 R369). -/
def State.pollDone (s : State) (tid coh : Nat) (ls : Lanes) (w : Wait) : Option State :=
  let t := s.team tid
  match w with
  | .swt ptr ix ph => if s.swtMet tid ptr ix ph then some s else none
  | .cpwait ch thr sd p =>
    if thr.toNat ≤ ((s.core t.core).chan ch).chwp.toNat then some (s.modCoh tid coh (fun c => c.sset sd p)) else none
  | .pumpwait pa sd =>
    let no := s.readRefusal t.vf (lineAt pa) t.core
    if (s.awaits t.vf pa t.core).isSome || no.any (fun r => r.tgt = 6) then none
    else
      let r := s.readLine t.vf (lineAt pa) t.core tid coh
      let r := (r.1.dropStale t.core (lineAt pa), r.2)
      let v : BitVec 64 := BitVec.ofNat 64 (ofLeBytes (lineBytes r.2.1 (pa % 128) 8))
      match r.2.2 with
      | some e => some (r.1.machineCheck tid coh (tget 0 (s.coh tid coh).pc (lowest ls)) ls 0 e)
      | none => if bit v 8 || no.isSome then some (r.1.modCoh tid coh (fun c => c.sset sd v)) else none
  | .fencei ops => if s.ended ops then some (s.modCoh tid coh (fun c => { c with words := [] })) else none

/-- What a wait whose condition does not hold asks for: the line it reads. -/
def State.pollMore (s : State) (tid : Nat) (w : Wait) : State :=
  match w with
  | .pumpwait pa _ => (s.awaits (s.team tid).vf pa (s.team tid).core).getD s
  | _ => s

/-- The waiting group of a lane tests its condition; when it holds, its threads go on. -/
def State.poll (s : State) (tid coh lane : Nat) : State :=
  match (s.coh tid coh).polls.find? (fun p => p.lanes.getLsbD lane) with
  | none => s
  | some p =>
    if (s.team tid).place != .resident then s
    else
      match s.pollDone tid coh p.lanes p.wait with
      | none => s.pollMore tid p.wait
      | some t => t.modCoh tid coh (fun c => { c with polls := c.polls.filter (fun q => q.lanes != p.lanes) }.release p.lanes)

end Sys2Proof.Machine
end

