-- ==== Sys2Proof/Machine/Micro.lean ====
section
/-!
DEFINITION. Micro.lean: the banks and the channel schedulers of the base dies (15 R224 to R228, R237, R238): microcommands,
suspension and resumption, and normal requests. Clocks are DRAM clocks.
-/
namespace Sys2Proof.Machine

-- timing and the fit rule (15 R227, R238) -------------------------------------------------------------------------------------------

def tRCD : Nat := 14
def tRAS : Nat := 32
def tRP : Nat := 14

/-- The open compute row. -/
def Bank.open? (b : Bank) : Option Row := b.row.filter (fun r => !r.normal)

/-- The clock at which the open row's last ACT issued. -/
def Bank.actClk (b : Bank) : Nat :=
  match b.row with
  | some r => r.act
  | none => 0

/-- The earliest legal issue clock of a command from `now` on. -/
def Bank.legal (b : Bank) (now op : Nat) : Nat :=
  if op = 0 then max now (max b.busy b.pre)
  else if op = 4 then now
  else if op = 3 then max now (max b.busy (b.actClk + tRAS))
  else max now (max b.busy (b.actClk + tRCD))

/-- The close clock of a command (15 R238). -/
def Bank.close (b : Bank) (now op : Nat) : Nat :=
  let t := b.legal now op
  if op = 0 then t + tRAS + tRP
  else if op = 3 then t + tRP
  else
    let t := t + (if op = 1 then 1 else if op = 2 then 2 else 0)
    (if b.open?.isSome then max t (b.actClk + tRAS) else t) + tRP

/-- Whether the head of a bank's queue fits before the earliest deadline of its waiting normal requests (15 R238). A column command of a suspended
row does not: the row comes back only when none waits. -/
def State.fits (s : State) (gb : Nat) (op : Nat) : Bool :=
  (s.waitingAt gb).isEmpty ||
    (!((op = 1 || op = 2) && (s.bank gb).susp.isSome) && (s.bank gb).close s.dclk op ≤ (s.bank gb).since + 96)

/-- Whether a bank is held: its head fits (15 R238). -/
def State.bankHeld (s : State) (gb : Nat) : Bool :=
  match (s.bank gb).queue.head? with
  | some c => s.fits gb c.x.op
  | none => false

/-- Whether the head may issue now: no normal row is open, the clock is legal, and it fits; the bank duty admits it (25 R357). -/
def State.canIssue (s : State) (gb op : Nat) : Bool :=
  !((s.bank gb).row.any (fun r => r.normal)) && (s.bank gb).legal s.dclk op = s.dclk && s.fits gb op && s.dclk % 16 < s.bd

-- data -----------------------------------------------------------------------------------------------------------------------------

/-- The DRAM address of a row. -/
def rowAddr (gb row : Nat) : Nat := (gb * 65536 + row) * 2048

/-- The 32 bytes of a column, decrypted. -/
def State.column (s : State) (gb row col : Nat) : List Byte :=
  let d := rowAddr gb row + 32 * col
  lineBytes (s.dramRead (lineAt d)).1 (d % 128) 32

/-- Write a column on behalf of a function; the row leaves the memory-side cache (10 R180). -/
def State.putColumn (s : State) (gb row col vf : Nat) (bs : List Byte) : State :=
  let d := rowAddr gb row + 32 * col
  let l := lineAt d
  let x := applyBytes (s.dramRead l).1 (wbytes (d % 128) bs)
  (s.dramWrite l vf x).mscDrop (gb / 512) (fun m => m / 2048 = d / 2048)

/-- An uncorrectable error that a column's reader meets (10 R182). -/
def State.senseColumn (s : State) (vf gb row col : Nat) : State × Option (Nat × Nat × Nat) :=
  let l := lineAt (rowAddr gb row + 32 * col)
  s.sense vf 3 (gb / 512) l ((s.physLine l).getD 0)

def bankKey (pc acc lane : Nat) : Nat := (pc % 8 * 4 + acc) * 32 + lane

def Bank.setAcc (b : Bank) (pc acc lane : Nat) (v : BitVec 32) : Bank := { b with acc := Machine.tset 0 b.acc (bankKey pc acc lane) v }

/-- The accumulator lanes after a MAC (15 R227). -/
def macLane (fmt : Nat) (a : BitVec 32) (col : List Byte) (i : Nat) (sc : BitVec 64) : BitVec 32 :=
  if fmt = 0 then
    let x := bf16.decode (ofLeBytes ((col.drop (2 * i)).take 2))
    BitVec.ofNat 32 (f32.round .near ((f32.decode a.toNat).add .near (x.mul (bf16.decode (fld sc 0 16))).1).1).1
  else a + BitVec.ofInt 32 (sextNat 8 (col.getD i 0).toNat * sextNat 8 (fld sc 0 8))

/-- The bytes that a WB writes (15 R227). -/
def wbBytes (fmt h : Nat) (a : Nat → BitVec 32) : List Byte :=
  if fmt = 0 then ((List.range 16).map (fun i => leBytes 2 (bf16.round .near (f32.decode (a i).toNat)).1)).flatten
  else if fmt = 1 then (List.range 32).map (fun i => BitVec.ofNat 8 (toI8 (FVal.ofInt (a i).toInt)))
  else ((List.range 8).map (fun j => bytesOf 4 (a (8 * h + j)))).flatten

-- recalls (15 R228; 16 R247) -------------------------------------------------------------------------------------------------------

/-- The physical lines of a row. -/
def State.rowLines (s : State) (gb row : Nat) : List Nat :=
  (List.range 16).filterMap (fun i => s.physLine (rowAddr gb row + 128 * i))

/-- Whether a row's recall is not over (15 R228): write-backs to it are on their way, copies of its lines have yet to take their invalidations, or
a locked line's recall waits for its unlock (21 R316). -/
def State.recalling (s : State) (gb row : Nat) : Bool :=
  (tget [] s.chans (gb / 16)).any (fun n => n.back && n.bank = gb && n.row = row) ||
    (tsome s.invs).any (fun e => (s.rowLines gb row).contains e.2.line) ||
    (tsome s.reqs).any (fun e => e.2.kind = .recall && (s.rowLines gb row).contains e.2.line)

/-- The recall of a row on behalf of a pumphouse core's launch (15 R228). With WR = 1 it waits for a locked line's unlock (21 R316). -/
def State.recall (s : State) (pc gb row : Nat) (wr : Bool) : State :=
  (s.rowLines gb row).foldl (fun s pa =>
    if !wr then s.cleanLine pa
    else if (s.lock pa).locked then
      let f := s.fresh
      f.1.setReq f.2 (some { op := 0, master := 0x80 + pc, vf := s.runVf pc, tid := 0, coh := 64, lanes := 0, kind := .recall, line := pa,
                             here := true, held := true, seq := f.2 })
    else (s.cleanLine pa).invalidateLine pa) s

/-- Whether a row holds a line of an open section's window (16 R247). -/
def State.rowInWindow (s : State) (gb row : Nat) : Bool :=
  (s.rowLines gb row).any (fun pa => (s.slice (s.homeSlice pa)).secs.any (fun e => (s.sectOf e.pc).inWindow pa))

/-- Whether a compute activate is permitted for a function (15 R237). -/
def State.mayActivate (s : State) (vf gb row : Nat) (wr : Bool) : Bool :=
  let r := s.rowRights vf (rowAddr gb row)
  r.2.2 && (!wr || r.2.1)

/-- The refusal of a compute activate: a report, and code PERM (15 R237; 18 R270). -/
def State.actRefused (s : State) (gb row pc : Nat) : State :=
  (s.refuse (s.runVf pc) 6 (gb / 512) (0x80 + pc) 3 (((s.rowLines gb row).head?).getD 0)).launchErr pc 4

-- microcommands (15 R227) -----------------------------------------------------------------------------------------------------------

/-- The head of a bank's queue, when it is of an operation. -/
def State.bankHead (s : State) (gb op : Nat) : Option MicroCmd := (s.bank gb).queue.head?.filter (fun c => c.x.op = op)

/-- The head leaves the queue. -/
def Bank.pop (b : Bank) : Bank := { b with queue := b.queue.drop 1 }

/-- Whether an ACT of a bank's queue has its recall still to come, and may have it now (15 R228, R237; 16 R247). -/
def State.mayRecall (s : State) (gb : Nat) (c : MicroCmd) : Bool :=
  c.x.op = 0 && !c.recalled && s.mayActivate (s.runVf c.pc) gb c.row (c.x.wr = 1) && !(c.x.wr = 1 && s.rowInWindow gb c.row)

/-- The recalls of the ACTs of a bank's queue go out as the ACTs come to the bank, ahead of their turns (15 R228). -/
def State.recallQueue (s : State) (gb : Nat) : State :=
  (s.bank gb).queue.foldl (fun t c => if s.mayRecall gb c then t.recall c.pc gb c.row (c.x.wr = 1) else t)
    (s.modBank gb (fun b => { b with queue := b.queue.map (fun c => if s.mayRecall gb c then { c with recalled := true } else c) }))

/-- MICRO_ACT: the recalls, and then the ACT at the head, its rights checked when it issues. R227, R228, R237. -/
def execMicroAct (s : State) : Out :=
  let gb := s.arg 0
  let b := s.bank gb
  .next (if b.queue.any (s.mayRecall gb) then s.recallQueue gb
    else
      match s.bankHead gb 0 with
      | none => s
      | some c =>
        if b.open?.isSome || b.susp.isSome then s.launchErr c.pc 5
        else if !(s.mayActivate (s.runVf c.pc) gb c.row (c.x.wr = 1)) then s.actRefused gb c.row c.pc
        else if !c.recalled then s.launchErr c.pc 5
        else if s.recalling gb c.row || !(s.canIssue gb 0) then s
        else s.modBank gb (fun b => { b.pop with
          row := some { row := c.row, pc := c.pc, wr := c.x.wr = 1, act := s.dclk }, busy := s.dclk + 1 }))

/-- Whether a MAC or WB acts on the row that its core opened and holds open, and a WB on one opened for it. -/
def Bank.rowOk (b : Bank) (c : MicroCmd) : Bool :=
  b.open?.any (fun r => r.pc = c.pc && r.row = c.row && (c.x.op = 1 || r.wr))

/-- MICRO_MAC. R227. -/
def execMicroMac (s : State) : Out :=
  let gb := s.arg 0
  let b := s.bank gb
  .next (match s.bankHead gb 1 with
    | none => s
    | some c =>
      if b.susp.any (fun r => r.pc = c.pc) then s
      else if b.row.any (fun r => r.normal) then s
      else if !(b.rowOk c) then s.launchErr c.pc 5
      else if !(s.canIssue gb 1) then s
      else
        let e := s.senseColumn (s.runVf c.pc) gb c.row c.col
        let col := s.column gb c.row c.col
        let t := e.1.modBank gb (fun b => (List.range (if c.x.fmt = 0 then 16 else 32)).foldl (fun b i =>
          b.setAcc c.pc c.x.acc i (macLane c.x.fmt (tget 0 b.acc (bankKey c.pc c.x.acc i)) col i c.sc))
          { b.pop with busy := s.dclk + 1 })
        match e.2 with
        | some x => (t.logError 0x11 (s.runVf c.pc) x.1 x.2.1 x.2.2 []).launchErr c.pc 7
        | none => t)

/-- MICRO_WB. R227; 18 R274: a function whose keys are destroyed writes nothing, and its launch ends as refused (R270). -/
def execMicroWb (s : State) : Out :=
  let gb := s.arg 0
  let b := s.bank gb
  .next (match s.bankHead gb 2 with
    | none => s
    | some c =>
      if b.susp.any (fun r => r.pc = c.pc) then s
      else if b.row.any (fun r => r.normal) then s
      else if !(b.rowOk c) then s.launchErr c.pc 5
      else if !(s.canIssue gb 2) then s
      else
        let vf := s.runVf c.pc
        let bs := wbBytes c.x.fmt c.x.h (fun i => tget 0 b.acc (bankKey c.pc c.x.acc i))
        let s := s.modBank gb (fun b => { b.pop with busy := s.dclk + 2 })
        if s.keyless vf then (s.refuse vf 1 (gb / 512) (0x80 + c.pc) 1 (((s.rowLines gb c.row).head?).getD 0)).launchErr c.pc 3
        else s.putColumn gb c.row c.col vf bs)

/-- MICRO_PRE: without a row of its own it completes at once, and of a suspended row it discards it. R227. -/
def execMicroPre (s : State) : Out :=
  let gb := s.arg 0
  let b := s.bank gb
  .next (match s.bankHead gb 3 with
    | none => s
    | some c =>
      if b.susp.any (fun r => r.pc = c.pc) then s.modBank gb (fun b => { b.pop with susp := none, recalled := false })
      else if b.open?.any (fun r => r.pc = c.pc) then
        if s.canIssue gb 3 then
          s.modBank gb (fun b => { b.pop with row := none, pre := s.dclk + tRP, preBy := c.pc, busy := s.dclk + 1 })
        else s
      else s.modBank gb Bank.pop)

/-- MICRO_CLR. R227. -/
def execMicroClr (s : State) : Out :=
  let gb := s.arg 0
  .next (match s.bankHead gb 4 with
    | none => s
    | some c =>
      if !(s.canIssue gb 4) then s
      else s.modBank gb (fun b => (List.range 32).foldl (fun b i => b.setAcc c.pc c.x.acc i 0) b.pop))

-- suspension and resumption (15 R238) ---------------------------------------------------------------------------------------------------

/-- BANK_SUSPENSION. R238. -/
def execBankSuspension (s : State) : Out :=
  let gb := s.arg 0
  let b := s.bank gb
  .next (match b.open? with
    | some r =>
      if (s.waitingAt gb).isEmpty || s.bankHeld gb || s.dclk < max b.busy (r.act + tRAS) then s
      else s.setBank gb { b with row := none, susp := some r, pre := s.dclk + tRP, preBy := 128, busy := s.dclk + 1 }
    | none => s)

/-- The normal requests of a bank, waiting or admitted. -/
def State.normalAt (s : State) (gb : Nat) : List NReq := (tget [] s.chans (gb / 16)).filter (fun n => n.bank = gb)

/-- BANK_RESUMPTION: the suspended row is checked and recalled, and then opened again. R238, R228, R237. -/
def execBankResumption (s : State) : Out :=
  let gb := s.arg 0
  let b := s.bank gb
  .next (match b.susp with
    | some r =>
      let gone := s.setBank gb { b with susp := none, recalled := false }
      if !(s.normalAt gb).isEmpty || b.row.isSome || (s.bankHead gb 3).any (fun c => c.pc = r.pc) || s.dclk < max b.busy b.pre then s
      else if !(s.mayActivate (s.runVf r.pc) gb r.row r.wr) then gone.actRefused gb r.row r.pc
      else if r.wr && s.rowInWindow gb r.row then gone.launchErr r.pc 5
      else if !b.recalled then (s.recall r.pc gb r.row r.wr).modBank gb (fun b => { b with recalled := true })
      else if s.recalling gb r.row || s.bd ≤ s.dclk % 16 then s
      else s.setBank gb { b with susp := none, row := some { r with act := s.dclk, again := true }, busy := s.dclk + 1, recalled := false }
    | none => s)

-- normal requests (15 R237, R238) --------------------------------------------------------------------------------------------------------

/-- A normal request leaves its channel. -/
def State.dropNormal (s : State) (ch : Nat) (n : NReq) : State :=
  { s with chans := tset [] s.chans ch ((tget [] s.chans ch).erase n) }

/-- Whether a normal request's next command is issuable: the line's read or write of an admitted one, or the first command of a waiting one, when
its bank is not held and no compute row is open: its ACT, or with its row open the read or write at once. -/
def State.issuable (s : State) (n : NReq) : Bool :=
  let b := s.bank n.bank
  let col (r : Row) : Bool := r.normal && r.row = n.row && max b.busy (r.act + tRCD) ≤ s.dclk
  if n.admitted then b.row.any col
  else !(s.bankHeld n.bank) && (match b.row with
    | some r => col r
    | none => max b.busy b.pre ≤ s.dclk)

/-- Whether a bank's normal row can be closed: no admitted request needs it. -/
def State.closable (s : State) (gb : Nat) : Bool :=
  (s.bank gb).row.any (fun r => r.normal && max (s.bank gb).busy (r.act + tRAS) ≤ s.dclk) && !((s.normalAt gb).any (fun n => n.admitted))

/-- The normal command that a channel's shared path takes next: the PRE of a row, which is of a request that has gone before, or the oldest
issuable command of a request; one in a DRAM clock. -/
def State.nextNormal (s : State) (ch : Nat) : Option (Nat ⊕ NReq) :=
  if s.dclk < tget 0 s.chanClk ch then none
  else
    match ((List.range 16).map (fun b => 16 * ch + b)).find? s.closable with
    | some gb => some (.inl gb)
    | none => ((tget [] s.chans ch).find? s.issuable).map Sum.inr

/-- The shared path is taken in this DRAM clock. -/
def State.takePath (s : State) (ch : Nat) : State := { s with chanClk := tset 0 s.chanClk ch (s.dclk + 1) }

/-- The read or write of a line issues (10 R180): what is read enters the memory-side cache, where all that wait for it find it; a write is made,
and answered. A line that is written whole holds no wrong bits any more (R182). -/
def State.lineCommand (s : State) (ch : Nat) (n : NReq) : State :=
  let s := (s.dropNormal ch n).modBank n.bank (fun b => { b with busy := s.dclk + 4 })
  match n.ws, s.dramLine n.line with
  | none, some d => s.mscPut d
  | some ws, some d =>
    let k := if n.bad then 2 else 0
    let s := if wholeLine ws then (s.setUpset 3 (stackOf d) d k).setUpset 2 (stackOf d) d k else s
    (s.dramWrite d n.vf (applyBytes (s.dramRead d).1 ws)).partDone n.rq []
  | _, none => s

/-- A normal request that its row's permissions, or destroyed keys, refuse at its admission (15 R237; 18 R274): a read goes, and what waits for it
is refused when it asks again; a write is dropped and answered, with its report. -/
def State.dropRefused (s : State) (ch : Nat) (n : NReq) : State :=
  let s := s.dropNormal ch n
  if n.ws.isNone then s
  else if n.back then { s with late := s.late ++ [(n.vf, n.line)] }
  else (s.refuse n.vf 6 (n.bank / 512) n.master 1 n.line).partDone n.rq []

/-- Whether the rights of a normal request's function on its row permit it (15 R237). -/
def State.mayNormal (s : State) (n : NReq) : Bool :=
  let r := s.rowRights n.vf (rowAddr n.bank n.row)
  if n.ws.isSome then r.2.1 && !(s.keyless n.vf) else r.1

/-- A waiting request is admitted: its ACT issues, and admits with it every other that waits for its row and has the right; or, with its row open,
its read or write. The deadline of a bank's waiting requests moves when its oldest goes (15 R238). -/
def State.admitNormal (s : State) (ch : Nat) (n : NReq) : State :=
  let t := if (s.waitingAt n.bank).head? = some n then s.modBank n.bank (fun b => { b with since := s.dclk }) else s
  if !(s.mayNormal n) then t.dropRefused ch n
  else if (s.bank n.bank).row.isSome then (t.takePath ch).lineCommand ch n
  else
    let t := (t.takePath ch).modBank n.bank (fun b => { b with
      row := some { row := n.row, pc := 128, wr := false, act := s.dclk, normal := true }, busy := s.dclk + 1 })
    { t with chans := tset [] t.chans ch ((tget [] t.chans ch).map (fun x =>
        if x = n || (x.bank = n.bank && x.row = n.row && s.mayNormal x) then { x with admitted := true } else x)) }

/-- NORMAL_REQUEST_ADMISSION: the first command of the oldest issuable request of a channel. R238, R237. -/
def execNormalRequestAdmission (s : State) : Out :=
  let ch := s.arg 0
  .next (match s.nextNormal ch with
    | some (.inr n) => if n.admitted then s else s.admitNormal ch n
    | _ => s)

/-- NORMAL_COMMAND_ISSUE: a later command of a channel's normal requests: the read or write of an admitted one, or the PRE of a normal row that no
admitted request needs. R238. -/
def execNormalCommandIssue (s : State) : Out :=
  let ch := s.arg 0
  .next (match s.nextNormal ch with
    | some (.inr n) => if n.admitted then (s.takePath ch).lineCommand ch n else s
    | some (.inl gb) =>
      (s.takePath ch).modBank gb (fun b => { b with row := none, pre := s.dclk + tRP, preBy := 128, busy := s.dclk + 1 })
    | none => s)

-- the end of a DRAM clock (15 R238) -----------------------------------------------------------------------------------------------------

/-- The next state of a meaning that goes on. -/
def State.after (s : State) (f : State → Out) (args : List Nat) : State :=
  match f { s with args := args } with
  | .next t => { t with args := s.args }
  | _ => s

/-- What a bank's scheduler does in a DRAM clock beside its channel's normal command: a suspension, a re-activation, or the head command. -/
def State.bankClock (s : State) (gb : Nat) : State :=
  let s := (s.after execBankSuspension [gb]).after execBankResumption [gb]
  match (s.bank gb).queue.head? with
  | some c =>
    (s.after execMicroAct [gb]).after (if c.x.op = 0 then execMicroAct else if c.x.op = 1 then execMicroMac else if c.x.op = 2 then execMicroWb
      else if c.x.op = 3 then execMicroPre else execMicroClr) [gb]
  | none => s

/-- No DRAM clock passes without the commands that it can take: each channel's one normal command, and in each bank the head (15 R238; 01 R370). -/
def State.closeDram (s : State) : State :=
  let s := s.chans.foldl (fun s c => (s.after execNormalCommandIssue [c.1]).after execNormalRequestAdmission [c.1]) s
  s.banks.foldl (fun s b => s.bankClock b.1) s

end Sys2Proof.Machine
end

