-- ==== Sys2Proof/Machine/PumpOps.lean ====
section
/-!
DEFINITION. PumpOps.lean: what launches of the pumphouse cores share (15 R231 to R233; 16 R241 to R255): descriptors, reads,
STATUS and SSTAT writes, and the slices' section entries.
-/
namespace Sys2Proof.Machine

-- descriptors --------------------------------------------------------------------------------------------------------------------

/-- The 64-bit words of some bytes. -/
def words64 (n : Nat) (bs : List Byte) : List (BitVec 64) :=
  (List.range n).map (fun i => BitVec.ofNat 64 (ofLeBytes ((bs.drop (8 * i)).take 8)))

def PumpLaunch.word (l : PumpLaunch) (i : Nat) : BitVec 64 := l.words.getD i 0
def PumpLaunch.sword (l : PumpLaunch) (i : Nat) : BitVec 64 := l.swords.getD i 0

/-- PCORE of a pump descriptor. -/
def pcoreOf (words : List (BitVec 64)) : Nat := fld (words.getD 1 0) 16 7

/-- Whether a pump descriptor is within its limits (15 R233). -/
def pumpDescOk (w : List (BitVec 64)) : Bool :=
  let x := w.getD 1 0
  let n := fld x 0 9
  fld (w.getD 0 0) 0 3 = 0 && 1 ≤ n && n ≤ 512 && fld x 9 7 = 0 && !(bit x 23) && fld x 29 35 = 0 &&
    fld (w.getD 3 0) 0 17 % 8 = 0 && fld (w.getD 3 0) 0 17 ≤ 65536 && fld (w.getD 3 0) 17 47 = 0 && w.getD 5 0 = 0 && w.getD 7 0 = 0

/-- Whether a section descriptor is within its limits (16 R241). -/
def sectDescOk (w : List (BitVec 64)) : Bool :=
  let b := w.getD 1 0
  let x := w.getD 3 0
  fld (w.getD 0 0) 0 6 = 0 && fld (w.getD 0 0) 52 12 = 0 && fld b 0 7 = 0 && fld b 52 12 = 0 &&
    fld (w.getD 2 0) 0 36 != 0 && fld (w.getD 2 0) 0 7 = 0 && fld (w.getD 2 0) 36 28 = 0 &&
    3 ≤ fld x 0 4 && fld x 0 4 ≤ 10 && fld x 4 2 != 0 && fld x 6 2 = 0 && fld x 13 51 = 0 &&
    w.getD 5 0 = 0 && w.getD 6 0 = 0 && w.getD 7 0 = 0

/-- The driving core of a split product and its other fields (15 R236). -/
def splitDescOk (w : List (BitVec 64)) (pc : Nat) : Bool :=
  let b := w.getD 0 0
  let x := w.getD 1 0
  let k := fld x 0 16
  let row0 := fld b 11 16
  let rows := (k + 63) / 64
  let y := fld (w.getD 3 0) 0 16
  fld b 60 4 = 7 && fld b 40 20 = 0 && fld b 0 11 = 0 && fld b 27 9 = 0 && row0 + rows ≤ 49152 && fld b 36 4 = pc / 8 &&
    1 ≤ k && k ≤ 32768 && fld x 25 7 = 0 && fld x 39 25 = 0 && fld (w.getD 2 0) 0 1 = 0 && y < 49152 && fld (w.getD 3 0) 16 48 = 0 &&
    !(row0 ≤ y && y < row0 + rows) && w.getD 4 0 = 0 && w.getD 5 0 = 0 && w.getD 7 0 = 0

-- reads on behalf of a launch -----------------------------------------------------------------------------------------------------

/-- What a pumphouse core's read waits for, or ends its launch with: `none` waits. -/
abbrev PumpEnd := Option Nat

/-- A line of a function's memory read at its home slice by a pumphouse core: its data, or the end code REFUSED or UNCORR (15 R232; 18 R270). A
row that is refused gives zero bytes. -/
def State.pumpLine (s : State) (pc vf pa : Nat) : State × Except PumpEnd (BitVec 1024) :=
  let m := 0x80 + pc
  match s.awaits vf pa m with
  | some t => (t, .error none)
  | none =>
    let no := (s.readRefusal vf (lineAt pa) m).any (fun r => r.tgt != 6)
    let y := s.readLine vf (lineAt pa) m 0 64
    match y.2.2 with
    | some e => (y.1.logError 0x11 vf e.1 e.2.1 e.2.2 [], .error (some 7))
    | none => (y.1, if no then .error (some 3) else .ok y.2.1)

/-- Bytes of a function's global memory read by a pumphouse core: its bytes, or the end code, TRANS among them (15 R232, R369). -/
def State.pumpBytes (s : State) (pc vf va n : Nat) : State × Except PumpEnd (List Byte) :=
  (splitLines (n + 1) va 0 n).foldl (fun r x =>
    match r.2 with
    | .error c => (r.1, .error c)
    | .ok bs =>
      if 2 ^ 52 ≤ x.1 then (r.1, .error (some 6))
      else
        match r.1.transFor vf x.1 1 (0x116 + pc / 32) with
        | (t, none) => (t, .error (some 6))
        | (t, some (pa, _)) =>
          match t.pumpLine pc vf pa with
          | (u, .error c) => (u, .error c)
          | (u, .ok d) => (u, .ok (bs ++ lineBytes d (pa % 128) x.2.2))) (s, .ok [])

/-- The words of a pumphouse core's bundles and the check of them (15 R231; 16 R242): a section's program has no BKC. -/
def bundleOk (sect : Bool) (w : BitVec 64) : Bool :=
  match decodeMove (fld w 0 32), decodeMove (fld w 32 32) with
  | .ok (i, x), .ok (j, y) =>
    let unit (d : Nat) : Nat := if 17 ≤ d && d ≤ 25 then 1 else if 28 ≤ d && d ≤ 30 then 2 else if d = 34 || d = 35 then 3
      else if d = 37 || d = 38 then 4 else if d = 41 || d = 42 then 5 else if d = 49 || d = 50 then 6 else 64 + d
    x.d != y.d && !(portTrigger x.d && portTrigger y.d && unit x.d = unit y.d) && !(sect && (i = .bkc || j = .bkc))
  | _, _ => false

-- the end of a launch (15 R232; 16 R242, R255) ---------------------------------------------------------------------------------------

/-- A write by a pumphouse core to its home slice, with what it follows. -/
def State.pumpWrite (s : State) (pc op : Nat) (l : PumpLaunch) (pa : Nat) (v : BitVec 64) (after : List Nat) : State × Nat :=
  s.addReq { op := op, master := 0x80 + pc, vf := l.vf, tid := l.tid, coh := 64, lanes := 0,
             kind := .write (wbytes pa (bytesOf 8 v)), line := lineAt pa, after := after }

/-- The STATUS value (15 R233). -/
def statusWord (code bundle clks : Nat) : BitVec 64 :=
  BitVec.ofNat 64 (code + 2 ^ 8 + bundle % 512 * 2 ^ 16 + min clks (2 ^ 32 - 1) * 2 ^ 32)

/-- The SSTAT value (16 R242). -/
def Section.sstat (x : Section) (code : Nat) : BitVec 64 :=
  BitVec.ofNat 64 (code + 2 ^ 8 + nbit x.spilled * 2 ^ 9 + min x.seg 65535 * 2 ^ 16 + min x.replays (2 ^ 32 - 1) * 2 ^ 32)

/-- Write SSTAT, of a section, and, when that write has been acknowledged, STATUS; not the STATUS that its function may not write (16 R242; 18
R367). -/
def State.writeEnd (s : State) (pc : Nat) (l : PumpLaunch) (x : Section) (code bundle clks : Nat) : State :=
  let r := if l.kind = 2 then
      let n := s.newOp { tid := l.tid, coh := 64, kind := 1, left := 1 }
      ((n.1.pumpWrite pc n.2 l (l.sdesc + 0x20) (x.sstat code) []).1, n.2)
    else (s, 0)
  if l.mute then r.1 else (r.1.pumpWrite pc l.op l (l.desc + 0x30) (statusWord code bundle clks) [r.2]).1

/-- Launches held in the mesh join the queue in their order, while it has room and no place in it is reserved. -/
def joinQueue : List PumpLaunch → Pump → Pump
  | [], p => p
  | l :: ls, p => if p.queue.length < 64 then joinQueue ls { p with queue := p.queue ++ [l], mesh := ls } else p

def State.settleQueue (s : State) (pc : Nat) : State :=
  if (tget none s.pumpRes pc).isSome then s else s.modPump pc (fun p => joinQueue p.mesh p)

/-- A launch arrives at the base-die port of its pumphouse core (15 R234). -/
def State.arrive (s : State) (pc : Nat) (l : PumpLaunch) : State :=
  (s.modPump pc (fun p => { p with mesh := p.mesh ++ [l] })).settleQueue pc

/-- A launch goes to its core's base-die port (10 R183): one that a router drops ends as refused (18 R270, R272), and one may never arrive. -/
def State.launchTo (s : State) (pc : Nat) (l : PumpLaunch) (master : Nat) : State :=
  match s.wayTo master (siteOf (portXY (pc / 8))) with
  | .drops x => (s.refuseAt l.vf master 3 ⟨5, x, l.desc⟩).writeEnd pc l {} 3 0 0
  | w => if w.astray then s else s.arrive pc l

/-- A launch that ends before it has run has one bundle and no clocks to report. -/
def State.beginRun (s : State) (pc : Nat) (l : PumpLaunch) (r : Run) (x : Option Section) : State :=
  (s.modPump pc (fun p => { p with queue := p.queue.drop 1, run := some { r with launch := l, start := s.pclk }, sect := x })).settleQueue pc

/-- The launch's accumulator set is zeroed in every bank of the stack (15 R224, R231). -/
def State.zeroAccs (s : State) (pc : Nat) : State :=
  { s with banks := s.banks.map (fun (e : Nat × Bank) => (e.1, if e.1 / 512 = pc / 8 then
      { e.2 with acc := e.2.acc.filter (fun a => a.1 / 128 != pc % 8) } else e.2)) }

/-- Whether a launch may compute at its base die (15 R232; 18 R269). -/
def State.mayCompute (s : State) (pc : Nat) (l : PumpLaunch) : Bool :=
  s.permits (128 + pc / 8) l.vf (if l.graph.isSome then 0x111 else l.core) 3

/-- The refusal of a launch. -/
def State.computeRefused (s : State) (pc : Nat) (l : PumpLaunch) : State :=
  s.refuse l.vf 1 (pc / 8) (if l.graph.isSome then 0x111 else l.core) 3 l.desc

/-- Load and check a program and its data (15 R231): the pumphouse core's memories, or the end code. -/
def State.loadProgram (s : State) (pc : Nat) (l : PumpLaunch) : State × Except PumpEnd (Tab (BitVec 64) × Tab Byte) :=
  let n := fld (l.word 1) 0 9
  let dlen := fld (l.word 3) 0 17
  let p := s.pumpBytes pc l.vf (l.word 0).toNat (8 * n)
  match p.2 with
  | .error c => (p.1, .error c)
  | .ok bs =>
    let d := if (l.word 2) = 0 then (p.1, .ok []) else p.1.pumpBytes pc l.vf (l.word 2).toNat dlen
    match d.2 with
    | .error c => (d.1, .error c)
    | .ok ds =>
      let ws := words64 n bs
      if ws.all (bundleOk (l.kind = 2)) then
        (d.1, .ok ((List.range n).foldl (fun t i => Machine.tset 0 t i (ws.getD i 0)) [], gather [] (place 0 ds)))
      else (d.1, .error (some 2))

-- the slices' section entries (16 R246 to R253) -----------------------------------------------------------------------------------------

/-- The fold of the window lines that a slice holds dirty. -/
def State.dirtyFold (s : State) (sl : Nat) (x : Section) : BitVec 1024 × BitVec 1024 :=
  ((s.slice sl).lines.filter (fun e => e.2.valid && e.2.dirty && x.inWindow e.1)).foldl (fun c e => x.fold c.1 c.2 e.1) (0, 0)

/-- Change a section's entry in a slice. -/
def State.modEntry (s : State) (sl pc : Nat) (f : SEntry → SEntry) : State :=
  let x := s.slice sl
  s.setSlice sl { x with secs := x.secs.map (fun e => if e.pc = pc then f e else e) }

/-- An access that waited at its slice is performed; one whose line has yet to be read from its channel goes on as a request that has arrived, in
its order (15 R237, R238; log entry 4). -/
def State.resume (s : State) (id : Nat) : State :=
  match s.req id with
  | none => s
  | some r =>
    if r.kind.writes then s.applyHeld id
    else if !(s.isHere r.line) then s.setReq id (some { r with held := false, here := true })
    else
      match r.kind with
      | .unlock ws => s.takeUnlock id r ws
      | .lock _ lanes tleft isTry => s.takeLock id r lanes tleft isTry
      | _ => ((if (s.sline r.line).isSome then s.touch r.line else s.fill r.line r.cls)).serveRead id r

/-- A slice performs the accesses it holds, in their arrival order, where nothing holds them any more (16 R250). -/
def State.releaseHeld (s : State) (sl : Nat) : State :=
  (s.heldOf (fun r => r.slice && s.homeSlice r.line = sl)).foldl (fun s i =>
    match s.req i with
    | some r => if s.heldWindow r.line r.sect || (r.kind.writes && s.lockedOut r) then s else s.resume i
    | none => s) s

/-- HOLD is cleared, and the held accesses are applied. -/
def State.clearHold (s : State) (sl pc : Nat) : State := (s.modEntry sl pc (fun e => { e with hold := false })).releaseHeld sl

/-- The home slices of a window, ascending. -/
def State.windowSlices (s : State) (x : Section) : List Nat :=
  let homes := (x.runs.map (fun r => (List.range (r.2.1 / 128)).map (fun i => s.homeSlice (r.1 + 128 * i)))).flatten
  (List.range 128).filter (fun n => homes.contains n)

/-- A section leaves its slices. -/
def State.freeEntries (s : State) (pc : Nat) : State :=
  let had := ((List.range 128).filter (fun sl => (s.slice sl).secs.any (fun e => e.pc = pc)))
  had.foldl (fun s sl =>
    (s.setSlice sl { s.slice sl with secs := (s.slice sl).secs.filter (fun e => e.pc != pc) }).releaseHeld sl) s

def State.modSect (s : State) (pc : Nat) (f : Section → Section) : State :=
  s.modPump pc (fun p => { p with sect := p.sect.map f })

def State.modRun (s : State) (pc : Nat) (f : Run → Run) : State := s.modPump pc (fun p => { p with run := p.run.map f })

/-- A run's end code is set, once. -/
def State.endRun (s : State) (pc code : Nat) : State := s.launchErr pc code

/-- A read ends the run, or is waited for. -/
def State.endRead (s : State) (pc : Nat) (c : PumpEnd) : State :=
  match c with
  | some code => s.endRun pc code
  | none => s

/-- The microcommands of a pumphouse core not yet completed: BKQ (15 R230). -/
def State.bkq (s : State) (pc : Nat) : Nat :=
  s.banks.foldl (fun n e => n + (e.2.queue.filter (fun c => c.pc = pc)).length +
    nbit (e.2.open?.any (fun r => r.pc = pc && !r.again && s.dclk < r.act + tRCD)) + nbit (e.2.preBy = pc && s.dclk < e.2.pre)) 0

/-- DRAIN's condition (15 R230). -/
def State.pumpDrained (s : State) (pc : Nat) : Bool :=
  s.bkq pc = 0 && ((s.pump pc).run.all (fun r => s.ended r.ops))

/-- A physical address' offset in the window, by its line. -/
def Section.has (x : Section) (pa : Nat) : Bool := x.inWindow (lineAt pa)

/-- The next run of a section begins (16 R250 to R253): optimistic, or with spill requests to every window slice. -/
def State.nextRun (s : State) (pc : Nat) (spill : Bool) : State :=
  let x := s.sectOf pc
  s.modSect pc (fun y => { y with
    phase := if spill then 4 else 1, spill := spill, spilled := y.spilled || spill, m1 := 0, m2 := 0, board := [],
    todo := if spill then s.windowSlices x else [] })

/-- The core's state is restored from the checkpoint (16 R251). -/
def State.restoreSect (s : State) (pc : Nat) : State :=
  let x := s.sectOf pc
  s.modPump pc (fun p => { p with
    ports := x.ckPorts, sram := x.ckSram
    run := p.run.map (fun r => { r with sfu := 0, bundle := x.ckBundle, move := 0, jump := none, stall := 0, ops := [], ld := 0 }) })

/-- The next bundle of a run; beyond the last one the launch ends with BADJUMP (15 R232). -/
def Run.nextBundle (r : Run) : Nat := match r.jump with
  | some j => j.toNat
  | none => r.bundle + 1

def State.passBundle (s : State) (pc : Nat) : State :=
  match (s.pump pc).run with
  | none => s
  | some r =>
    if r.nextBundle < r.nbun then s.modRun pc (fun r => { r with bundle := r.nextBundle, move := 0, jump := none, stall := 0 })
    else s.launchErr pc 9

end Sys2Proof.Machine
end

