-- ==== Sys2Proof/Machine/Section.lean ====
section
/-!
DEFINITION. Section.lean: the steps of memory-side sections (16 R246 to R255).
-/
namespace Sys2Proof.Machine

-- the window (16 R242) -------------------------------------------------------------------------------------------------------------

/-- Put a piece after the runs, joined to the last when it continues it. -/
def joinRun : List (Nat × Nat × Nat) → Nat × Nat × Nat → List (Nat × Nat × Nat)
  | [], p => [p]
  | [r], p => if r.1 + r.2.1 = p.1 then [(r.1, r.2.1 + p.2.1, r.2.2)] else [r, p]
  | r :: rs, p => r :: joinRun rs p

/-- The window's physical runs, when it is mapped, of kind RC, and of at most eight. A window beyond the address space is not mapped. -/
def State.windowRuns (s : State) (pc vf base len : Nat) : State × Option (List (Nat × Nat × Nat)) :=
  let n := (base % 65536 + len + 65535) / 65536
  let r := (List.range n).foldl (fun (acc : State × Option (List (Nat × Nat × Nat))) i =>
    let lo := if i = 0 then base else (base / 65536 + i) * 65536
    let hi := min (base + len) ((base / 65536 + i + 1) * 65536)
    match acc.2 with
    | none => acc
    | some rs =>
      if 2 ^ 52 < hi then (acc.1, none)
      else match acc.1.transFor vf lo 0 (0x116 + pc / 32) with
      | (t, some (pa, kind)) => (t, if kind = 0 then some (joinRun rs (pa, hi - lo, lo - base)) else none)
      | (t, none) => (t, none)) (s, some [])
  (r.1, r.2.filter (fun rs => rs.length ≤ 8))

/-- The limit of a section (16 R241). -/
def limitOf (w : BitVec 64) : Nat := if bit w 12 then fld w 8 4 else 3

/-- SECTION_START: the checks, the window's runs, the program; then it claims. R246. -/
def execSectionStart (s : State) : Out :=
  let pc := s.arg 0
  let p := s.pump pc
  .next (match p.queue.head? with
    | none => s
    | some l =>
      if p.run.isSome || l.kind != 2 then s
      else
        let fail (s : State) (code : Nat) : State := s.beginRun pc l { ended := some code } (some {})
        if l.abort then fail s 8
        else if !(s.mayCompute pc l) then fail (s.computeRefused pc l) 3
        else if !(sectDescOk l.swords) || !(pumpDescOk l.words) then fail s 1
        else
          let base := (l.sword 1).toNat
          let len := fld (l.sword 2) 0 36
          match s.windowRuns pc l.vf base len with
          | (s, none) => fail s 0x0B
          | (s, some runs) =>
            let r := s.loadProgram pc l
            match r.2 with
            | .error (some c) => fail r.1 c
            | .error none => r.1
            | .ok m =>
              let x : Section := { base := base, len := len, runs := runs, k := fld (l.sword 3) 0 4, hsel := fld (l.sword 3) 4 2,
                                   limit := limitOf (l.sword 3) }
              let s := (r.1.zeroAccs pc).beginRun pc l { nbun := fld (l.word 1) 0 9 } (some { x with todo := r.1.windowSlices x })
              s.modPump pc (fun p => { p with ports := {}, prog := m.1, sram := m.2 }))

/-- SLICE_CLAIM: the next window slice, in ascending order, gives the section an entry when it has one free. When all have, the
section takes its checkpoint and starts its first run. R246. -/
def execSliceClaim (s : State) : Out :=
  let pc := s.arg 0
  let sl := s.arg 1
  .next (match (s.pump pc).sect with
    | none => s
    | some x =>
      if x.phase != 0 || x.todo.head? != some sl || 4 ≤ (s.slice sl).secs.length || (s.pump pc).run.all (fun r => r.ended.isSome) then s
      else
        let c := s.dirtyFold sl x
        let s := s.setSlice sl { s.slice sl with secs := (s.slice sl).secs ++ [{ pc := pc, c1 := c.1, c2 := c.2 }] }
        let s := s.modSect pc (fun x => { x with todo := x.todo.drop 1 })
        if (x.todo.drop 1).isEmpty then
          let p := s.pump pc
          (s.modSect pc (fun x => { x with ckPorts := p.ports, ckSram := p.sram, ckBundle := 0 })).nextRun pc (x.limit = 0)
        else s)

-- sluices (16 R249, R253) ----------------------------------------------------------------------------------------------------------------

/-- A sluice begins, once the core has drained (16 R249): snapshot requests, or, in the spillway, the clean outcome (R253). -/
def State.beginSluice (s : State) (pc : Nat) (final : Bool) : State :=
  let x := s.sectOf pc
  s.modSect pc (fun y => { y with phase := if y.spill then 3 else 2, outcome := 0, isOver := final, c1 := 0, c2 := 0,
                                  todo := s.windowSlices x })

/-- SLICE_SNAPSHOT. R249. -/
def execSliceSnapshot (s : State) : Out :=
  let pc := s.arg 0
  let sl := s.arg 1
  .next (match (s.pump pc).sect with
    | none => s
    | some x =>
      if x.phase != 2 || !(x.todo.contains sl) then s
      else
        let e := ((s.slice sl).secs.find? (fun e => e.pc = pc)).getD { pc := pc }
        let c := s.dirtyFold sl x
        (s.modEntry sl pc (fun e => { e with c1 := c.1, c2 := c.2, hold := true })).modSect pc (fun x =>
          { x with c1 := x.c1 ||| e.c1, c2 := x.c2 ||| e.c2, todo := x.todo.erase sl }))

/-- SLUICE_OUTCOME: when every snapshot has returned. R244. -/
def execSluiceOutcome (s : State) : Out :=
  let pc := s.arg 0
  .next (match (s.pump pc).sect with
    | none => s
    | some x =>
      if x.phase != 2 || !x.todo.isEmpty then s
      else
        let i1 := x.m1 &&& x.c1
        let i2 := x.m2 &&& x.c2
        let breach : Bool := if x.hsel = 1 then i1 != 0 else if x.hsel = 2 then i2 != 0 else i1 != 0 && i2 != 0
        s.modSect pc (fun y => { y with phase := 3, outcome := nbit breach, i1 := i1, i2 := i2, todo := s.windowSlices x,
                                        board := if breach then [] else y.board }))

/-- Whether a line lies in the intersecting buckets (16 R244). -/
def Section.hit (x : Section) (pa : Nat) : Bool :=
  let n := pa / 128
  (x.hsel % 2 = 0 || bit x.i1 (hash1 n x.k)) && (x.hsel / 2 % 2 = 0 || bit x.i2 (hash2 n x.k))

/-- The lines of the freeboard buffer, with their enabled bytes. -/
def Section.boardLines (x : Section) : List (Nat × List WByte) :=
  let bs := tsome x.board
  (dedup (bs.map (fun b => lineAt b.1))).map (fun l =>
    (l, (bs.filter (fun b => lineAt b.1 = l)).map (fun b => { addr := b.1, data := b.2 : WByte })))

/-- A released line comes to its slice, as a write that the section's own entry does not fold (16 R250; 17 R259); one that another section holds,
or that is locked, waits there. -/
def State.releaseLine (s : State) (pc : Nat) (l : PumpLaunch) (pa : Nat) (ws : List WByte) : State :=
  match s.refusalAt l.vf pa (0x80 + pc) 1 true with
  | some x => (s.refuseAt l.vf (0x80 + pc) 1 x).launchErr pc 3
  | none =>
    let n := s.newOp { tid := l.tid, coh := 64, kind := 1, left := 1, pump := some pc }
    let s := n.1.modRun pc (fun r => { r with ops := n.2 :: r.ops })
    let r : Req := { op := n.2, master := 0x80 + pc, vf := l.vf, tid := l.tid, coh := 64, lanes := 0, kind := .write ws, line := pa, here := true,
                     sect := pc }
    if s.lost (0x80 + pc) pa then s
    else if s.heldWindow pa pc then
      -- with no way to wait in it stays in its link; the older L1 copies go all the same, so that the segment shows whole (13 R219)
      let f := (if s.noWay pa then s else s.takeWay pa).fresh
      ((f.1.setReq f.2 (some { r with here := !(s.noWay pa), held := !(s.noWay pa), seq := f.2 })).invalidate pa (s.copies pa)).1
    else if s.lockedOut r then
      let f := s.fresh
      f.1.setReq f.2 (some { r with held := true, seq := f.2 })
    else s.doWrite r ws

/-- The invalidations of L1 copies of some lines that are on their way. -/
def State.copiesOut (s : State) (lines : List Nat) : List Nat :=
  ((tsome s.invs).filter (fun e => e.2.sharer < 128 && lines.contains e.2.line)).map (·.1)

/-- A clean outcome at a slice (16 R250). Where it homes freeboard lines, its HOLD stays until every slice has accepted its lines and no L1 keeps an
older copy of one, so that they become visible together (13 R219); elsewhere it clears. -/
def State.cleanOutcome (s : State) (pc sl : Nat) (x : Section) (l : PumpLaunch) : State :=
  let mine := x.boardLines.filter (fun b => s.homeSlice b.1 = sl)
  if mine.isEmpty then s.clearHold sl pc
  else
    let s := mine.foldl (fun s b => s.releaseLine pc l b.1 b.2) s
    s.modSect pc (fun y => { y with lifts := y.lifts ++ [sl], invs := y.invs ++ s.copiesOut (mine.map (·.1)) })

/-- A breach at a slice (16 R251), or the end of a run that overflowed, for which no line is in a bucket (R254). -/
def State.breachOutcome (s : State) (pc sl : Nat) (x : Section) : State :=
  let lines := ((s.slice sl).lines.filter (fun e => e.2.valid && e.2.dirty && x.inWindow e.1 && x.outcome = 1 && x.hit e.1)).map (·.1)
  let s := lines.foldl (fun s pa => s.cleanLine pa) s
  let c := s.dirtyFold sl x
  (s.modEntry sl pc (fun e => { e with c1 := c.1, c2 := c.2 })).clearHold sl pc

/-- OUTCOME_AT_WINDOW_SLICE: the outcome reaches a window slice, or a slice that it has reached clears its HOLD. R250, R251, R253. -/
def execOutcomeAtWindowSlice (s : State) : Out :=
  let pc := s.arg 0
  let sl := s.arg 1
  .next (match (s.pump pc).sect, (s.pump pc).run with
    | some x, some r =>
      if x.phase != 3 then s
      else if x.todo.contains sl then
        let s := s.modSect pc (fun x => { x with todo := x.todo.erase sl })
        if x.outcome = 0 then s.cleanOutcome pc sl x r.launch else s.breachOutcome pc sl x
      else if x.lifts.contains sl && x.todo.isEmpty && x.invs.all (fun i => (tget none s.invs i).isNone) then
        (s.modSect pc (fun x => { x with lifts := x.lifts.erase sl })).clearHold sl pc
      else s
    | _, _ => s)

/-- SEGMENT_COMMIT: every line of a clean segment has been acknowledged. R250, R253, R255, R256. -/
def execSegmentCommit (s : State) : Out :=
  let pc := s.arg 0
  .next (match (s.pump pc).sect, (s.pump pc).run with
    | some x, some r =>
      if x.phase != 3 || x.outcome != 0 || !x.todo.isEmpty || !x.lifts.isEmpty || !(s.ended r.ops) then s
      else
        let s := s.modSect pc (fun x => { x with phase := 1, seg := min 65535 (x.seg + 1), rcnt := 0, board := [], invs := [] })
        if r.ended.isSome then s
        else if x.abort then s.endRun pc 8
        else if x.isOver then s.endRun pc r.code
        else
          let s := s.passBundle pc
          let p := s.pump pc
          (s.modSect pc (fun x => { x with ckPorts := p.ports, ckSram := p.sram, ckBundle := r.nextBundle })).nextRun pc (x.limit = 0)
    | _, _ => s)

/-- SEGMENT_REPLAY: after a breach, when every slice has reported. An overflow counts nowhere, and goes to the spillway. R251, R252, R254, R256. -/
def execSegmentReplay (s : State) : Out :=
  let pc := s.arg 0
  .next (match (s.pump pc).sect, (s.pump pc).run with
    | some x, some r =>
      if x.phase != 3 || x.outcome = 0 || !x.todo.isEmpty then s
      else if x.outcome = 2 then
        if x.abort || r.ended.isSome then (s.modSect pc (fun x => { x with phase := 1 })).endRun pc 8
        else (s.restoreSect pc).nextRun pc true
      else
        let s := s.modSect pc (fun x => { x with rcnt := x.rcnt + 1, replays := min (x.replays + 1) (2 ^ 32 - 1), isOver := false })
        if x.abort || r.ended.isSome then (s.modSect pc (fun x => { x with phase := 1 })).endRun pc 8
        else (s.restoreSect pc).nextRun pc (x.rcnt + 1 = x.limit)
    | _, _ => s)

/-- SPILL_REQUEST: a window slice writes back its dirty window lines, invalidates the data of those it holds, and sets HOLD. When
every slice has reported, the run starts. R253. -/
def execSpillRequest (s : State) : Out :=
  let pc := s.arg 0
  let sl := s.arg 1
  .next (match (s.pump pc).sect with
    | none => s
    | some x =>
      if x.phase != 4 || !(x.todo.contains sl) then s
      else
        let lines := ((s.slice sl).lines.filter (fun e => e.2.valid && x.inWindow e.1)).map (·.1)
        let s := lines.foldl (fun s pa => (s.cleanLine pa).invalidateLine pa) s
        (s.modEntry sl pc (fun e => { e with hold := true })).modSect pc (fun x =>
          { x with todo := x.todo.erase sl, phase := if (x.todo.erase sl).isEmpty then 1 else 4 }))

end Sys2Proof.Machine
end

