-- ==== Sys2Proof/Machine/Graph.lean ====
section
/-!
DEFINITION. Graph.lean: the ends of commands (25 R350 to R352) and of graph nodes (19 R279 to R281), and the ready pool.
-/
namespace Sys2Proof.Machine

def State.graph (s : State) (g : Nat) : Graph := tget {} s.graphs g
def State.node (s : State) (g n : Nat) : Node := tget {} (s.graph g).nodes n
def State.modNode (s : State) (g n : Nat) (f : Node → Node) : State :=
  { s with graphs := Machine.tset {} s.graphs g { s.graph g with nodes := tmod {} (s.graph g).nodes n f } }

-- commands ------------------------------------------------------------------------------------------------------------------------

/-- A write of the command processor in a function's physical memory: what it has yet to see acknowledged is kept, for its releases (25 R351). -/
def State.cpWrite (s : State) (vf a : Nat) (bs : List Byte) : State :=
  let n := s.newOp { tid := 0, coh := 64, kind := 1, left := (lineWrites a bs).length }
  let s : State := { n.1 with cpOps := n.1.cpOps.filter (fun i => !(n.1.ended [i])) ++ [n.2] }
  (lineWrites a bs).foldl (fun s x => s.writeAck n.2 vf x.1 0x111 x.2) s

/-- The completion of a command: STATUS, DONE and JSEQ in its slot, its journal entry, and its message (25 R348, R350 to R352). -/
def State.answered (s : State) (c : Cmd) (status : Nat) : State :=
  let j := c.jseq % 65536
  let e := tget 0 s.journal j
  { s.signal c.fn 0 with
    journal := Machine.tset 0 s.journal j (setFld (setFld e 78 9 (status + 2 ^ 8)) 192 64 s.timebase.toNat)
    hostMem := memWrite (memWrite s.hostMem (c.slot + 0x38) (bytesOf 8 (BitVec.ofNat 64 c.jseq))) (c.slot + 0x30)
      (bytesOf 8 (BitVec.ofNat 64 (status + 2 ^ 8))) }

/-- A command's effect is over. Its completion is a release at system scope: it waits until the command processor's writes have been acknowledged
(25 R351). -/
def State.finish (s : State) (c : Cmd) (status : Nat) : State :=
  let s : State := { s with cmds := s.cmds.filter (fun x => x.jseq != c.jseq) }
  let out := s.cpOps.filter (fun i => !(s.ended [i]))
  if out.isEmpty then s.answered c status else { s with ending := s.ending ++ [(c, status, out)] }

/-- The completions whose writes have been acknowledged are made (25 R351). -/
def State.closeCommands (s : State) : State :=
  (s.ending.filter (fun e => s.ended e.2.2)).foldl (fun s e => ({ s with ending := s.ending.erase e }).answered e.1 e.2.1) s

/-- The command of a journal sequence completes, if it has not. -/
def State.finishJ (s : State) (j status : Nat) : State :=
  match s.cmds.find? (fun c => c.jseq = j) with
  | some c => s.finish c status
  | none => s

-- the ready pool (19 R281) ----------------------------------------------------------------------------------------------------------

/-- A place in the queue before a full pool: nodes wait in the order in which their counts reached zero (19 R281), those that were in the
pool before, by their age, ahead of the others. -/
def State.waitPlace (s : State) (x : Nat × Nat) : List (Nat × Nat) → List (Nat × Nat)
  | [] => [x]
  | y :: ys =>
    match (s.node x.1 x.2).age, (s.node y.1 y.2).age with
    | some a, some b => if a < b then x :: y :: ys else y :: s.waitPlace x ys
    | some _, none => x :: y :: ys
    | none, _ => y :: s.waitPlace x ys

/-- A node enters the pool, with its first age, or waits for it to have room. -/
def State.enterPool (s : State) (g n : Nat) : State :=
  if s.pool.any (fun e => e.graph = g && e.node = n) then s
  else if s.pool.length < 4096 then
    let x := s.node g n
    let age := x.age.getD s.nextAge
    let s := s.modNode g n (fun x => { x with age := some age })
    { s with pool := s.pool ++ [{ graph := g, node := n, prio := x.prio, age := age }],
             nextAge := if x.age.isNone then s.nextAge + 1 else s.nextAge }
  else if s.poolWait.contains (g, n) then s
  else { s with poolWait := s.waitPlace (g, n) s.poolWait }

/-- The saved teams of a node that wait for a place, in ascending team number. -/
def State.waitingTeams (s : State) (g n : Nat) : List Nat :=
  let l := s.teams.filter (fun e => e.2.graph = g && e.2.node = n && e.2.place = .saved && !e.2.due && !e.2.held && !e.2.terminated)
  (sortBy (fun a b => a.1 ≤ b.1) (l.map (fun e => (e.2.number, e.1)))).map (·.2)

/-- Waiting nodes enter in their order while there is room. -/
def refill : List (Nat × Nat) → State → State
  | [], s => s
  | x :: xs, s => if s.pool.length < 4096 then refill xs ({ s with poolWait := xs }.enterPool x.1 x.2) else s

/-- A node's entry leaves the pool. -/
def State.leavePool (s : State) (g n : Nat) : State :=
  let s : State := { s with pool := s.pool.filter (fun e => !(e.graph = g && e.node = n)) }
  refill s.poolWait s

/-- A node's reservations are released (19 R283). -/
def State.dropReserve (s : State) (g n : Nat) : State :=
  let mine := (tsome s.reserves).filter (fun e => e.2.graph = g && e.2.node = n)
  let places := (tsome s.pumpRes).filter (fun e => e.2 = (g, n))
  let s : State := { s with
    reserves := mine.foldl (fun t e => Machine.tset none t e.1 none) s.reserves
    pumpRes := places.foldl (fun t e => Machine.tset none t e.1 none) s.pumpRes }
  places.foldl (fun s e => s.settleQueue e.1) s

-- the end of a node (19 R280) ---------------------------------------------------------------------------------------------------------

/-- Write a word of a node's record (18 R367: through the function's page tables). -/
def State.nodeWord (s : State) (g n off : Nat) (v : BitVec 64) : State :=
  let x := s.graph g
  match s.transFor x.vf ((x.base + 128 * n + off) % 2 ^ 52) 2 0x116 with
  | (s, some (pa, _)) => s.cpWrite x.vf pa (bytesOf 8 v)
  | (s, none) => s

/-- A node's record at its end: first TIME, then STATUS. Its pool entry stays while saved teams of it wait for a place (19 R280). -/
def State.noteEnd (s : State) (g n status : Nat) : State :=
  let s := s.modNode g n (fun x => { x with ended := true, status := status })
  let s := (s.nodeWord g n 0x28 s.timebase).nodeWord g n 0x20 (BitVec.ofNat 64 (status + 2 ^ 8))
  (if (s.waitingTeams g n).isEmpty then ({ s with poolWait := s.poolWait.erase (g, n) }).leavePool g n else s).dropReserve g n

/-- A predecessor of a node is done: at zero the node enters the pool. -/
def State.decPred (s : State) (g n : Nat) : State :=
  let x := s.node g n
  if x.npred = 0 then s
  else
    let s := s.modNode g n (fun x => { x with npred := x.npred - 1 })
    if x.npred = 1 && !x.ended then s.enterPool g n else s

/-- Nodes end, each with its status: a failure goes on to the successors, or releases them (19 R280). -/
def State.endNodes (g : Nat) : Nat → List (Nat × Nat) → State → State
  | 0, _, s => s
  | _, [], s => s
  | fuel + 1, (n, status) :: rest, s =>
    let x := s.node g n
    if x.ended then State.endNodes g fuel rest s
    else
      let s := s.noteEnd g n status
      if status = 1 || x.failpol then State.endNodes g fuel rest (x.succ.foldl (fun s k => s.decPred g k) s)
      else State.endNodes g fuel (x.succ.map (fun k => (k, 5)) ++ rest) s

/-- A graph whose nodes have all ended completes its SUBMIT-GRAPH (25 R350). -/
def State.checkGraph (s : State) (g : Nat) : State :=
  let x := s.graph g
  let all := (List.range x.n).map (fun i => tget {} x.nodes i)
  if x.isDone || !(all.all (fun n => n.ended)) then s
  else { s with graphs := Machine.tset {} s.graphs g { x with isDone := true } }.finish x.cmd
    (if all.all (fun n => n.status = 1) then 1 else 9)

/-- A node ends. -/
def State.endNode (s : State) (g n status : Nat) : State :=
  let edges := (tvals (s.graph g).nodes).foldl (fun k x => k + x.succ.length + 1) 1
  (State.endNodes g edges [(n, status)] s).checkGraph g

end Sys2Proof.Machine
end

