-- ==== Sys2Proof/Machine/Pump.lean ====
section
/-!
DEFINITION. Pump.lean: the pumphouse cores (15 R229 to R233, R236, R239; 16 R248 to R256): launches, bundles and moves. A move
finds its operands in `mv` (log entry 12).
-/
namespace Sys2Proof.Machine

-- the moves of a bundle (15 R229) -----------------------------------------------------------------------------------------------

/-- The value of a move's source, as it stood before the bundle (15 R229, R230). -/
def Run.source (r : Run) (pc : Nat) (m : Move) : BitVec 64 :=
  if m.i = 1 then BitVec.ofInt 64 (sextNat 17 m.m)
  else if m.s ≤ 15 then tget 0 r.old.g m.s
  else if m.s = 26 then r.old.alur
  else if m.s = 31 then BitVec.ofNat 64 (nbit r.old.c)
  else if m.s = 36 then r.old.sfur
  else if m.s = 39 then r.old.ldr
  else if m.s = 46 then BitVec.ofNat 64 r.bkq
  else if m.s = 51 then r.launch.word 4
  else if m.s = 52 then r.launch.arg1
  else if m.s = 53 then BitVec.ofNat 64 pc
  else if m.s = 54 then BitVec.ofNat 64 r.now
  else 0

/-- A move is done: the next one, or the end of the bundle. -/
def State.moveDone (s : State) (pc : Nat) : State :=
  match (s.pump pc).run with
  | none => s
  | some r =>
    if r.move = 0 then s.modRun pc (fun r => { r with move := 1 })
    else if r.stall = 0 then s.passBundle pc
    else s.modRun pc (fun r => { r with move := 2 })

/-- The move that is being executed: a guarded one performs when C is its GS (15 R229). -/
def State.move (s : State) (k : State → Nat → Run → BitVec 64 → State) : Out :=
  let pc := s.mv.1
  let m := s.mv.2
  .next (match (s.pump pc).run with
    | none => s
    | some r => if m.g = 1 && nbit r.old.c != m.e then s.moveDone pc else k s pc r (r.source pc m))

/-- A move that acts on the ports alone. -/
def State.portMove (s : State) (f : Ports → BitVec 64 → Ports) : Out :=
  s.move (fun s pc _ v => (s.modPump pc (fun p => { p with ports := f p.ports v })).moveDone pc)

/-- A move that acts on the run alone: a jump, or a wait. -/
def State.runMove (s : State) (f : Run → BitVec 64 → Run) : Out :=
  s.move (fun s pc _ v => (s.modRun pc (fun r => f r v)).moveDone pc)

/-- A write of a port that triggers nothing (15 R230). -/
def Ports.write (p : Ports) (d : Nat) (v : BitVec 64) : Ports :=
  if d ≤ 15 then { p with g := Machine.tset 0 p.g d v }
  else if d = 16 then { p with alua := v }
  else if d = 27 then { p with cmpa := v }
  else if d = 32 then { p with sfua := v }
  else if d = 33 then { p with sfub := v }
  else if d = 40 then { p with sta := v }
  else if d = 43 then { p with bka := v }
  else if d = 44 then { p with bks := v }
  else p

/-- A move to a port that triggers nothing. R229, R230. -/
def execPumpMove (s : State) : Out := s.portMove (fun p v => p.write s.mv.2.d v)

/-- ALUADD. R230. -/
def execAluadd (s : State) : Out := s.portMove (fun p v => { p with alur := p.alua + v })
/-- ALUSUB. R230. -/
def execAlusub (s : State) : Out := s.portMove (fun p v => { p with alur := p.alua - v })
/-- ALUAND. R230. -/
def execAluand (s : State) : Out := s.portMove (fun p v => { p with alur := p.alua &&& v })
/-- ALUOR. R230. -/
def execAluor (s : State) : Out := s.portMove (fun p v => { p with alur := p.alua ||| v })
/-- ALUXOR. R230. -/
def execAluxor (s : State) : Out := s.portMove (fun p v => { p with alur := p.alua ^^^ v })
/-- ALUSHL: by v[5:0]. R230. -/
def execAlushl (s : State) : Out := s.portMove (fun p v => { p with alur := p.alua <<< fld v 0 6 })
/-- ALUSHR: by v[5:0], zero fill. R230. -/
def execAlushr (s : State) : Out := s.portMove (fun p v => { p with alur := p.alua >>> fld v 0 6 })
/-- ALUSRA: by v[5:0], sign fill. R230. -/
def execAlusra (s : State) : Out := s.portMove (fun p v => { p with alur := p.alua.sshiftRight (fld v 0 6) })
/-- ALUMUL: the low 64 bits. R230. -/
def execAlumul (s : State) : Out := s.portMove (fun p v => { p with alur := p.alua * v })
/-- CMPEQ. R230. -/
def execCmpeq (s : State) : Out := s.portMove (fun p v => { p with c := p.cmpa = v })
/-- CMPLT, signed. R230. -/
def execCmplt (s : State) : Out := s.portMove (fun p v => { p with c := p.cmpa.toInt < v.toInt })
/-- CMPLTU, unsigned. R230. -/
def execCmpltu (s : State) : Out := s.portMove (fun p v => { p with c := p.cmpa.toNat < v.toNat })

/-- ROUND(A × B + v, f32, nearest-even), with one rounding (15 R230). -/
def fma32 (a b v : BitVec 64) : BitVec 64 :=
  let x := ((f32.decode (fld a 0 32)).mul (f32.decode (fld b 0 32))).1
  BitVec.ofNat 64 (f32.round .near (x.add .near (f32.decode (fld v 0 32))).1).1

/-- A move that triggers the SFU: SFUR can be read four clocks later (15 R229, R230). -/
def State.sfuMove (s : State) (f : Ports → BitVec 64 → BitVec 64) : Out :=
  s.move (fun s pc _ v => (s.modPump pc (fun p => { p with
    ports := { p.ports with sfur := f p.ports v }, run := p.run.map (fun r => { r with sfu := s.pclk + 4 }) })).moveDone pc)

/-- SFUFMA. R230. -/
def execSfufma (s : State) : Out := s.sfuMove (fun p v => fma32 p.sfua p.sfub v)
/-- SFUCVT. R230. -/
def execSfucvt (s : State) : Out := s.sfuMove (fun _ v => BitVec.ofNat 64 (bf16.round .near (f32.decode (fld v 0 32))).1)

-- data SRAM (15 R230) -------------------------------------------------------------------------------------------------------------

/-- A data SRAM address: 8-aligned, below 64 KiB. -/
def sramOk (v : BitVec 64) : Bool := fld v 0 3 = 0 && fld v 16 48 = 0

/-- LDS: an uncorrectable error ends the launch (10 R182; 15 R232). R230. -/
def execLds (s : State) : Out :=
  s.move (fun s pc r v =>
    if sramOk v then
      let e := s.sense r.launch.vf 4 pc (v.toNat / 8) 0
      match e.2 with
      | some x => (e.1.logError 0x11 r.launch.vf x.1 x.2.1 x.2.2 []).endRun pc 7
      | none =>
        (e.1.modPump pc (fun p =>
          let x : BitVec 64 := BitVec.ofNat 64 (ofLeBytes ((List.range 8).map (fun i => tget 0 p.sram (v.toNat + i))))
          { p with ports := { p.ports with ldr := x }, run := p.run.map (fun r => { r with ld := 0 }) })).moveDone pc
    else s.endRun pc 5)

/-- STS. R230. -/
def execSts (s : State) : Out :=
  s.move (fun s pc _ v =>
    let a := (s.pump pc).ports.sta
    if sramOk a then ((s.setUpset 4 pc (a.toNat / 8) 0).modPump pc (fun p =>
        { p with sram := gather p.sram (place a.toNat (bytesOf 8 v)) })).moveDone pc
    else s.endRun pc 5)

-- global memory (15 R230; 16 R248) ------------------------------------------------------------------------------------------------

/-- An LDG or STG address: space 0, 8-aligned. -/
def globalOk (v : BitVec 64) : Bool := fld v 0 3 = 0 && fld v 52 12 = 0

/-- Requests of a program to one line keep their order (15 R230). -/
def State.pumpBefore (s : State) (pc line : Nat) : List Nat :=
  ((tsome s.reqs).filter (fun e => e.2.master = 0x80 + pc && e.2.line = line)).map (·.1)

/-- Send an access of a program to its home slice; its operation joins the run. -/
def State.pumpSend (s : State) (pc : Nat) (l : PumpLaunch) (pa kind : Nat) (k : ReqKind) : State × Nat :=
  let n := s.newOp { tid := l.tid, coh := 64, lanes := 1, kind := kind, left := 1, pump := some pc }
  let r := n.1.addReq { op := n.2, master := 0x80 + pc, vf := l.vf, tid := l.tid, coh := 64, lanes := 0, kind := k,
                        line := lineAt pa, after := s.pumpBefore pc (lineAt pa) }
  (r.1.modRun pc (fun x => { x with ops := n.2 :: x.ops }), n.2)

/-- Fold a line that a section's run touches (16 R244, R248). -/
def State.memFold (s : State) (pc pa : Nat) : State :=
  s.modSect pc (fun x => let m := x.fold x.m1 x.m2 (lineAt pa); { x with m1 := m.1, m2 := m.2 })

/-- The DRAM place of 8 bytes, and whether the base die's access table permits a right (18 R269). -/
def State.baseDie (s : State) (pc vf pa right : Nat) : Nat × Bool :=
  let d := (s.dramLine (lineAt pa)).getD 0
  (d, s.permits (128 + stackOf d) vf (0x80 + pc) right)

/-- LDR takes the bytes of a window load, with those of the freeboard in their places. -/
def State.windowBytes (s : State) (pc pa : Nat) (bs : List Byte) : State :=
  let x := s.sectOf pc
  let bytes := (List.range 8).map (fun i => (tget none x.board (pa + i)).getD (bs.getD i 0))
  (s.modPump pc (fun p => { p with
    ports := { p.ports with ldr := BitVec.ofNat 64 (ofLeBytes bytes) }, run := p.run.map (fun r => { r with ld := 0 }) })).moveDone pc

/-- An LDG of a window line: the freeboard bytes of an optimistic run, and otherwise the line at the base die of its stack, through its memory-side
cache (16 R248); the move waits for one that has to be read from its channel. A row refusal gives zero bytes (18 R270). -/
def State.windowLoad (s : State) (pc : Nat) (l : PumpLaunch) (pa : Nat) : State :=
  let s := if (s.sectOf pc).spill then s else s.memFold pc pa
  let line := lineAt pa
  let b := s.baseDie pc l.vf pa 0
  if !b.2 then (s.refuse l.vf 1 (stackOf b.1) (0x80 + pc) 0 pa).endRun pc 3
  else if s.mscHas b.1 then
    let e := s.sense l.vf 2 (stackOf b.1) b.1 line
    match e.2 with
    | some x => (e.1.logError 0x11 l.vf x.1 x.2.1 x.2.2 []).endRun pc 7
    | none => e.1.windowBytes pc pa (lineBytes (e.1.dramNow b.1 line).1 (pa % 128) 8)
  else if (s.rowRights l.vf b.1).1 then s.want l.vf line (0x80 + pc) 0
  else (s.refuse l.vf 6 (stackOf b.1) (0x80 + pc) 0 pa).windowBytes pc pa (List.replicate 8 0)

/-- LDG. R230; 16 R248. -/
def execLdg (s : State) : Out :=
  s.move (fun s pc r v =>
    if !(globalOk v) then s.endRun pc 5
    else
      match s.transFor r.launch.vf v.toNat 1 (0x116 + pc / 32) with
      | (s, none) => s.endRun pc 6
      | (s, some (pa, _)) =>
        if (s.pump pc).sect.any (fun x => x.has pa) then s.windowLoad pc r.launch pa
        else
          let n := s.pumpSend pc r.launch pa 0 (.read [(0, pa, 8)] none)
          (n.1.modRun pc (fun x => { x with ld := n.2 })).moveDone pc)

/-- A spillway run's STG at the base die, in the order of its channel, which acknowledges it (16 R248, R253; 15 R237). -/
def State.spillStore (s : State) (pc : Nat) (l : PumpLaunch) (pa : Nat) (v : BitVec 64) : State :=
  let b := s.baseDie pc l.vf pa 1
  if !b.2 || s.keyless l.vf then (s.refuse l.vf 1 (stackOf b.1) (0x80 + pc) 1 pa).endRun pc 3
  else
    let n := s.newOp { tid := l.tid, coh := 64, lanes := 1, kind := 1, left := 1, pump := some pc }
    ((n.1.modRun pc (fun r => { r with ops := n.2 :: r.ops })).sendWrite b.1 (lineAt pa) l.vf (0x80 + pc) n.2 (wbytes pa (bytesOf 8 v))
      false).moveDone pc

/-- An optimistic run's STG: the freeboard buffer, of 512 lines. A 513th line overflows: the run ends as at a breach, and the segment runs
again in the spillway (16 R248, R254). -/
def State.boardStore (s : State) (pc pa : Nat) (v : BitVec 64) : State :=
  let s := s.memFold pc pa
  let x := s.sectOf pc
  let lines := dedup ((tsome x.board).map (fun b => lineAt b.1))
  if !(lines.contains (lineAt pa)) && 512 ≤ lines.length then
    if x.abort && x.abortAt < s.pclk then s.endRun pc 8
    else s.modSect pc (fun y => { y with phase := 3, outcome := 2, board := [], todo := s.windowSlices x })
  else
    let put (t : Tab (Option Byte)) : Tab (Option Byte) :=
      (place pa (bytesOf 8 v)).foldl (fun t b => Machine.tset none t b.1 (some b.2)) t
    (s.modSect pc (fun x => { x with board := put x.board })).moveDone pc

/-- STG. R230; 16 R242, R248. -/
def execStg (s : State) : Out :=
  s.move (fun s pc r v =>
    let a := (s.pump pc).ports.sta
    if !(globalOk a) then s.endRun pc 5
    else
      match s.transFor r.launch.vf a.toNat 2 (0x116 + pc / 32) with
      | (s, none) => s.endRun pc 6
      | (s, some (pa, _)) =>
        match (s.pump pc).sect with
        | some x =>
          if !(x.has pa) then s.endRun pc 5
          else if x.spill then s.spillStore pc r.launch pa v
          else s.boardStore pc pa v
        | none => (s.pumpSend pc r.launch pa 1 (.write (wbytes pa (bytesOf 8 v)))).1.moveDone pc)

-- banks (15 R225 to R227) -----------------------------------------------------------------------------------------------------------

/-- Whether a BKA value is a legal place for an operation of a pumphouse core (15 R225, R227). -/
def bkaOk (pc op : Nat) (a : BitVec 64) : Bool :=
  fld a 60 4 = 7 && fld a 40 20 = 0 && fld a 11 16 ≤ 49151 && fld a 36 4 = pc / 8 && ((op != 1 && op != 2) || fld a 0 5 = 0)

/-- BKC: enqueue the microcommand; a full queue stalls the bundle. R226, R229. -/
def execBkc (s : State) : Out :=
  s.move (fun s pc _ v =>
    let a := (s.pump pc).ports.bka
    match decodeMicro v.toNat with
    | .error _ => s.endRun pc 5
    | .ok (_, x) =>
      let gb := fld a 27 13
      if !(bkaOk pc x.op a) then s.endRun pc 5
      else if 16 ≤ (s.bank gb).queue.length then s
      else
        let c : MicroCmd := { pc := pc, x := x, row := fld a 11 16, col := fld a 5 6, sc := (s.pump pc).ports.bks }
        (s.modBank gb (fun b => { b with queue := b.queue ++ [c] })).moveDone pc)

-- control (15 R230) -----------------------------------------------------------------------------------------------------------------

/-- SLUICE: outside a section it waits as DRAIN. R230; 16 R249. -/
def execSluice (s : State) : Out := s.runMove (fun r _ => { r with stall := max r.stall 2 })

/-- The end code that a DONE value gives (15 R230). -/
def doneCode (v : BitVec 64) : Nat := if fld v 0 8 = 0 then 0 else 0x80 + fld v 0 7

/-- DONE. R230; 16 R255. -/
def execPumpDone (s : State) : Out := s.runMove (fun r v => { r with stall := 3, code := doneCode v })

/-- JUMP. R230. -/
def execJump (s : State) : Out := s.runMove (fun r v => { r with jump := some v })

/-- JREL. R230. -/
def execJrel (s : State) : Out := s.runMove (fun r v => { r with jump := some (BitVec.ofNat 64 r.bundle + v) })

/-- DRAIN. R230. -/
def execDrain (s : State) : Out := s.runMove (fun r _ => { r with stall := max r.stall 1 })

-- split products (15 R236) -----------------------------------------------------------------------------------------------------------

/-- The microcommands of one block: the columns of W against x, then the two lane groups to YROW. -/
def splitBlock (pc k row0 yrow : Nat) (xs : List (BitVec 64)) : List MicroCmd :=
  let cmd (op wr fmt h row col : Nat) (sc : BitVec 64) : MicroCmd :=
    { pc := pc, x := { op := op, wr := wr, acc := 0, fmt := fmt, h := h }, row := row, col := col, sc := sc }
  let rows := (List.range ((k + 63) / 64)).map (fun i =>
    [cmd 0 0 0 0 (row0 + i) 0 0] ++
      ((List.range (min 64 (k - 64 * i))).map (fun c => cmd 1 0 0 0 (row0 + i) c (xs.getD (64 * i + c) 0))) ++
      [cmd 3 0 0 0 (row0 + i) 0 0])
  [cmd 4 0 0 0 row0 0 0] ++ rows.flatten ++
    [cmd 0 1 0 0 yrow 0 0, cmd 2 0 2 0 yrow 0 0, cmd 2 0 2 1 yrow 1 0, cmd 3 0 0 0 yrow 0 0]

/-- A step of a split product: its next microcommand, its next block, or its end. -/
def State.splitStep (s : State) (pc : Nat) (r : Run) : State :=
  let l := r.launch
  match r.split with
  | c :: cs =>
    let gb := pc / 8 * 512 + (fld (l.word 1) 16 9 + (r.blk - 1)) % 512
    if 16 ≤ (s.bank gb).queue.length then s
    else (s.modBank gb (fun b => { b with queue := b.queue ++ [c] })).modRun pc (fun r => { r with split := cs })
  | [] =>
    if r.blk < l.nb then
      let k := fld (l.word 1) 0 16
      match s.pumpBytes pc l.vf (l.word 2).toNat (2 * k) with
      | (s, .error c) => s.endRead pc c
      | (s, .ok bs) =>
        let xs := (List.range k).map (fun i => BitVec.ofNat 64 (ofLeBytes ((bs.drop (2 * i)).take 2)))
        s.modRun pc (fun r => { r with
          blk := r.blk + 1, split := splitBlock pc k (fld (l.word 0) 11 16) (fld (l.word 3) 0 16) xs })
    else if s.pumpDrained pc then s.endRun pc 0
    else s

-- bundles (15 R229, R232, R239; 16 R249, R256) -----------------------------------------------------------------------------------------

/-- What a pumphouse core does next: a move, in the state it executes in, or a step without one. -/
inductive Pumped where
  | run (i : Instr) (s : State)
  | done (s : State)

/-- What a drained bundle leads to: the next bundle, a sluice, or the end of the program. In the clock of an abort the snapshot requests go first
(16 R258). -/
def State.drainedBundle (s : State) (pc : Nat) (r : Run) : State :=
  let sect : Bool := r.launch.kind = 2
  let x := s.sectOf pc
  if sect && x.abort && !x.spill && (r.stall < 2 || x.abortAt < s.pclk) then s.endRun pc 8
  else if r.stall = 3 then (if sect then s.beginSluice pc true else s.endRun pc r.code)
  else if r.stall = 2 && sect then s.beginSluice pc false
  else s.passBundle pc

/-- Whether a bundle reads a port. -/
def readsPort (w : BitVec 64) (p : Nat) : Bool :=
  (fld w 18 6 = p && !(bit w 17)) || (fld w 50 6 = p && !(bit w 49))

/-- Whether a launch has run its 2^LIMIT pumphouse clocks; in a sluice the outcome is completed first (15 R232, R233). -/
def State.limitOver (s : State) (pc : Nat) (r : Run) : Bool :=
  let lim := fld (r.launch.word 1) 24 5
  let x := s.sectOf pc
  let busy : Bool := r.launch.kind = 2 && (x.phase = 2 || (x.phase = 3 && x.outcome ≤ 1))
  r.launch.kind != 1 && lim != 0 && r.ended.isNone && !busy && r.start + 2 ^ lim ≤ s.pclk

/-- A bundle issues, one in a pumphouse clock, with its sources as they stand (15 R229). An uncorrectable error in its word ends the launch (10 R182;
15 R232). -/
def State.startBundle (s : State) (pc : Nat) (r : Run) : Except State State :=
  let e := s.sense r.launch.vf 4 pc (bundleWord r.bundle) 0
  match e.2 with
  | some x => .error ((e.1.logError 0x11 r.launch.vf x.1 x.2.1 x.2.2 []).endRun pc 7)
  | none =>
    let p := s.pump pc
    let q := s.bkq pc
    .ok (e.1.modRun pc (fun r => { r with old := p.ports, bkq := q, now := s.pclk - r.start, next := s.pclk + 1 }))

/-- The next step of a pumphouse core. -/
def State.nextMove (s : State) (pc : Nat) : Pumped :=
  match (s.pump pc).run with
  | none => .done s
  | some r =>
    let w := tget 0 (s.pump pc).prog r.bundle
    if r.ended.isSome then .done s
    else if s.limitOver pc r then .done (s.endRun pc 0x0A)
    else if r.launch.kind = 1 then .done (if r.launch.abort then s.endRun pc 8 else s.splitStep pc r)
    else if r.launch.kind = 2 && (s.sectOf pc).phase != 1 then .done s
    else if r.move = 2 then .done (if s.pumpDrained pc then s.drainedBundle pc r else s)
    else if r.move = 0 && r.launch.kind = 0 && r.launch.abort then .done (s.endRun pc 8)
    else if r.move = 0 && r.launch.kind = 2 && (s.sectOf pc).abort && !(s.sectOf pc).spill then .done (s.endRun pc 8)
    else if r.move = 0 && (s.pclk < r.next || (readsPort w 39 && !(s.ended [r.ld])) || (readsPort w 36 && s.pclk < r.sfu)) then .done s
    else
      match (if r.move = 0 then s.startBundle pc r else .ok s) with
      | .error t => .done t
      | .ok s =>
        match decodeMove (fld w (32 * r.move) 32) with
        | .ok (i, x) => .run i { s with mv := (pc, x) }
        | .error _ => .done (s.endRun pc 2)

-- launches (15 R231 to R233) ------------------------------------------------------------------------------------------------------------

/-- PUMP_LAUNCH_START: the launch at the head of the queue, of a program or a split product, starts, or ends at once. R231, R232. -/
def execPumpLaunchStart (s : State) : Out :=
  let pc := s.arg 0
  let p := s.pump pc
  .next (match p.queue.head? with
    | none => s
    | some l =>
      if p.run.isSome || l.kind = 2 then s
      else
        let fail (s : State) (code : Nat) : State := s.beginRun pc l { ended := some code } none
        if l.abort then fail s 8
        else if l.mute then fail s 6
        else if !(s.mayCompute pc l) then fail (s.computeRefused pc l) 3
        else if l.kind = 1 then
          if splitDescOk l.words pc then
            ((s.zeroAccs pc).beginRun pc l {} none).modPump pc (fun p => { p with ports := {}, prog := [], sram := [] })
          else fail s 1
        else if !(pumpDescOk l.words) then fail s 1
        else
          match s.loadProgram pc l with
          | (s, .error (some c)) => fail s c
          | (s, .error none) => s
          | (s, .ok m) =>
            (((s.zeroAccs pc).mendPump pc).beginRun pc l { nbun := fld (l.word 1) 0 9 } none).modPump pc (fun p =>
              { p with ports := {}, prog := m.1, sram := m.2 }))

/-- PUMP_LIMIT_TIMEOUT: the launch has run 2^LIMIT pumphouse clocks. R232, R233. -/
def execPumpLimitTimeout (s : State) : Out :=
  let pc := s.arg 0
  .next (match (s.pump pc).run with
    | none => s
    | some r => if s.limitOver pc r then s.endRun pc 0x0A else s)

/-- The rows that a pumphouse core has left open. -/
def State.openRows (s : State) (pc : Nat) : List Nat :=
  (s.banks.filter (fun e => e.2.open?.any (fun r => r.pc = pc))).map (·.1)

/-- At a launch's end its suspended rows are discarded, and its open rows are closed as soon as a PRE is legal (15 R232). -/
def State.closeRows (s : State) (pc : Nat) : State :=
  let s : State := { s with banks := s.banks.map (fun (e : Nat × Bank) =>
    (e.1, if e.2.susp.any (fun r => r.pc = pc) then { e.2 with susp := none, recalled := false } else e.2)) }
  (s.openRows pc).foldl (fun s gb =>
    if s.canIssue gb 3 then
      s.modBank gb (fun b => { b with row := none, pre := s.dclk + tRP, preBy := pc, busy := s.dclk + 1 })
    else s) s

/-- A pump node ends with its launch (19 R280). -/
def State.nodeEnded (s : State) (g n code : Nat) : State := s.endNode g n (if code = 0 then 1 else 6)

/-- The launch of an ended run leaves its core: SSTAT of a section and then STATUS are written. A pump node ends when that write has been
acknowledged (19 R285). -/
def State.leavePump (s : State) (pc : Nat) (r : Run) (code : Nat) : State :=
  let x := s.sectOf pc
  let s := if r.launch.kind = 2 then s.freeEntries pc else s
  let s := s.modPump pc (fun p => { p with run := none, sect := none })
  let s := s.writeEnd pc r.launch x code r.bundle (s.pclk - r.start)
  let s := x.opOut.foldl (fun s o => s.endOp o) s
  match r.launch.graph with
  | some (g, n) => if r.launch.mute then s.nodeEnded g n code
    else s.modPump pc (fun p => { p with nodes := p.nodes ++ [(r.launch.op, g, n, code)] })
  | none => s

/-- PUMP_LAUNCH_END: when every access and microcommand of an ended launch has completed, its clean outcome is over and its rows are closed, it
ends; and so does a pump node whose STATUS write has been acknowledged. R232; 16 R242, R255, R256. -/
def execPumpLaunchEnd (s : State) : Out :=
  let pc := s.arg 0
  .next (match (s.pump pc).nodes.find? (fun e => s.ended [e.1]) with
    | some (o, g, n, code) => (s.modPump pc (fun p => { p with nodes := p.nodes.erase (o, g, n, code) })).nodeEnded g n code
    | none =>
      match (s.pump pc).run with
      | none => s
      | some r =>
        match r.ended with
        | none => s
        | some code =>
          let out : Bool := (tsome s.ops).any (fun e => e.2.pump = some pc && e.2.kind ≤ 1 && e.2.coh = 64)
          let x := s.sectOf pc
          let busy : Bool := r.launch.kind = 2 && x.phase = 3 && x.outcome = 0 && !(x.todo.isEmpty && x.lifts.isEmpty)
          let s := s.closeRows pc
          if out || busy || !(s.openRows pc).isEmpty || s.bkq pc != 0 then s else s.leavePump pc r code)

-- aborts of queued sections (16 R256) ------------------------------------------------------------------------------------------------------

/-- A queued section leaves its core's queue, with SSTAT and STATUS written. -/
def State.dropQueued (s : State) (pc : Nat) (l : PumpLaunch) : State :=
  let s := s.modPump pc (fun p => { p with queue := p.queue.erase l, mesh := if p.queue.contains l then p.mesh else p.mesh.erase l })
  (s.settleQueue pc).writeEnd pc l {} 8 0 0

/-- An abort that meets the sending of snapshot requests finds its section in a sluice (16 R258). -/
def State.abortMeets (s : State) (pc : Nat) : State :=
  match (s.pump pc).run with
  | some r =>
    let x := s.sectOf pc
    if r.launch.kind = 2 && r.move = 2 && 2 ≤ r.stall && x.phase = 1 && x.abort && x.abortAt = s.pclk && r.ended.isNone && s.pumpDrained pc then
      s.drainedBundle pc r
    else s
  | none => s

/-- The end of a clock at the pumphouse cores: the queued sections of terminated teams leave their queues (15 R239; 16 R256), and a section that is
aborted as its snapshot requests go finds itself in its sluice (R258). -/
def State.closePumps (s : State) : State :=
  s.pumps.foldl (fun s p =>
    (((p.2.queue ++ p.2.mesh).filter (fun l => l.kind = 2 && l.abort)).foldl (fun s l => s.dropQueued p.1 l) s).abortMeets p.1) s

/-- The running section of a core is aborted (16 R256, R258). One that has yet to claim its slices ends. -/
def State.abortRun (s : State) (pc : Nat) : State :=
  let s := s.modSect pc (fun x => x.aborted s.pclk)
  if (s.sectOf pc).phase = 0 then s.endRun pc 8 else s

end Sys2Proof.Machine
end

