-- ==== Sys2Proof/Machine/Nmc.lean ====
section
/-!
DEFINITION. Nmc.lean: the nmc class: sections (16 R245, R256, R257), pumphouse launches (15 R234 to R236, R369) and boarding (20
R302, R306, R307).
-/
namespace Sys2Proof.Machine

-- descriptors (15 R234, R369; 16 R245) --------------------------------------------------------------------------------------------

/-- The address fault of a descriptor's pointer: space 0, 64-aligned. -/
def State.descFault (s : State) (p : BitVec 64) : Option FaultInfo :=
  if spaceOf p = 0 && rankOf p = 0 && offOf p % 64 = 0 then none
  else some { cause := 0x1D, detail := spaceOf p, pages := [p.toNat], lanes := s.G }

/-- Translate a descriptor's address for the group, and go on with its physical address; one that is read is waited for. -/
def State.descAt (s : State) (va need : Nat) (rd : Bool) (k : State → Nat → State) : State :=
  s.translated need 0 64 [(lowest s.G, [{ va := va, at_ := 0, len := 64 }])] (fun s good =>
    match good with
    | (_, q :: _) :: _ => k s q.pa
    | _ => s.memDone false) (fun good =>
       if rd then good.findSome? (fun x => x.2.findSome? (fun q => s.awaits s.myTeam.vf q.pa s.myTeam.core))
      else none) (all := true)

/-- A word with a descriptor at SA: the checks of stage 2, then translation. -/
def State.descWord (s : State) (p : BitVec 64) (need : Nat) (k : State → Nat → State) (rd : Bool := true) : State :=
  match s.descFault p with
  | some f => s.raise f
  | none => s.descAt (offOf p) need rd k

/-- The words of a descriptor go to `k`; where an access table refuses the read, `no` follows its report (15 R369). -/
def State.descRead (s : State) (pa : Nat) (no : State → State) (k : State → List (BitVec 64) → State) : State :=
  let t := s.myTeam
  let r := s.readLine t.vf (lineAt pa) t.core s.cur.tid s.cur.coh
  match r.2.2 with
  | some e => r.1.machineCheck s.cur.tid s.cur.coh s.herePc s.G 0 e
  | none =>
    if (s.readRefusal t.vf (lineAt pa) t.core).any (fun x => x.tgt != 6) then no r.1
    else k r.1 (words64 8 (lineBytes r.2.1 (pa % 128) 64))

/-- Whether one more launch may be in flight at the core, and attach to SETB (15 R234; 03 R49). -/
def State.launchFree (s : State) : Bool :=
  s.flagFree s.cur.setb && ((tsome s.ops).filter (fun e => e.2.kind = 4 && e.2.pump = some s.myTeam.core)).length < 16

/-- Send a launch to its pumphouse core; it is in flight until its STATUS write has been acknowledged. One that a router drops ends as refused (18
R270, R272), and one that never arrives stays in flight. -/
def State.sendLaunch (s : State) (pc : Nat) (l : PumpLaunch) : State :=
  let n := s.newOp { tid := s.cur.tid, coh := s.cur.coh, flag := s.cur.setb, left := 1, kind := 4, pump := some s.myTeam.core }
  let l := { l with vf := s.myTeam.vf, tid := s.cur.tid, core := s.myTeam.core, op := n.2 }
  n.1.launchTo pc l s.myTeam.core

-- launches (15 R234 to R236) ---------------------------------------------------------------------------------------------------------

/-- pumpgo. R234, R369. -/
def execPumpgo (a b : Nat) (s : State) : Out :=
  .next (s.descWord (s.sget a) 3 (fun t pa =>
    if !(t.launchFree) then s
    else
      t.descRead pa (fun t => t.memDone false) (fun t w =>
        (t.sendLaunch (pcoreOf w) { kind := 0, desc := pa, words := w, arg1 := s.sget b }).memDone false)))

/-- pumpwait. R235, R369. -/
def execPumpwait (d a : Nat) (s : State) : Out :=
  .next (s.descWord (s.sget a) 1 (fun s pa =>
    let w : Wait := .pumpwait (pa + 0x30) d
    match s.pollDone s.cur.tid s.cur.coh s.G w with
    | some t => if t.myTeam.terminated then t else t.memDone false
    | none =>
      let t := (s.awaits s.myTeam.vf pa s.myTeam.core).getD (s.readFor s.myTeam.vf (lineAt pa) s.myTeam.core s.cur.tid s.cur.coh).1
      (t.modMe (fun c => { c with polls := c.polls ++ [⟨s.G, w⟩] })).suspend s.G) false)

/-- mvsplit. R236, R369. -/
def execMvsplit (d a b : Nat) (s : State) : Out :=
  let m := (s.sget b).toNat
  let nb := s.me.now.mvratio.toNat * (m / 16) / 256
  .next (if m % 16 != 0 || m = 0 || 8192 < m then s.illegal
    else s.descWord (s.sget a) 3 (fun t pa =>
      if !(t.launchFree) then s
      else
        let fin (t : State) : State := (t.sset d (BitVec.ofNat 64 (16 * nb))).memDone false
        t.descRead pa fin (fun t w => fin (t.sendLaunch (fld (w.getD 1 0) 32 7) { kind := 1, desc := pa, words := w, nb := nb }))))

-- sections (16 R245, R256, R257) ----------------------------------------------------------------------------------------------------

/-- secopen: the PUMP address is translated too, before anything is read for good. R245, R369. -/
def execSecopen (a b : Nat) (s : State) : Out :=
  .next (s.descWord (s.sget a) 3 (fun t pa =>
    if !(t.launchFree) then s
    else
      t.descRead pa (fun t => t.memDone false) (fun t sw =>
        t.descAt (fld (sw.getD 0 0) 6 46 * 64) 3 true (fun t pp => t.descRead pp (fun t => t.memDone false) (fun t w =>
          (t.sendLaunch (pcoreOf w) { kind := 2, desc := pp, sdesc := pa, words := w, swords := sw, arg1 := s.sget b }).memDone false)))))

/-- Whether a launch is the section of a function whose descriptor stands at an address. -/
def PumpLaunch.isSect (l : PumpLaunch) (vf pa : Nat) : Bool := l.kind = 2 && l.vf = vf && l.sdesc = pa

/-- The pumphouse core where a section of the function is open. -/
def State.openSect (s : State) (vf pa : Nat) : Option Nat :=
  (s.pumps.find? (fun e => e.2.run.any (fun r => r.launch.isSect vf pa && r.ended.isNone))).map (·.1)

/-- The pumphouse core where it is queued. -/
def State.queuedSect (s : State) (vf pa : Nat) : Option Nat :=
  (s.pumps.find? (fun e => (e.2.queue ++ e.2.mesh).any (fun l => l.isSect vf pa))).map (·.1)

/-- Abort the section at an address: `op` completes when the abort has taken effect (16 R256). -/
def State.abortSect (s : State) (vf pa op : Nat) : State :=
  match s.openSect vf pa with
  | some pc =>
    (s.modSect pc (fun x => { x with opOut := x.opOut ++ [op] })).abortRun pc
  | none =>
    match s.queuedSect vf pa with
    | some pc =>
      let p := s.pump pc
      match (p.queue ++ p.mesh).find? (fun l => l.isSect vf pa) with
      | some l => (s.dropQueued pc l).endOp op
      | none => s.endOp op
    | none => s.endOp op

/-- secabort. R256, R369. -/
def execSecabort (a : Nat) (s : State) : Out :=
  .next (s.descWord (s.sget a) 1 (fun t pa =>
    if !(t.flagFree s.cur.setb) then s
    else
      t.descRead pa (fun t => t.memDone false) (fun t _ =>
        let n := t.newOp { tid := s.cur.tid, coh := s.cur.coh, flag := s.cur.setb, kind := 3 }
        (n.1.abortSect s.myTeam.vf pa n.2).memDone false)))

/-- The pumphouse core that the pump descriptor of a section descriptor names (16 R257); none where PUMP cannot be read. -/
def State.sectCore (s : State) (w : List (BitVec 64)) : State × Option Nat :=
  let t := s.myTeam
  match s.transFor t.vf (fld (w.getD 0 0) 0 52) 1 (0x116 + dieOf t.core) with
  | (s, none) => (s, none)
  | (s, some (pp, _)) =>
    let r := s.readFor t.vf (lineAt pp) t.core s.cur.tid s.cur.coh
    (r.1, if (s.readRefusal t.vf (lineAt pp) t.core).isSome then none else some (pcoreOf (words64 8 (lineBytes r.2 (pp % 128) 64))))

/-- VD of `secstat` (16 R257): from the live entry of the section at the pumphouse core that PUMP names, whoever opened it, or from SSTAT. -/
def State.sectWord (s : State) (pa : Nat) (pc : Option Nat) (w : List (BitVec 64)) : BitVec 128 :=
  let live (st : Nat) (x : Section) : BitVec 128 :=
    BitVec.ofNat 128 (st + nbit x.spill * 4 + nbit (x.phase = 2 || (x.phase = 3 && x.outcome ≤ 1)) * 8 + x.rcnt % 16 * 16 + min x.seg 65535 * 256 +
      x.replays * 2 ^ 64)
  let p := s.pump (pc.getD 128)
  let mine (l : PumpLaunch) : Bool := l.kind = 2 && l.sdesc = pa
  if p.run.any (fun r => mine r.launch) then live 2 (p.sect.getD {})
  else if (p.queue ++ p.mesh).any mine then live 1 {}
  else
    let x := w.getD 4 0
    let code := if bit x 8 then 3 + fld x 0 8 * 2 ^ 24 else 0
    BitVec.ofNat 128 (code + fld x 16 16 * 256 + fld x 32 32 * 2 ^ 64)

/-- Put a value into VD of every thread of the group, attached to SETA: it lands as a load's result does (03 R49). -/
def State.resultAll (s : State) (d : Nat) (v : BitVec 128) : State :=
  (s.newOp { tid := s.cur.tid, coh := s.cur.coh, flag := s.cur.seta, lanes := s.G, dest := .regs d 1, kind := 3,
             got := gather [] (((lanesOf s.G).map (fun l => place (16 * l) (bytesOf 16 v))).flatten) }).1

/-- secstat. R257, R369. -/
def execSecstat (d a : Nat) (s : State) : Out :=
  s.checked [s.vr d] (s.descWord (s.sget a) 1 (fun t pa =>
    if !(t.flagFree s.cur.seta) then s
    else
      t.descRead pa (fun t => (t.resultAll d 0).memDone true) (fun t w =>
        let c := t.sectCore w
        (c.1.resultAll d (c.1.sectWord pa c.2 w)).memDone true)))

-- boarding (20 R301 to R307) ----------------------------------------------------------------------------------------------------------

/-- The tile key and the schedule that a boarding word names (20 R302). -/
def boardKey (p : BitVec 64) : Nat × Nat := (fld p 0 36, fld p 36 2)

/-- Whether a slot holds a request of a team for a key. -/
def BoardSlot.names (b : BoardSlot) (tid : Nat) (k : Nat × Nat) : Bool := b.tid = tid && b.key = k.1 && b.sched = k.2

/-- The lowest free request slot. -/
def Core.freeSlot (c : Core) : Option Nat := (List.range 4).find? (fun i => (c.boardAt i).state = 0 || (c.boardAt i).state = 3)

/-- A `board`: it takes the lowest free slot, and the stop checks it in the next ring clock (20 R302, R308). -/
def State.board (s : State) (p : BitVec 64) (dest t base : Nat) : State :=
  let k := boardKey p
  let core := s.myTeam.core
  let c := s.core core
  if c.boards.any (fun e => e.1 < 4 && (e.2.state = 1 || e.2.state = 2) && e.2.quit = 0 && e.2.names s.cur.tid k) then s.done
  else
    match c.freeSlot with
    | none => s
    | some i =>
      if !(s.flagFree s.cur.setb) then s
      else
        let n := s.newOp { tid := s.cur.tid, coh := s.cur.coh, flag := s.cur.setb, kind := 3 }
        let b : BoardSlot := { state := 1, key := k.1, sched := k.2, dest := dest, t := t, base := base, tid := s.cur.tid,
                               coh := s.cur.coh, pending := true, ask := s.rclk + 1, op := n.2 }
        (n.1.modCore core (fun c => c.setBoard i b)).done

/-- board.shadow. R302. -/
def execBoardShadow (a : Nat) (s : State) : Out :=
  let p := s.sget a
  .next (if fld p 38 26 != 0 then s.illegal
    else if !s.myTeam.launch.acc then s.badReg 0
    else s.board p 0 0 0)

/-- board.tile. R302. -/
def execBoardTile (a t : Nat) (s : State) : Out :=
  let p := s.sget a
  let x := tget 0 s.myTeam.t t
  .next (if fld p 38 26 != 0 || !x.valid || x.len < 65536 then s.illegal else s.board p 1 t x.base)

/-- unboard: a landing request completes first, and holds the word. R306. -/
def execUnboard (a : Nat) (s : State) : Out :=
  let p := s.sget a
  let k := boardKey p
  let core := s.myTeam.core
  let mine (b : BoardSlot) : Bool := b.names s.cur.tid k
  .next (if fld p 38 26 != 0 then s.illegal
    else
      let held := s.landing core mine
      let s := s.disarm core mine
      if held then s else s.done)

/-- The slot that `boardstat` reads: an armed or landing one, else the most recent ended one (20 R307). -/
def Core.statSlot (c : Core) (tid : Nat) (k : Nat × Nat) : Option (Nat × BoardSlot) :=
  let mine := c.boards.filter (fun e => e.1 < 4 && e.2.state != 0 && e.2.names tid k)
  match mine.find? (fun e => e.2.state != 3) with
  | some e => some e
  | none => mine.foldl (fun (m : Option (Nat × BoardSlot)) e =>
      match m with
      | none => some e
      | some x => if x.2.order < e.2.order then some e else m) none

/-- VD of `boardstat` (20 R307). -/
def statWord (x : Option (Nat × BoardSlot)) : BitVec 128 :=
  match x with
  | none => 0
  | some (i, b) =>
    let isEnd : Bool := b.state = 3
    let lap := if isEnd && (b.fin = endDone || b.fin = endCorrupt) then b.lap else 0
    BitVec.ofNat 128 (b.state + (if isEnd then b.fin else 0) * 4 + i * 64 + b.dest * 256 + nbit b.crc1 * 512 +
      min b.lost 65535 * 2 ^ 16 + lap % 65536 * 2 ^ 32)

/-- boardstat. R307. -/
def execBoardstat (d a : Nat) (s : State) : Out :=
  let p := s.sget a
  s.checked [s.vr d] (
    if fld p 38 26 != 0 then s.illegal
    else if !(s.flagFree s.cur.seta) then s
    else (s.resultAll d (statWord ((s.myCore).statSlot s.cur.tid (boardKey p)))).done true)

end Sys2Proof.Machine
end

