-- ==== Sys2Proof/Machine/Sched.lean ====
section
/-!
DEFINITION. Sched.lean: launch records (02 R26 to R30), the entry state (R31), placement (R32 to R35), the dispatcher (19 R281 to
R284) and the release of teams (02 R44).
-/
namespace Sys2Proof.Machine

-- launch records (02 R26 to R29) --------------------------------------------------------------------------------------------------

/-- A read by the command processor or the dispatcher in a function's memory: none where it does not translate, or is refused (18
R367, R269). -/
def State.cpRead (s : State) (vf va n : Nat) : State × Option (List Byte) :=
  (splitLines (n + 1) va 0 n).foldl (fun r x =>
    match r.2 with
    | none => r
    | some bs =>
      if 2 ^ 52 ≤ x.1 then (r.1, none)
      else
        match r.1.transFor vf x.1 1 0x116 with
        | (t, none) => (t, none)
        | (t, some (pa, _)) =>
          let no := (t.readRefusal vf (lineAt pa) 0x111).any (fun x => x.tgt != 6)
          let y := t.readFor vf (lineAt pa) 0x111 0 64
          (y.1, if no then none else some (bs ++ lineBytes y.2 (pa % 128) x.2.2))) (s, some [])

/-- The fields of a launch record. -/
def launchOf (addr : BitVec 64) (w : List (BitVec 64)) : Launch :=
  let x := w.getD 3 0
  let nlev := fld x 0 8
  { addr := addr, entry := w.getD 0 0, trapvec := w.getD 1 0, args := w.getD 2 0
    nlev := nlev, regs := fld x 8 8, ncopy := fld x 16 6, nmtx := fld x 22 6, nvec := fld x 28 6, acc := bit x 34
    scratch := fld (w.getD 4 0) 0 32, queue := fld (w.getD 4 0) 32 32
    opbuf := fld (w.getD 5 0) 0 32, seed := fld (w.getD 5 0) 32 32
    privw := fld (w.getD 6 0) 0 32, stklim := fld (w.getD 6 0) 32 32, privbase := fld (w.getD 7 0) 0 64
    levels := (w.drop 8).take nlev }

/-- EXTENT, DOMAIN and SCOPE of a level (02 R27). -/
def Launch.extent (l : Launch) (i : Nat) : Nat := fld (l.levels.getD i 0) 0 32
def Launch.dom (l : Launch) (i : Nat) : Nat := fld (l.levels.getD i 0) 32 3
def Launch.scope (l : Launch) (i : Nat) : Nat := fld (l.levels.getD i 0) 36 3

/-- The least scope of a domain (02 R29). -/
def leastScope (d : Nat) : Nat := [0, 1, 2, 3, 3, 3, 4, 5].getD d 7

/-- The conditions of 02 R29 on one level. -/
def Launch.levelOk (l : Launch) (i : Nat) : Bool :=
  let d := l.levels.getD i 0
  let k := l.unit i
  let team := 32 * l.n
  !(bit d 35) && fld d 39 25 = 0 && 1 ≤ l.extent i && l.scope i != 7 && leastScope (l.dom i) ≤ l.scope i &&
    (if i = 0 then l.dom 0 = 0 else l.dom (i - 1) ≤ l.dom i) &&
    (l.dom i != 1 || (k != 0 && 32 % k = 0)) && (l.dom i != 2 || (k != 0 && team % k = 0)) && (l.dom i < 3 || k % team = 0)

/-- Whether a launch record is valid (02 R29), its reading apart. -/
def launchOk (addr : BitVec 64) (w : List (BitVec 64)) : Bool :=
  let l := launchOf addr w
  let isCode (v : BitVec 64) : Bool := fld v 0 2 = 0 && fld v 52 12 = 0
  fld addr 0 7 = 0 && fld addr 52 12 = 0 && fld (w.getD 3 0) 35 29 = 0 && 1 ≤ l.nlev && l.nlev ≤ 8 &&
    ((w.drop 8).drop l.nlev).all (fun d => d = 0) && 1 ≤ l.n && l.n ≤ 32 && l.ncopy ≤ 32 && l.nmtx ≤ 32 && l.nvec ≤ 32 &&
    16 ≤ l.regs && l.regs ≤ 64 && l.regs % 8 = 0 && (!l.acc || 1 ≤ l.nmtx) &&
    l.opbuf ≤ 2097152 && l.scratch + l.queue ≤ 8388608 && l.stklim ≤ l.privw && l.scratch % 4096 = 0 && l.queue % 4096 = 0 &&
    l.opbuf % 4096 = 0 && l.privbase % 128 = 0 && l.privbase < 2 ^ 52 && l.entry != 0 && isCode l.entry && isCode l.trapvec &&
    (List.range l.nlev).all (fun i => l.levelOk i)

/-- The threads and the teams of a launch (02 R28). -/
def Launch.threads (l : Launch) : Nat := l.unit l.nlev
def Launch.teams (l : Launch) : Nat := (l.threads + 32 * l.n - 1) / (32 * l.n)

/-- The bindings that keep teams together, the outermost first: a domain (3 core, 4 strip, 5 die) and its teams (02 R29, R35). -/
def Launch.bindings (l : Launch) : List (Nat × Nat) :=
  (((List.range l.nlev).filter (fun i => 3 ≤ l.dom i && l.dom i ≤ 5)).map (fun i => (l.dom i, max 1 (l.unit i / (32 * l.n))))).reverse

-- room in a core (02 R32 to R34) ------------------------------------------------------------------------------------------------------

/-- The teams that hold granules and runs of a core. -/
def State.on (s : State) (core : Nat) : List (Nat × Team) := s.teams.filter (fun e => e.2.on core)

/-- The granules of a quad that are not free. -/
def State.granules (s : State) (core q : Nat) : List Nat :=
  ((s.on core).map (fun t =>
    ((t.2.cohs.filter (fun c => c.2.quad = q)).map (fun c =>
      ((List.range c.2.valloc).filter (fun j => !(c.2.returned.contains j))).map (fun j => tget 0 c.2.gmap j))).flatten ++
    (t.2.slack.filter (fun g => g / 128 = q)).map (fun g => g % 128))).flatten

/-- The lowest aligned free run of n granules (02 R33). -/
def freeRun (taken : List Nat) (n : Nat) : Option Nat :=
  ((List.range 16).map (fun i => 8 * i)).find? (fun b => b + n ≤ 128 && (List.range n).all (fun i => !(taken.contains (b + i))))

/-- The cohorts that a quad or a core holds. -/
def State.cohortsIn (s : State) (core : Nat) (f : Nat → Bool) : Nat :=
  ((s.on core).map (fun t => (t.2.cohs.filter (fun c => !c.2.retired && f c.2.quad)).length)).foldl (· + ·) 0

/-- The granules of a team's cohorts in a quad, with start quad q0: `al` are the cohorts' counts. -/
def quadNeed (al : List Nat) (q0 q : Nat) : List Nat :=
  ((List.range al.length).filter (fun i => (q0 + i) % 4 = q)).map (fun i => al.getD i 0)

/-- A count rounded up to a multiple of 8. -/
def up8 (n : Nat) : Nat := (n + 7) / 8 * 8

/-- The starts of a team's runs in the four quads, for a start quad (02 R33). -/
def State.quadStarts (s : State) (core : Nat) (al : List Nat) (q0 : Nat) : Option (List Nat) :=
  (List.range 4).foldr (fun q acc =>
    let need := quadNeed al q0 q
    match acc, freeRun (s.granules core q) (up8 (need.foldl (· + ·) 0)) with
    | some l, some b => if s.cohortsIn core (fun x => x = q) + need.length ≤ 16 then some (b :: l) else none
    | _, _ => none) (some [])

/-- The banks that form a core's scratchpad space (10 R174). -/
def Core.scrSpace (c : Core) : List Nat :=
  (List.range 16).filter (fun b => tget 0 c.modes b = 1 && !(c.drains.any (fun d => d.bank = b)))

/-- The lowest free run of bytes in the scratchpad space, as an offset. -/
def State.scrFree (s : State) (core bytes : Nat) : Option Nat :=
  let banks := (s.core core).scrSpace
  let taken := ((s.on core).map (fun t =>
    (List.range ((t.2.launch.scratch + t.2.launch.queue) / 4096)).map (fun k => t.2.scrKey (4096 * k) / 4096))).flatten
  let page (p : Nat) : Nat := 128 * banks.getD (p / 128) 0 + p % 128
  let n := bytes / 4096
  ((List.range (128 * banks.length + 1)).find? (fun p =>
    p + n ≤ 128 * banks.length && (List.range n).all (fun k => !(taken.contains (page (p + k)))))).map (fun p => 4096 * p)

/-- The lowest free run of bytes in the operand buffer. -/
def State.opFree (s : State) (core bytes : Nat) : Option Nat :=
  let isFree (a : Nat) : Bool := (s.on core).all (fun t => t.2.opOff + t.2.launch.opbuf ≤ a || a + bytes ≤ t.2.opOff)
  ((List.range 513).map (fun p => 4096 * p)).find? (fun a => a + bytes ≤ 2097152 && (bytes = 0 || isFree a))

/-- A place for a team in a core. -/
structure Spot where
  slot : Nat
  q0 : Nat
  starts : List Nat
  banks : List Nat
  scr : Nat
  op : Nat
deriving DecidableEq, Repr

/-- The place that a core gives a team of a launch whose cohorts need `al` granules, if it admits it (02 R32 to R34). -/
def State.spot (s : State) (core : Nat) (l : Launch) (al : List Nat) : Option Spot :=
  let here := s.on core
  let slot := (List.range 32).find? (fun i => here.all (fun t => t.2.slot != i))
  let quads := ((List.range 4).map (fun q0 => (q0, s.quadStarts core al q0))).find? (fun x => x.2.isSome)
  if 64 < s.cohortsIn core (fun _ => true) + al.length || (l.acc && here.any (fun t => t.2.launch.acc)) then none
  else
    match slot, quads, s.scrFree core (l.scratch + l.queue), s.opFree core l.opbuf with
    | some i, some (q0, some st), some a, some b =>
      some { slot := i, q0 := q0, starts := st, banks := (s.core core).scrSpace, scr := a, op := b }
    | _, _, _, _ => none

/-- The granule maps that a place gives a team's cohorts, back to back in each quad's run (02 R33). -/
def Spot.maps (p : Spot) (al : List Nat) : List (Tab Nat) :=
  (List.range al.length).map (fun i =>
    let q := (p.q0 + i) % 4
    let first := p.starts.getD q 0 + (((List.range i).filter (fun k => (p.q0 + k) % 4 = q)).map (fun k => al.getD k 0)).foldl (· + ·) 0
    (List.range (al.getD i 0)).foldl (fun t j => Machine.tset 0 t j (first + j)) [])

/-- The granules of its runs that no cohort has. -/
def Spot.slack (p : Spot) (al : List Nat) : List Nat :=
  ((List.range 4).map (fun q =>
    let n := (quadNeed al p.q0 q).foldl (· + ·) 0
    (List.range (up8 n - n)).map (fun i => 128 * q + p.starts.getD q 0 + n + i))).flatten

/-- A team takes its place. -/
def Team.take (t : Team) (core : Nat) (p : Spot) : Team :=
  { t with core := core, slot := p.slot, q0 := p.q0, scrBanks := p.banks, scrOff := p.scr, opOff := p.op }

-- the entry state (02 R31) -----------------------------------------------------------------------------------------------------------

/-- A cohort at its team's admission. -/
def entryCohort (l : Launch) (number nteams i quad : Nat) (gm : Tab Nat) : Cohort :=
  let g (lane : Nat) : Nat := number * 32 * l.n + 32 * i + lane
  let started := lanesBy (fun lane => g lane < l.threads)
  let lanes := List.range 32
  let sregs := [(0, l.addr), (1, BitVec.ofNat 64 number), (2, BitVec.ofNat 64 i), (3, l.args), (4, BitVec.ofNat 64 nteams)]
  let x : BitVec 32 := BitVec.ofNat 32 0
  { pc := lanes.foldl (fun t k => Machine.tset 0 t k l.entry) []
    exited := ~~~started
    sr := lanes.foldl (fun t k => Machine.tset x t k (seedOf l.seed (g k))) []
    s := sregs.foldl (fun t e => Machine.tset 0 t e.1 e.2) []
    m := Machine.tset 0 [] 0 started
    quad := quad, valloc := l.regs / 8, gmap := gm, stkcur := l.stklim }

/-- v0 of a thread. -/
def entryV0 (g lane coh : Nat) : BitVec 128 := BitVec.ofNat 128 (g % 2 ^ 64 + lane * 2 ^ 64 + coh * 2 ^ 96)

/-- The registers of some granules become zero. -/
def Core.clearGranules (c : Core) (gs : List Nat) : Core := { c with rf := c.rf.filter (fun e => !(gs.contains (e.1 / 256))) }

/-- Admit a team of a node in a core (02 R31): the planes become EMPTY and the accumulators zero when it owns them (08 R141). -/
def State.seat (s : State) (g n core : Nat) (l : Launch) (number : Nat) : Option State :=
  let al := List.replicate l.n (l.regs / 8)
  match s.spot core l al with
  | none => none
  | some p =>
    let x := s.node g n
    let f := s.fresh
    let tid := f.2
    let maps := p.maps al
    let cohs : Tab Cohort := (List.range l.n).foldl (fun t i =>
      Machine.tset {} t i (entryCohort l number x.total i ((p.q0 + i) % 4) (maps.getD i []))) []
    let t : Team := { vf := (s.graph g).vf, graph := g, node := n, nodeAddr := BitVec.ofNat 64 ((s.graph g).base + 128 * n),
                      launch := l, number := number, nteams := x.total, place := .resident, polder := x.polder, cohs := cohs,
                      slack := p.slack al }
    let mine := (List.range l.n).map (fun i => (List.range (al.getD i 0)).map (fun j => ((p.q0 + i) % 4) * 128 + tget 0 (maps.getD i []) j))
    let s := f.1.setTeam tid (t.take core p)
    let s := s.modCore core (fun c =>
      let c := c.clearGranules mine.flatten
      if l.acc then { c with acc := [], active := {}, shadow := {} } else c)
    let s := ((List.range l.n).map (fun i => (List.range 32).map (fun k => (i, k)))).flatten.foldl (fun s e =>
      s.vset tid e.1 e.2 0 (entryV0 (number * 32 * l.n + 32 * e.1 + e.2) e.2 e.1)) s
    let s := s.modNode g n (fun x => { x with started := true, next := max x.next (number + 1), live := x.live + 1 })
    some ((List.range l.n).foldl (fun s i => s.tryRetire tid i) s)

-- units (02 R35; 19 R282) -----------------------------------------------------------------------------------------------------------

/-- The instances of a domain among some cores, in the order of the cores. -/
def instances (d : Nat) (cores : List Nat) : List (List Nat) :=
  let key (c : Nat) : Nat := if d = 3 then c else if d = 4 then stripOf c else dieOf c
  (dedup (cores.map key)).map (fun k => sortBy (fun a b => a ≤ b) (cores.filter (fun c => key c = k)))

/-- Place n teams from number a on, together as the bindings ask, on some cores. -/
def placeUnit (seat : State → Nat → Nat → Option State) : List (Nat × Nat) → State → Nat → Nat → List Nat → Option State
  | [], s, a, n, cores =>
    (List.range n).foldl (fun acc i => acc.bind (fun s => cores.findSome? (fun c => seat s c (a + i)))) (some s)
  | (d, k) :: ds, s, a, n, cores =>
    (List.range ((n + k - 1) / k)).foldl (fun acc j => acc.bind (fun s =>
      (instances d cores).findSome? (fun i => placeUnit seat ds s (a + j * k) (min k (n - j * k)) i))) (some s)

/-- A node's next unit of unstarted teams, on some cores. -/
def State.placeNew (s : State) (g n : Nat) (l : Launch) (cores : List Nat) : Option State :=
  let x := s.node g n
  let k := min (match l.bindings.head? with
    | some b => b.2
    | none => 1) (x.total - x.next)
  placeUnit (fun s c number => s.seat g n c l number) l.bindings s x.next k cores

/-- Whether a unit of a launch would never fit, though its polder were empty (02 R30). -/
def State.tooLarge (s : State) (g n : Nat) (l : Launch) : Bool :=
  let x := s.node g n
  ({ s with teams := [] }.placeNew g n l (s.polder x.polder).cores).isNone

/-- A saved team gets a new place (05 R102; 09 R170): TEAM_RESTORE does the rest. -/
def State.replace (s : State) (tid core : Nat) : Option State :=
  let t := s.team tid
  let al := (List.range t.launch.n).map (fun i => (s.coh tid i).valloc)
  (s.spot core t.launch al).map (fun p =>
    let maps := p.maps al
    let cohs : Tab Cohort := t.cohs.map (fun e =>
      (e.1, { e.2 with quad := (p.q0 + e.1) % 4, gmap := maps.getD e.1 [], returned := [] }))
    s.setTeam tid { t.take core p with cohs := cohs, slack := p.slack al, due := true })

/-- Whether a node has nothing left to place. -/
def State.allPlaced (s : State) (g n : Nat) : Bool :=
  let x := s.node g n
  (s.waitingTeams g n).isEmpty && (x.failed || x.ended || (x.started && (x.pump || x.total ≤ x.next)))

/-- After a placement: the reservation goes, and the node leaves the pool when nothing is left to place (19 R281, R283). -/
def State.afterPlace (s : State) (g n : Nat) : State :=
  let s := s.dropReserve g n
  if s.allPlaced g n then s.leavePool g n else s

/-- Whether two operands' granule ranges overlap, with a write (19 R284). -/
def opConflict (a b : Nat × Nat × Nat) : Bool :=
  a.1 < b.1 + b.2.1 && b.1 < a.1 + a.2.1 && (2 ≤ a.2.2 || 2 ≤ b.2.2)

/-- Whether a node's first unit must wait for another node's operands (19 R284). -/
def State.conflicts (s : State) (g n : Nat) : Bool :=
  let x := s.node g n
  s.graphs.any (fun h => h.2.vf = (s.graph g).vf && h.2.nodes.any (fun m =>
    !(h.1 = g && m.1 = n) && m.2.started && !m.2.ended && x.operands.any (fun a => m.2.operands.any (fun b => opConflict a b))))

-- the dispatcher (19 R282, R283) ------------------------------------------------------------------------------------------------------

/-- What became of an entry in a decision: placed, or not. -/
inductive Tried where
  | placed (s : State)
  | no (s : State)

/-- A pump node's launch: its descriptor, with its physical address, or the end of the node (19 R280). -/
def State.pumpNode (s : State) (g n : Nat) : State × Option (Nat × List (BitVec 64)) :=
  let x := s.node g n
  let vf := (s.graph g).vf
  match s.transFor vf x.launch.toNat 1 0x116 with
  | (s, none) => (s, none)
  | (s, some (pa, _)) =>
    let r := s.cpRead vf x.launch.toNat 64
    (r.1, r.2.map (fun bs => (pa, words64 8 bs)))

/-- A pump node's launch goes to its core, into the place that it has found in the queue, before its reservation goes (19 R283); one that a router drops fails its node when its STATUS has
been written (18 R270, R272). -/
def State.nodeLaunch (s : State) (pc : Nat) (l : PumpLaunch) (g n : Nat) : State :=
  match s.wayTo 0x111 (siteOf (portXY (pc / 8))) with
  | .drops x =>
    let s := (s.refuseAt l.vf 0x111 3 ⟨5, x, l.desc⟩).writeEnd pc l {} 3 0 0
    if l.mute then s.nodeEnded g n 3 else s.modPump pc (fun p => { p with nodes := p.nodes ++ [(l.op, g, n, 3)] })
  | w => if w.astray then s else s.modPump pc (fun p => { p with queue := p.queue ++ [l] })

/-- Try to place a pump node's launch; a node that has ended has none (19 R280). -/
def State.tryPump (s : State) (g n : Nat) (mine : Bool) : Tried :=
  if (s.node g n).ended then .no (s.leavePool g n)
  else match s.pumpNode g n with
  | (s, none) => .no (s.endNode g n 2)
  | (s, some (pa, w)) =>
    let pc := pcoreOf w
    if s.conflicts g n || 64 ≤ (s.pump pc).queue.length || (!mine && (tget none s.pumpRes pc).isSome) then .no s
    else
      let vf := (s.graph g).vf
      let w2 := s.transFor vf (s.node g n).launch.toNat 2 0x116
      let o := w2.1.newOp { tid := 0, coh := 64, kind := 4, left := 1 }
      let l : PumpLaunch := { kind := 0, vf := vf, desc := pa, words := w, graph := some (g, n), op := o.2, mute := w2.2.isNone
                              arg1 := BitVec.ofNat 64 ((s.graph g).base + 128 * n) }
      .placed (((o.1.modNode g n (fun x => { x with started := true, live := 1 })).nodeLaunch pc l g n).afterPlace g n)

/-- Try to place an entry's next unit on some cores. -/
def State.tryEntry (s : State) (g n : Nat) (cores : List Nat) (mine : Bool) : Tried :=
  let x := s.node g n
  if x.pump then s.tryPump g n mine
  else
    match s.waitingTeams g n with
    | tid :: _ =>
      match cores.findSome? (fun c => s.replace tid c) with
      | some t => .placed (t.afterPlace g n)
      | none => .no s
    | [] =>
      if s.allPlaced g n then .no (s.leavePool g n)
      else
        match x.lrec with
        | some l =>
          if !x.started && s.conflicts g n then .no s
          else
            match s.placeNew g n l cores with
            | some t => .placed (t.afterPlace g n)
            | none => .no s
        | none =>
          let addr := x.launch
          let r := if fld addr 52 12 = 0 then s.cpRead (s.graph g).vf addr.toNat 128 else (s, none)
          let w := words64 16 (r.2.getD [])
          if r.2.isNone || !(launchOk addr w) then .no (r.1.endNode g n 2)
          else
            let l := launchOf addr w
            let s := r.1.modNode g n (fun x => { x with lrec := some l, total := l.teams })
            if s.tooLarge g n l then .no (s.endNode g n 3)
            else if s.conflicts g n then .no s
            else
              match s.placeNew g n l cores with
              | some t => .placed (t.afterPlace g n)
              | none => .no s

/-- The dispatch order (19 R282). -/
def State.order (s : State) : List PoolEntry :=
  sortBy (fun a b => b.prio < a.prio || (a.prio = b.prio && a.age ≤ b.age)) s.pool

/-- The cores of a polder that the dispatcher may use: the preferred one first. -/
def State.openCores (s : State) (polder pref : Nat) : List Nat :=
  let cores := (s.polder polder).cores.filter (fun c => !((tsome s.reserves).any (fun r => r.2.cores.contains c)))
  if cores.contains pref then pref :: cores.erase pref else cores

/-- The cores that an entry's reservation takes (19 R283). -/
def State.reserveCores (s : State) (g n : Nat) : List Nat :=
  let x := s.node g n
  let all := (s.polder x.polder).cores
  let fewer (cores : List Nat) : State :=
    { s with teams := s.teams.filter (fun t =>
      !(cores.contains t.2.core && t.2.on t.2.core && (s.node t.2.graph t.2.node).prio < x.prio)) }
  match s.waitingTeams g n, x.lrec with
  | tid :: _, _ => [((all.find? (fun c => ((fewer [c]).replace tid c).isSome)).getD (all.headD 0))]
  | [], some l =>
    match l.bindings with
    | [] => [((all.find? (fun c => ((fewer [c]).placeNew g n l [c]).isSome)).getD (all.headD 0))]
    | (d, _) :: _ =>
      let is := instances d all
      (is.find? (fun i => ((fewer i).placeNew g n l i).isSome)).getD (is.headD [])
  | [], none => all.take 1

/-- SKIP 64 takes a reservation where none stands: a polder's cores, or a place in a launch queue (19 R283). -/
def State.takeReserve (s : State) (e : PoolEntry) : State :=
  let x := s.node e.graph e.node
  let clear (s : State) : State :=
    { s with pool := s.pool.map (fun p => if p.graph = e.graph && p.node = e.node then { p with skip := 0 } else p) }
  if x.pump then
    match s.pumpNode e.graph e.node with
    | (s, none) => s
    | (s, some (_, w)) =>
      if (tget none s.pumpRes (pcoreOf w)).isSome then s
      else clear { s with pumpRes := Machine.tset none s.pumpRes (pcoreOf w) (some (e.graph, e.node)) }
  else if (tget none s.reserves x.polder).isSome then s
  else
    clear { s with reserves := Machine.tset none s.reserves x.polder (some ⟨e.graph, e.node, s.reserveCores e.graph e.node⟩) }

/-- Every entry at SKIP 64 takes its reservation, in dispatch order, as far as none stands. -/
def State.takeReserves (s : State) : State := (s.order.filter (fun e => 64 ≤ e.skip)).foldl (fun s e => s.takeReserve e) s

/-- The teams of lower priority on reserved cores are pre-empted (19 R283; 09 R167). -/
def State.askReserved (s : State) : State :=
  (tsome s.reserves).foldl (fun s r =>
    { s with teams := s.teams.map (fun t => (t.1,
      if t.2.place = .resident && !t.2.terminated && r.2.cores.contains t.2.core && !(t.2.asks.contains .dispatcher) &&
          (s.node t.2.graph t.2.node).prio < (s.node r.2.graph r.2.node).prio then
        t.2.ask .dispatcher s.clk else t.2)) }) s

/-- Step 1 of a decision: a reserved unit that fits now is placed. -/
def tryReserved : List Reserve → State → Tried
  | [], s => .no s
  | r :: rs, s =>
    match s.tryEntry r.graph r.node r.cores true with
    | .placed t => .placed t
    | .no t => tryReserved rs t

/-- Steps 2 to 4: the first entry that fits is placed, and the entries scanned before it are skipped once more. -/
def tryPool (pref : Nat) : List PoolEntry → List PoolEntry → State → Tried
  | [], _, s => .no s
  | e :: es, past, s =>
    match s.tryEntry e.graph e.node (s.openCores (s.node e.graph e.node).polder pref) false with
    | .placed t =>
      .placed { t with pool := t.pool.map (fun p =>
        if past.any (fun q => q.graph = p.graph && q.node = p.node) then { p with skip := min 64 (p.skip + 1) } else p) }
    | .no t => tryPool pref es (e :: past) t

/-- DISPATCH_DECISION: one decision; where several cores would do, the preferred one is taken. R282, R283. -/
def execDispatchDecision (s : State) : Out :=
  let s := s.takeReserves.askReserved
  let pumps : List Reserve := (tsome s.pumpRes).map (fun e => ⟨e.2.1, e.2.2, []⟩)
  .next (match tryReserved ((tsome s.reserves).map (·.2) ++ pumps) s with
    | .placed t => t
    | .no t =>
      match tryPool (s.arg 0) t.order [] t with
      | .placed t => t.takeReserves.askReserved
      | .no t => t)

-- the release of a team (02 R44) --------------------------------------------------------------------------------------------------------

/-- Whether everything that holds a retired or terminated team's runs has ended (02 R44), and every write of the team has been acknowledged
(19 R285: its node ends after that). -/
def State.mayRelease (s : State) (tid : Nat) : Bool :=
  let t := s.team tid
  let c := s.core t.core
  let gone : Bool := t.terminated || (List.range t.launch.n).all (fun i => (s.coh tid i).retired)
  gone && !t.released && t.place != .gone &&
    c.chans.all (fun h => h.2.queue.all (fun x => x.op = 0 || x.tid != tid)) && c.mq.all (fun e => e.tid != tid) &&
    c.boards.all (fun b => b.2.tid != tid || (b.2.state != 1 && b.2.state != 2)) && c.rlocks.all (fun r => r.2.tid != tid) &&
    (tsome s.ops).all (fun o => o.2.tid != tid) && (tsome s.reqs).all (fun r => r.2.slice || r.2.page != tid)

/-- A team's dirty private lines are written back, as stores of its cohorts. -/
def State.flushTeam (s : State) (tid : Nat) : State :=
  (List.range (s.team tid).launch.n).foldl (fun s i =>
    let n := (s.dirtyPriv tid i).length
    if n = 0 then s
    else
      let f := s.newOp { tid := tid, coh := i, kind := 1, left := n }
      f.1.flushPriv tid i f.2) s

/-- TEAM_RELEASE: the private lines are written back, and once that has been acknowledged the runs are released, a pre-emption asked of the team ends
NOTEAM, and the last team's release ends the node. R44; 10 R175; 19 R280; 25 R350. -/
def execTeamRelease (s : State) : Out :=
  let tid := s.arg 0
  let t := s.team tid
  .next (if !(s.mayRelease tid) then s
    else
      if t.place != .saved && (List.range t.launch.n).any (fun i => !(s.dirtyPriv tid i).isEmpty) then s.flushTeam tid
      else
      let s := t.asks.foldl (fun s a => match a with
        | .host j _ => s.finishJ j 0x0A
        | _ => s) s
      let s := s.modTeam tid (fun t => { t with
        place := .gone, released := true, asks := [], area := none, due := false, held := false, deque := [], slack := [], boards := [] })
      let s := s.modNode t.graph t.node (fun x => { x with live := x.live - 1 })
      let x := s.node t.graph t.node
      if x.live = 0 && (x.failed || x.total ≤ x.next) then s.endNode t.graph t.node (if x.failed then 4 else 1) else s)

end Sys2Proof.Machine
end

