-- ==== Sys2Proof/Machine/Save.lean ====
section
/-!
DEFINITION. Save.lean: pre-emption (09 R167 to R170; 05 R98 to R102; 11 R201; 19 R293; 20 R310; 21 R320; 25 R349): the stop, the
save and the restore of a team, and RESUME (09 R163).
-/
namespace Sys2Proof.Machine

-- the save area (05 R98 to R101) ---------------------------------------------------------------------------------------------------

/-- The lengths of the header and the eleven classes. -/
def Team.sizes (t : Team) : List Nat :=
  let n := t.launch.n
  let v := (List.range n).foldl (fun a i => a + 4096 * (tget {} t.cohs i).valloc) 0
  [4096, 512 * n, 512 * n, v, 64 * n, 64 * n, 0x840, 1024, 1024, if t.launch.acc then 1048576 else 0,
   t.launch.scratch + t.launch.queue, t.launch.opbuf]

/-- Where each class starts: at the next 4 KiB boundary after the one before it. -/
def Team.offset (t : Team) (k : Nat) : Nat := (t.sizes.take k).foldl (fun a n => a + (n + 4095) / 4096 * 4096) 0

/-- LEN (05 R99). -/
def Team.areaLen (t : Team) : Nat := t.offset 11 + t.launch.opbuf

/-- A list of fields, each a value and its bytes. -/
def fields (l : List (Nat × Nat)) : List Byte := (l.map (fun e => leBytes e.1 e.2)).flatten

/-- The header (05 R99). -/
def Team.header (t : Team) (done : Bool) : List Byte :=
  fields ([(8, 1 + t.launch.n * 2 ^ 16 + nbit t.launch.acc * 2 ^ 22 + nbit done * 2 ^ 23), (8, t.number), (8, t.launch.addr.toNat),
    (8, t.nodeAddr.toNat), (8, t.core + t.q0 * 2 ^ 7), (8, t.saveTime.toNat)] ++
    (List.range 11).map (fun i => (8, t.offset (i + 1))) ++ [(8, t.areaLen)])

/-- COND of a lane (05 R100). -/
def Cohort.cond (c : Cohort) (l : Nat) : Cond :=
  if c.exited.getLsbD l then .exited else if c.parked.getLsbD l then .parked else if c.waiting.getLsbD l then .waiting else .runnable

def Cond.code : Cond → Nat
  | .runnable => 0
  | .waiting => 1
  | .parked => 2
  | .exited => 3

/-- A cohort's block of the PCs class (05 R100). -/
def Cohort.pcBlock (c : Cohort) : List Byte :=
  let ls := List.range 32
  fields (ls.map (fun l => (8, (tget 0 c.pc l).toNat)) ++ ls.map (fun l => (4, (tget 0 c.sr l).toNat)) ++
    ls.map (fun l => (1, (c.cond l).code)) ++
    [(4, c.fpflags.toNat), (4, c.valloc), (8, c.hangctl.toNat), (8, c.mvratio.toNat), (8, c.trappc.toNat), (8, nbit c.trapstat),
     (8, c.hangcnt.toNat), (48, 0)])

/-- A hardware-wait record as it is saved (09 R169): REMAIN in units of 256 core clocks, rounded up. -/
def HwRec.units (h : HwRec) : Nat := (h.remain + 254) / 256
def HwRec.image (h : HwRec) : Nat :=
  let arg := if h.kind = 1 then h.ma + h.mb * 16 + h.ps * 256 else if h.kind = 2 then h.mb * 16 else h.imm % 512
  h.lanes.toNat + h.kind * 2 ^ 32 + arg * 2 ^ 36 + h.units % 4096 * 2 ^ 48

/-- A cohort's block of the barrier image (09 R169). -/
def Cohort.barBlock (c : Cohort) : List Byte :=
  fields ((List.range 12).map (fun i => (1, tget 0 c.f i)) ++ [(4, 0)] ++ (List.range 6).map (fun j => (8, (tget {} c.hw j).image)))

/-- The team barrier's 64 bytes (07 R139). -/
def Barrier.image (b : Barrier) : List Byte :=
  fields [(8, nbit b.isOpen + b.mreg * 2 + b.gen.toNat * 2 ^ 32), (8, b.waitcoh.toNat), (8, (b.remain - 1) + nbit b.bounded * 2 ^ 48), (40, 0)]

/-- A cohort's predicates, a byte for each lane, and its mask registers (05 R101). -/
def Cohort.pBlock (c : Cohort) : List Byte :=
  fields ((List.range 32).map (fun l =>
    (1, (List.range 8).foldl (fun a r => a + nbit ((c.pget r).getLsbD l) * 2 ^ r) 0)) ++ [(32, 0)])
def Cohort.mBlock (c : Cohort) : List Byte := fields ((List.range 12).map (fun i => (4, (tget 0 c.m i).toNat)) ++ [(16, 0)])

/-- Each cohort's block, in ascending index. -/
def Team.each (t : Team) (f : Cohort → List Byte) : List Byte := ((List.range t.launch.n).map (fun i => f (tget {} t.cohs i))).flatten

/-- The v class: each cohort's slots in the granule layout of 05 R95. Of a retired cohort whose granules have returned it holds what now stands in
those granules: the model's choice (log entry 45). -/
def State.vBytes (s : State) (tid : Nat) : List Byte :=
  let t := s.team tid
  ((List.range t.launch.n).map (fun i => ((List.range (8 * (s.coh tid i).valloc)).map (fun r =>
    ((List.range 32).map (fun l => bytesOf 16 (s.vget tid i l r))).flatten)).flatten)).flatten

/-- The bytes of a class. -/
def State.classBytes (s : State) (tid k : Nat) : List Byte :=
  let t := s.team tid
  match k with
  | 0 => t.header false
  | 1 => t.each Cohort.pcBlock
  | 2 => t.each (fun c => fields ((List.range 64).map (fun i => (8, if i = 63 then 0 else (tget 0 c.s i).toNat))))
  | 3 => s.vBytes tid
  | 4 => t.each Cohort.pBlock
  | 5 => t.each Cohort.mBlock
  | 6 => t.bar.image ++ t.each Cohort.barBlock ++ List.replicate (0x800 - 64 * t.launch.n) 0
  | 7 => fields ((List.range 16).map (fun i => (64, (tget 0 t.t i).toNat)))
  | 8 => fields ((List.range 8).map (fun i => (128, (tget 0 t.k i).toNat)))
  | 9 => if t.launch.acc then fields ((List.range 262144).map (fun i => (4, (tget 0 (s.core t.core).acc i).toNat))) else []
  | 10 => s.runRead t 2 0 (t.launch.scratch + t.launch.queue)
  | _ => s.runRead t 3 0 t.launch.opbuf

-- the stop (09 R167; 20 R310; 21 R320) --------------------------------------------------------------------------------------------------

/-- Whether every thread of a team stands where a pre-emption may find it. -/
def Team.standing (t : Team) : Bool :=
  t.cohs.all (fun e => (List.range 32).all (fun l => !(e.2.runnable.getLsbD l) || fld (tget 0 e.2.pc l) 60 4 = 0))

/-- The lowest free area of a function's save pool that is long enough (25 R349). -/
def State.freeArea (s : State) (vf len : Nat) : Option Nat :=
  let f := s.fn vf
  let used := s.teams.filterMap (fun e => if e.2.vf = vf then e.2.area else none)
  if f.savesz * 4096 < len then none
  else ((List.range f.savecnt).map (fun i => f.savebase + f.savesz * 4096 * i)).find? (fun a => !(used.contains a))

/-- The answer to those who asked for a pre-emption (25 R350). -/
def State.answer (s : State) (asks : List Asker) (status : Nat) : State :=
  asks.foldl (fun s a => match a with
    | .host j _ => s.finishJ j status
    | _ => s) s

/-- An armed request leaves its slot and keeps its count on its flag (20 R310). -/
def BoardSlot.record (b : BoardSlot) : BoardRec :=
  { key := b.key, sched := b.sched, dest := b.dest, t := b.t, coh := b.coh, lost := b.lost, crc1 := b.crc1, op := b.op }

/-- What a plane's last ring delivery is recorded as (08 R153; 20 R310). -/
def Plane.refill (p : Plane) (k : Nat) : List BoardRec :=
  match p.src with
  | some r => [{ r with refill := true, plane := k, op := 0 }]
  | none => []

/-- Armed requests of a team that f selects leave their slots and go into the team's boarding record. -/
def State.recordBoards (s : State) (tid : Nat) (f : Nat → Bool) : State :=
  let t := s.team tid
  -- what a word has disarmed is not recorded
  let s := ((s.core t.core).boards.filter (fun e => e.2.tid = tid && e.2.state = 1 && e.2.quit != 0)).foldl (fun s e => s.cancelBoard t.core e.1) s
  let armed := (s.core t.core).boards.filter (fun e => e.2.tid = tid && e.2.state = 1 && f e.1)
  let recs := armed.map (fun e => { e.2.record with refill := decide (4 ≤ e.1), plane := e.2.plane })
  (armed.foldl (fun s e => s.modCore t.core (fun c => (c.setBoard e.1 {}).unlockBoard e.1)) s).modTeam tid (fun t =>
    { t with boards := t.boards ++ recs })

/-- The boarding record of a team at its stop: armed requests are disarmed (20 R310). -/
def State.stopBoards (s : State) (tid : Nat) : State := s.recordBoards tid (fun i => decide (i < 4))

/-- The refills that the record takes when the matrix queue and the deliveries of the stopped team have ended (08 R153; 20 R310): those still
pending, which its queued streams have waited for until then (log entry 30), and each plane's last ring delivery. -/
def State.stopPlanes (s : State) (tid : Nat) : State :=
  let t := s.team tid
  let c := s.core t.core
  if t.launch.acc then (s.recordBoards tid (fun i => decide (4 ≤ i))).modTeam tid (fun t =>
    { t with boards := t.boards ++ c.active.refill 1 ++ c.shadow.refill 0 })
  else s

/-- Copy commands that wait for a RESUME are withdrawn, and kept with the team (11 R201). -/
def State.stopCopies (s : State) (tid : Nat) : State :=
  let t := s.team tid
  let waits (x : CopyCmd) : Bool := x.op != 0 && x.tid = tid && x.wait.isSome
  let gone := ((s.core t.core).chans.map (fun h => h.2.queue.filter waits)).flatten
  (s.modCore t.core (fun c => c.withdraw waits)).modTeam tid (fun t => { t with copies := t.copies ++ gone })

/-- A cohort at the stop: the waits that carry no record are runnable at their word again (09 R169). -/
def Cohort.stop (c : Cohort) : Cohort :=
  let ls := c.polls.foldl (fun a p => a ||| p.lanes) 0
  { c with polls := [], pre := none, waiting := c.waiting &&& ~~~ls, last := c.last &&& ~~~ls }

/-- A team's private lines leave its L1, the dirty ones written back (10 R175). -/
def State.dropPriv (s : State) (tid : Nat) : State :=
  let core := (s.team tid).core
  (((s.core core).l1.filter (fun e => e.2.priv && e.2.owner / 32 = tid)).map (·.1)).foldl (fun s l => s.l1Drop 0 core l) s

/-- The unfoldings of a team, by cohort. -/
def Team.unfs (t : Team) : List (Nat × Unf) := t.cohs.filterMap (fun e => e.2.unf.map (fun u => (e.1, u)))

/-- The recursion engines of a team write their control blocks for its stop, those that have not (23 R341). -/
def State.saveBlocks (s : State) (tid : Nat) : State :=
  ((s.team tid).unfs.filter (fun e => e.2.due % 2 = 0)).foldl (fun s e => s.saveBlock tid e.1 e.2 1) s

/-- TEAM_STOP: every cohort has stopped, after all that its core clock completes and in a clock after that of the request (09 R171); without
a save area the team goes on. The stop waits until the recursion engines have written their control blocks and what they have accepted has landed (23
R341). The save begins here: the area's TIME is the stop's (05 R99; log entry 40). R167; 25 R349. -/
def execTeamStop (s : State) : Out :=
  let tid := s.arg 0
  let s := s.closeTeam tid
  let t := s.team tid
  .next (if t.place != .resident || t.terminated || t.asks.isEmpty || s.clk ≤ t.askClk || !t.standing then s
    else
      match s.freeArea t.vf t.areaLen with
      | none => (s.answer t.asks 8).modTeam tid (fun t => { t with asks := [] })
      | some a =>
        if t.unfs.any (fun e => !(s.ended e.2.ops)) then s
        else if t.unfs.any (fun e => e.2.due % 2 = 0) then s.saveBlocks tid
        else
        let s := s.modTeam tid (fun t => { t.applySigs with
          place := .stopped, area := some a, saved := 0, saveTime := s.timebase, cohs := t.cohs.map (fun e => (e.1, e.2.stop)) })
        (((s.stopBoards tid).stopCopies tid).markAbsent tid).dropPriv tid)

-- the save (09 R168; 19 R293) ------------------------------------------------------------------------------------------------------------

/-- Whether the save may write a class. -/
def State.maySave (s : State) (tid k : Nat) : Bool :=
  let t := s.team tid
  let c := s.core t.core
  let regs := (tsome s.ops).all (fun o => o.2.tid != tid || o.2.dest = .none) && (tsome s.grants).all (fun g => g.2.tid != tid || g.2.op = 0)
  let mtx := c.mq.all (fun e => e.tid != tid)
  let copies := c.chans.all (fun h => h.2.queue.all (fun x => x.op = 0 || x.tid != tid))
  let boards := c.boards.all (fun b => b.2.tid != tid || b.2.state != 2)
  if k = 2 || k = 3 then regs else if k = 9 then mtx else if k = 10 || k = 11 then copies && mtx && boards else true

/-- The live deque goes to its spill area: the oldest task to slot HEAD mod D (19 R293). -/
def State.spillDeque (s : State) (tid : Nat) : State :=
  let t := s.team tid
  match s.taskDepth t with
  | none => s
  | some _ =>
    let w := s.qWord t t.launch.scratch
    let n := t.deque.length
    let e := s.senseTasks t tid 0 n t.vf
    let s := e.1.spoil 0 t.vf e.2
    let s := (List.range n).foldl (fun s i =>
      s.qWrite t (qSlot w (qHead w + i)) (bytesOf 32 (t.deque.getD i 0))) s
    (s.qWrite t t.launch.scratch (bytesOf 8 (setFld w 48 16 (qHead w + n)))).setDeque tid []

/-- A saved team re-enters the pool, unless it is held (19 R281; 25 R350). A `brk` holds it (log entry 21). -/
def State.requeue (s : State) (tid : Nat) : State :=
  let t := s.team tid
  let hold := t.asks.any (fun a => match a with
    | .host _ h => h
    | .dispatcher => false
    | .plodor _ => true)
  let s := s.modTeam tid (fun t => { t with held := hold, asks := [] })
  if hold then s else s.enterPool t.graph t.node

/-- Words of the runs that the save of a class reads: an uncorrectable error among them has no consumer but the log (10 R182). -/
def State.senseClass (s : State) (tid k : Nat) : State :=
  let t := s.team tid
  let log (x : State × Option (Nat × Nat × Nat)) : State := match x.2 with
    | some e => x.1.logError 0x11 t.vf e.1 e.2.1 e.2.2 []
    | none => x.1
  if k = 10 then log (s.senseRun t 2 0 (t.launch.scratch + t.launch.queue)) else if k = 11 then log (s.senseRun t 3 0 t.launch.opbuf) else s

/-- TEAM_SAVE: the next class is written, once what it waits for is over; after the last one DONE is set. R168, R98. -/
def execTeamSave (s : State) : Out :=
  let tid := s.arg 0
  let s := if (s.team tid).place = .stopped then s.stopCopies tid else s
  let t := s.team tid
  .next (match t.area with
    | none => s
    | some a =>
      if t.place != .stopped || t.terminated || !(s.maySave tid t.saved) then s
      else
        let s := (if t.saved = 10 then s.spillDeque tid else s).senseClass tid t.saved
        let bs := s.classBytes tid t.saved
        let pad := List.replicate ((bs.length + 4095) / 4096 * 4096 - bs.length) (0 : Byte)
        let s := (s.cpWrite t.vf (a + t.offset t.saved) (bs ++ pad)).modTeam tid (fun t => { t with saved := t.saved + 1 })
        if t.saved < 11 then s
        else
          let s := s.cpWrite t.vf a ((t.header true).take 8)
          let s := (s.stopPlanes tid).modTeam tid (fun t => { t with place := .saved, slack := [] })
          (s.answer t.asks 1).requeue tid)

-- RESUME (09 R163; 11 R201; 23 R368) -------------------------------------------------------------------------------------------------------

/-- The lanes, the copy command or the engine's step of a park-table entry go on; lanes in an engine's wait are not parked (23 R368). -/
def State.unpark (s : State) (p : Park) (fseq : Nat) : State :=
  let s := if p.engine then s else s.modCoh p.tid p.coh (fun c => { c with parked := c.parked &&& ~~~p.lanes, last := c.last &&& ~~~p.lanes })
  match p.copy with
  | none => s
  | some x =>
    s.modCore (s.team p.tid).core (fun c => c.setChan x.ch { c.chan x.ch with
      queue := (c.chan x.ch).queue.map (fun y => if y.op = x.op && y.wait = some fseq then { y with wait := none } else y) })

/-- RESUME of a function's FSEQ: applied at once, or, of a team that is not resident, at its restore. -/
def State.applyResume (s : State) (vf fseq : Nat) : State :=
  match tget none s.parks (vf * 65536 + fseq) with
  | none => s
  | some p =>
    let t := s.team p.tid
    if t.place = .resident then
      let s : State := { s with parks := Machine.tset none s.parks (vf * 65536 + fseq) none }
      s.unpark p fseq
    else s.modTeam p.tid (fun t => { t with resumes := if t.resumes.contains fseq then t.resumes else t.resumes ++ [fseq] })

-- the restore (09 R170; 05 R102) ------------------------------------------------------------------------------------------------------------

/-- The v class is written back. -/
def State.loadV (s : State) (tid a : Nat) : State :=
  let t := s.team tid
  let start (i : Nat) : Nat := (List.range i).foldl (fun x k => x + 4096 * (s.coh tid k).valloc) 0
  let r := s.fetchBytes t.vf (a + t.offset 3) (start t.launch.n)
  ((List.range t.launch.n).map (fun i => (List.range (8 * (s.coh tid i).valloc * 32)).map (fun j => (i, j)))).flatten.foldl (fun u e =>
    u.vset tid e.1 (e.2 % 32) (e.2 / 32) (BitVec.ofNat 128 (ofLeBytes ((r.2.drop (start e.1 + 16 * e.2)).take 16)))) r.1

/-- The a, scratch and operand-buffer classes are written back. -/
def State.loadRuns (s : State) (tid a : Nat) : State :=
  let t := s.team tid
  let scr := s.fetchBytes t.vf (a + t.offset 10) (t.launch.scratch + t.launch.queue)
  let op := scr.1.fetchBytes t.vf (a + t.offset 11) t.launch.opbuf
  let s := (op.1.runWrite t 2 (wbytes 0 scr.2)).runWrite t 3 (wbytes 0 op.2)
  if t.launch.acc then
    let x := s.fetchBytes t.vf (a + t.offset 9) 1048576
    let acc : Tab (BitVec 32) :=
      (List.range 262144).foldl (fun m i => Machine.tset 0 m i (BitVec.ofNat 32 (ofLeBytes ((x.2.drop (4 * i)).take 4)))) []
    x.1.modCore t.core (fun c => { c with acc := acc })
  else s

/-- Whether a part of a team's area cannot be reached by the command processor's packets (18 R272). -/
def State.areaLost (s : State) (t : Team) (a : Nat) : Bool :=
  (List.range ((t.areaLen + 127) / 128)).any (fun i => s.lost 0x111 (a + 128 * i))

/-- The deque is loaded from its spill area (19 R293). -/
def State.loadDeque (s : State) (tid : Nat) : State :=
  let t := s.team tid
  match s.taskDepth t with
  | none => s
  | some _ =>
    let w := s.qWord t t.launch.scratch
    s.pushTasks tid ((List.range (qCount w)).map (fun i => BitVec.ofNat 256 (ofLeBytes (s.qRead t (qSlot w (qHead w + i)) 32))))

/-- The planes are reloaded from the records that name them (08 R153). -/
def State.loadPlanes (s : State) (tid : Nat) : State :=
  let t := s.team tid
  let from? (k : Nat) : Plane :=
    match t.t.find? (fun e => Tile.valid e.2 && Tile.pl e.2 = k) with
    | some e => s.loadPlane t e.2
    | none => {}
  if t.launch.acc then
    ((s.modCore t.core (fun c => { c with active := from? 2, shadow := from? 1 })).mendPlaces t.core (planePlace 0) (2 ^ 18))
  else s

/-- The recorded requests in slots of the new core: requests in the free ones of the four, refills in the two of their own. -/
def Core.rearm (c : Core) (tid : Nat) : List BoardRec → Option Core
  | [] => some c
  | r :: rs =>
    let slots := if r.refill then [4, 5] else [0, 1, 2, 3]
    match slots.find? (fun i => (c.boardAt i).state = 0 || (c.boardAt i).state = 3) with
    | none => none
    | some i =>
      (c.setBoard i { state := 1, key := r.key, sched := r.sched, dest := r.dest, t := r.t, tid := tid, coh := r.coh, lost := r.lost
                      crc1 := r.crc1, pending := true, op := r.op, plane := r.plane }).rearm tid rs

/-- The bases of re-armed requests are those of their records (20 R304). -/
def Core.rebase (c : Core) (tid : Nat) (t : Team) : Core :=
  { c with boards := c.boards.map (fun e =>
      (e.1, if e.2.tid = tid && e.2.dest = 1 && e.2.state = 1 then { e.2 with base := Tile.base (tget 0 t.t e.2.t) } else e.2)) }

/-- The withdrawn copy commands are accepted again, behind those already there (11 R201). -/
def Core.retake : List CopyCmd → Core → Option Core
  | [], c => some c
  | x :: xs, c => (c.takeCopy { x with ok := false, pages := [] }).bind (Core.retake xs)

/-- A cohort at its restore: the timeouts go on in units of 256 core clocks (09 R169, R170), LOCKWAIT
restarts (24 R347), and the words its quad held are gone. -/
def Cohort.restored (c : Cohort) : Cohort :=
  { c with words := [], lockwait := 0, hw := c.hw.map (fun e => (e.1, if e.2.remain = 0 then e.2 else { e.2 with remain := 256 * e.2.units + 1 })) }

/-- SAVE-INVALID (05 R99; 09 R165). -/
def State.saveInvalid (s : State) (tid a : Nat) : State :=
  s.terminate tid (rec512 (s.faultWords tid 0 0 { cause := 0x1E, pages := [a] } true))

/-- TEAM_RESTORE: the classes are written back, then the planes, the boarding requests, the lock-chain entries, the timeouts, the
RESUMEs, the copy commands and the recursion engines' control blocks; only then may a cohort issue. R170; 23 R341. -/
def execTeamRestore (s : State) : Out :=
  let tid := s.arg 0
  let t := s.team tid
  .next (match t.area with
    | none => s
    | some a =>
      if t.place != .saved || !t.due || t.terminated || s.areaLost t a then s
      else
        let m := s.fetchBytes t.vf a 8
        let s := m.1
        let h := ofLeBytes m.2
        if h % 65536 != 1 || h / 2 ^ 23 % 2 != 1 then s.saveInvalid tid a
        else
          match ((s.core t.core).rearm tid t.boards).bind (Core.retake t.copies) with
          | none => s
          | some c =>
            let s := (((s.loadV tid a).loadRuns tid a).loadDeque tid).loadPlanes tid
            let c : Core := { s.core t.core with boards := c.boards, chans := c.chans, rlocks := c.rlocks }
            let s := (s.setCore t.core (c.rebase tid t)).markPresent tid
            let s := s.modTeam tid (fun t => { t with
              place := .resident, due := false, area := none, saved := 0, boards := [], copies := [], resumes := []
              cohs := t.cohs.map (fun e => (e.1, e.2.restored)) })
            let s := t.resumes.foldl (fun s f => s.applyResume t.vf f) s
            -- a control block still owed is written, and each is read again (23 R341, R368)
            ((s.team tid).unfs.filter (fun e => e.2.due != 0)).foldl (fun s e => s.dueBlock tid e.1 e.2) s)

end Sys2Proof.Machine
end

