-- ==== Sys2Proof/Machine/Ring.lean ====
section
/-!
DEFINITION. Ring.lean: the ring dike (20 R296 to R311): lap schedules, slots, and the boarding requests at the stops. Clocks are
ring clocks.
-/
namespace Sys2Proof.Machine

-- lap schedules (20 R297, R298) --------------------------------------------------------------------------------------------------

/-- CRC-32C of RFC 3720 (20 R297). -/
def crcByte (c : BitVec 32) (b : Byte) : BitVec 32 :=
  (List.range 8).foldl (fun c _ => if bit c 0 then (c >>> 1) ^^^ 0x82F63B78 else c >>> 1) (c ^^^ b.setWidth 32)
def crc32c (bs : List Byte) : Nat := (~~~(bs.foldl crcByte 0xFFFFFFFF)).toNat

/-- A slot record, as its four words. -/
abbrev SlotRec := List (BitVec 64)
def slotKey (r : SlotRec) : Nat := fld (r.getD 0 0) 16 20 + fld (r.getD 0 0) 0 16 * 2 ^ 20
def slotFmt (r : SlotRec) : Nat := fld (r.getD 0 0) 36 8
def slotSrc (r : SlotRec) : Nat := fld (r.getD 1 0) 0 52

/-- Whether a record keeps R297, its key's place in the list apart. -/
def slotOk (r : SlotRec) : Bool :=
  let w := r.getD 0 0
  fmtGroup (slotFmt r) != 0 && (!(bit w 44) || (1 ≤ slotFmt r && slotFmt r ≤ 15)) && fld w 45 19 = 0 && slotSrc r % 65536 = 0 &&
    fld (r.getD 1 0) 52 12 = 0 && fld (r.getD 2 0) 16 16 = 0 && r.getD 3 0 = 0

def State.sched (s : State) (i : Nat) : Sched := tget {} s.scheds i
def State.modSched (s : State) (i : Nat) (f : Sched → Sched) : State := { s with scheds := tmod {} s.scheds i f }

/-- The loaded schedules. -/
def State.loadedScheds (s : State) : List Nat := (List.range 4).filter (fun i => (s.sched i).loaded)

/-- Every credit returns to 0 (20 R298). -/
def State.clearCredits (s : State) : State := (List.range 4).foldl (fun s i => s.modSched i (fun x => { x with credit := 0 })) s

/-- The pick of the smooth weighted round robin, with the credits after it (20 R298). -/
def State.pick (s : State) : Option (Nat × State) :=
  let ls := s.loadedScheds
  let s := ls.foldl (fun s j => s.modSched j (fun x => { x with credit := x.credit + x.share })) s
  let total := ls.foldl (fun a j => a + (s.sched j).share) 0
  let best := ls.foldl (fun (m : Option Nat) j =>
    match m with
    | none => some j
    | some k => if (s.sched k).credit < (s.sched j).credit then some j else m) none
  best.map (fun i => (i, s.modSched i (fun x => { x with credit := x.credit - total })))

/-- The record of a list's slot, as the inlet of a die reads it for the owner (18 R269). -/
def State.slotRec (s : State) (owner list idx : Nat) : State × SlotRec :=
  let a := list + 32 * idx
  let r := s.readFor owner (lineAt a) (0x112 + dieOf (s.homeSlice (lineAt a))) 0 64
  (r.1, words64 4 (lineBytes r.2 (a % 128) 32))

/-- The keys of a list as memory holds it. -/
def State.listKeys (s : State) (list n : Nat) : List Nat :=
  (List.range n).map (fun i => slotKey (words64 4 (s.peek (list + 32 * i) 32)))

/-- Armed requests of a schedule whose key a list no longer holds end REMOVED (20 R309). -/
def State.removeKeys (s : State) (i : Nat) (keys : List Nat) : State :=
  s.cores.foldl (fun s c =>
    (c.2.boardsOf (fun b => b.state = 1 && !b.pending && b.sched = i && !(keys.contains b.key))).foldl (fun s e =>
      s.endBoard c.1 e.1 endRemoved) s) s

/-- A schedule's new list, or its removal, takes effect (20 R298, R309); the credits return to 0 when the loaded set or a share changes. -/
def State.setSched (s : State) (i : Nat) (x : Nat × Nat × Nat × Nat) : State :=
  let was := s.sched i
  let n := x.2.1
  let keys := if n = 0 then [] else s.listKeys x.1 n
  let y : Sched := if n = 0 then {} else
    { list := x.1, nslot := n, share := x.2.2.1, owner := x.2.2.2, loaded := true, fresh := true }
  let same := was.loaded = y.loaded && was.share = y.share
  let s := s.modSched i (fun _ => { y with credit := was.credit })
  let s := if same then s else s.clearCredits
  if was.loaded then s.removeKeys i keys else s

-- the issue of slots (20 R298 to R300) --------------------------------------------------------------------------------------------

/-- A payload as the inlet reads it: its bytes, from the home slices of its 512 lines. -/
def State.payload (s : State) (owner src : Nat) : State × List Byte :=
  (List.range 512).foldl (fun (r : State × List Byte) i =>
    let pa := src + 128 * i
    let y := r.1.readFor owner pa (0x112 + dieOf (s.homeSlice src)) 0 64
    (y.1, r.2 ++ bytesOf 128 y.2)) (s, [])

/-- The earliest issue clock of the next slot, from a position (20 R299). -/
def State.issueFrom (s : State) (p : Nat) : Nat :=
  if s.ringSn = 0 then 0 else s.ringClk + max (16 + (p + 132 - s.ringPos) % 132) ((256 + s.rspd - 1) / s.rspd)

/-- The next slot of a schedule is put on the ring, when its clock has come. -/
def State.putSlot (s : State) (i : Nat) : Option State :=
  let x := s.sched i
  let r := s.slotRec x.owner x.list x.next
  let before := if x.next = 0 then none else some (slotKey (words64 4 (s.peek (x.list + 32 * (x.next - 1)) 32)))
  let key := slotKey r.2
  let good := slotOk r.2 && before.all (fun k => k < key)
  let pos := dieRing (dieOf (s.homeSlice (slotSrc r.2)))
  if s.rclk < s.issueFrom pos then none
  else
    let d := r.1.payload x.owner (slotSrc r.2)
    let s := d.1
    let slot : RSlot := { sched := i, idx := x.next, lap := (tget 0 s.ringlap i).toNat, key := key, fmt := slotFmt r.2
                          inf := bit (r.2.getD 0 0) 44, x := BitVec.ofNat 16 (fld (r.2.getD 2 0) 0 16), crc := fld (r.2.getD 2 0) 32 32
                          pos := pos, clk := s.rclk, payload := gather [] (place 0 d.2), bad := !good }
    let s := s.modSched i (fun x => { x with next := if x.next + 1 < x.nslot then x.next + 1 else 0, fresh := false })
    some { s with ring := Machine.tset none s.ring s.ringSn (some slot), ringSn := s.ringSn + 1, ringClk := s.rclk, ringPos := pos }

/-- SLOT_ISSUE: the next slot of the picked schedule. Before a further slot 0 stands a lap boundary: RINGLAP counts, and a new list
takes effect, after which the pick is made again. R299, R298, R311. -/
def execSlotIssue (s : State) : Out :=
  .next (match s.pick with
    | none => s
    | some (i, t) =>
      let x := s.sched i
      if x.next = 0 && !x.fresh then
        let lap (s : State) : State := { s with ringlap := tmod 0 s.ringlap i (· + 1) }
        match x.pend with
        | some p => (lap s).setSched i p
        | none => ((lap t).putSlot i).getD s
      else (t.putSlot i).getD s)

-- the stops (20 R302, R303) -------------------------------------------------------------------------------------------------------------

def Core.modBoard (c : Core) (i : Nat) (f : BoardSlot → BoardSlot) : Core := c.setBoard i (f (c.boardAt i))

/-- A request loses a lap (20 R303, R304). -/
def Core.lose (c : Core) (i : Nat) : Core := c.modBoard i (fun b => { b with lost := min 65535 (b.lost + 1) })

/-- A pass that a request misses. -/
def Core.miss (c : Core) (i : Nat) : Core := { c.lose i with ringmiss := c.ringmiss + 1 }

/-- The stop takes a request, checks it and arms it (20 R302, R303). -/
def State.arm (s : State) (core i : Nat) : State :=
  let b := (s.core core).boardAt i
  if b.state != 1 || !b.pending || s.rclk < b.ask then s
  else
    let vf := (s.team b.tid).vf
    let x := s.sched b.sched
    if !(s.permits (144 + core) vf core 4) || !(s.permits (144 + core) vf core (5 + b.sched)) then
      (s.refuse vf 2 core core 4 b.key).endBoard core i endRefused
    else if !x.loaded || !((s.listKeys x.list x.nslot).contains b.key) then s.endBoard core i endAbsent
    else
      s.modCore core (fun c =>
        let c := c.modBoard i (fun b => { b with pending := false, arm := s.rclk })
        if (tget none c.lastkey b.sched).any (fun k => b.key ≤ k) then c.miss i else c)

/-- What a ring clock does first at a stop: the disarms, then the armings (20 R308). -/
def State.stopWords (s : State) (core : Nat) : State :=
  ((s.takeQuits core).core core).boards.foldl (fun s e => s.arm core e.1) (s.takeQuits core)

/-- BOARD_ARM: after the disarms of its ring clock. R302, R303, R308. -/
def execBoardArm (s : State) : Out := .next ((s.takeQuits (s.arg 0)).arm (s.arg 0) (s.arg 1))

/-- The clock in which a slot's header reaches a core's stop (20 R299). -/
def RSlot.at_ (r : RSlot) (core : Nat) : Nat := r.clk + (corePos core + 132 - r.pos) % 132

/-- Whether a `wload` is filling the shadow plane. -/
def Core.filling (c : Core) : Bool := c.mq.any (fun e => e.filling)

/-- An armed request takes the passage, or misses it (20 R303). -/
def Core.takePass (c : Core) (vf sn a : Nat) (r : RSlot) (i : Nat) : Core :=
  let b := c.boardAt i
  if a < b.arm + 8 || (b.into 0 && c.filling) then c.miss i
  else
    let c := c.setBoard i { b with state := 2, sn := sn, lap := r.lap, beats := 0 }
    if b.dest = 1 then
      let l : RLock := { valid := true, kind := 2, space := 3, vf := vf, tid := b.tid, engine := 9 + i, base := b.base
                         fin := b.base + 65536, op := b.op }
      { c with rlocks := Machine.tset {} c.rlocks (28 + i) l }
    else c

/-- A slot leaves the ring when it has returned to its inlet, with its last beat (20 R299), and every landing from it has been checked. -/
def State.dropSlot (s : State) (sn : Nat) : State :=
  match tget none s.ring sn with
  | some r =>
    if r.clk + 148 ≤ s.rclk && s.cores.all (fun c => c.2.boards.all (fun b => b.2.state != 2 || b.2.sn != sn)) then
      { s with ring := Machine.tset none s.ring sn none } else s
  | none => s

/-- A slot's header reaches a stop, once its clock has come (20 R299, R303); a stop whose HCRC check fails ignores it (R300). -/
def State.passage (s : State) (core sn : Nat) : State :=
  match tget none s.ring sn with
  | none => s
  | some r =>
    let a := r.at_ core
    if s.rclk < a || r.seen.contains core || 128 ≤ core then s
    else
      let s : State := { s with ring := Machine.tset none s.ring sn (some { r with seen := core :: r.seen }) }
      if r.bad then s
      else
        s.modCore core (fun c =>
          let c := { c with lastkey := Machine.tset none c.lastkey r.sched (some r.key) }
          (c.boardsOf (fun b => b.state = 1 && !b.pending && b.sched = r.sched && b.key = r.key)).foldl (fun c e =>
            c.takePass (s.team e.2.tid).vf sn a r e.1) c)

/-- The headers that have reached a stop (20 R308). -/
def State.arrivals (s : State) (core : Nat) : State := (s.ring.map (·.1)).foldl (fun s sn => s.passage core sn) (s.stopWords core)

/-- SLOT_PASSAGE: after the disarms and the armings of its ring clock. R303, R308. -/
def execSlotPassage (s : State) : Out := .next ((s.stopWords (s.arg 0)).passage (s.arg 0) (s.arg 1))

-- deliveries (20 R304, R305) --------------------------------------------------------------------------------------------------------------

/-- The plane that a payload fills (20 R297, R304; 08 R151). -/
def RSlot.plane (r : RSlot) (src : BoardRec) : Plane :=
  let b := fmtBits r.fmt
  let rb := 32 * b
  let w := (List.range (groupDepth (fmtGroup r.fmt))).foldl (fun w k =>
    let bs := (List.range rb).map (fun j => tget 0 r.payload (rb * k + j))
    (List.range 256).foldl (fun w n =>
      let c := codeAt bs b n
      if b = 16 then
        Machine.tset 0 (Machine.tset 0 w (2 * (k * 256 + n)) (BitVec.ofNat 8 c)) (2 * (k * 256 + n) + 1) (BitVec.ofNat 8 (c / 256))
      else Machine.tset 0 w (k * 256 + n) (BitVec.ofNat 8 c)) w) []
  { w := w, fmt := r.fmt, inf := r.inf, x := r.x, empty := false, src := some src }

/-- Put a plane: 0 shadow, 1 active. -/
def Core.setPlane (c : Core) (k : Nat) (p : Plane) : Core := if k = 0 then { c with shadow := p } else { c with active := p }

/-- The beats that have come land, 4,096 bytes in each ring clock from the header's on; with the last of them the ring-destination lock goes, as its
clock ends (20 R304; 13 R217). Of a plane, which nothing reads while it is landing in (08 R152, R153), all are put at the end. -/
def State.landBeats (s : State) (core i : Nat) : State :=
  let b := (s.core core).boardAt i
  match tget none s.ring b.sn with
  | none => s
  | some r =>
    if b.state != 2 || b.dest != 1 then s
    else
      let n := min 16 (s.rclk + 1 - r.at_ core)
      let bs := (List.range (4096 * (n - b.beats))).map (fun j => tget 0 r.payload (4096 * b.beats + j))
      let s := (s.runWrite (s.team b.tid) 3 (wbytes (b.base + 4096 * b.beats) bs)).modCore core (fun c => c.modBoard i (fun b => { b with beats := n }))
      if r.at_ core + 16 ≤ (s.clk + 1) / 2 then s.modCore core (fun c => c.unlockBoard i) else s

/-- A delivery whose CRC matches. -/
def State.deliver (s : State) (core i : Nat) (b : BoardSlot) (r : RSlot) : State :=
  let s := s.modCore core (fun c => c.modBoard i (fun b => { b with crc1 := false }))
  let s := if b.dest = 1 then s
    else
      let src : BoardRec := { b.record with crc1 := false, lost := 0 }
      ((s.modCore core (fun c => c.setPlane b.plane (r.plane src))).mendPlaces core (planePlace b.plane) (2 ^ 17)).modPl b.tid (fun p => if p = b.plane + 1 then 0 else p)
  (s.modCore core (fun c => { c with taken := c.taken + 1 })).endBoard core i endDone

/-- The corrupted-tile report, and the fault of the cohort that boarded (20 R305). -/
def State.corruptTile (s : State) (core : Nat) (b : BoardSlot) : State :=
  let t := s.team b.tid
  let s := s.report t.vf (rec512 [0x04 + t.vf * 2 ^ 8 + core * 2 ^ 16 + t.slot * 2 ^ 23 + b.coh * 2 ^ 28 + b.sched * 2 ^ 34,
    b.key / 2 ^ 20 + b.key % 2 ^ 20 * 2 ^ 16 + b.lap * 2 ^ 36, s.timebase.toNat])
  if (s.coh b.tid b.coh).retired then
    s.terminate b.tid (rec512 (s.faultWords b.tid b.coh 0 (tileFault (b.key, b.sched)) true))
  else s.modCoh b.tid b.coh (fun c => { c with tiles := c.tiles ++ [(b.key, b.sched)] })

/-- A delivery whose CRC does not match: the bytes are undefined (log entry 3), the plane is EMPTY (20 R304, R305). A request that
a stop of its team has left armed joins the boarding record (R310). It is counted as a delivery taken too, after its CRC outcome (24 R346). -/
def State.corrupt (s : State) (core i : Nat) (b : BoardSlot) : State :=
  let s := if b.dest = 1 then
      let bs := (List.range 65536).map (fun j => Config.freeByte s.freeCtr j)
      { s with freeCtr := s.freeCtr + 1 }.runWrite (s.team b.tid) 3 (wbytes b.base bs)
    else s.modCore core (fun c => c.setPlane b.plane {})
  let s := s.modCore core (fun c => { c.lose i with ringcrc := c.ringcrc + 1, taken := c.taken + 1 })
  let c := s.core core
  let b := c.boardAt i
  if b.cancel then s.endBoard core i endCancelled
  else if b.crc1 then (s.endBoard core i endCorrupt).corruptTile core b
  else
    let b := { b with crc1 := true, state := 1 }
    if (s.team b.tid).place = .stopped then
      let rec' : BoardRec := { b.record with refill := decide (4 ≤ i), plane := b.plane }
      (s.modCore core (fun c => (c.setBoard i {}).unlockBoard i)).modTeam b.tid (fun t => { t with boards := t.boards ++ [rec'] })
    else s.modCore core (fun c => (c.setBoard i b).unlockBoard i)

/-- The comparison of a landing's CRC, in the clock after its last beat (20 R304). -/
def State.crcCheck (s : State) (core i : Nat) : State :=
  let b := (s.core core).boardAt i
  match tget none s.ring b.sn with
  | none => s
  | some r =>
    if b.state != 2 || s.rclk < r.at_ core + 16 then s
    else
      let bytes := (List.range 65536).map (fun j => tget 0 r.payload j)
      if crc32c bytes = r.crc then s.deliver core i b r else s.corrupt core i b

/-- The landing slots of a core, each in its turn. -/
def State.landings (s : State) (core : Nat) (f : State → Nat → State) : State :=
  ((s.core core).boards.filter (fun b => b.2.state = 2)).foldl (fun s b => f s b.1) s

/-- DELIVERY_CRC_CHECK: after the arrivals of its ring clock. R304, R308. -/
def execDeliveryCrcCheck (s : State) : Out :=
  .next ((((s.arrivals (s.arg 0)).landBeats (s.arg 0) (s.arg 1))).crcCheck (s.arg 0) (s.arg 1))

/-- The ring's part of a core clock that ends, stop by stop in the order of R308: the disarms, the armings, the arrivals, and, when the beats have
landed, the CRC outcomes; a slot that has returned leaves. -/
def State.closeRing (s : State) : State :=
  let s := (s.cores.map (·.1)).foldl (fun s c => s.stopWords c) s
  let s := (s.ring.map (·.1)).foldl (fun s sn => (List.range 128).foldl (fun s core => s.passage core sn) s) s
  let s := (s.cores.map (·.1)).foldl (fun s c => (s.landings c (fun s i => s.landBeats c i)).landings c (fun s i => s.crcCheck c i)) s
  (s.ring.map (·.1)).foldl (fun s sn => s.dropSlot sn) s

end Sys2Proof.Machine
end

