-- ==== Sys2Proof/Machine/Host.lean ====
section
/-!
DEFINITION. Host.lean: the host interface (25 R348 to R358): commands, registers, bring-up, the module's reset, the governor.
-/
namespace Sys2Proof.Machine

/-- Host bus memory, as the command processor reads it. -/
def State.hostBytes (s : State) (a n : Nat) : List Byte := memBytes s.hostMem (a % 2 ^ 52) n
def State.hostWords (s : State) (a n : Nat) : List (BitVec 64) := words64 n (s.hostBytes a (8 * n))

-- taking a command (25 R350 to R352) -------------------------------------------------------------------------------------------------

/-- Whether a function has a slot for the command processor: its CQHEAD is behind its CQTAIL, and CQOVR is 0 (25 R348, R351). -/
def State.pending (s : State) (fn : Nat) : Bool :=
  let f := s.fn fn
  decide (fn ≤ s.nvf) && f.cqlgd != 0 && !f.cqovr && f.cqhead != f.cqtail

/-- The function whose slot comes next in the round (25 R351). -/
def State.nextFn (s : State) : Option Nat :=
  let fs := (List.range 33).filter (fun f => s.pending f)
  match fs.find? (fun f => s.round ≤ f) with
  | some f => some f
  | none => fs.head?

/-- The command in a function's next slot; its target is the function itself, but for the PF (25 R350). -/
def State.slotCmd (s : State) (fn : Nat) : Cmd :=
  let f := s.fn fn
  let slot := f.cqbase + 64 * (f.cqhead.toNat % 2 ^ f.cqlgd)
  let w := s.hostWords slot 6
  { fn := fn, slot := slot, jseq := (s.jseq + 1).toNat, typ := fld (w.getD 0 0) 0 8
    tvf := if fn = 0 then fld (w.getD 0 0) 8 6 else fn, a := w.drop 1 }

def Cmd.arg (c : Cmd) (i : Nat) : BitVec 64 := c.a.getD i 0

/-- A command's event: four times TYPE, and OP of a PREEMPT, or SUB of a POLDER-SET. -/
def Cmd.kind (c : Cmd) : Nat :=
  4 * c.typ + (if c.typ = 3 then fld (c.arg 1) 32 2 else if c.typ = 4 then fld (c.arg 0) 4 2 else 0)

/-- What a command does: it completes with a status, or goes on. -/
inductive Did where
  | ends (s : State) (status : Nat)
  | goes (s : State)

/-- Whether the slot's first word breaks R350. -/
def State.badSlot (s : State) (c : Cmd) : Bool :=
  let w := (s.hostWords c.slot 1).getD 0 0
  fld w 14 50 != 0 || 32 < c.tvf

/-- Accept a function's next slot (25 R351, R352): CQHEAD, JSEQ and the journal entry advance, and the command has its effect. While
a RESET-VF is in effect no further slot is taken. -/
def State.takeCmd (s : State) (fn kind : Nat) (pfOnly : Bool) (k : State → Cmd → Did) : State :=
  let c := s.slotCmd fn
  if s.mstate != 2 || s.nextFn != some fn || c.kind != kind || s.cmds.any (fun c => c.typ = 8) then s
  else
    let entry := BitVec.ofNat 256 (c.jseq + (c.typ + fn * 2 ^ 8) * 2 ^ 64 + s.timebase.toNat * 2 ^ 128)
    let f := s.fn fn
    let s := s.setFn fn { f with cqhead := f.cqhead + 1 }
    let s : State := { s with jseq := s.jseq + 1, journal := Machine.tset 0 s.journal (c.jseq % 65536) entry
                              cmds := s.cmds ++ [c], round := fn + 1 }
    if s.badSlot c then s.finish c 7
    else if pfOnly && fn != 0 then s.finish c 6
    else
      match k s c with
      | .ends s x => s.finish c x
      | .goes s => s

/-- A command whose TYPE or OP is reserved (25 R350). -/
def State.badCommand (s : State) (fn : Nat) : State := s.takeCmd fn (s.slotCmd fn).kind false (fun s _ => .ends s 7)

/-- Whether a function's work stops a POLDER-SET or a key command (18 R263). -/
def State.busyVf (s : State) (vf : Nat) : Bool :=
  s.teams.any (fun t => t.2.vf = vf && t.2.place != .gone) ||
    s.graphs.any (fun g => g.2.vf = vf && (List.range g.2.n).any (fun i => !(tget {} g.2.nodes i).ended)) ||
    s.pumps.any (fun p => (p.2.queue ++ p.2.mesh).any (fun l => l.vf = vf) || p.2.run.any (fun r => r.launch.vf = vf))

/-- Whether a polder holds a resident or saved team (18 R263). -/
def State.busyPolder (s : State) (i : Nat) : Bool := s.teams.any (fun t => t.2.polder = i && t.2.place != .gone)

-- graphs (19 R279, R280) ----------------------------------------------------------------------------------------------------------------

/-- A node from its record and its successor list; the second part says BADNODE (19 R279, R280). -/
def State.nodeOf (s : State) (vf n : Nat) (w : List (BitVec 64)) (succ : List Nat) : Node × Bool :=
  let x := w.getD 0 0
  let ops := w.drop 8
  let launch := w.getD 1 0
  let pol := s.polder (fld x 4 4)
  let bad := fld x 9 7 != 0 || fld x 48 16 != 0 || w.getD 3 0 != 0 || fld (w.getD 4 0) 9 55 != 0 || w.getD 6 0 != 0 || w.getD 7 0 != 0 ||
    !pol.valid || !(pol.vfmask.getLsbD vf) || succ.any (fun k => n ≤ k) ||
    ops.any (fun o => fld o 62 2 != 0 || (fld o 60 2 != 0 && fld o 40 20 = 0)) ||
    (bit x 0 && (fld launch 0 6 != 0 || fld launch 52 12 != 0))
  ({ pump := bit x 0, prio := fld x 1 3, polder := fld x 4 4, failpol := bit x 8, npred := fld x 32 16, launch := launch
     succ := succ.filter (fun k => k < n)
     operands := (ops.filter (fun o => fld o 40 20 != 0 && fld o 60 2 != 0)).map (fun o => (fld o 0 40, fld o 40 20, fld o 60 2)) }, bad)

/-- Read a node's record and successor list. -/
def State.readNode (s : State) (vf base n i : Nat) : State × Option (Node × Bool) :=
  match s.cpRead vf (base + 128 * i) 128 with
  | (s, none) => (s, none)
  | (s, some bs) =>
    let w := words64 16 bs
    let k := fld (w.getD 0 0) 16 16
    match s.cpRead vf (w.getD 2 0).toNat (4 * k) with
    | (s, none) => (s, none)
    | (s, some ss) => (s, some (s.nodeOf vf n w ((List.range k).map (fun j => ofLeBytes ((ss.drop (4 * j)).take 4)))))

/-- Read every node of a graph, in ascending index. -/
def State.readNodes (vf base n : Nat) : Nat → State → Option (List (Node × Bool)) → State × Option (List (Node × Bool))
  | _, s, none => (s, none)
  | 0, s, some l => (s, some l.reverse)
  | k + 1, s, some l =>
    let r := s.readNode vf base n (n - (k + 1))
    State.readNodes vf base n k r.1 (r.2.map (fun x => x :: l))

/-- SUBMIT_GRAPH: the nodes are loaded, those without predecessors enter the pool, and bad ones end. R280, R281. -/
def execSubmitGraph (s : State) : Out :=
  .next (s.takeCmd (s.arg 0) 4 false (fun s c =>
    let base := (c.arg 0).toNat
    let n := fld (c.arg 1) 0 17
    if base % 128 != 0 || 2 ^ 52 ≤ base || fld (c.arg 1) 17 47 != 0 || n = 0 || 65536 < n then .ends s 7
    else
      match State.readNodes c.tvf base n n s (some []) with
      | (s, none) => .ends s 7
      | (s, some l) =>
        let f := s.fresh
        let g := f.2
        let x : Graph := { vf := c.tvf, base := base, n := n, cmd := c, nodes := (List.range n).foldl (fun t i =>
          Machine.tset {} t i (l.getD i ({}, false)).1) [] }
        let s : State := { f.1 with graphs := Machine.tset {} f.1.graphs g x }
        let bad (i : Nat) : Bool := (l.getD i ({}, false)).2
        let s := (List.range n).foldl (fun s i => if !(bad i) && (s.node g i).npred = 0 then s.enterPool g i else s) s
        let s := (List.range n).foldl (fun s i => if bad i then s.endNode g i 7 else s) s
        .goes s))

/-- RESUME. R163. -/
def execResume (s : State) : Out :=
  .next (s.takeCmd (s.arg 0) 8 false (fun s c =>
    if fld (c.arg 0) 16 48 != 0 then .ends s 7 else .ends (s.applyResume c.tvf (fld (c.arg 0) 0 16)) 1))

/-- The team that a PREEMPT names, and for which f holds. -/
def State.named (s : State) (c : Cmd) (f : Team → Bool) : Option (Nat × Team) :=
  s.teams.find? (fun t => t.2.vf = c.tvf && t.2.nodeAddr = c.arg 0 && t.2.number = fld (c.arg 1) 0 32 && !t.2.terminated && f t.2)

/-- A pre-emption is asked of a resident team (25 R350). -/
def State.preempt (s : State) (c : Cmd) (hold : Bool) : Did :=
  if fld (c.arg 1) 34 30 != 0 then .ends s 7
  else
    match s.named c (fun t => t.place = .resident || t.place = .stopped) with
    | some (tid, _) => .goes (s.modTeam tid (fun t => t.ask (.host c.jseq hold) s.clk))
    | none => .ends s 0x0A

/-- PREEMPT, OP 0. R167, R350. -/
def execPreempt (s : State) : Out := .next (s.takeCmd (s.arg 0) 12 false (fun s c => s.preempt c false))

/-- PREEMPT, OP 1. R167, R350. -/
def execPreemptHold (s : State) : Out := .next (s.takeCmd (s.arg 0) 13 false (fun s c => s.preempt c true))

/-- PREEMPT, OP 2: a held team re-enters the pool. R350. -/
def execPreemptRelease (s : State) : Out :=
  .next (s.takeCmd (s.arg 0) 14 false (fun s c =>
    if fld (c.arg 1) 34 30 != 0 then .ends s 7
    else
      match s.named c (fun t => t.place = .saved && t.held) with
      | some (tid, t) => .ends ((s.modTeam tid (fun t => { t with held := false })).enterPool t.graph t.node) 1
      | none => .ends s 0x0A))

-- tables (18 R263, R271 to R275; 25 R350) -----------------------------------------------------------------------------------------------

/-- A polder entry from its image, and whether its reserved bits are zero (18 R271). -/
def polderOfImage (w : List (BitVec 64)) : Polder × Bool :=
  let x := w.getD 0 0
  ({ x0 := fld x 0 4, y0 := fld x 4 4, x1 := fld x 8 4, y1 := fld x 12 4, valid := bit x 16, pb := fld (w.getD 1 0) 0 52
     vfmask := BitVec.ofNat 33 (fld (w.getD 2 0) 0 33) },
   fld x 17 47 = 0 && fld (w.getD 1 0) 52 12 = 0 && fld (w.getD 2 0) 33 31 = 0 && w.getD 3 0 = 0)

/-- Whether two polders' rectangles, or their ranges, overlap (18 R271). -/
def Polder.meets (p q : Polder) : Bool :=
  (p.x0 ≤ q.x1 && q.x0 ≤ p.x1 && p.y0 ≤ q.y1 && q.y0 ≤ p.y1) || (p.pb < q.pb + q.bytes && q.pb < p.pb + p.bytes)

/-- The conditions of BADPOLDER on a valid entry (18 R271). -/
def State.badPolder (s : State) (i : Nat) (p : Polder) : Bool :=
  p.x1 < p.x0 || p.y1 < p.y0 || (p.x1 + 1 - p.x0) % 2 = 1 || p.pb % 2 ^ 30 != 0 || 2 ^ 52 < p.pb + p.bytes ||
    s.polders.any (fun e => e.1 != i && e.2.valid && p.meets e.2)

/-- The sites of a rectangle, in ascending index. -/
def Polder.sites (p : Polder) : List Nat :=
  (List.range 256).filter (fun x => p.x0 ≤ x % 16 && x % 16 ≤ p.x1 && p.y0 ≤ x / 16 && x / 16 ≤ p.y1)

/-- The sites of the ports (10 R183). -/
def portSites : List Nat := siteOf (3, 0) :: (List.range 16).map (fun k => siteOf (portXY k))

/-- The conditions of BADROUTE on the tables of a rectangle's routers (18 R272): a turn is one on the way from one of its sites to another, or to a
port's site. -/
def badRoutes (sites : List Nat) (tables : Tab (Option (BitVec 1024))) : Bool :=
  let table (x : Nat) : Option (BitVec 1024) := tget none tables x
  let badCode (x : Nat) : Bool := (List.range 256).any (fun d =>
    let k := fld ((table x).getD 0) (4 * d) 4
    (6 ≤ k && k ≤ 14) || (fullSite x && k = 5))
  sites.any badCode || sites.any (fun a => sites.any (fun d =>
    match follow table (fun x => sites.contains x) d 512 a none [] none none with
    | .turns => true
    | .leaves => true
    | _ => false) ||
    (portSites.filter (fun d => !(sites.contains d))).any (fun d =>
      follow table (fun x => sites.contains x) d 512 a none [] none none = .turns))

/-- POLDER_SET_ENTRY (SUB 0): the polder's entry and the tables of its routers; those of the rectangle it had return to the default.
R271, R272. -/
def execPolderSetEntry (s : State) : Out :=
  .next (s.takeCmd (s.arg 0) 16 true (fun s c =>
    let i := fld (c.arg 0) 0 4
    let a := (c.arg 1).toNat
    let p := polderOfImage (s.hostWords a 4)
    if fld (c.arg 0) 6 58 != 0 || !p.2 then .ends s 7
    else if s.busyPolder i then .ends s 2
    else
      let old := s.polder i
      let was := if old.valid then old.sites else []
      let bare := was.foldl (fun t x => Machine.tset none t x none) s.routes
      if !p.1.valid then .ends { s with polders := Machine.tset {} s.polders i p.1, routes := bare } 1
      else if s.badPolder i p.1 then .ends s 3
      else
        let sites := p.1.sites
        let image (k : Nat) : BitVec 1024 := lineOf (s.hostBytes (a + 32 + 128 * k) 128)
        let tables := (List.range sites.length).foldl (fun t k => Machine.tset none t (sites.getD k 0) (some (image k))) []
        if badRoutes sites tables then .ends s 4
        else .ends { s with polders := Machine.tset {} s.polders i p.1
                            routes := sites.foldl (fun t x => Machine.tset none t x (tget none tables x)) bare } 1))

/-- The targets of a polder, by their sites (18 R269; 10 R183). -/
def Polder.targets (p : Polder) : List Nat :=
  p.slices ++ ((List.range 16).filter (fun k => p.holds (portXY k))).map (fun k => 128 + k) ++ p.cores.map (fun k => 144 + k) ++
    (if p.holds (3, 0) then [272] else []) ++ ((List.range 16).filter (fun k => p.holds (portXY k))).map (fun k => 273 + k)

/-- Put an access-table row (18 R269). -/
def State.setRow (s : State) (vf : Nat) (row : BitVec 512) (target : Nat) : State :=
  { s with access := Machine.tset none s.access (target * 64 + vf) (some row) }

/-- POLDER_SET_ACCESS (SUB 1): the target function's row, at every target in the polder. R269. -/
def execPolderSetAccess (s : State) : Out :=
  .next (s.takeCmd (s.arg 0) 17 true (fun s c =>
    let i := fld (c.arg 0) 0 4
    let row := BitVec.ofNat 512 (ofLeBytes (s.hostBytes (c.arg 1).toNat 64))
    if fld (c.arg 0) 6 58 != 0 || fld row 282 38 != 0 || fld row 329 183 != 0 then .ends s 7
    else if s.busyPolder i || s.busyVf c.tvf then .ends s 2
    else .ends ((s.polder i).targets.foldl (fun s t => s.setRow c.tvf row t) s) 1))

/-- POLDER_SET_TROOT (SUB 2). R264. -/
def execPolderSetTroot (s : State) : Out :=
  .next (s.takeCmd (s.arg 0) 18 true (fun s c =>
    if fld (c.arg 0) 6 58 != 0 then .ends s 7
    else if s.busyVf c.tvf then .ends s 2
    else .ends { s with troot := Machine.tset 0 s.troot c.tvf ((s.hostWords (c.arg 1).toNat 1).getD 0 0) } 1))

/-- Row k of a stack, counted over its channels, banks and rows (18 R273; 15 R225). -/
def stackRow (stack k : Nat) : Nat := (stack * 512 + k / 49152) * 65536 + k % 49152

/-- POLDER_SET_ROWS (SUB 3): a stack's domains, and the domain of a range of its rows. R273. -/
def execPolderSetRows (s : State) : Out :=
  .next (s.takeCmd (s.arg 0) 19 true (fun s c =>
    let bs := s.hostBytes (c.arg 1).toNat 38
    let dom (i : Nat) : BitVec 16 := BitVec.ofNat 16 (ofLeBytes ((bs.drop (2 * (i - 1))).take 2))
    let x := BitVec.ofNat 64 (ofLeBytes (bs.drop 30))
    let stack := fld x 0 4
    let first := fld x 4 26
    let count := fld x 30 26
    let is := (List.range 15).map (· + 1)
    if fld (c.arg 0) 6 58 != 0 || fld x 60 4 != 0 || is.any (fun i => fld (dom i) 9 7 != 0) || 25165824 < first + count then .ends s 7
    else if s.busyPolder (fld (c.arg 0) 0 4) then .ends s 2
    else
      let domains := is.foldl (fun t i => Machine.tset none t (stack * 16 + i) (some (dom i))) s.domains
      let rows := (List.range count).foldl (fun t k => Machine.tset 1 t (stackRow stack (first + k)) (fld x 56 4)) s.rowDom
      .ends { s with domains := domains, rowDom := rows } 1))

/-- RING_LOAD: a lap schedule is loaded, or removed. R298. -/
def execRingLoad (s : State) : Out :=
  .next (s.takeCmd (s.arg 0) 20 false (fun s c =>
    let i := fld (c.arg 0) 0 2
    let share := fld (c.arg 0) 2 5
    let speed := fld (c.arg 0) 7 5
    let list := (c.arg 1).toNat
    let n := fld (c.arg 2) 0 21
    let x := s.sched i
    if fld (c.arg 0) 12 52 != 0 || fld (c.arg 2) 21 43 != 0 || 2 ^ 52 ≤ list || 1048576 < n || 16 < speed ||
        (n != 0 && (share = 0 || 16 < share)) then .ends s 7
    else if x.loaded && x.owner != c.tvf then .ends s 2
    else
      let r := (List.range n).foldl (fun (r : State × List SlotRec) k =>
        let a := list + 32 * k
        let y := r.1.readFor c.tvf (lineAt a) 0x111 0 64
        (y.1, r.2 ++ [words64 4 (lineBytes y.2 (a % 128) 32)])) (s, [])
      let s := r.1
      let good (l : SlotRec) : Bool := slotOk l && s.mapped c.tvf (slotSrc l)
      let rising := ((r.2.map slotKey).zip ((r.2.map slotKey).drop 1)).all (fun e => e.1 < e.2)
      if n != 0 && (list % 32 != 0 || !(r.2.all good) || !rising) then .ends s 5
      else
        let s : State := if c.fn = 0 && speed != 0 then { s with rspd := speed } else s
        let y := (list, n, share, c.tvf)
        .ends (if x.loaded then s.modSched i (fun x => { x with pend := some y }) else s.setSched i y) 1))

/-- KEY_INSTALL. R274. -/
def execKeyInstall (s : State) : Out :=
  .next (s.takeCmd (s.arg 0) 24 false (fun s c =>
    let k := s.key c.tvf
    if s.busyVf c.tvf || k.kstate = 1 then .ends s 2
    else
      let bs := s.hostBytes (c.arg 0).toNat 64
      let new : Key := { kstate := 1, kgen := k.kgen + 1, keys := BitVec.ofNat 512 (ofLeBytes bs) }
      .ends { s with keys := Machine.tset {} s.keys c.tvf new } 1))

/-- The function's line writes that wait at their channels go, as lines of its that a slice holds (18 R275); they are answered. -/
def State.dropWrites (s : State) (vf : Nat) : State :=
  let its (n : NReq) : Bool := n.ws.isSome && n.vf = vf
  let gone := ((s.chans.map (fun c => c.2.filter its)).flatten)
  gone.foldl (fun s n => s.partDone n.rq []) { s with chans := s.chans.map (fun c => (c.1, c.2.filter (fun n => !(its n)))) }

/-- KEY-DESTROY's effect (18 R275): the keys go, and with them every line of the function that a slice or a memory-side cache holds, or that is on its
way to DRAM. -/
def State.destroyKey (s : State) (vf : Nat) : State :=
  let s : State := { s with keys := Machine.tset {} s.keys vf { kstate := 2, kgen := (s.key vf).kgen + 1, keys := 0 } }
  let mine := ((s.slices.map (fun e => (e.2.lines.filter (fun l => l.2.kid = vf)).map (·.1))).flatten)
  let s := (mine.foldl (fun s pa => (s.dropAll pa).delSline pa) s).dropWrites vf
  (List.range 16).foldl (fun s k => s.mscDrop k (fun d => (tget none s.lineMeta d).any (fun m => m.kid = vf))) s

/-- KEY_DESTROY. R275, R263. -/
def execKeyDestroy (s : State) : Out :=
  .next (s.takeCmd (s.arg 0) 28 false (fun s c => if s.busyVf c.tvf then .ends s 2 else .ends (s.destroyKey c.tvf) 1))

-- RESET-VF (25 R350; 09 R165) ------------------------------------------------------------------------------------------------------------

/-- Abort a function's queued and running launches, sections and split products (15 R232; 16 R256). -/
def Pump.abortVf (p : Pump) (vf now : Nat) : Pump :=
  let mark (l : PumpLaunch) : PumpLaunch := if l.vf = vf then { l with abort := true } else l
  { p with
    queue := p.queue.map mark
    mesh := p.mesh.map mark
    run := p.run.map (fun r => { r with
      launch := mark r.launch
      ended := if r.launch.vf = vf && r.launch.kind = 2 && p.sect.any (fun x => x.phase = 0) then some (r.ended.getD 8) else r.ended })
    sect := if p.run.any (fun r => r.launch.vf = vf) then p.sect.map (fun x => x.aborted now) else p.sect }

/-- Every node of a function that has not ended fails with TERMINATED (25 R350). -/
def State.failGraphs (s : State) (vf : Nat) : State :=
  (s.graphs.filter (fun g => g.2.vf = vf)).foldl (fun s g =>
    ((List.range g.2.n).foldl (fun s i =>
      if (s.node g.1 i).ended then s else (s.modNode g.1 i (fun x => { x with failed := true })).noteEnd g.1 i 4) s).checkGraph g.1) s

/-- Step 1: teams, launches and nodes end. -/
def State.endWork (s : State) (vf : Nat) : State :=
  let ts := (s.teams.filter (fun t => t.2.vf = vf && t.2.place != .gone)).map (·.1)
  let s := ts.foldl (fun s t => s.terminate t (rec512 [0x01 + vf * 2 ^ 8 + 2 ^ 34 + 2 ^ 51, 0, 0, 0, 0, 0, 0, s.timebase.toNat])) s
  let s : State := { s with pumps := s.pumps.map (fun (e : Nat × Pump) => (e.1, e.2.abortVf vf s.pclk)) }
  s.failGraphs vf

/-- Steps 2 to 5. -/
def State.wipeVf (s : State) (vf : Nat) : State :=
  let s := (List.range 4).foldl (fun s i => if (s.sched i).loaded && (s.sched i).owner = vf then s.setSched i (0, 0, 0, 0) else s) s
  let s := s.destroyKey vf
  let s := (List.range 289).foldl (fun s t =>
    { s with access := Machine.tset none s.access (t * 64 + vf) (if vf = 0 then some 0 else none) }) s
  let bare (c : Core) : Core := { c with tlb := c.tlb.filter (fun t => t.vf != vf) }
  let cores := s.cores.map (fun (c : Nat × Core) => (c.1, bare c.2))
  let old := s.key vf
  { s with
    troot := Machine.tset 0 s.troot vf 0
    cores := cores
    fseq := Machine.tset 1 s.fseq vf 1
    keys := Machine.tset {} s.keys vf { old with kstate := 0 }
    fns := Machine.tset {} s.fns vf {} }

/-- Whether the end of a launch of a function has yet to be written, or acknowledged (15 R232; 19 R285). -/
def State.writesEnd (s : State) (vf : Nat) : Bool :=
  (tsome s.reqs).any (fun e => 128 ≤ e.2.master && e.2.master < 256 && e.2.vf = vf) ||
    s.pumps.any (fun p => p.2.nodes.any (fun n => (s.graph n.2.1).vf = vf))

/-- RESET_VF: the work of the target ends; when it is gone, with the writes of its launches' ends, the tables are wiped and the command completes. R350, R165. -/
def execResetVf (s : State) : Out :=
  .next (match s.cmds.find? (fun c => c.typ = 8) with
    | some c => if s.busyVf c.tvf || s.writesEnd c.tvf then s else (s.wipeVf c.tvf).finish c 1
    | none => s.takeCmd (s.arg 0) 32 true (fun s c => .goes (s.endWork c.tvf)))

-- registers (25 R348) ----------------------------------------------------------------------------------------------------------------------

/-- Whether the host port takes a write of a function's BAR0: after a failed bring-up, none (25 R348, R353). -/
def State.serves (s : State) (fn : Nat) : Bool := if fn = 0 then s.mstate != 3 else s.mstate = 2 && decide (fn ≤ s.nvf)

/-- Whether it answers a read: of the PF's always, so that a failed bring-up can be seen (25 R348, R354). -/
def State.shows (s : State) (fn : Nat) : Bool := fn = 0 || s.serves fn

/-- A queue's LGD as a write stores it. -/
def lgdOf (v top : Nat) : Nat := if v = 0 then 0 else max 4 (min v top)

/-- A host write of a function's registers. -/
def State.barWrite (s : State) (f : Fn → Nat → Fn) : Out :=
  .next (if s.serves (s.arg 0) then s.setFn (s.arg 0) (f (s.fn (s.arg 0)) (s.arg 1)) else s)

/-- CQTAIL_DOORBELL: CQTAIL is written; more than the queue's slots beyond CQHEAD stops it. R348, R351. -/
def execCqtailDoorbell (s : State) : Out :=
  s.barWrite (fun f v =>
    let t := BitVec.ofNat 16 v
    { f with cqtail := t, cqovr := f.cqovr || (f.cqlgd != 0 && 2 ^ f.cqlgd < (t - f.cqhead).toNat) })

/-- CQLGD_WRITE: a nonzero value enables a disabled queue; 0 disables it. R348. -/
def execCqlgdWrite (s : State) : Out :=
  s.barWrite (fun f v =>
    let n := lgdOf (v % 16) 12
    if n = 0 then { f with cqlgd := 0, cqhead := 0, cqtail := 0, cqovr := false }
    else if f.cqlgd = 0 then { f with cqlgd := n } else f)

/-- FQLGD_WRITE. R348. -/
def execFqlgdWrite (s : State) : Out :=
  s.barWrite (fun f v =>
    let n := lgdOf (v % 32) 16
    if n = 0 then { f with fqlgd := 0, fqrd := 0, fqwr := 0 } else if f.fqlgd = 0 then { f with fqlgd := n } else f)

/-- RQLGD_WRITE. R348. -/
def execRqlgdWrite (s : State) : Out :=
  s.barWrite (fun f v =>
    let n := lgdOf (v % 32) 16
    if n = 0 then { f with rqlgd := 0, rqrd := 0, rqwr := 0 } else if f.rqlgd = 0 then { f with rqlgd := n } else f)

/-- FQRD_WRITE: the driver has consumed records. R348. -/
def execFqrdWrite (s : State) : Out := s.barWrite (fun f v => { f with fqrd := BitVec.ofNat 32 v })

/-- A function's register at an offset that has no event of its own; a write to a read-only one is ignored. -/
def Fn.write (f : Fn) (off v : Nat) : Fn :=
  if off = 0x000 then (if f.cqlgd = 0 then { f with cqbase := v % 2 ^ 52 } else f)
  else if off = 0x020 then (if f.fqlgd = 0 then { f with fqbase := v % 2 ^ 52 } else f)
  else if off = 0x040 then (if f.rqlgd = 0 then { f with rqbase := v % 2 ^ 52 } else f)
  else if off = 0x050 then { f with rqrd := BitVec.ofNat 32 v }
  else if off = 0x068 then { f with savebase := v % 2 ^ 52 }
  else if off = 0x070 then { f with savecnt := v % 2 ^ 16, savesz := v / 2 ^ 16 % 2 ^ 32 }
  else f

/-- REGISTER_WRITE: 8 bytes at an offset of a function's BAR0; of the PF also ELRD and the staging window. R348, R354, R355. -/
def execRegisterWrite (s : State) : Out :=
  let fn := s.arg 0
  let off := s.arg 1
  let v := s.arg 2
  .next (if !(s.serves fn) then s
    else if fn = 0 && off = 0x090 then { s with elrd := BitVec.ofNat 32 v }
    else if fn = 0 && 0x180000 ≤ off && off + 8 ≤ 0x200000 then
      { s with stage := memWrite s.stage (off - 0x180000) (bytesOf 8 (BitVec.ofNat 64 v)) }
    else s.setFn fn ((s.fn fn).write off v))

/-- A word of a function's BAR0 as the host reads it (00 R6; 25 R348, R352, R354, R355): write-only registers, and those of the PF in a VF, read as
zero. -/
def State.barWord (s : State) (fn off : Nat) : Nat :=
  let f := s.fn fn
  let pf (n : Nat) : Nat := if fn = 0 then n else 0
  if off = 0x000 then f.cqbase
  else if off = 0x008 then f.cqlgd
  else if off = 0x010 then f.cqtail.toNat
  else if off = 0x018 then f.cqhead.toNat + nbit f.cqovr * 2 ^ 16
  else if off = 0x020 then f.fqbase
  else if off = 0x028 then f.fqlgd
  else if off = 0x030 then f.fqrd.toNat
  else if off = 0x038 then f.fqwr.toNat
  else if off = 0x040 then f.rqbase
  else if off = 0x048 then f.rqlgd
  else if off = 0x050 then f.rqrd.toNat
  else if off = 0x058 then f.rqwr.toNat
  else if off = 0x060 then f.rqdrop
  else if off = 0x068 then f.savebase
  else if off = 0x070 then f.savecnt + f.savesz * 2 ^ 16
  else if off = 0x078 then f.fqdrop
  else if off = 0x080 then pf s.mstate
  else if off = 0x088 then pf s.elwr.toNat
  else if off = 0x090 then pf s.elrd.toNat
  else if off = 0x098 then pf s.ellost
  else if off = 0x0A8 then pf (s.ldstate + s.lderr * 2 ^ 8)
  else if 0x100000 ≤ off && off < 0x140000 then pf (fld (tget 0 s.errlog ((off - 0x100000) / 64)) (8 * (off % 64)) 64)
  else if 0x200000 ≤ off && off < 0x400000 then pf (fld (tget 0 s.journal ((off - 0x200000) / 32)) (8 * (off % 32)) 64)
  else 0

/-- The host reads 8 bytes of a function's BAR0, at a multiple of 8; what it gets is the model's `hostGot`. -/
def State.barRead (s : State) (fn off : Nat) : State :=
  if s.shows fn && off % 8 = 0 then { s with hostGot := BitVec.ofNat 64 (s.barWord fn off) } else s

/-- A request enters at the host port or at a link port, to be checked at its target as any other master's (01 R17; 25 R356). -/
def State.portRequest (s : State) (master vf : Nat) (kind : ReqKind) (line : Nat) : State :=
  let plain : Bool := match kind with
    | .read _ l1 => l1.isNone
    | .write _ => true
    | .atomic _ _ _ _ => true
    | _ => false
  if 256 ≤ master && master ≤ 272 && plain && (s.home line).isSome && line % 128 = 0 then
    (s.addReq { op := 0, master := master, vf := vf, tid := 0, coh := 32, lanes := 0, kind := kind, line := line }).1
  else s

/-- What reaches the module from outside and is no event (00 R6; 01 R17; 10 R182). -/
def State.input (s : State) (x : Input) : State :=
  match x with
  | .read fn off => s.barRead fn off
  | .enter master vf kind line => s.portRequest master vf kind line
  | .upset unit index place kind => s.setUpset unit index place (min kind 2)

/-- PERFSEL_WRITE: PERFSELi is written, and PERFCi becomes 0. R343, R346. -/
def execPerfselWrite (s : State) : Out :=
  let i := s.arg 1
  .next (if 16 ≤ i || 128 ≤ s.arg 0 then s
    else s.modCore (s.arg 0) (fun c => { c with
      perfsel := Machine.tset 0 c.perfsel i (BitVec.ofNat 64 (s.arg 2 % 2 ^ 12)), perfc := Machine.tset 0 c.perfc i 0 }))

/-- PLODOR_BREAKPOINT_ARM. R132. -/
def execPlodorBreakpointArm (s : State) : Out := .next { s with brk := Machine.tset false s.brk (s.arg 0) (decide (s.arg 1 = 1)) }

-- bring-up (25 R353, R354) -----------------------------------------------------------------------------------------------------------------

/-- A bring-up load fails: LDSTAT shows the code, and the module accepts nothing more (25 R354). -/
def State.loadFails (s : State) (err : Nat) : State := { s with ldstate := 3, lderr := err, mstate := 3 }

/-- The object that has been loaded. -/
def State.loaded (s : State) : List Byte := memBytes s.object 0 s.objLen

/-- The header check (25 R354): 1 bad header, 2 length, 0 neither; `need` is the blob's LEN. -/
def headerErr (bs : List Byte) (magic : Nat) (need : Option Nat) : Nat :=
  let n (o k : Nat) : Nat := ofLeBytes ((bs.drop o).take k)
  if bs.length < 16 || n 0 4 != magic || n 4 2 != 1 || n 6 2 != 0 || n 12 4 != 0 then 1
  else if n 8 4 != bs.length || bs.length < 112 || need.any (fun k => k != bs.length) then 2
  else 0

/-- Whether the blob's fields are in their ranges (25 R354). -/
def blobOk (bs : List Byte) : Bool :=
  let n (o k : Nat) : Nat := ofLeBytes ((bs.drop o).take k)
  1000 ≤ n 0x10 2 && n 0x10 2 ≤ 4600 && 1 ≤ n 0x12 1 && n 0x12 1 ≤ 16 && 60 ≤ n 0x13 1 && n 0x13 1 ≤ 110 && n 0x14 1 ≤ 32 &&
    n 0x16 2 = 0 && (List.range 256).all (fun m => n (0x18 + m) 1 ≤ 15 || n (0x18 + m) 1 = 255)

/-- The firmware image is checked and started (25 R353). -/
def State.startImage (s : State) : State :=
  let bs := s.loaded
  let e := headerErr bs 0x56465A4F none
  if e != 0 then s.loadFails e
  else if !(Ecdsa.signed Config.fusedKey bs) then s.loadFails 3
  else { s with mstate := 1, ldstate := 0, object := [], objLen := 0 }

/-- The configuration blob is checked and applied, and the reset key is drawn (25 R353; 18 R274). -/
def State.applyBlob (s : State) : State :=
  let bs := s.loaded
  let n (o k : Nat) : Nat := ofLeBytes ((bs.drop o).take k)
  let e := headerErr bs 0x42465A4F (some 0x178)
  if e != 0 then s.loadFails e
  else if !(blobOk bs) then s.loadFails 4
  else if !(Ecdsa.signed Config.fusedKey bs) then s.loadFails 3
  else
    { s with
      mstate := 2, ldstate := 0, object := [], objLen := 0
      pcap := n 0x10 2, mfloor := n 0x12 1, tjmax := n 0x13 1, nvf := n 0x14 1, self := n 0x15 1
      portmap := (List.range 256).foldl (fun t m => Machine.tset 0xFF t m (n (0x18 + m) 1)) []
      resetKey := Config.resetKey s.freeCtr, freeCtr := s.freeCtr + 1 }

/-- LDCTL is written: a chunk of an object begins to be taken from the staging window; one that comes while another is being taken fails (25
R354). -/
def State.loadChunk (s : State) (obj : Nat) : State :=
  let len := s.arg 0
  if s.mstate = 3 then s
  else if s.mstate != obj || len < 8 || 524288 < len || len % 8 != 0 || s.ldstate = 1 || (s.ldstate = 2 && s.objKind != obj) then s.loadFails 5
  else
    let s : State := if s.ldstate = 2 then s else { s with object := [], objLen := 0 }
    { s with objKind := obj, ldstate := 1, ldchunk := (len, s.arg 1 != 0) }

/-- The chunk has been taken, at the end of the core clock (log entry 10); after the last one the object is checked (25 R354). -/
def State.closeLoad (s : State) : State :=
  if s.ldstate != 1 then s
  else
    let n := s.ldchunk.1
    let s : State := { s with object := memWrite s.object s.objLen (memBytes s.stage 0 n), objLen := s.objLen + n }
    if !s.ldchunk.2 then { s with ldstate := 2 } else if s.objKind = 0 then s.startImage else s.applyBlob

/-- LDCTL_FIRMWARE. R353, R354. -/
def execLdctlFirmware (s : State) : Out := .next (s.loadChunk 0)

/-- LDCTL_BLOB. R353, R354. -/
def execLdctlBlob (s : State) : Out := .next (s.loadChunk 1)

/-- MODULE_RESET: every part returns to its reset value; DRAM keeps the stored bytes, right or wrong, which the next reset key no longer decrypts (18
R274), and the host's and the peers' memory stands outside the module. R353. -/
def execModuleReset (s : State) : Out :=
  .next { State.reset with
    dram := s.dram, lineMeta := s.lineMeta, upsets := s.upsets.filter (fun e => e.1 % 8 = 3), hostMem := s.hostMem, peerMem := s.peerMem, agenda := s.agenda, freeCtr := s.freeCtr }

-- power, temperature and the link (25 R356 to R358) ----------------------------------------------------------------------------------------

/-- GOVERNOR_INTERVAL: at the end of each 10 us of TIMEBASE, once, from the measured power and the hottest sensor; `govTime` is the end of the last
interval. R357, R358. -/
def execGovernorInterval (s : State) : Out :=
  let p := s.arg 0
  let now := s.timebase.toNat / 10000 * 10000
  .next (if now ≤ s.govTime || s.mstate != 2 then s
    else
      let s : State := { s with govTime := now }
      if s.tjmax < s.arg 1 then { s with md := max (s.md / 2) 1 }
      else if s.pcap < p then
        (if s.mfloor < s.md then { s with md := s.md - 1 } else if 1 < s.bd then { s with bd := s.bd - 1 } else s)
      else if p + 200 < s.pcap then
        (if s.bd < 16 then { s with bd := s.bd + 1 } else if s.md < 16 then { s with md := s.md + 1 } else s)
      else s)

/-- THERMAL_TRIP: at TJMAX + 15 degrees every core stops issuing, and the error log records it. R358, R355. -/
def execThermalTrip (s : State) : Out :=
  .next (if s.arg 1 < s.tjmax + 15 || s.mstate != 2 || s.stopped then s
    else { s with stopped := true }.elog (rec512 [0x13 + 6 * 2 ^ 16 + s.arg 0 * 2 ^ 19, 0, s.timebase.toNat, s.arg 1]))

/-- LINK_LEVEL_REPLAY: the link replays the flit; nothing that a program or the host sees changes. R356. -/
def execLinkLevelReplay (s : State) : Out := .next s

end Sys2Proof.Machine
end

