-- ==== Sys2Proof/Machine/Nominal.lean ====
section
/-!
DEFINITION. Nominal.lean: what may move next when the agenda names nothing (log entry 1): the events that the parts of the state may
take, and the groups in the order of the grouping stages (02 R36); and the performance counters of the core clock (24 R346).
-/
namespace Sys2Proof.Machine

-- performance counters (24 R346) ---------------------------------------------------------------------------------------------------------

/-- The cohorts of a core's quad, with their teams, of resident teams. -/
def State.quadCohorts (s : State) (core q : Nat) : List (Nat × Nat × Cohort) :=
  ((s.teams.filter (fun t => t.2.place = .resident && t.2.core = core)).map (fun t =>
    (t.2.cohs.filter (fun c => c.2.quad = q && !c.2.retired)).map (fun c => (t.1, c.1, c.2)))).flatten

/-- The counts of a core clock that ends: clocks, idle quads, and groups without an instruction-buffer entry. -/
def State.clockCounts (s : State) (core : Nat) : State :=
  let s1 := s.count core 0x01 4 1
  (List.range 4).foldl (fun t q =>
    let cs := s.quadCohorts core q
    let quiet := !cs.isEmpty && tget 0 (s.core core).ports q = 0
    let waits := ((cs.map (fun c => (c.2.2.groups.filter (fun g => !(s.hasEntry c.1 c.2.1 g))).length))).foldl (· + ·) 0
    (t.count core 0x05 q (nbit quiet)).count core 0x06 q waits) s1

/-- The counts of a word that has issued, and of a header passed. -/
def State.wordCounts (s : State) (core quad port : Nat) (header : Bool) : State :=
  let s := s.count core (0x02 + port) quad 1
  if header then s.count core 0x04 quad 1 else s

/-- The deliveries whose CRC the clock before has checked are counted (24 R346). -/
def State.takenCounts (s : State) : State :=
  s.cores.foldl (fun s c => if c.2.taken = 0 then s else (s.count c.1 0x0D 4 c.2.taken).modCore c.1 (fun k => { k with taken := 0 })) s

-- the core clock (02 R36, R37, R39, R40; 09 R171) ----------------------------------------------------------------------------------------

/-- The cohorts of a quad in round-robin order from its pointer. -/
def State.rrOrder (s : State) (core q : Nat) : List (Nat × Nat × Cohort) :=
  let rr := tget 0 (s.core core).rr q
  let place (x : Nat × Nat × Cohort) : Nat := rrPlace (s.team x.1).slot x.2.1
  let all := sortBy (fun a b => place a ≤ place b) (s.quadCohorts core q)
  all.filter (fun x => rr ≤ place x) ++ all.filter (fun x => place x < rr)

/-- What a core's grouping stages offer in a clock: quad by quad, the cohorts in round-robin order, of each the groups that hold an entry,
the most populous first. The first group of a quad that can issue takes port 0, and the next one after it port 1, which is R36's choice:
the cohort's own further groups come first, then those of the cohorts after it. -/
def State.formed (s : State) (core : Nat) : List (Nat × Nat × Nat × Lanes) :=
  ((List.range 4).map (fun q => ((s.rrOrder core q).map (fun c =>
    (c.2.2.byPopulation.filter (fun g => s.hasEntry c.1 c.2.1 g)).map (fun g => (q, c.1, c.2.1, g)))).flatten)).flatten

/-- The cores that hold resident teams. -/
def State.usedCores (s : State) : List Nat := dedup ((s.teams.filter (fun t => t.2.place = .resident)).map (fun t => t.2.core))

/-- The grouping stages form their groups as the clock begins; a core without teams has none, and after a thermal
trip none forms any (25 R358). -/
def State.formAll (s : State) : State :=
  let s : State := { s with cores := s.cores.map (fun c => (c.1, { c.2 with stage := [], ports := [] })) }
  if s.stopped then s else s.usedCores.foldl (fun s n => s.modCore n (fun c => { c with stage := s.formed n })) s

/-- Every hang report that is due (02 R40: when HANGCNT reaches its threshold). -/
def State.hangReports (s : State) : State :=
  s.teams.foldl (fun s t => t.2.cohs.foldl (fun s c => s.hangReport t.1 c.1) s) s

/-- Relayed packets on their way enter the relay buffers, in their order, 16 in each (10 R172, R185; log entry 41). -/
def State.fillRelays (s : State) : State :=
  let out := (tsome s.reqs).filter (fun e => !e.2.waits && !e.2.here)
  (sortBy (fun a b => a.2.seq ≤ b.2.seq) out).foldl (fun s e =>
    match s.wayOf e.2 with
    | .arrives _ (some x) =>
      match (List.range 128).find? (fun n => siteOf (sliceXY n) = x) with
      | some n =>
        let r := (s.slice n).relay
        if r.contains e.1 || 16 ≤ r.length then s else s.setSlice n { s.slice n with relay := r ++ [e.1] }
      | none => s
    | _ => s) s

/-- Requests leave their cores, in their order, when what they follow is done (13 R209, R210; 11 R192). -/
def State.leaveCores (s : State) : State :=
  (sortBy (fun a b => a.2.seq ≤ b.2.seq) ((tsome s.reqs).filter (fun e => e.2.waits))).foldl (fun s e =>
    if s.mayLeave e.2 then
      let f := s.fresh
      f.1.setReq e.1 (some { e.2 with waits := false, seq := f.2 })
    else s) s

/-- No core clock passes without the work of the matrix queues' heads, and without the `aread`s that land in it (08 R151, R154, R156; 01 R370). -/
def State.closeEngines (s : State) : State :=
  let s := s.cores.foldl (fun s c => match s.mhead c.1 with
    | some e => s.after e.mop.step [c.1]
    | none => s) s
  ((tsome s.ops).filter (fun e => e.2.due != 0 && e.2.due ≤ s.clk)).foldl (fun s e => s.after execLoadReturn [e.1]) s

/-- The end of a core clock: what its arrivals complete and what expires in it, for every team (09 R171), the ring's passages (20 R303), the aborts of
queued sections (16 R256), the completions of commands (25 R351), a chunk that is being taken (R354), the matrix queues, with a DRAM clock the commands that it takes (15 R238), the relays, and the counts of the clock. -/
def State.closeClock (s : State) : State :=
  let s := (s.takenCounts.teams.foldl (fun s t => s.closeTeam t.1) s.takenCounts).closeRing.regroupAll
  let s := s.closePumps.lockTimeouts.closeEngines.closeCommands.closeLoad
  let s := if s.dclk < (s.clk + 1) * 5 / 18 then s.closeDram else s
  let s := s.fillRelays
  (s.cores.filter (fun c => !c.2.perfsel.isEmpty)).foldl (fun s c => s.clockCounts c.1) s

/-- A core clock ends, and the next begins. -/
def State.nextClock (s : State) : State := (s.closeClock.tick.hangReports.leaveCores).formAll

-- events that may be taken ------------------------------------------------------------------------------------------------------------------

def ev (i : Instr) (args : List Nat) : Action := .event i args

/-- The event that takes a request. -/
def Req.event (id : Nat) (r : Req) : Action :=
  if r.slice then
    match r.kind with
    | .write _ => ev .sliceWrite [id]
    | .atomic _ _ _ _ => ev .sliceAtomic [id]
    | .lock _ _ _ _ => ev .lockRequest [id]
    | .unlock _ => ev .unlockStep [id]
    | _ => ev .sliceRead [id]
  else ev .meshOperationAtQueueArbiter [id]

/-- The event of the head of a matrix queue. -/
def MEntry.event (core : Nat) (e : MEntry) : Action :=
  match e.mop with
  | .wload _ _ => ev .wloadFill [core]
  | .wswap => ev .wswapExecute [core]
  | .mstream _ _ _ _ _ _ => ev .mstreamExecute [core]
  | .mbatch _ _ _ _ => ev .mbatchExecute [core]
  | .aread _ _ _ _ _ _ _ => ev .areadExecute [core]
  | .astore _ _ _ _ _ => ev .astoreExecute [core]
  | .azero _ _ _ => ev .azeroExecute [core]

/-- The events of a core's units. -/
def Core.events (core : Nat) (c : Core) (slots : List Nat) : List Action :=
  (c.mq.take 1).map (MEntry.event core) ++
    (c.chans.filter (fun h => !h.2.queue.isEmpty)).map (fun h => ev .copyPieceDelivery [core, h.1]) ++
    c.drains.map (fun d => ev .bankmodeDrainComplete [core, d.bank]) ++
    (c.boards.filter (fun b => b.2.pending)).map (fun b => ev .boardArm [core, b.1]) ++
    slots.map (fun n => ev .slotPassage [core, n]) ++
    (c.boards.filter (fun b => b.2.state = 2)).map (fun b => ev .deliveryCrcCheck [core, b.1])

/-- The events of a cohort. Completions, timeouts and hang reports come with the end of the clock. -/
def Cohort.events (tid coh : Nat) (c : Cohort) : List Action :=
    (if c.tiles.isEmpty then [] else c.groups.map (fun g => ev .corruptedTileFault [tid, coh, lowest g])) ++
    (if c.retired then (List.range c.valloc).map (fun j => ev .granuleReturn [tid, coh, j]) else []) ++
    c.polls.map (fun p => Action.poll tid coh (lowest p.lanes)) ++
    (match c.unf with
     | some u => (lanesOf (lanesBy (fun l => !(u.cur l).todo.isEmpty))).map (fun l => ev .routineDispatch [tid, coh, l]) ++
         [ev .levelEnd [tid, coh], ev .unfoldRelease [tid, coh]]
     | none => [])

/-- Whether a team's stop may be taken without asking in vain. -/
def State.stopsNow (s : State) (t : Team) : Bool :=
  t.askClk < s.clk && ((s.freeArea t.vf t.areaLen).isSome || t.asks.any (fun a => a != .dispatcher))

/-- The events of a team. -/
def State.teamEvents (s : State) (tid : Nat) (t : Team) : List Action :=
  (t.cohs.map (fun c => c.2.events tid c.1)).flatten ++
    (if s.stopsNow t then [ev .teamStop [tid]] else []) ++
    [ev .teamSave [tid], ev .teamRestore [tid], ev .teamRelease [tid]]

/-- The events of a pumphouse core. -/
def Pump.events (pc : Nat) (p : Pump) : List Action :=
  (match p.queue.head? with
   | some l => if l.kind = 2 then [ev .sectionStart [pc]] else [ev .pumpLaunchStart [pc]]
   | none => []) ++
    (match p.sect with
     | some x => (x.todo.map (fun n => [ev .sliceClaim [pc, n], ev .sliceSnapshot [pc, n], ev .outcomeAtWindowSlice [pc, n],
         ev .spillRequest [pc, n]])).flatten ++ [ev .sluiceOutcome [pc], ev .segmentCommit [pc], ev .segmentReplay [pc]] ++
         x.lifts.map (fun n => ev .outcomeAtWindowSlice [pc, n])
     | none => []) ++
    (if p.run.isSome then [ev .pumpLimitTimeout [pc], ev .pumpLaunchEnd [pc]] else if p.nodes.isEmpty then [] else [ev .pumpLaunchEnd [pc]])

/-- The events that the state's parts may take, in the model's order. -/
def State.events (s : State) : List Action :=
  let slots := (tsome s.ring).map (·.1)
  (tsome s.reqs).map (fun e => Req.event e.1 e.2) ++ (tsome s.invs).map (fun e => ev .invalidation [e.1]) ++
    (tsome s.acks).map (fun e => ev .writeAcknowledgement [e.1]) ++ (tsome s.ops).map (fun e => ev .loadReturn [e.1]) ++
    (tsome s.walks).map (fun e => ev .walkCompletion [e.1]) ++ (tsome s.grants).map (fun e => ev .lockGrant [e.1]) ++
    (s.locks.map (fun l => l.2.chain.map (fun e => ev .lockTimeout [l.1, e.tid, e.coh]))).flatten ++
    (s.cores.map (fun c => c.2.events c.1 (if c.2.boards.isEmpty then [] else slots))).flatten ++
    s.frecs.map (fun r => ev .faultRecordDeferred [r.vf]) ++
    (s.teams.map (fun t => s.teamEvents t.1 t.2)).flatten ++
    (s.banks.map (fun b => (if b.2.queue.isEmpty then [] else [Action.bank b.1]) ++
      (match b.2.row with
      | some r => ev .bankSuspension [b.1] :: (if r.normal then [ev .normalCommandIssue [b.1 / 16]] else [])
      | none => []) ++ (if b.2.susp.isSome then [ev .bankResumption [b.1]] else []))).flatten ++
    (s.chans.map (fun c => [ev .normalRequestAdmission [c.1], ev .normalCommandIssue [c.1]])).flatten ++
    (s.pumps.map (fun p => Pump.events p.1 p.2)).flatten ++
    (if s.cmds.any (fun c => c.typ = 8) then [ev .resetVf [0]] else if s.mstate = 2 && s.nextFn.isSome then [.command] else []) ++
    (if s.pool.isEmpty then [] else [ev .dispatchDecision [0]]) ++
    (if s.loadedScheds.isEmpty then [] else [ev .slotIssue []])

-- issues (02 R36) ---------------------------------------------------------------------------------------------------------------------------

/-- The offer that the grouping stages make next: the cores in ascending order (01 R19 leaves the order among cores open, log entry 1). -/
def State.nextOffer (s : State) : Option Action :=
  if s.stopped then none
  else
    match s.cores.find? (fun c => !c.2.stage.isEmpty) with
    | some (_, c) =>
      match c.stage.head? with
      | some (q, t, h, g) => some (.issue false (tget 0 c.ports q) t h (lowest g))
      | none => none
    | none => none

/-- The bundles of the pumphouse cores: one for each pumphouse clock. -/
def State.bundles (s : State) : List Action :=
  if s.stopped then []
  else (s.pumps.filter (fun p => p.2.run.any (fun r => r.move != 0 || r.launch.kind = 1 || r.next ≤ s.pclk))).map (fun p => .bundle p.1)

/-- Everything that may move next, in the model's order: the clock's issues first. -/
def State.mayMove (s : State) : List Action := (s.nextOffer).toList ++ s.events ++ s.bundles

end Sys2Proof.Machine
end

