-- ==== Sys2Proof/Machine/Dispatch.lean ====
section
/-!
DEFINITION. Dispatch.lean: the meaning of every instruction and event, one arm each.
-/
namespace Sys2Proof.Machine

def exec (i : Instr) (s : State) : Host.Outcome State Fault Refusal :=
  match i with
  | .clauseHeader y b a w e c => Sys2Proof.Machine.execClauseHeader y b a w e c s
  | .add w d a b h g => Sys2Proof.Machine.execAdd w d a b h g s
  | .sub w d a b h g => Sys2Proof.Machine.execSub w d a b h g s
  | .mul w d a b h g => Sys2Proof.Machine.execMul w d a b h g s
  | .mulhiI w d a b h g => Sys2Proof.Machine.execMulhiI w d a b h g s
  | .mulhiN w d a b h g => Sys2Proof.Machine.execMulhiN w d a b h g s
  | .minI w d a b h g => Sys2Proof.Machine.execMinI w d a b h g s
  | .minN w d a b h g => Sys2Proof.Machine.execMinN w d a b h g s
  | .maxI w d a b h g => Sys2Proof.Machine.execMaxI w d a b h g s
  | .maxN w d a b h g => Sys2Proof.Machine.execMaxN w d a b h g s
  | .shl w d a b h g => Sys2Proof.Machine.execShl w d a b h g s
  | .shrN w d a b h g => Sys2Proof.Machine.execShrN w d a b h g s
  | .shrI w d a b h g => Sys2Proof.Machine.execShrI w d a b h g s
  | .addsI w d a b h g => Sys2Proof.Machine.execAddsI w d a b h g s
  | .addsN w d a b h g => Sys2Proof.Machine.execAddsN w d a b h g s
  | .subsI w d a b h g => Sys2Proof.Machine.execSubsI w d a b h g s
  | .subsN w d a b h g => Sys2Proof.Machine.execSubsN w d a b h g s
  | .and d a b h g => Sys2Proof.Machine.execAnd d a b h g s
  | .or d a b h g => Sys2Proof.Machine.execOr d a b h g s
  | .xor d a b h g => Sys2Proof.Machine.execXor d a b h g s
  | .andn d a b h g => Sys2Proof.Machine.execAndn d a b h g s
  | .popcW d a h g => Sys2Proof.Machine.execPopcW d a h g s
  | .clzW d a h g => Sys2Proof.Machine.execClzW d a h g s
  | .brevW d a h g => Sys2Proof.Machine.execBrevW d a h g s
  | .bfxN32 d a b h g => Sys2Proof.Machine.execBfxN32 d a b h g s
  | .bfxI32 d a b h g => Sys2Proof.Machine.execBfxI32 d a b h g s
  | .bfiW d a b h g => Sys2Proof.Machine.execBfiW d a b h g s
  | .lea d a b h g => Sys2Proof.Machine.execLea d a b h g s
  | .sel d a b h g => Sys2Proof.Machine.execSel d a b h g s
  | .cmpI32 d c a b h g => Sys2Proof.Machine.execCmpI32 d c a b h g s
  | .cmpN32 d c a b h g => Sys2Proof.Machine.execCmpN32 d c a b h g s
  | .cmpI64 d c a b h g => Sys2Proof.Machine.execCmpI64 d c a b h g s
  | .cmpN64 d c a b h g => Sys2Proof.Machine.execCmpN64 d c a b h g s
  | .cmpF32 d c a b h g => Sys2Proof.Machine.execCmpF32 d c a b h g s
  | .cmpF16 d c a b h g => Sys2Proof.Machine.execCmpF16 d c a b h g s
  | .cmpBf16 d c a b h g => Sys2Proof.Machine.execCmpBf16 d c a b h g s
  | .pand d a b g => Sys2Proof.Machine.execPand d a b g s
  | .por d a b g => Sys2Proof.Machine.execPor d a b g s
  | .pxor d a b g => Sys2Proof.Machine.execPxor d a b g s
  | .pandn d a b g => Sys2Proof.Machine.execPandn d a b g s
  | .pmov d a g => Sys2Proof.Machine.execPmov d a g s
  | .pnot d a g => Sys2Proof.Machine.execPnot d a g s
  | .mov d a h g => Sys2Proof.Machine.execMov d a h g s
  | .mvs d s1 g => Sys2Proof.Machine.execMvs d s1 g s
  | .mfv a s1 h g => Sys2Proof.Machine.execMfv a s1 h g s
  | .fadd t d a b h g => Sys2Proof.Machine.execFadd t d a b h g s
  | .fsub t d a b h g => Sys2Proof.Machine.execFsub t d a b h g s
  | .fmul t d a b h g => Sys2Proof.Machine.execFmul t d a b h g s
  | .fma t d a b h g => Sys2Proof.Machine.execFma t d a b h g s
  | .fmin t d a b h g => Sys2Proof.Machine.execFmin t d a b h g s
  | .fmax t d a b h g => Sys2Proof.Machine.execFmax t d a b h g s
  | .fabs t d a h g => Sys2Proof.Machine.execFabs t d a h g s
  | .fneg t d a h g => Sys2Proof.Machine.execFneg t d a h g s
  | .frcpF32 d a h g => Sys2Proof.Machine.execFrcpF32 d a h g s
  | .frsqF32 d a h g => Sys2Proof.Machine.execFrsqF32 d a h g s
  | .fex2F32 d a h g => Sys2Proof.Machine.execFex2F32 d a h g s
  | .flg2F32 d a h g => Sys2Proof.Machine.execFlg2F32 d a h g s
  | .cvtF32F16 d a r q h g => Sys2Proof.Machine.execCvtF32F16 d a r q h g s
  | .cvtF16F32 d a r q h g => Sys2Proof.Machine.execCvtF16F32 d a r q h g s
  | .cvtF32Bf16 d a r q h g => Sys2Proof.Machine.execCvtF32Bf16 d a r q h g s
  | .cvtBf16F32 d a r q h g => Sys2Proof.Machine.execCvtBf16F32 d a r q h g s
  | .cvtF32I32 d a r q h g => Sys2Proof.Machine.execCvtF32I32 d a r q h g s
  | .cvtF32N32 d a r q h g => Sys2Proof.Machine.execCvtF32N32 d a r q h g s
  | .cvtI32F32 d a r q h g => Sys2Proof.Machine.execCvtI32F32 d a r q h g s
  | .cvtN32F32 d a r q h g => Sys2Proof.Machine.execCvtN32F32 d a r q h g s
  | .cvtE2m3F32 d a r q h g => Sys2Proof.Machine.execCvtE2m3F32 d a r q h g s
  | .cvtE3m2F32 d a r q h g => Sys2Proof.Machine.execCvtE3m2F32 d a r q h g s
  | .cvtE2m1F32 d a r q h g => Sys2Proof.Machine.execCvtE2m1F32 d a r q h g s
  | .cvtF32E2m3 d a r q h g => Sys2Proof.Machine.execCvtF32E2m3 d a r q h g s
  | .cvtF32E3m2 d a r q h g => Sys2Proof.Machine.execCvtF32E3m2 d a r q h g s
  | .cvtF32E2m1 d a r q h g => Sys2Proof.Machine.execCvtF32E2m1 d a r q h g s
  | .cvtS8pnF32 n d a r q h g => Sys2Proof.Machine.execCvtS8pnF32 n d a r q h g s
  | .cvtN8pnF32 n d a r q h g => Sys2Proof.Machine.execCvtN8pnF32 n d a r q h g s
  | .cvtF32S8pn n d a r q h g => Sys2Proof.Machine.execCvtF32S8pn n d a r q h g s
  | .cvtF32N8pn n d a r q h g => Sys2Proof.Machine.execCvtF32N8pn n d a r q h g s
  | .shflIdx d a b h g => Sys2Proof.Machine.execShflIdx d a b h g s
  | .shflUp d a s1 h g => Sys2Proof.Machine.execShflUp d a s1 h g s
  | .shflDown d a s1 h g => Sys2Proof.Machine.execShflDown d a s1 h g s
  | .shflXor d a s1 h g => Sys2Proof.Machine.execShflXor d a s1 h g s
  | .voteBallot p s1 g => Sys2Proof.Machine.execVoteBallot p s1 g s
  | .voteAny p s1 g => Sys2Proof.Machine.execVoteAny p s1 g s
  | .voteAll p s1 g => Sys2Proof.Machine.execVoteAll p s1 g s
  | .voteUni p s1 g => Sys2Proof.Machine.execVoteUni p s1 g s
  | .redaddI32 a s1 h g => Sys2Proof.Machine.execRedaddI32 a s1 h g s
  | .redaddF32 a s1 h g => Sys2Proof.Machine.execRedaddF32 a s1 h g s
  | .redminI32 a s1 h g => Sys2Proof.Machine.execRedminI32 a s1 h g s
  | .redmaxI32 a s1 h g => Sys2Proof.Machine.execRedmaxI32 a s1 h g s
  | .redminF32 a s1 h g => Sys2Proof.Machine.execRedminF32 a s1 h g s
  | .redmaxF32 a s1 h g => Sys2Proof.Machine.execRedmaxF32 a s1 h g s
  | .bcast d a s1 h g => Sys2Proof.Machine.execBcast d a s1 h g s
  | .extN8 d a x => Sys2Proof.Machine.execExtN8 d a x s
  | .extN16 d a x => Sys2Proof.Machine.execExtN16 d a x s
  | .extW d a x => Sys2Proof.Machine.execExtW d a x s
  | .insN8 d a x => Sys2Proof.Machine.execInsN8 d a x s
  | .insN16 d a x => Sys2Proof.Machine.execInsN16 d a x s
  | .insW d a x => Sys2Proof.Machine.execInsW d a x s
  | .addiI32 d a q => Sys2Proof.Machine.execAddiI32 d a q s
  | .andi d a q => Sys2Proof.Machine.execAndi d a q s
  | .ori d a q => Sys2Proof.Machine.execOri d a q s
  | .xori d a q => Sys2Proof.Machine.execXori d a q s
  | .shliW d a q => Sys2Proof.Machine.execShliW d a q s
  | .shriN32 d a q => Sys2Proof.Machine.execShriN32 d a q s
  | .shriI32 d a q => Sys2Proof.Machine.execShriI32 d a q s
  | .moviI32 d q => Sys2Proof.Machine.execMoviI32 d q s
  | .sadd d a b => Sys2Proof.Machine.execSadd d a b s
  | .ssub d a b => Sys2Proof.Machine.execSsub d a b s
  | .smul d a b => Sys2Proof.Machine.execSmul d a b s
  | .smulhiI d a b => Sys2Proof.Machine.execSmulhiI d a b s
  | .smulhiN d a b => Sys2Proof.Machine.execSmulhiN d a b s
  | .sand d a b => Sys2Proof.Machine.execSand d a b s
  | .sor d a b => Sys2Proof.Machine.execSor d a b s
  | .sxor d a b => Sys2Proof.Machine.execSxor d a b s
  | .sshl d a b => Sys2Proof.Machine.execSshl d a b s
  | .sshrN d a b => Sys2Proof.Machine.execSshrN d a b s
  | .sshrI d a b => Sys2Proof.Machine.execSshrI d a b s
  | .sminI d a b => Sys2Proof.Machine.execSminI d a b s
  | .smaxI d a b => Sys2Proof.Machine.execSmaxI d a b s
  | .sminN d a b => Sys2Proof.Machine.execSminN d a b s
  | .smaxN d a b => Sys2Proof.Machine.execSmaxN d a b s
  | .smov d a => Sys2Proof.Machine.execSmov d a s
  | .ssltI d a b => Sys2Proof.Machine.execSsltI d a b s
  | .ssltN d a b => Sys2Proof.Machine.execSsltN d a b s
  | .sseq d a b => Sys2Proof.Machine.execSseq d a b s
  | .saddi d a q => Sys2Proof.Machine.execSaddi d a q s
  | .slui d a q => Sys2Proof.Machine.execSlui d a q s
  | .ldN8 d a p o g => Sys2Proof.Machine.execLdN8 d a p o g s
  | .ldI8 d a p o g => Sys2Proof.Machine.execLdI8 d a p o g s
  | .ldN16 d a p o g => Sys2Proof.Machine.execLdN16 d a p o g s
  | .ldI16 d a p o g => Sys2Proof.Machine.execLdI16 d a p o g s
  | .ldW d a p o g => Sys2Proof.Machine.execLdW d a p o g s
  | .ldD d a p o g => Sys2Proof.Machine.execLdD d a p o g s
  | .ldQ d a p o g => Sys2Proof.Machine.execLdQ d a p o g s
  | .stN8 s1 a p o g => Sys2Proof.Machine.execStN8 s1 a p o g s
  | .stN16 s1 a p o g => Sys2Proof.Machine.execStN16 s1 a p o g s
  | .stW s1 a p o g => Sys2Proof.Machine.execStW s1 a p o g s
  | .stD s1 a p o g => Sys2Proof.Machine.execStD s1 a p o g s
  | .stQ s1 a p o g => Sys2Proof.Machine.execStQ s1 a p o g s
  | .stnib s1 a p o g => Sys2Proof.Machine.execStnib s1 a p o g s
  | .stsix s1 a p o g => Sys2Proof.Machine.execStsix s1 a p o g s
  | .lduD d a p o => Sys2Proof.Machine.execLduD d a p o s
  | .stuD s1 a p o => Sys2Proof.Machine.execStuD s1 a p o s
  | .ldacqW d a p s1 g => Sys2Proof.Machine.execLdacqW d a p s1 g s
  | .ldacqD d a p s1 g => Sys2Proof.Machine.execLdacqD d a p s1 g s
  | .ldacqQ d a p s1 g => Sys2Proof.Machine.execLdacqQ d a p s1 g s
  | .strelW s1 a p sc g => Sys2Proof.Machine.execStrelW s1 a p sc g s
  | .strelD s1 a p sc g => Sys2Proof.Machine.execStrelD s1 a p sc g s
  | .strelQ s1 a p sc g => Sys2Proof.Machine.execStrelQ s1 a p sc g s
  | .atomAddI32 d a p o g => Sys2Proof.Machine.execAtomAddI32 d a p o g s
  | .atomAddI64 d a p o g => Sys2Proof.Machine.execAtomAddI64 d a p o g s
  | .atomAddF32 d a p o g => Sys2Proof.Machine.execAtomAddF32 d a p o g s
  | .atomMinI32 d a p o g => Sys2Proof.Machine.execAtomMinI32 d a p o g s
  | .atomMinN32 d a p o g => Sys2Proof.Machine.execAtomMinN32 d a p o g s
  | .atomMaxI32 d a p o g => Sys2Proof.Machine.execAtomMaxI32 d a p o g s
  | .atomMaxN32 d a p o g => Sys2Proof.Machine.execAtomMaxN32 d a p o g s
  | .atomAndW d a p o g => Sys2Proof.Machine.execAtomAndW d a p o g s
  | .atomOrW d a p o g => Sys2Proof.Machine.execAtomOrW d a p o g s
  | .atomXorW d a p o g => Sys2Proof.Machine.execAtomXorW d a p o g s
  | .atomXchgW d a p o g => Sys2Proof.Machine.execAtomXchgW d a p o g s
  | .atomXchgD d a p o g => Sys2Proof.Machine.execAtomXchgD d a p o g s
  | .atomCasW d a p o g => Sys2Proof.Machine.execAtomCasW d a p o g s
  | .atomCasD d a p o g => Sys2Proof.Machine.execAtomCasD d a p o g s
  | .mredAddI32 s1 a p o g => Sys2Proof.Machine.execMredAddI32 s1 a p o g s
  | .mredAddI64 s1 a p o g => Sys2Proof.Machine.execMredAddI64 s1 a p o g s
  | .mredAddF32 s1 a p o g => Sys2Proof.Machine.execMredAddF32 s1 a p o g s
  | .mredMinI32 s1 a p o g => Sys2Proof.Machine.execMredMinI32 s1 a p o g s
  | .mredMinN32 s1 a p o g => Sys2Proof.Machine.execMredMinN32 s1 a p o g s
  | .mredMaxI32 s1 a p o g => Sys2Proof.Machine.execMredMaxI32 s1 a p o g s
  | .mredMaxN32 s1 a p o g => Sys2Proof.Machine.execMredMaxN32 s1 a p o g s
  | .mredAndW s1 a p o g => Sys2Proof.Machine.execMredAndW s1 a p o g s
  | .mredOrW s1 a p o g => Sys2Proof.Machine.execMredOrW s1 a p o g s
  | .mredXorW s1 a p o g => Sys2Proof.Machine.execMredXorW s1 a p o g s
  | .fence s1 k g => Sys2Proof.Machine.execFence s1 k g s
  | .cclean a p o g => Sys2Proof.Machine.execCclean a p o g s
  | .cflush a p o g => Sys2Proof.Machine.execCflush a p o g s
  | .pfetch a p o g => Sys2Proof.Machine.execPfetch a p o g s
  | .cpin d a b c => Sys2Proof.Machine.execCpin d a b c s
  | .cpout d a b c => Sys2Proof.Machine.execCpout d a b c s
  | .cpwait d a c => Sys2Proof.Machine.execCpwait d a c s
  | .bankmode a m => Sys2Proof.Machine.execBankmode a m s
  | .tresv t l o => Sys2Proof.Machine.execTresv t l o s
  | .tfree t => Sys2Proof.Machine.execTfree t s
  | .tset t q => Sys2Proof.Machine.execTset t q s
  | .tsetRows t n => Sys2Proof.Machine.execTsetRows t n s
  | .ksetArm k n => Sys2Proof.Machine.execKsetArm k n s
  | .ksetSign k => Sys2Proof.Machine.execKsetSign k s
  | .ksetOff k => Sys2Proof.Machine.execKsetOff k s
  | .wload t => Sys2Proof.Machine.execWload t s
  | .wswap => Sys2Proof.Machine.execWswap s
  | .mstream t a k v g o m => Sys2Proof.Machine.execMstream t a k v g o m s
  | .mbatch t k v g m => Sys2Proof.Machine.execMbatch t k v g m s
  | .aread r a q c d h e => Sys2Proof.Machine.execAread r a q c d h e s
  | .astore t a o m => Sys2Proof.Machine.execAstore t a o m s
  | .azero a o m => Sys2Proof.Machine.execAzero a o m s
  | .br o g => Sys2Proof.Machine.execBr o g s
  | .bra o g => Sys2Proof.Machine.execBra o g s
  | .call o g => Sys2Proof.Machine.execCall o g s
  | .ret g => Sys2Proof.Machine.execRet g s
  | .jmpi a h g => Sys2Proof.Machine.execJmpi a h g s
  | .calli a h g => Sys2Proof.Machine.execCalli a h g s
  | .join a b => Sys2Proof.Machine.execJoin a b s
  | .leave a => Sys2Proof.Machine.execLeave a s
  | .waitm a b p n => Sys2Proof.Machine.execWaitm a b p n s
  | .bar a b n => Sys2Proof.Machine.execBar a b n s
  | .exit g => Sys2Proof.Machine.execExit g s
  | .nop g => Sys2Proof.Machine.execNop g s
  | .yield g => Sys2Proof.Machine.execYield g s
  | .brk c g => Sys2Proof.Machine.execBrk c g s
  | .donate g c => Sys2Proof.Machine.execDonate g c s
  | .accept g c => Sys2Proof.Machine.execAccept g c s
  | .qinit a b => Sys2Proof.Machine.execQinit a b s
  | .qpush s1 b r g => Sys2Proof.Machine.execQpush s1 b r g s
  | .qpop d b r g => Sys2Proof.Machine.execQpop d b r g s
  | .sarr a b => Sys2Proof.Machine.execSarr a b s
  | .swt a b p => Sys2Proof.Machine.execSwt a b p s
  | .tspawn s1 g => Sys2Proof.Machine.execTspawn s1 g s
  | .ttake d g => Sys2Proof.Machine.execTtake d g s
  | .tsteal d g => Sys2Proof.Machine.execTsteal d g s
  | .llock d a b g => Sys2Proof.Machine.execLlock d a b g s
  | .ltry d a g => Sys2Proof.Machine.execLtry d a g s
  | .lunlock a g => Sys2Proof.Machine.execLunlock a g s
  | .lunlockW s1 a g => Sys2Proof.Machine.execLunlockW s1 a g s
  | .lunlockD s1 a g => Sys2Proof.Machine.execLunlockD s1 a g s
  | .lunlockQ s1 a g => Sys2Proof.Machine.execLunlockQ s1 a g s
  | .lstat d a g => Sys2Proof.Machine.execLstat d a g s
  | .lstatList d b g => Sys2Proof.Machine.execLstatList d b g s
  | .unfold d a b => Sys2Proof.Machine.execUnfold d a b s
  | .spawnf s1 g => Sys2Proof.Machine.execSpawnf s1 g s
  | .fret s1 => Sys2Proof.Machine.execFret s1 s
  | .cres d g => Sys2Proof.Machine.execCres d g s
  | .secopen a b => Sys2Proof.Machine.execSecopen a b s
  | .secabort a => Sys2Proof.Machine.execSecabort a s
  | .secstat d a => Sys2Proof.Machine.execSecstat d a s
  | .pumpgo a b => Sys2Proof.Machine.execPumpgo a b s
  | .pumpwait d a => Sys2Proof.Machine.execPumpwait d a s
  | .mvsplit d a b => Sys2Proof.Machine.execMvsplit d a b s
  | .boardShadow a => Sys2Proof.Machine.execBoardShadow a s
  | .boardTile a t => Sys2Proof.Machine.execBoardTile a t s
  | .unboard a => Sys2Proof.Machine.execUnboard a s
  | .boardstat d a => Sys2Proof.Machine.execBoardstat d a s
  | .mfsr r s1 => Sys2Proof.Machine.execMfsr r s1 s
  | .mtsr r s1 => Sys2Proof.Machine.execMtsr r s1 s
  | .trap c => Sys2Proof.Machine.execTrap c s
  | .tret => Sys2Proof.Machine.execTret s
  | .fencei => Sys2Proof.Machine.execFencei s
  | .pumpMove => Sys2Proof.Machine.execPumpMove s
  | .aluadd => Sys2Proof.Machine.execAluadd s
  | .alusub => Sys2Proof.Machine.execAlusub s
  | .aluand => Sys2Proof.Machine.execAluand s
  | .aluor => Sys2Proof.Machine.execAluor s
  | .aluxor => Sys2Proof.Machine.execAluxor s
  | .alushl => Sys2Proof.Machine.execAlushl s
  | .alushr => Sys2Proof.Machine.execAlushr s
  | .alusra => Sys2Proof.Machine.execAlusra s
  | .alumul => Sys2Proof.Machine.execAlumul s
  | .cmpeq => Sys2Proof.Machine.execCmpeq s
  | .cmplt => Sys2Proof.Machine.execCmplt s
  | .cmpltu => Sys2Proof.Machine.execCmpltu s
  | .sfufma => Sys2Proof.Machine.execSfufma s
  | .sfucvt => Sys2Proof.Machine.execSfucvt s
  | .ldg => Sys2Proof.Machine.execLdg s
  | .lds => Sys2Proof.Machine.execLds s
  | .stg => Sys2Proof.Machine.execStg s
  | .sts => Sys2Proof.Machine.execSts s
  | .bkc => Sys2Proof.Machine.execBkc s
  | .sluice => Sys2Proof.Machine.execSluice s
  | .pumpDone => Sys2Proof.Machine.execPumpDone s
  | .jump => Sys2Proof.Machine.execJump s
  | .jrel => Sys2Proof.Machine.execJrel s
  | .drain => Sys2Proof.Machine.execDrain s
  | .microAct => Sys2Proof.Machine.execMicroAct s
  | .microMac => Sys2Proof.Machine.execMicroMac s
  | .microWb => Sys2Proof.Machine.execMicroWb s
  | .microPre => Sys2Proof.Machine.execMicroPre s
  | .microClr => Sys2Proof.Machine.execMicroClr s
  | .bankSuspension => Sys2Proof.Machine.execBankSuspension s
  | .bankResumption => Sys2Proof.Machine.execBankResumption s
  | .normalRequestAdmission => Sys2Proof.Machine.execNormalRequestAdmission s
  | .pumpLaunchStart => Sys2Proof.Machine.execPumpLaunchStart s
  | .pumpLimitTimeout => Sys2Proof.Machine.execPumpLimitTimeout s
  | .pumpLaunchEnd => Sys2Proof.Machine.execPumpLaunchEnd s
  | .sectionStart => Sys2Proof.Machine.execSectionStart s
  | .sliceClaim => Sys2Proof.Machine.execSliceClaim s
  | .sliceSnapshot => Sys2Proof.Machine.execSliceSnapshot s
  | .sluiceOutcome => Sys2Proof.Machine.execSluiceOutcome s
  | .segmentCommit => Sys2Proof.Machine.execSegmentCommit s
  | .segmentReplay => Sys2Proof.Machine.execSegmentReplay s
  | .spillRequest => Sys2Proof.Machine.execSpillRequest s
  | .sliceRead => Sys2Proof.Machine.execSliceRead s
  | .sliceWrite => Sys2Proof.Machine.execSliceWrite s
  | .sliceAtomic => Sys2Proof.Machine.execSliceAtomic s
  | .invalidation => Sys2Proof.Machine.execInvalidation s
  | .loadReturn => Sys2Proof.Machine.execLoadReturn s
  | .writeAcknowledgement => Sys2Proof.Machine.execWriteAcknowledgement s
  | .l1Eviction => Sys2Proof.Machine.execL1Eviction s
  | .walkCompletion => Sys2Proof.Machine.execWalkCompletion s
  | .faultRecordDeferred => Sys2Proof.Machine.execFaultRecordDeferred s
  | .copyPieceDelivery => Sys2Proof.Machine.execCopyPieceDelivery s
  | .bankmodeDrainComplete => Sys2Proof.Machine.execBankmodeDrainComplete s
  | .gateAccept => Sys2Proof.Machine.execGateAccept s
  | .wloadFill => Sys2Proof.Machine.execWloadFill s
  | .wswapExecute => Sys2Proof.Machine.execWswapExecute s
  | .mstreamExecute => Sys2Proof.Machine.execMstreamExecute s
  | .mbatchExecute => Sys2Proof.Machine.execMbatchExecute s
  | .areadExecute => Sys2Proof.Machine.execAreadExecute s
  | .astoreExecute => Sys2Proof.Machine.execAstoreExecute s
  | .azeroExecute => Sys2Proof.Machine.execAzeroExecute s
  | .donationComplete => Sys2Proof.Machine.execDonationComplete s
  | .waitmTimeout => Sys2Proof.Machine.execWaitmTimeout s
  | .barrierTimeout => Sys2Proof.Machine.execBarrierTimeout s
  | .hangReport => Sys2Proof.Machine.execHangReport s
  | .granuleReturn => Sys2Proof.Machine.execGranuleReturn s
  | .teamRelease => Sys2Proof.Machine.execTeamRelease s
  | .dispatchDecision => Sys2Proof.Machine.execDispatchDecision s
  | .teamStop => Sys2Proof.Machine.execTeamStop s
  | .teamSave => Sys2Proof.Machine.execTeamSave s
  | .teamRestore => Sys2Proof.Machine.execTeamRestore s
  | .slotIssue => Sys2Proof.Machine.execSlotIssue s
  | .boardArm => Sys2Proof.Machine.execBoardArm s
  | .slotPassage => Sys2Proof.Machine.execSlotPassage s
  | .deliveryCrcCheck => Sys2Proof.Machine.execDeliveryCrcCheck s
  | .corruptedTileFault => Sys2Proof.Machine.execCorruptedTileFault s
  | .lockRequest => Sys2Proof.Machine.execLockRequest s
  | .lockGrant => Sys2Proof.Machine.execLockGrant s
  | .unlockStep => Sys2Proof.Machine.execUnlockStep s
  | .lockTimeout => Sys2Proof.Machine.execLockTimeout s
  | .routineDispatch => Sys2Proof.Machine.execRoutineDispatch s
  | .levelEnd => Sys2Proof.Machine.execLevelEnd s
  | .submitGraph => Sys2Proof.Machine.execSubmitGraph s
  | .resume => Sys2Proof.Machine.execResume s
  | .preempt => Sys2Proof.Machine.execPreempt s
  | .preemptHold => Sys2Proof.Machine.execPreemptHold s
  | .preemptRelease => Sys2Proof.Machine.execPreemptRelease s
  | .polderSetEntry => Sys2Proof.Machine.execPolderSetEntry s
  | .polderSetAccess => Sys2Proof.Machine.execPolderSetAccess s
  | .polderSetTroot => Sys2Proof.Machine.execPolderSetTroot s
  | .polderSetRows => Sys2Proof.Machine.execPolderSetRows s
  | .ringLoad => Sys2Proof.Machine.execRingLoad s
  | .keyInstall => Sys2Proof.Machine.execKeyInstall s
  | .keyDestroy => Sys2Proof.Machine.execKeyDestroy s
  | .resetVf => Sys2Proof.Machine.execResetVf s
  | .cqtailDoorbell => Sys2Proof.Machine.execCqtailDoorbell s
  | .cqlgdWrite => Sys2Proof.Machine.execCqlgdWrite s
  | .fqlgdWrite => Sys2Proof.Machine.execFqlgdWrite s
  | .rqlgdWrite => Sys2Proof.Machine.execRqlgdWrite s
  | .fqrdWrite => Sys2Proof.Machine.execFqrdWrite s
  | .registerWrite => Sys2Proof.Machine.execRegisterWrite s
  | .ldctlFirmware => Sys2Proof.Machine.execLdctlFirmware s
  | .ldctlBlob => Sys2Proof.Machine.execLdctlBlob s
  | .perfselWrite => Sys2Proof.Machine.execPerfselWrite s
  | .moduleReset => Sys2Proof.Machine.execModuleReset s
  | .governorInterval => Sys2Proof.Machine.execGovernorInterval s
  | .thermalTrip => Sys2Proof.Machine.execThermalTrip s
  | .normalCommandIssue => Sys2Proof.Machine.execNormalCommandIssue s
  | .outcomeAtWindowSlice => Sys2Proof.Machine.execOutcomeAtWindowSlice s
  | .meshOperationAtQueueArbiter => Sys2Proof.Machine.execMeshOperationAtQueueArbiter s
  | .unfoldRelease => Sys2Proof.Machine.execUnfoldRelease s
  | .linkLevelReplay => Sys2Proof.Machine.execLinkLevelReplay s
  | .plodorBreakpointArm => Sys2Proof.Machine.execPlodorBreakpointArm s

end Sys2Proof.Machine
end

