-- ==== Sys2Proof/Machine/Perform.lean ====
section
/-!
DEFINITION. Perform.lean: one action of the module: the issue of a word, a bundle's next move, a bank's command, a host command, an
event, or a core clock (log entry 1).
-/
namespace Sys2Proof.Machine

/-- The grouping stage has made its offer: the group has issued on its quad's next port, or it has not moved and so was not issuable, and the
next offer follows; after two ports the quad's stage is over for the clock (02 R36). -/
def Core.offerMade (c : Core) (quad : Nat) (moved : Bool) : Core :=
  let n := tget 0 c.ports quad + nbit moved
  let rest := c.stage.drop 1
  { c with ports := tset 0 c.ports quad n, stage := if n = 2 then rest.filter (fun o => o.1 != quad) else rest }

/-- A group of a core has issued: where its threads stand is seen at the end of the clock (02 R37); with none left that can issue, its entry goes at
once. -/
def Core.ranGroup (c : Core) (tid coh : Nat) (g : Lanes) (addr idx : Nat) (left : Bool) : Core :=
  { c with
    ran := c.ran ++ [(tid, coh, g, addr, idx)]
    groups := if left then c.groups else c.groups.filter (fun e => e != (tid, coh, g)) }

/-- Whether an issue at a header has passed it: its group has neither parked there nor taken a fault (24 R346). -/
def State.headerPassed (s t : State) (tid coh : Nat) (g : Lanes) : Bool :=
  !((t.team tid).terminated || (!(s.coh tid coh).trapstat && (t.coh tid coh).trapstat) || g &&& ~~~(t.coh tid coh).parked = 0)

/-- After an issue: of a group that its word has not moved, nothing counts in this clock; of one that has, the word counts, and an alu word's write
is under way. -/
def State.issued (s t : State) (port tid coh lane : Nat) : State :=
  let core := (s.team tid).core
  let c := s.coh tid coh
  let g := s.offered tid coh lane
  let pc := tget 0 c.pc lane
  if g = 0 then s
  else if c.stands (t.coh tid coh) then
    (t.modCoh tid coh (fun d => { d with pre := c.pre })).modCore core (fun k => { k with rr := (s.core core).rr }.offerMade c.quad false)
  else
    let idx := fld pc 60 4
    let next := if t.cur.idx = t.cur.count then 0 else idx + 1
    let u := if t.cur.cls = 0 && idx != 0 && tget 0 (t.coh tid coh).pc lane = nextPc pc (next = 0) then
        t.noteAlu port tid coh g (c.pget (t.cur.word % 8)) t.cur.word
      else t
    (u.wordCounts core c.quad port (idx = 0 && s.headerPassed t tid coh g)).modCore core (fun k =>
      (k.offerMade c.quad true).ranGroup tid coh g ((fld pc 0 52 + 4) % 2 ^ 52) next (g &&& (t.coh tid coh).runnable != 0))

/-- The outcome of an action; where it has met a line that it cannot read yet, the wait for the line. -/
def State.waitOut (s : State) (o : Out) : Out :=
  match o with
  | .next t => .next (s.orWait t)
  | .fault f => .fault f
  | .refused r => .refused r

/-- The same, for the outcome of a meaning. -/
def State.issuedOut (s : State) (o : Out) (port tid coh lane : Nat) : Out :=
  match o with
  | .next t => .next (s.issued t port tid coh lane)
  | .fault f => .fault f
  | .refused r => .refused r

/-- The group of a lane issues its next word on a port; one that would stand at the header before a gated stream passes it, when the gate is
open (08 R149, R150). -/
def State.issueWord (s : State) (port tid coh lane : Nat) : Out :=
  match s.issue port tid coh lane with
  | .run i t =>
    match t.waitOut (exec i t) with
    | .next u =>
      if i.cls = 7 && t.cur.cls = 2 && (s.coh tid coh).stands (u.coh tid coh) then
        s.issuedOut (exec .gateAccept { u with args := [tid, coh, lane] }) port tid coh lane
      else .next (s.issued u port tid coh lane)
    | o => o
  | .done t => .next (s.issued (s.orWait t) port tid coh lane)

/-- A team of one cohort, alone on core 0, whose threads stand at word `idx` of a clause at address 0 (log entry 7). -/
def loneTeam (mtx : Bool) (words : Tab (BitVec 32)) (idx : Nat) : Team :=
  let pcs : Tab (BitVec 64) := (List.range 32).foldl (fun t k => tset 0 t k (BitVec.ofNat 64 (idx * 2 ^ 60))) []
  let c : Cohort := { pc := pcs, words := words, valloc := 8, gmap := (List.range 8).foldl (fun t j => tset 0 t j j) []
                      m := [(0, BitVec.allOnes 32)] }
  let l : Launch := { regs := 64, nmtx := nbit mtx, nvec := 1 - nbit mtx, opbuf := 4096, scratch := 4096, acc := mtx, levels := [32] }
  { place := .resident, launch := l, cohs := [(0, c)], scrBanks := [4] }

/-- An instruction where the next step fetches it (log entry 7). -/
def State.placeWord (s : State) (w : Nat) (i : Option Instr) : State :=
  match i with
  | none => s
  | some i =>
    if i.cls = 8 then
      let r : Run := { launch := { words := [] }, nbun := 1 }
      { s.setPump 0 { run := some r, prog := [(0, BitVec.ofNat 64 w)] } with agenda := [.bundle 0] }
    else
      let hdr := 0xA7F80001 + 16 * i.cls
      let words : Tab (BitVec 32) :=
        if i.cls = 7 then [(0, BitVec.ofNat 32 w)] else [(0, BitVec.ofNat 32 hdr), (4, BitVec.ofNat 32 w)]
      let t := loneTeam (i.cls = 2 || (i.cls = 7 && w / 16 % 8 = 2)) words (if i.cls = 7 then 0 else 1)
      let t : Team := if i.cls = 7 then t else { t with cohs := t.cohs.map (fun e => (e.1, { e.2 with
        pc := e.2.pc.map (fun p => (p.1, p.2 + 4)) })) }
      let s := (s.setTeam 0 t).modCore 0 (fun c => { c with groups := [(0, 0, BitVec.allOnes 32)] })
      { s with agenda := [.issue true 0 0 0 0] }

/-- The event of a host command by its kind; none of a reserved one. -/
def commandInstr (kind : Nat) : Option Instr :=
  match kind with
  | 4 => some .submitGraph
  | 8 => some .resume
  | 12 => some .preempt
  | 13 => some .preemptHold
  | 14 => some .preemptRelease
  | 16 => some .polderSetEntry
  | 17 => some .polderSetAccess
  | 18 => some .polderSetTroot
  | 19 => some .polderSetRows
  | 20 => some .ringLoad
  | 24 => some .keyInstall
  | 28 => some .keyDestroy
  | 32 => some .resetVf
  | _ => none

/-- The command processor takes the next slot of its round. -/
def State.takeNext (s : State) : Out :=
  match s.nextFn with
  | none => .next s
  | some fn =>
    match commandInstr (s.slotCmd fn).kind with
    | some i => exec i { s with args := [fn] }
    | none => .next (s.badCommand fn)

/-- A bundle's next move. -/
def State.bundleStep (s : State) (pc : Nat) : Out :=
  match s.nextMove pc with
  | .run i t => exec i t
  | .done t => .next t

/-- The head command of a bank. -/
def State.bankStep (s : State) (gb : Nat) : Out :=
  match (s.bank gb).queue.head? with
  | some c => exec (microInstr c.x.op) { s with args := [gb] }
  | none => .next s

/-- Perform one action, but for the wait for lines. -/
def State.act (s : State) (a : Action) : Out :=
  match a with
  | .issue clock port tid coh lane =>
    if s.stopped then .fault .machineStopped
    else (if clock then s.nextClock else s).issueWord port tid coh lane
  | .poll tid coh lane => .next (s.poll tid coh lane)
  | .bundle pc => if s.stopped then .fault .machineStopped else s.bundleStep pc
  | .bank gb => s.bankStep gb
  | .command => s.takeNext
  | .event .gateAccept args =>
    if s.stopped then .fault .machineStopped
    else
    let x := { s with args := args }
    x.issuedOut (exec .gateAccept x) (tget 0 (s.core (s.team (x.arg 0)).core).ports (s.coh (x.arg 0) (x.arg 1)).quad) (x.arg 0) (x.arg 1) (x.arg 2)
  | .event i args => if i.cls = 10 then exec i { s with args := args } else .refused .illFormed
  | .input x => .next (s.input x)
  | .idle => .next s.nextClock

/-- Perform one action: where it meets a line that it cannot read yet, it waits for the line. A phase bit that it has changed is tested for every
waiting group (19 R291). -/
def State.perform (s : State) (a : Action) : Out :=
  match s.waitOut (s.act a) with
  | .next t => .next t.wakeSwt
  | o => o

/-- Whether a step has changed nothing but what the model notes about the step itself. -/
def State.idles (s t : State) : Bool := { t with cur := s.cur, args := s.args, mv := s.mv } = s

/-- Without an agenda: the first action, in the model's order, that changes something; else a core clock passes. -/
def State.firstMove (s : State) : List Action → Out
  | [] => .next s.nextClock
  | a :: as =>
    match s.perform a with
    | .next t => if s.idles t then s.firstMove as else .next t
    | _ => s.firstMove as

end Sys2Proof.Machine
end

