-- ==== Sys2Proof/Machine/Step.lean ====
section
/-!
DEFINITION. Step.lean: one step of the module, and the placing of one instruction where the step fetches it (log entries 1, 7).
-/
namespace Sys2Proof.Machine

/-- What must move before an action of the agenda: the offers of the core clock's grouping stages (02 R36, R39), which every event of the
clock and the clock's end follow (log entry 1). -/
def State.owed (s : State) (a : Action) : Option Action :=
  match a with
  | .issue false _ _ _ _ => none
  | _ => s.nextOffer

/-- One step: the first action of the agenda, or what must move before it; with an empty agenda, the module's own next move. -/
def step (s : State) : Host.Outcome State Fault Refusal :=
  match s.agenda with
  | a :: as =>
    match s.owed a with
    | some b => s.perform b
    | none => { s with agenda := as }.perform a
  | [] => s.firstMove s.mayMove

/-- One instruction stored where the next step fetches it (log entry 7): the word of a clause in the held words of a lone cohort on
core 0, or a move in the program of pumphouse core 0. -/
def State.withFetchWord (s : State) (nbits w : Nat) : State :=
  s.placeWord (w % 2 ^ nbits % 2 ^ 32) (decodeTableWord nbits w)

end Sys2Proof.Machine
end

