-- ==== Sys2Proof/Machine/Frame.lean ====
section
/-!
DEFINITION. Frame.lean: the words in which statements say what stays as it was: a part of the state with some fields put back to
what another one holds.
-/
namespace Sys2Proof.Machine

/-- A state with its teams and cores put back. -/
def State.butTeams (t s : State) : State := { t with teams := s.teams, cores := s.cores }

/-- A team with its cohorts put back. -/
def Team.butCohs (t u : Team) : Team := { t with cohs := u.cohs }

/-- A core with its register file put back. -/
def Core.butRf (c d : Core) : Core := { c with rf := d.rf }

/-- A cohort with its PCs, hang counter and pre-clock values put back. -/
def Cohort.butPc (c d : Cohort) : Cohort := { c with pc := d.pc, hangcnt := d.hangcnt, hangrep := d.hangrep, pre := d.pre }

/-- A cohort with FPFLAGS and the stochastic states put back. -/
def Cohort.butFloat (c d : Cohort) : Cohort := { c with fpflags := d.fpflags, sr := d.sr }

/-- A cohort with its s registers put back. -/
def Cohort.butS (c d : Cohort) : Cohort := { c with s := d.s }

/-- A cohort with its predicates put back. -/
def Cohort.butP (c d : Cohort) : Cohort := { c with p := d.p }

/-- A cohort with its mask registers put back. -/
def Cohort.butM (c d : Cohort) : Cohort := { c with m := d.m }

/-- A cohort with what the entry into its handler changes put back (09 R164). -/
def Cohort.butTrap (c d : Cohort) : Cohort :=
  { c with s := d.s, trappc := d.trappc, trapstat := d.trapstat, stkcur := d.stkcur, waiting := d.waiting, last := d.last, pc := d.pc }

/-- From s to t only cohort (tid, c)'s own fields and the register files may change: other teams and cohorts, every memory, every
special register, lock, queue and table stay. -/
structure Stays (tid c : Nat) (s t : State) : Prop where
  rest : t.butTeams s = s
  teams : ∀ k, k ≠ tid → t.team k = s.team k
  team : (t.team tid).butCohs (s.team tid) = s.team tid
  cohs : ∀ k, k ≠ c → t.coh tid k = s.coh tid k
  cores : ∀ n, (t.core n).butRf (s.core n) = s.core n

end Sys2Proof.Machine
end

