-- ==== Sys2Proof/Safety.lean ====
section
/-!
DEFINITION. Safety.lean: what counts as a safe run: every memory keeps its canonical form, and every step ends in a next state, but
for a stopped module's (25 R358) and for an agenda entry that is no event.
-/
namespace Sys2Proof.Machine

/-- Every sparse byte memory of the module keeps its canonical form. -/
def State.wfMem (s : State) : Bool :=
  Memory.wf s.dram && Memory.wf s.hostMem && Memory.wf s.peerMem && Memory.wf s.stage && Memory.wf s.object &&
    s.cores.all (fun c => Memory.wf c.2.sram && Memory.wf c.2.opbuf)

/-- A safe step answers a next state, with the memories in their form. -/
def State.safe (s : State) : Prop :=
  ∃ t, step s = .next t ∧ t.wfMem = true

end Sys2Proof.Machine
end

