-- ==== Sys2Proof/Certificates/Slice0/Obligations.lean ====
section
/-!
DEFINITION. Obligations.lean: the statements for the provers. The first part names what the statements speak of; each obligation's
docstring says which rules of spec/ it formalises.
-/
namespace Sys2Proof.Claims
open Sys2Proof.Machine

/-- The v registers of a word lie in the cohort's allocation (03 R57). -/
def RegsIn (s : State) (rs : List Nat) : Prop := ∀ r ∈ rs, r < 8 * s.me.alloc

/-- A word that writes VD in its active threads, and ends (06 R103). -/
def vResult (s : State) (d g : Nat) (f : Nat → BitVec 128) : State := s.guarded g (s.eachV (s.active g) d f)

/-- The same with the flags of all the elements OR-ed into FPFLAGS (04 R88). -/
def fResult (s : State) (d g : Nat) (f : Nat → BitVec 128 × BitVec 32) : State := s.guarded g (s.eachVF (s.active g) d f)

/-- A word that writes VD in every thread of the group, and ends (06 R124, R125). -/
def iResult (s : State) (d : Nat) (f : Nat → BitVec 128) : State := (s.eachV s.G d f).done

/-- A word that writes SD once, and ends (06 R126). -/
def sResult (s : State) (d : Nat) (x : BitVec 64) : State := (s.sset d x).done

/-- A compare: PD in each active thread; a spinning word (06 R114; 02 R41). -/
def pResult (s : State) (d g : Nat) (v : Lanes) : State := s.guarded g (s.pset d (s.active g) v) true

/-- A uniform result in SB, and the end of a guarded word (06 R122, R123). -/
def uResult (s : State) (g b : Nat) (x : BitVec 64) : State := s.guarded g (s.sset b x)

/-- The 32-bit elements of VA and VB of a lane, one by one. -/
def elems32 (f : BitVec 32 → BitVec 32 → BitVec 32) (s : State) (a b l : Nat) : BitVec 128 := elems 32 f (s.v l a) (s.v l b)

/-- A floating result in the type t: the exact operation, rounded once in FPFLAGS.RM (06 R116). -/
def floatOf (t : Nat) (s : State) (a b d l : Nat) (f : FVal → FVal → FVal → FVal × Bool) : BitVec 128 × BitVec 32 :=
  floatElems t s.rm f (s.v l a) (s.v l b) (s.v l d)

/-- A word of the A3 format (03 R51). -/
def a3 (op d a b h g : Nat) : Nat := op * 2 ^ 24 + d * 2 ^ 18 + a * 2 ^ 12 + b * 2 ^ 6 + h * 8 + g
/-- An alu word's end: it changes nothing but its own cohort and its core's register file, and the group goes to the next word. -/
structure Keeps (s t : State) : Prop where
  stays : Stays s.cur.tid s.cur.coh s t
  next : ∀ l, tget 0 t.me.pc l =
    if s.G.getLsbD l && decide (l < 32) then nextPc (tget 0 s.me.pc l) (s.cur.idx = s.cur.count) else tget 0 s.me.pc l

/-- A word that writes one v register: the registers that it names, VD, its guard (none: every thread), and whether it may change
FPFLAGS and the stochastic states. -/
structure VForm where
  regs : List Nat
  d : Nat
  guard : Option Nat
  isFloat : Bool

/-- The lanes that write. -/
def VForm.lanes (f : VForm) (s : State) : Lanes :=
  match f.guard with
  | some g => s.active g
  | none => s.G

/-- The alu words that write one v register (06 R103 to R125). -/
def vectorForm : Instr → Option VForm
  | .add _ d a b _ g => some ⟨[d, a, b], d, some g, false⟩
  | .sub _ d a b _ g => some ⟨[d, a, b], d, some g, false⟩
  | .mul _ d a b _ g => some ⟨[d, a, b], d, some g, false⟩
  | .mulhiI _ d a b _ g => some ⟨[d, a, b], d, some g, false⟩
  | .mulhiN _ d a b _ g => some ⟨[d, a, b], d, some g, false⟩
  | .minI _ d a b _ g => some ⟨[d, a, b], d, some g, false⟩
  | .minN _ d a b _ g => some ⟨[d, a, b], d, some g, false⟩
  | .maxI _ d a b _ g => some ⟨[d, a, b], d, some g, false⟩
  | .maxN _ d a b _ g => some ⟨[d, a, b], d, some g, false⟩
  | .shl _ d a b _ g => some ⟨[d, a, b], d, some g, false⟩
  | .shrN _ d a b _ g => some ⟨[d, a, b], d, some g, false⟩
  | .shrI _ d a b _ g => some ⟨[d, a, b], d, some g, false⟩
  | .addsI _ d a b _ g => some ⟨[d, a, b], d, some g, false⟩
  | .addsN _ d a b _ g => some ⟨[d, a, b], d, some g, false⟩
  | .subsI _ d a b _ g => some ⟨[d, a, b], d, some g, false⟩
  | .subsN _ d a b _ g => some ⟨[d, a, b], d, some g, false⟩
  | .and d a b _ g => some ⟨[d, a, b], d, some g, false⟩
  | .or d a b _ g => some ⟨[d, a, b], d, some g, false⟩
  | .xor d a b _ g => some ⟨[d, a, b], d, some g, false⟩
  | .andn d a b _ g => some ⟨[d, a, b], d, some g, false⟩
  | .bfxN32 d a b _ g => some ⟨[d, a, b], d, some g, false⟩
  | .bfxI32 d a b _ g => some ⟨[d, a, b], d, some g, false⟩
  | .bfiW d a b _ g => some ⟨[d, a, b], d, some g, false⟩
  | .lea d a b _ g => some ⟨[d, a, b], d, some g, false⟩
  | .sel d a b _ _ => some ⟨[d, a, b], d, none, false⟩
  | .popcW d a _ g => some ⟨[d, a], d, some g, false⟩
  | .clzW d a _ g => some ⟨[d, a], d, some g, false⟩
  | .brevW d a _ g => some ⟨[d, a], d, some g, false⟩
  | .mov d a _ g => some ⟨[d, a], d, some g, false⟩
  | .mvs d _ g => some ⟨[d], d, some g, false⟩
  | .fadd _ d a b _ g => some ⟨[d, a, b], d, some g, true⟩
  | .fsub _ d a b _ g => some ⟨[d, a, b], d, some g, true⟩
  | .fmul _ d a b _ g => some ⟨[d, a, b], d, some g, true⟩
  | .fma _ d a b _ g => some ⟨[d, a, b], d, some g, true⟩
  | .fmin _ d a b _ g => some ⟨[d, a, b], d, some g, false⟩
  | .fmax _ d a b _ g => some ⟨[d, a, b], d, some g, false⟩
  | .fabs _ d a _ g => some ⟨[d, a], d, some g, false⟩
  | .fneg _ d a _ g => some ⟨[d, a], d, some g, false⟩
  | .frcpF32 d a _ g => some ⟨[d, a], d, some g, true⟩
  | .frsqF32 d a _ g => some ⟨[d, a], d, some g, true⟩
  | .fex2F32 d a _ g => some ⟨[d, a], d, some g, true⟩
  | .flg2F32 d a _ g => some ⟨[d, a], d, some g, true⟩
  | .cvtF32F16 d a _ _ _ g => some ⟨[d, a], d, some g, true⟩
  | .cvtF16F32 d a _ _ _ g => some ⟨[d, a], d, some g, true⟩
  | .cvtF32Bf16 d a _ _ _ g => some ⟨[d, a], d, some g, true⟩
  | .cvtBf16F32 d a _ _ _ g => some ⟨[d, a], d, some g, true⟩
  | .cvtF32I32 d a _ _ _ g => some ⟨[d, a], d, some g, true⟩
  | .cvtF32N32 d a _ _ _ g => some ⟨[d, a], d, some g, true⟩
  | .cvtI32F32 d a _ _ _ g => some ⟨[d, a], d, some g, true⟩
  | .cvtN32F32 d a _ _ _ g => some ⟨[d, a], d, some g, true⟩
  | .cvtE2m3F32 d a _ _ _ g => some ⟨[d, a], d, some g, true⟩
  | .cvtE3m2F32 d a _ _ _ g => some ⟨[d, a], d, some g, true⟩
  | .cvtE2m1F32 d a _ _ _ g => some ⟨[d, a], d, some g, true⟩
  | .cvtF32E2m3 d a _ _ _ g => some ⟨[d, a], d, some g, true⟩
  | .cvtF32E3m2 d a _ _ _ g => some ⟨[d, a], d, some g, true⟩
  | .cvtF32E2m1 d a _ _ _ g => some ⟨[d, a], d, some g, true⟩
  | .cvtS8pnF32 _ d a _ _ _ g => some ⟨[d, a], d, some g, true⟩
  | .cvtN8pnF32 _ d a _ _ _ g => some ⟨[d, a], d, some g, true⟩
  | .cvtF32S8pn _ d a _ _ _ g => some ⟨[d, a], d, some g, true⟩
  | .cvtF32N8pn _ d a _ _ _ g => some ⟨[d, a], d, some g, true⟩
  | .shflIdx d a b _ g => some ⟨[d, a, b], d, some g, false⟩
  | .shflUp d a _ _ g => some ⟨[d, a], d, some g, false⟩
  | .shflDown d a _ _ g => some ⟨[d, a], d, some g, false⟩
  | .shflXor d a _ _ g => some ⟨[d, a], d, some g, false⟩
  | .bcast d a _ _ g => some ⟨[d, a], d, some g, false⟩
  | .extN8 d a _ => some ⟨[d, a], d, none, false⟩
  | .extN16 d a _ => some ⟨[d, a], d, none, false⟩
  | .extW d a _ => some ⟨[d, a], d, none, false⟩
  | .insN8 d a _ => some ⟨[d, a], d, none, false⟩
  | .insN16 d a _ => some ⟨[d, a], d, none, false⟩
  | .insW d a _ => some ⟨[d, a], d, none, false⟩
  | .addiI32 d a _ => some ⟨[d, a], d, none, false⟩
  | .andi d a _ => some ⟨[d, a], d, none, false⟩
  | .ori d a _ => some ⟨[d, a], d, none, false⟩
  | .xori d a _ => some ⟨[d, a], d, none, false⟩
  | .shliW d a _ => some ⟨[d, a], d, none, false⟩
  | .shriN32 d a _ => some ⟨[d, a], d, none, false⟩
  | .shriI32 d a _ => some ⟨[d, a], d, none, false⟩
  | .moviI32 d _ => some ⟨[d], d, none, false⟩
  | _ => none

/-- The alu words that write one s register: the v registers that they name, and the s register (06 R113, R122, R123, R126, R127). -/
def scalarForm : Instr → Option (List Nat × Nat)
  | .sadd d _ _ => some ([], d)
  | .ssub d _ _ => some ([], d)
  | .smul d _ _ => some ([], d)
  | .smulhiI d _ _ => some ([], d)
  | .smulhiN d _ _ => some ([], d)
  | .sand d _ _ => some ([], d)
  | .sor d _ _ => some ([], d)
  | .sxor d _ _ => some ([], d)
  | .sshl d _ _ => some ([], d)
  | .sshrN d _ _ => some ([], d)
  | .sshrI d _ _ => some ([], d)
  | .sminI d _ _ => some ([], d)
  | .smaxI d _ _ => some ([], d)
  | .sminN d _ _ => some ([], d)
  | .smaxN d _ _ => some ([], d)
  | .ssltI d _ _ => some ([], d)
  | .ssltN d _ _ => some ([], d)
  | .sseq d _ _ => some ([], d)
  | .saddi d _ _ => some ([], d)
  | .slui d _ _ => some ([], d)
  | .smov d _ => some ([], d)
  | .voteBallot _ b _ => some ([], b)
  | .voteAny _ b _ => some ([], b)
  | .voteAll _ b _ => some ([], b)
  | .voteUni _ b _ => some ([], b)
  | .mfv a b _ _ => some ([a], b)
  | .redaddI32 a b _ _ => some ([a], b)
  | .redaddF32 a b _ _ => some ([a], b)
  | .redminI32 a b _ _ => some ([a], b)
  | .redmaxI32 a b _ _ => some ([a], b)
  | .redminF32 a b _ _ => some ([a], b)
  | .redmaxF32 a b _ _ => some ([a], b)
  | _ => none

/-- The alu words that write one predicate register: the v registers that they name, PD, and the guard (06 R114, R115). -/
def predicateForm : Instr → Option (List Nat × Nat × Nat)
  | .cmpI32 d _ a b _ g => some ([a, b], d, g)
  | .cmpN32 d _ a b _ g => some ([a, b], d, g)
  | .cmpI64 d _ a b _ g => some ([a, b], d, g)
  | .cmpN64 d _ a b _ g => some ([a, b], d, g)
  | .cmpF32 d _ a b _ g => some ([a, b], d, g)
  | .cmpF16 d _ a b _ g => some ([a, b], d, g)
  | .cmpBf16 d _ a b _ g => some ([a, b], d, g)
  | .pand d _ _ g => some ([], d, g)
  | .por d _ _ g => some ([], d, g)
  | .pxor d _ _ g => some ([], d, g)
  | .pandn d _ _ g => some ([], d, g)
  | .pmov d _ g => some ([], d, g)
  | .pnot d _ g => some ([], d, g)
  | _ => none

/-- The v registers of an alu word, in the order of the range check (03 R57). -/
def aluRegs (i : Instr) : Option (List Nat) :=
  match vectorForm i, scalarForm i, predicateForm i with
  | some f, _, _ => some f.regs
  | none, some f, _ => some f.1
  | none, none, some f => some f.1
  | none, none, none => none

/-- A word of the mem class that accesses memory in lanes (11 R186 to R197): the registers it names, the lanes that it concerns, its
flag, whether it loads; the kind, size and alignment of each access, the lanes' accesses, the policy and order; the scope of a release, else 0;
whether it is spinning (02 R41), whether it is a uniform form (11 R191); and what the lanes that perform do. -/
structure MemForm where
  regs : List Nat
  lanes : Lanes
  flag : Nat
  isLoad : Bool
  access : Nat
  n : Nat
  align : Nat
  accs : List LaneAcc
  x : MemX
  rel : Nat
  spin : Bool
  uni : Bool
  effect : State → List LaneAcc → State

/-- The lanes' atomics, with operands from VD (11 R195): of a compare, the new value stands after the compared one. -/
def atomics (s : State) (x : MemX) (dest : Dest) (op n : Nat) (ret : Bool) (d : Nat) (t : State) (as : List LaneAcc) : State :=
  t.doAtomics x dest op n ret (fun l => BitVec.ofNat 64 (fld (s.v l d) 0 (8 * n)))
    (fun l => BitVec.ofNat 64 (fld (s.v l d) (8 * n) (8 * n))) as

/-- The lanes' reductions, with operands from VS (11 R197). -/
def reductions (s : State) (x : MemX) (op n v : Nat) (t : State) (as : List LaneAcc) : State :=
  t.doAtomics x .none op n false (fun l => BitVec.ofNat 64 (fld (s.v l v) 0 (8 * n))) (fun _ => 0) as

/-- A plain load of n bytes, zero-extended (11 R188). -/
def loadForm (s : State) (d a p o g n : Nat) : MemForm :=
  let x : MemX := { flag := s.cur.seta, pol := s.policy p }
  ⟨[d, a], s.active g, s.cur.seta, true, 0, n, 0, s.laneAccs g a o n, x, 0, true, false, fun t as => t.doLoad x (.load d n false) n as⟩

/-- A plain load of n bytes, sign-extended to 32 bits (11 R188). -/
def signedForm (s : State) (d a p o g n : Nat) : MemForm :=
  let x : MemX := { flag := s.cur.seta, pol := s.policy p }
  ⟨[d, a], s.active g, s.cur.seta, true, 0, n, 0, s.laneAccs g a o n, x, 0, true, false, fun t as => t.doLoad x (.load d n true) n as⟩

/-- A plain store of n bytes (11 R188). -/
def storeForm (s : State) (v a p o g n : Nat) : MemForm :=
  let x : MemX := { flag := s.cur.setb, pol := s.policy p }
  ⟨[v, a], s.active g, s.cur.setb, false, 1, n, 0, s.laneAccs g a o n, x, 0, false, false,
    fun t as => t.doStore x n (fun l => plainData n (s.v l v)) as⟩

/-- A store of packed w-bit elements under the enables from bit `en` on (11 R190). -/
def packedForm (s : State) (v a p o g n al w en : Nat) : MemForm :=
  let x : MemX := { flag := s.cur.setb, pol := s.policy p }
  ⟨[v, a], s.active g, s.cur.setb, false, 1, n, al, s.laneAccs g a o n, x, 0, false, false,
    fun t as => t.doStore x n (fun l => subData w n en (s.v l v)) as⟩

/-- The uniform load (11 R191). -/
def uniLoadForm (s : State) (d a p o : Nat) : MemForm :=
  let x : MemX := { flag := s.cur.seta, pol := s.policy p }
  ⟨[], s.G, s.cur.seta, true, 0, 8, 0, s.uniAcc a o, x, 0, true, true, fun t as => t.doLoad x (.sload d) 8 as⟩

/-- The uniform store (11 R191). -/
def uniStoreForm (s : State) (v a p o : Nat) : MemForm :=
  let x : MemX := { flag := s.cur.setb, pol := s.policy p }
  ⟨[], s.G, s.cur.setb, false, 1, 8, 0, s.uniAcc a o, x, 0, false, true,
    fun t as => t.doStore x 8 (fun _ => plainData 8 ((s.sget v).setWidth 128)) as⟩

/-- An acquire load of n aligned bytes (11 R192). -/
def acquireForm (s : State) (d a p g n : Nat) : MemForm :=
  let x : MemX := { flag := s.cur.seta, pol := s.policy p, acq := true }
  ⟨[d, a], s.active g, s.cur.seta, true, 0, n, n, s.ptrAccs g a, x, 0, true, false, fun t as => t.doLoad x (.load d n false) n as⟩

/-- A release store of n aligned bytes (11 R192, R194). -/
def releaseForm (s : State) (v a p sc g n : Nat) : MemForm :=
  let x : MemX := { flag := s.cur.setb, pol := s.policy p, ops := s.relOps (s.active g) sc, rel := sc }
  ⟨[v, a], s.active g, s.cur.setb, false, 1, n, n, s.ptrAccs g a, x, sc, false, false,
    fun t as => t.doStore x n (fun l => plainData n (s.v l v)) as⟩

/-- An atomic that returns the old value (11 R195). -/
def atomForm (s : State) (op n d a p o g : Nat) : MemForm :=
  let x : MemX := { flag := s.cur.seta, pol := s.policy p }
  ⟨[d, a], s.active g, s.cur.seta, false, 2, n, n, s.laneAccs g a o n, x, 0, false, false,
    atomics s x (.atomic d n) op n true d⟩

/-- A reduction (11 R197). -/
def mredForm (s : State) (op n v a p o g : Nat) : MemForm :=
  let x : MemX := { flag := s.cur.setb, pol := s.policy p }
  ⟨[v, a], s.active g, s.cur.setb, false, 2, n, n, s.laneAccs g a o n, x, 0, false, false, reductions s x op n v⟩

/-- The loads, stores, atomics and reductions of the mem class (11 R188 to R197). -/
def memForm (s : State) : Instr → Option MemForm
  | .ldN8 d a p o g => some (loadForm s d a p o g 1)
  | .ldI8 d a p o g => some (signedForm s d a p o g 1)
  | .ldN16 d a p o g => some (loadForm s d a p o g 2)
  | .ldI16 d a p o g => some (signedForm s d a p o g 2)
  | .ldW d a p o g => some (loadForm s d a p o g 4)
  | .ldD d a p o g => some (loadForm s d a p o g 8)
  | .ldQ d a p o g => some (loadForm s d a p o g 16)
  | .stN8 v a p o g => some (storeForm s v a p o g 1)
  | .stN16 v a p o g => some (storeForm s v a p o g 2)
  | .stW v a p o g => some (storeForm s v a p o g 4)
  | .stD v a p o g => some (storeForm s v a p o g 8)
  | .stQ v a p o g => some (storeForm s v a p o g 16)
  | .stnib v a p o g => some (packedForm s v a p o g 8 8 4 64)
  | .stsix v a p o g => some (packedForm s v a p o g 12 4 6 96)
  | .lduD d a p o => some (uniLoadForm s d a p o)
  | .stuD v a p o => some (uniStoreForm s v a p o)
  | .ldacqW d a p _ g => some (acquireForm s d a p g 4)
  | .ldacqD d a p _ g => some (acquireForm s d a p g 8)
  | .ldacqQ d a p _ g => some (acquireForm s d a p g 16)
  | .strelW v a p sc g => some (releaseForm s v a p sc g 4)
  | .strelD v a p sc g => some (releaseForm s v a p sc g 8)
  | .strelQ v a p sc g => some (releaseForm s v a p sc g 16)
  | .atomAddI32 d a p o g => some (atomForm s 0 4 d a p o g)
  | .atomAddI64 d a p o g => some (atomForm s 1 8 d a p o g)
  | .atomAddF32 d a p o g => some (atomForm s 2 4 d a p o g)
  | .atomMinI32 d a p o g => some (atomForm s 3 4 d a p o g)
  | .atomMinN32 d a p o g => some (atomForm s 4 4 d a p o g)
  | .atomMaxI32 d a p o g => some (atomForm s 5 4 d a p o g)
  | .atomMaxN32 d a p o g => some (atomForm s 6 4 d a p o g)
  | .atomAndW d a p o g => some (atomForm s 7 4 d a p o g)
  | .atomOrW d a p o g => some (atomForm s 8 4 d a p o g)
  | .atomXorW d a p o g => some (atomForm s 9 4 d a p o g)
  | .atomXchgW d a p o g => some (atomForm s 10 4 d a p o g)
  | .atomXchgD d a p o g => some (atomForm s 11 8 d a p o g)
  | .atomCasW d a p o g => some (atomForm s 12 4 d a p o g)
  | .atomCasD d a p o g => some (atomForm s 13 8 d a p o g)
  | .mredAddI32 v a p o g => some (mredForm s 0 4 v a p o g)
  | .mredAddI64 v a p o g => some (mredForm s 1 8 v a p o g)
  | .mredAddF32 v a p o g => some (mredForm s 2 4 v a p o g)
  | .mredMinI32 v a p o g => some (mredForm s 3 4 v a p o g)
  | .mredMinN32 v a p o g => some (mredForm s 4 4 v a p o g)
  | .mredMaxI32 v a p o g => some (mredForm s 5 4 v a p o g)
  | .mredMaxN32 v a p o g => some (mredForm s 6 4 v a p o g)
  | .mredAndW v a p o g => some (mredForm s 7 4 v a p o g)
  | .mredOrW v a p o g => some (mredForm s 8 4 v a p o g)
  | .mredXorW v a p o g => some (mredForm s 9 4 v a p o g)
  | _ => none

/-- The accesses of a form with their translated parts. -/
def withParts (as : List LaneAcc) (good : List (Nat × List Piece)) : List LaneAcc :=
  good.map (fun e => { ((as.find? (fun a => a.lane = e.1)).getD ⟨0, 0, []⟩) with parts := e.2 })

/-- The accesses of a form, remote pointers to the issuing team's own run taken as pointers to its scratchpad (10 R173; 13 R216). -/
def MemForm.own (m : MemForm) (s : State) : List LaneAcc := m.accs.map (fun a => { a with ptr := s.ownRun a.ptr })

/-- Nothing stops the word: no fence holds it, no `cas` of its lanes has lanes to go, and its flag takes one more operation (11 R193, R196; 03 R49); a
release beyond cohort scope finds no dirty private line (11 R194); its registers are in the allocation, some lane is active, no access fails a
check of stage 2 (09 R160), every part translates, no order of its lanes holds it, and no private line has to be read first (11 R192; 13 R210). -/
structure MemForm.Performs (m : MemForm) (s : State) (good : List (Nat × List Piece)) : Prop where
  open_ : s.fenced m.lanes m.isLoad = false
  cas : s.casPending m.lanes = false
  room : s.flagFree m.flag = true
  flushed : s.unflushed m.rel = false
  regs : RegsIn s m.regs
  active : m.accs ≠ []
  legal : stage2Fault m.access (m.accs.map (fun a => (a.lane, s.stage2 m.access m.n m.align a.ptr))) = none
  translated : s.transAll (needOf m.access) ((m.own s).map (fun a => (a.lane, s.pieces a.lane m.n a.ptr))) =
    { misses := [], bads := [], good := good }
  some_ : good ≠ []
  unheld : s.orderHold m.x (m.own s) good = none

/-- The lanes that a prefetch acts for: those of spaces 0 and 1, below the stack limit (11 R198). -/
def prefetchAccs (s : State) (as : List LaneAcc) : List LaneAcc :=
  as.filter (fun x => spaceOf x.ptr < 2 && rankOf x.ptr = 0 && (spaceOf x.ptr = 0 || offOf x.ptr / 4 < s.me.stkNow))

/-- The threads `ls` of the group continue at the headers that f gives, with DEPTH changed by d; the group's other threads that are not
parked go to the next word; nothing else of the machine changes, but the hang counter (07 R129, R131; 02 R40). -/
structure Goes (s t : State) (ls : Lanes) (f d : Nat → Nat) : Prop where
  stays : Stays s.cur.tid s.cur.coh s t
  cores : ∀ n, t.core n = s.core n
  me : t.me.butPc s.me = s.me
  pc : ∀ l, tget 0 t.me.pc l =
    let p := tget 0 s.me.pc l
    if l < 32 && ls.getLsbD l then jumpPc p (f l) (d (fld p 52 8))
    else if l < 32 && (s.G &&& ~~~ls &&& ~~~s.me.parked).getLsbD l then nextPc p (s.cur.idx = s.cur.count)
    else p

/-- The private word of a lane's new call frame, and of its last one (07 R131). -/
def pushWord (s : State) (l : Nat) : Int := (s.me.stkNow : Int) - 2 - 2 * fld (tget 0 s.me.pc l) 52 8
def popWord (s : State) (l : Nat) : Int := (s.me.stkNow : Int) - 2 * fld (tget 0 s.me.pc l) 52 8

/-- The active lanes' frames translate with no miss and no page fault, and nothing of their accesses has to be waited for (18 R266; 10 R175; 11 R192,
R196; 13 R210). -/
structure FramesAt (s : State) (g : Nat) (w : Nat → Int) (good : List (Nat × List Piece)) : Prop where
  translated : s.transAll 3 ((lanesOf (s.active g)).map (fun l => (l, s.framePieces l (w l).toNat))) = { misses := [], bads := [], good := good }
  there : s.frameHold good = none

/-- A call's stores of the return address, the word after it, the lanes' words of one line together (07 R131; 10 R176). -/
def pushFrames (s : State) (good : List (Nat × List Piece)) : State :=
  let back := bytesOf 8 (BitVec.ofNat 64 ((s.cur.addr + 4) % 2 ^ 52))
  s.privWrites (fun _ => 0) ((good.map (fun e =>
    (e.2.map (fun p => partWrites p.pa p.at_ p.len (back.map (fun b => (b, 255))))).flatten)).flatten)

/-- A return's loads: the state after them, the bytes of lane l from 8 l on, and an uncorrectable error among them (07 R131; 10 R182). -/
def popFrames (s : State) (good : List (Nat × List Piece)) : State × List (Nat × Byte) × Option (Nat × Nat × Nat) :=
  s.privReads (fun _ => 0) ((good.map (fun e => e.2.map (fun p => (8 * e.1 + p.at_, p.pa, p.len)))).flatten)

/-- The matrix queue, the flag and the range-lock table have room for an operation with n ranges, at the entries ks (08 R141, R146). -/
structure QueueTakes (s : State) (flag n : Nat) (ks : List Nat) : Prop where
  room : s.myCore.mq.length < 64
  flag : s.flagFree flag = true
  locks : s.myCore.freeLocks n = some ks

/-- An operation accepted into the matrix queue as an operation of its flag, with its ranges (08 R141, R146, R150). -/
def accepted (s : State) (flag : Nat) (dest : Dest) (mop : MOp) (locks : Nat → List RLock) (ks : List Nat) : State :=
  let n := s.newOp { tid := s.cur.tid, coh := s.cur.coh, flag := flag, lanes := s.G, dest := dest, kind := 3, left := 1, pc := s.herePc }
  n.1.modCore s.myTeam.core (fun c => { c.addLocks ks (locks n.2) with
    mq := c.mq ++ [{ op := n.2, tid := s.cur.tid, coh := s.cur.coh, mop := mop }] })

/-- Some lane performs a queue word, its flag takes an operation, no `cas` of its lanes is unfinished, and a release at a scope (0: the
word is none) finds no dirty private line and no earlier operation unfinished (19 R288, R290; 11 R194, R196). -/
structure QueueOpen (s : State) (lanes : Lanes) (flag scope : Nat) : Prop where
  some_ : lanes ≠ 0
  flag : s.flagFree flag = true
  cas : s.casPending lanes = false
  flushed : s.unflushed scope = false
  releases : scope ≠ 0 → s.relOps lanes scope = []

/-- A queue word's pointer names the run of team x on the issuing core, whose arbiter reads the word with nothing that cannot be corrected, and
the group asks for no answer of another core; u is the state then (19 R288; 10 R182). -/
structure QueueAt (s : State) (p : BitVec 64) (x : Nat) (u : State) : Prop where
  team : s.qTeam p = some x
  own : (s.team x).core = s.myTeam.core
  free : s.queReq = none
  word : s.senseRun (s.team x) 2 (offOf p) 8 = (u, none)

/-- The words that ask a queue's arbiter: their lanes, their flag, the register of their pointer, whether they release, their v registers, what they
ask (19 R286 to R291). -/
def queForm (s : State) : Instr → Option (Lanes × Nat × Nat × Bool × List Nat × QueOp)
  | .qinit a b => some (s.G, 15, b, false, [], .init (s.sget a))
  | .qpush v b r g => some (s.active g, s.cur.setb, b, true, [v], .push (s.queVals (s.active g) v) (r = 1))
  | .qpop v b r g => some (s.active g, s.cur.seta, b, false, [v], .pop (s.queVals (s.active g) v) (r = 1))
  | .sarr a b => some (s.G, s.cur.setb, b, true, [], .arr (s.sget a).toNat)
  | .swt a b p => some (s.G, 15, b, false, [], .wait (fld (s.sget a) 0 16) p)
  | _ => none

/-- The elements that lanes push, in order, from an index on (19 R289): each lane's register, or what its pointer names in team t's run. -/
def pushed (s : State) (t : Team) (q : Team) (w : BitVec 64) (ref : Bool) (vals : List (Nat × BitVec 64)) : State × Nat :=
  vals.foldl (fun x v =>
    let e := if ref then x.1.runRead t (spaceOf v.2) (offOf v.2) (qElem w) else bytesOf 8 v.2
    (x.1.qWrite q (qSlot w x.2) e, x.2 + 1)) (s, qTail w)

/-- The elements that lanes pop, in order, from HEAD on (19 R289): where each goes, and its status. -/
def popped (s : State) (t : Team) (q : Team) (w : BitVec 64) (ref : Bool) (vals : List (Nat × BitVec 64)) : State × Nat × List (Nat × Byte) :=
  vals.foldl (fun x v =>
    let has : Bool := x.2.1 != qTail w
    let e := if has then x.1.qRead q (qSlot w x.2.1) (qElem w) else []
    (if ref && has then x.1.runWrite t (spaceOf v.2) (wbytes (offOf v.2) e) else x.1,
      if has then (x.2.1 + 1) % 2 ^ 16 else x.2.1,
      x.2.2 ++ place (16 * v.1) (if ref then bytesOf 8 v.2 else if has then e.take 8 else []) ++
        place (16 * v.1 + 8) [if has then 0 else 1])) (s, qHead w, [])

/-- A lock word's lanes pass the address check (space 0, aligned) and translate, with no miss and no page fault (21 R324). `ps` are the
lanes with their translated parts. -/
structure LocksAt (s : State) (a g need size align : Nat) (ps : List (Nat × Piece)) : Prop where
  active : s.active g ≠ 0
  cas : s.casPending (s.active g) = false
  legal : ∀ l ∈ lanesOf (s.active g), spaceOf (s.ptr l a) = 0 ∧ rankOf (s.ptr l a) = 0 ∧ offOf (s.ptr l a) % align = 0
  translated : s.transAll need ((lanesOf (s.active g)).map (fun l => (l, [{ va := offOf (s.ptr l a), at_ := 0, len := size : Piece }]))) =
    { misses := [], bads := [], good := ps.map (fun e => (e.1, [e.2])) }
  some_ : ps ≠ []

/-- One unlock for each line of the lanes, each with the data of the line's highest lane; it follows what its lanes have unfinished at device
scope, but not other unlocks (21 R325; 27 R361). -/
def sendUnlocks (s t : State) (v : Option Nat) (n op : Nat) (ps : List (Nat × Piece)) : State :=
  (lockLines ps).foldl (fun t e =>
    let last := ((ps.filter (fun x => lineAt x.2.pa = e.1)).getLast?).getD (0, default)
    let ws := match v with
      | some r => wbytes last.2.pa (bytesOf n (s.v last.1 r))
      | none => []
    (t.sendQue op e.2.2 (.unlock ws) e.1 true e.2.1.line e.2.1.kind
      ((s.relOps e.2.2 5).filter (fun i => (s.op i).any (fun o => o.kind != 5))) 5).1) t

/-- The words that end a lock: their data register, their bytes. -/
def unlockForm : Instr → Option (Option Nat × Nat × Nat × Nat)
  | .lunlock a g => some (none, a, g, 0)
  | .lunlockW v a g => some (some v, a, g, 4)
  | .lunlockD v a g => some (some v, a, g, 8)
  | .lunlockQ v a g => some (some v, a, g, 16)
  | _ => none

/-- A state whose step has latched the items that an event acts on (log entry 12). -/
def asked (s : State) (args : List Nat) : State := { s with args := args }

/-- The eight words of a descriptor's bytes. -/
def words8 (bs : List Byte) : List (BitVec 64) := (List.range 8).map (fun i => BitVec.ofNat 64 (ofLeBytes ((bs.drop (8 * i)).take 8)))

/-- The v registers from r on, n of them. -/
def run (r n : Nat) : List Nat := (List.range n).map (fun i => r + i)

/-- The accesses of one word all translate, with no miss and no page fault: `good` are the lanes' parts (09 R160). -/
def Translates (s : State) (need : Nat) (ls good : List (Nat × List Piece)) : Prop :=
  s.transAll need ls = { misses := [], bads := [], good := good } ∧ good ≠ []

/-- The parts of a later access of the same word: its data stands n bytes on. -/
def after (n : Nat) (ps : List Piece) : List Piece := ps.map (fun q => { q with at_ := q.at_ + n })

/-- An engine step may act: its team is resident, no operation of the lanes `on` is unfinished, it owes its control block nothing, it waits
for no RESUME, and each of its accesses translates (23 R340, R341, R368). -/
structure EngineActs (s : State) (tid coh : Nat) (u : Unf) (on_ lanes : Lanes) (as : List (Nat × Nat)) : Prop where
  on : s.engOn tid u on_ = true
  due : u.due = 0
  open_ : s.engWaits tid coh lanes = false
  mapped : ∀ a ∈ as, (s.engMap tid a.1 a.2).toOption.isSome = true

/-- The parts of an engine's access. -/
def engParts (s : State) (tid a n : Nat) : List Piece := ((s.engMap tid a n).toOption).getD []

/-- A descriptor's address translates for the group to the part q, and the line stands in the module, where it is to be read (15 R369; 15 R238). -/
structure PlacedAt (s : State) (va need : Nat) (rd : Bool) (q : Piece) : Prop where
  translated : s.transAll need [(lowest s.G, [{ va := va, at_ := 0, len := 64 : Piece }])] =
    { misses := [], bads := [], good := [(lowest s.G, [q])] }
  there : rd = true → s.awaits s.myTeam.vf q.pa s.myTeam.core = none

/-- A word's descriptor pointer is in space 0 and 64-aligned, and it translates to q (15 R234, R369). -/
structure DescAt (s : State) (p : BitVec 64) (need : Nat) (rd : Bool) (q : Piece) : Prop where
  space : spaceOf p = 0
  rank : rankOf p = 0
  aligned : offOf p % 64 = 0
  placed : PlacedAt s (offOf p) need rd q

/-- A descriptor's words w are read, with nothing that cannot be corrected and no refusal; t is the state then (15 R369; 10 R182; 18 R269). -/
structure DescRead (s : State) (pa : Nat) (t : State) (w : List (BitVec 64)) : Prop where
  line : ∃ x, s.readLine s.myTeam.vf (lineAt pa) s.myTeam.core s.cur.tid s.cur.coh = (t, x, none) ∧
    w = words64 8 (lineBytes x (pa % 128) 64)
  allowed : (s.readRefusal s.myTeam.vf (lineAt pa) s.myTeam.core).any (fun x => x.tgt != 6) = false

/-- A group enters its cohort's handler (09 R164): s56 to s62 hold the record's words 0 to 6, TRAPPC the place to return to, TRAPSTAT is
set, STKCUR is PRIVW, the group stands at TRAPVEC with DEPTH and IDX 0 and waits no more; nothing else of the machine changes. -/
structure EntersHandler (s t : State) (tid coh : Nat) (grp : Lanes) (back : BitVec 64) (words : List Nat) : Prop where
  stays : Stays tid coh s t
  cores : ∀ n, t.core n = s.core n
  rest : (t.coh tid coh).butTrap (s.coh tid coh) = s.coh tid coh
  saved : ∀ i, i < 7 → tget 0 (t.coh tid coh).s (56 + i) = BitVec.ofNat 64 (words.getD i 0)
  kept : ∀ r, (r < 56 ∨ 62 < r) → tget 0 (t.coh tid coh).s r = tget 0 (s.coh tid coh).s r
  trappc : (t.coh tid coh).trappc = back
  trapstat : (t.coh tid coh).trapstat = true
  stkcur : (t.coh tid coh).stkcur = (s.team tid).launch.privw
  waiting : (t.coh tid coh).waiting = (s.coh tid coh).waiting &&& ~~~grp
  pc : ∀ l, tget 0 (t.coh tid coh).pc l =
    if l < 32 && grp.getLsbD l then BitVec.ofNat 64 (fld (s.team tid).launch.trapvec 0 52) else tget 0 (s.coh tid coh).pc l

/-- The step has latched move m of pumphouse core pc (log entry 12), whose run is r: the move performs, guarded or not, with the source
value v (15 R229). -/
structure MoveRuns (s : State) (pc : Nat) (m : Move) (r : Run) (v : BitVec 64) : Prop where
  latched : s.mv = (pc, m)
  running : (s.pump pc).run = some r
  guard : m.g = 1 → nbit r.old.c = m.e
  value : r.source pc m = v

/-- A move that has changed its core's ports, and the run goes to the next move or bundle. -/
def portResult (s : State) (pc : Nat) (f : Ports → Ports) : State :=
  (s.modPump pc (fun p => { p with ports := f p.ports })).moveDone pc

/-- The same for a move that triggers the SFU, whose result can be read four pumphouse clocks later. -/
def sfuResult (s : State) (pc : Nat) (f : Ports → BitVec 64) : State :=
  (s.modPump pc (fun p => { p with ports := { p.ports with sfur := f p.ports }, run := p.run.map (fun r => { r with sfu := s.pclk + 4 }) })).moveDone pc

/-- A move that has changed its run. -/
def runResult (s : State) (pc : Nat) (f : Run → Run) : State := (s.modRun pc f).moveDone pc

/-- The moves of a pumphouse bundle (15 R229, R230). -/
def pumpMoves : List Instr :=
  [.pumpMove, .aluadd, .alusub, .aluand, .aluor, .aluxor, .alushl, .alushr, .alusra, .alumul, .cmpeq, .cmplt, .cmpltu, .sfufma, .sfucvt,
    .ldg, .lds, .stg, .sts, .bkc, .sluice, .pumpDone, .jump, .jrel, .drain]

/-- The head microcommand c of bank gb is of an operation, and may issue now: no normal row is open, its clock is legal, it fits the
deadline and the bank duty admits it (15 R227, R238; 25 R357). -/
structure HeadIssues (s : State) (gb op : Nat) (c : MicroCmd) : Prop where
  head : s.bankHead gb op = some c
  may : s.canIssue gb op = true

/-- A MAC or WB finds the row that its core opened, not suspended and not another (15 R227). -/
structure RowReady (b : Bank) (c : MicroCmd) : Prop where
  susp : b.susp.any (fun r => r.pc = c.pc) = false
  normal : b.row.any (fun r => r.normal) = false
  own : b.rowOk c = true

/-- Request id may be taken where its packet goes: it has left its core, no packet of its source is behind it, and its input's turn has come; t is the
state with it arrived, and r the request then (10 R184; 14 R222). -/
structure ComesIn (s : State) (id : Nat) (t : State) (r : Req) : Prop where
  ready : ∃ q, s.req id = some q ∧ s.ready id q = true ∧ t = s.comeIn id q
  request : t.req id = some r
  first : t.waitsFirst id r = false

/-- It arrives at its home slice, and neither a router nor the access table turns it away (18 R269, R272). `right` is its right. -/
structure Arrives (s : State) (id : Nat) (t : State) (r : Req) (right : Nat) (wr : Bool) : Prop extends ComesIn s id t r where
  slice : r.slice = true
  allowed : t.turnedAway r right wr = none

/-- Its line is open to it, and stands in its slice or came for it from the channel (16 R249; 15 R238). -/
structure Served (t : State) (r : Req) (span : Nat) : Prop where
  window : t.heldWindow r.line span = false
  miss : t.missRefusal r.vf r.line = none
  there : t.isHere r.line = true

/-- The first n rows of a record's tile have been delivered, as the wait of the entry e has it (08 R145, R146). -/
def RowsAt (c : Core) (e : MEntry) (x : Tile) (n : Nat) : Prop := rowsReady c x n e = true

/-- An operation of the matrix queue reads bytes of its team's run with nothing that cannot be corrected; t is the state then (10 R182). -/
def Sensed (s : State) (e : MEntry) (rs : List (Nat × Nat)) (t : State) : Prop :=
  rs.foldl (fun (r : State × Option (Nat × Nat × Nat)) x =>
    let y := r.1.senseRun (s.team e.tid) 3 x.1 x.2
    (y.1, r.2.orElse (fun _ => y.2))) (s, none) = (t, none)

/-- The command processor of an operating module takes command c, of a kind, from the next slot of its round, which is fn's: its first word
keeps 25 R350, and no RESET-VF is in effect (25 R350, R351, R353). -/
structure Taken (s : State) (fn kind : Nat) (c : Cmd) : Prop where
  operating : s.mstate = 2
  turn : s.nextFn = some fn
  slot : s.slotCmd fn = c
  kind : c.kind = kind
  alone : ∀ d ∈ s.cmds, d.typ ≠ 8
  legal : s.badSlot c = false

/-- A taken command: CQHEAD, JSEQ and the round go on, its journal entry says when it was taken, and it is outstanding (25 R351, R352). -/
def taken (s : State) (fn : Nat) (c : Cmd) : State :=
  let entry := BitVec.ofNat 256 (c.jseq + (c.typ + fn * 2 ^ 8) * 2 ^ 64 + s.timebase.toNat * 2 ^ 128)
  { s.setFn fn { s.fn fn with cqhead := (s.fn fn).cqhead + 1 } with
    jseq := s.jseq + 1, journal := tset 0 s.journal (c.jseq % 65536) entry, cmds := s.cmds ++ [c], round := fn + 1 }

/-- The issue of a lane's group has been taken: the group counts as issued, the holds that it has left end, the round-robin pointer moves past
its cohort on port 0, and the group's place is noted (02 R36; 11 R204). -/
def chosen (s : State) (port tid coh lane : Nat) : State :=
  let g := s.offered tid coh lane
  let pc := tget 0 (s.coh tid coh).pc lane
  let t := (s.modCoh tid coh (fun c =>
    { c.snap with pre := c.snap.pre.map (fun p => { p with lanes := p.lanes ||| g }) })).modCore (s.team tid).core
      (fun c => c.dropHolds tid coh g pc)
  let t : State := { t with cur := { tid := tid, coh := coh, lanes := g, addr := fld pc 0 52, idx := fld pc 60 4, port := port } }
  if port = 0 then t.passCohort tid coh else t

/-- The header that a group executes, or the clause of the word that it executes, is noted (07 R129). -/
def noted (s : State) (h : Nat × Nat × Nat × Nat) (w : Nat) (yld : Bool) : State :=
  { s with cur := { s.cur with count := h.1, cls := h.2.1, seta := h.2.2.1, setb := h.2.2.2, word := w, yld := yld } }

/-- The register checks of the words beyond the alu class (03 R57), in their order, and whether the word comes to them: no fence, `cas` or full flag
holds it, and no illegal instruction comes first. -/
def otherRegs (s : State) (i : Instr) : Option (List RegCheck × Bool) :=
  let mem (lanes : Lanes) (flag : Nat) (load : Bool) : Bool :=
    lanes = 0 || (!(s.fenced lanes load) && !(s.casPending lanes) && s.flagFree flag)
  let lock (g flag : Nat) : Bool := s.active g = 0 || s.flagFree flag
  match i with
  | .cclean a _ _ g => some ([s.vr a], mem (s.active g) s.cur.setb true)
  | .cflush a _ _ g => some ([s.vr a], mem (s.active g) s.cur.setb true)
  | .pfetch a _ _ g => some ([s.vr a], mem (s.active g) 15 true)
  | .wload _ => some ([s.ar 0], true)
  | .wswap => some ([s.ar 0], true)
  | .mstream _ a _ _ _ o m => some ([s.ar a], 16 * o + rowsOf m ≤ 128)
  | .mbatch _ _ _ _ m => some ([s.ar 0], 0 < m && m ≤ 64)
  | .aread _ a _ _ d _ _ => some ([s.ar a, s.vr d], true)
  | .astore _ a o m => some ([s.ar a], 16 * o + rowsOf m ≤ 128)
  | .azero a o m => some ([s.ar a], 16 * o + rowsOf m ≤ 128)
  | .qpush v _ _ _ => some ([s.vr v], true)
  | .qpop v _ _ _ => some ([s.vr v], true)
  | .tspawn h _ => some (s.vrun (2 * h) 2, true)
  | .ttake h _ => some (s.vrun (2 * h) 2, true)
  | .tsteal h _ => some (s.vrun (2 * h) 2, true)
  | .llock d a _ _ => some ([s.vr d, s.vr a], true)
  | .ltry d a g => some ([s.vr d, s.vr a], lock g s.cur.seta)
  | .lunlock a g => some ([s.vr a], lock g s.cur.setb)
  | .lunlockW v a g => some ([s.vr v, s.vr a], lock g s.cur.setb)
  | .lunlockD v a g => some ([s.vr v, s.vr a], lock g s.cur.setb)
  | .lunlockQ v a g => some ([s.vr v, s.vr a], lock g s.cur.setb)
  | .lstat d a g => some ([s.vr d, s.vr a], lock g s.cur.seta)
  | .lstatList d _ g => some ([s.vr d], lock g s.cur.seta)
  | .unfold d a _ => some ([s.vr d, s.vr a], true)
  | .spawnf v _ => some (s.vrun v (if s.me.unf.isSome then s.obj.argq else 1), true)
  | .fret v => some (s.vrun v (if s.me.unf.isSome then s.obj.resq else 1), true)
  | .cres d _ => some (s.vrun d (if s.me.unf.isSome then s.obj.resq else 1), true)
  | .secstat d _ => some ([s.vr d], true)
  | .boardstat d _ => some ([s.vr d], true)
  | .jmpi a _ _ => some ([s.vr a], true)
  | .calli a _ _ => some ([s.vr a], true)
  | .join a b => some ([mr a, mr b], true)
  | .leave a => some ([mr a], true)
  | .waitm a b _ _ => some ([mr a, mr b], true)
  | .bar a b _ => some ([mr a, mr b], true)
  | i => (memForm s i).map (fun m => (m.regs.map s.vr, mem m.lanes m.flag m.isLoad))
end Sys2Proof.Claims

open Sys2Proof Sys2Proof.Machine Sys2Proof.Claims

/-- 06 R107: the integer element operations of width 8 * 2^w, with their registers in the allocation; their encodings, with the spec's
example words and values. -/
def Obligations.IntegerElementResults : Prop :=
  (∀ (s : State) (w d a b h g : Nat), w < 4 → RegsIn s [d, a, b] →
    let n := 8 * 2 ^ w
    let res (f : BitVec n → BitVec n → BitVec n) : Out := .next (vResult s d g (fun l => elems n f (s.v l a) (s.v l b)))
    exec (.add w d a b h g) s = res (fun x y => x + y) ∧
    exec (.sub w d a b h g) s = res (fun x y => x - y) ∧
    exec (.mul w d a b h g) s = res (fun x y => x * y) ∧
    exec (.mulhiI w d a b h g) s = res (fun x y => BitVec.ofInt n (x.toInt * y.toInt / 2 ^ n)) ∧
    exec (.mulhiN w d a b h g) s = res (fun x y => BitVec.ofNat n (x.toNat * y.toNat / 2 ^ n)) ∧
    exec (.minI w d a b h g) s = res (fun x y => if x.toInt ≤ y.toInt then x else y) ∧
    exec (.minN w d a b h g) s = res (fun x y => if x.toNat ≤ y.toNat then x else y) ∧
    exec (.maxI w d a b h g) s = res (fun x y => if y.toInt ≤ x.toInt then x else y) ∧
    exec (.maxN w d a b h g) s = res (fun x y => if y.toNat ≤ x.toNat then x else y) ∧
    exec (.shl w d a b h g) s = res (fun x y => if n ≤ y.toNat then 0 else x <<< y.toNat) ∧
    exec (.shrN w d a b h g) s = res (fun x y => if n ≤ y.toNat then 0 else x >>> y.toNat) ∧
    exec (.shrI w d a b h g) s =
      res (fun x y => if n ≤ y.toNat then (if x.msb then BitVec.allOnes n else 0) else x.sshiftRight y.toNat) ∧
    exec (.addsI w d a b h g) s = res (fun x y => clampI n (x.toInt + y.toInt)) ∧
    exec (.addsN w d a b h g) s = res (fun x y => clampN n (x.toNat + y.toNat : Int)) ∧
    exec (.subsI w d a b h g) s = res (fun x y => clampI n (x.toInt - y.toInt)) ∧
    exec (.subsN w d a b h g) s = res (fun x y => clampN n ((x.toNat : Int) - y.toNat))) ∧
  (∀ (w d a b h g : Nat),
    encode (.add w d a b h g) = a3 (0x04 + w) d a b h g ∧ encode (.sub w d a b h g) = a3 (0x08 + w) d a b h g ∧
    encode (.mul w d a b h g) = a3 (0x0C + w) d a b h g ∧ encode (.mulhiI w d a b h g) = a3 (0x10 + w) d a b h g ∧
    encode (.mulhiN w d a b h g) = a3 (0x14 + w) d a b h g ∧ encode (.minI w d a b h g) = a3 (0x18 + w) d a b h g ∧
    encode (.minN w d a b h g) = a3 (0x1C + w) d a b h g ∧ encode (.maxI w d a b h g) = a3 (0x20 + w) d a b h g ∧
    encode (.maxN w d a b h g) = a3 (0x24 + w) d a b h g ∧ encode (.shl w d a b h g) = a3 (0x28 + w) d a b h g ∧
    encode (.shrN w d a b h g) = a3 (0x2C + w) d a b h g ∧ encode (.shrI w d a b h g) = a3 (0x30 + w) d a b h g ∧
    encode (.addsI w d a b h g) = a3 (0x34 + w) d a b h g ∧ encode (.addsN w d a b h g) = a3 (0x38 + w) d a b h g ∧
    encode (.subsI w d a b h g) = a3 (0x3C + w) d a b h g ∧ encode (.subsN w d a b h g) = a3 (0x40 + w) d a b h g) ∧
  decode 0 0x090C4147 = .ok (.sub 1 3 4 5 0 7) ∧ decode 0 0x16187207 = .ok (.mulhiN 2 6 7 8 0 7) ∧
  decode 0 0x33082247 = .ok (.shrI 3 2 2 9 0 7) ∧ decode 0 0x380420C7 = .ok (.addsN 0 1 2 3 0 7) ∧
  clampN 8 (0xF0 + 0x20) = 0xFF ∧ clampI 8 ((0xF0 : BitVec 8).toInt + (0x20 : BitVec 8).toInt) = 0x10 ∧
  (0xF0 + 0x20 : BitVec 8) = 0x10 ∧ clampI 8 ((0x70 : BitVec 8).toInt + (0x20 : BitVec 8).toInt) = 0x7F

/-- 06 R108: the bitwise operations act on all 128 bits; `andn` computes VA AND NOT VB; their encodings, with the spec's example word. -/
def Obligations.BitwiseResults : Prop :=
  (∀ (s : State) (d a b h g : Nat), RegsIn s [d, a, b] →
    exec (.and d a b h g) s = .next (vResult s d g (fun l => s.v l a &&& s.v l b)) ∧
    exec (.or d a b h g) s = .next (vResult s d g (fun l => s.v l a ||| s.v l b)) ∧
    exec (.xor d a b h g) s = .next (vResult s d g (fun l => s.v l a ^^^ s.v l b)) ∧
    exec (.andn d a b h g) s = .next (vResult s d g (fun l => s.v l a &&& ~~~(s.v l b)))) ∧
  (∀ (d a b h g : Nat), encode (.and d a b h g) = a3 0x44 d a b h g ∧ encode (.or d a b h g) = a3 0x45 d a b h g ∧
    encode (.xor d a b h g) = a3 0x46 d a b h g ∧ encode (.andn d a b h g) = a3 0x47 d a b h g) ∧
  decode 0 0x47105187 = .ok (.andn 4 5 6 0 7)

/-- 06 R109 to R111: bit counts and reversals of the 32-bit elements of VA, field extraction and insertion, and `lea`. -/
def Sys2Proof.Claims.BitFieldResults : Prop :=
  ∀ (s : State) (d a b h g : Nat), RegsIn s [d, a, b] →
    exec (.popcW d a h g) s = .next (vResult s d g (fun l =>
      elems1 32 (fun x => BitVec.ofNat 32 ((List.range 32).filter (fun k => x.getLsbD k)).length) (s.v l a))) ∧
    exec (.clzW d a h g) s = .next (vResult s d g (fun l =>
      elems1 32 (fun x => BitVec.ofNat 32 (32 - blen x.toNat)) (s.v l a))) ∧
    exec (.brevW d a h g) s = .next (vResult s d g (fun l => elems1 32 brev32 (s.v l a))) ∧
    exec (.bfxN32 d a b h g) s = .next (vResult s d g (elems32 (bfx false) s a b)) ∧
    exec (.bfxI32 d a b h g) s = .next (vResult s d g (elems32 (bfx true) s a b)) ∧
    exec (.bfiW d a b h g) s = .next (vResult s d g (fun l =>
      ofElems ((List.range 4).map (fun i => bfi (elem 32 i (s.v l d)) (elem 32 i (s.v l a)) (elem 32 i (s.v l b)))))) ∧
    exec (.lea d a b h g) s = .next (vResult s d g (fun l => setFld (s.v l a) 0 52 (fld (s.v l a) 0 52 + fld (s.v l b) 0 64)))

/-- 06 R112, R113: `sel` writes in every thread of the group, by GUARD; `mov`; `mvs` writes SB into both halves; `mfv` reads the
lowest active lane, as it stood before the core clock. -/
def Sys2Proof.Claims.MoveAndSelectResults : Prop :=
  ∀ (s : State) (d a b h g : Nat), RegsIn s [d, a, b] →
    exec (.sel d a b h g) s = .next (iResult s d (fun l => if (s.me.pget g).getLsbD l then s.v l a else s.v l b)) ∧
    exec (.mov d a h g) s = .next (vResult s d g (fun l => s.v l a)) ∧
    exec (.mvs d b g) s = .next (vResult s d g (fun _ => ofElems [s.sget b, s.sget b])) ∧
    (s.active g ≠ 0 → exec (.mfv a b h g) s =
      .next (sResult s b ((s.vgetPre s.cur.tid s.cur.coh (lowest (s.active g)) a).setWidth 64))) ∧
    (s.active g = 0 → exec (.mfv a b h g) s = .next (s.done true))

/-- 06 R109 to R113: the results of the bit-field words and of the moves and selects. -/
def Obligations.BitFieldMoveAndSelectResults : Prop :=
  Claims.BitFieldResults ∧ Claims.MoveAndSelectResults

/-- 06 R114, R115; 03 R56: compares test element 0 and write PD in the active threads; predicate logic. All are spinning. -/
def Obligations.PredicateResults : Prop :=
  ∀ (s : State) (d c a b h g : Nat), RegsIn s [a, b] →
    let res (f : BitVec 128 → BitVec 128 → Bool) : Out := .next (pResult s d g (lanesBy (fun l => f (s.v l a) (s.v l b))))
    exec (.cmpI32 d c a b h g) s = res (fun x y => condInt c (elem 32 0 x).toInt (elem 32 0 y).toInt) ∧
    exec (.cmpN32 d c a b h g) s = res (fun x y => condInt c ((elem 32 0 x).toNat : Int) (elem 32 0 y).toNat) ∧
    exec (.cmpI64 d c a b h g) s = res (fun x y => condInt c (elem 64 0 x).toInt (elem 64 0 y).toInt) ∧
    exec (.cmpN64 d c a b h g) s = res (fun x y => condInt c ((elem 64 0 x).toNat : Int) (elem 64 0 y).toNat) ∧
    exec (.cmpF32 d c a b h g) s = res (fun x y => condFloat c (f32.decode (elem 32 0 x).toNat) (f32.decode (elem 32 0 y).toNat)) ∧
    exec (.cmpF16 d c a b h g) s = res (fun x y => condFloat c (f16.decode (elem 16 0 x).toNat) (f16.decode (elem 16 0 y).toNat)) ∧
    exec (.cmpBf16 d c a b h g) s =
      res (fun x y => condFloat c (bf16.decode (elem 16 0 x).toNat) (bf16.decode (elem 16 0 y).toNat)) ∧
    exec (.pand d a b g) s = .next (pResult s d g (s.me.pget a &&& s.me.pget b)) ∧
    exec (.por d a b g) s = .next (pResult s d g (s.me.pget a ||| s.me.pget b)) ∧
    exec (.pxor d a b g) s = .next (pResult s d g (s.me.pget a ^^^ s.me.pget b)) ∧
    exec (.pandn d a b g) s = .next (pResult s d g (s.me.pget a &&& ~~~(s.me.pget b))) ∧
    exec (.pmov d a g) s = .next (pResult s d g (s.me.pget a)) ∧
    exec (.pnot d a g) s = .next (pResult s d g (~~~(s.me.pget a)))

/-- 06 R116, R117; 04 R76: floating operations element by element, each rounded once in FPFLAGS.RM, their flags OR-ed in; minimum,
maximum, sign operations without flags; estimates of the four FP32 elements. -/
def Sys2Proof.Claims.FloatResults : Prop :=
  ∀ (s : State) (t d a b h g : Nat), RegsIn s [d, a, b] →
    let res (f : FVal → FVal → FVal → FVal × Bool) : Out := .next (fResult s d g (fun l => floatOf t s a b d l f))
    let est (f : BitVec 32 → BitVec 32 × BitVec 32) : Out := .next (fResult s d g (fun l =>
      packElems 32 ((List.range 4).map (fun i => ((f (elem 32 i (s.v l a))).1.toNat, (f (elem 32 i (s.v l a))).2)))))
    exec (.fadd t d a b h g) s = res (fun x y _ => x.add s.rm y) ∧
    exec (.fsub t d a b h g) s = res (fun x y _ => x.add s.rm y.neg) ∧
    exec (.fmul t d a b h g) s = res (fun x y _ => x.mul y) ∧
    exec (.fma t d a b h g) s = res (fun x y z => (((x.mul y).1.add s.rm z).1, (x.mul y).2 || ((x.mul y).1.add s.rm z).2)) ∧
    exec (.fmin t d a b h g) s = .next (vResult s d g (fun l => elemsFmt t (minmaxF (arithFmt t) false) (s.v l a) (s.v l b))) ∧
    exec (.fmax t d a b h g) s = .next (vResult s d g (fun l => elemsFmt t (minmaxF (arithFmt t) true) (s.v l a) (s.v l b))) ∧
    exec (.fabs t d a h g) s =
      .next (vResult s d g (fun l => elemsFmt t (fun c _ => signOp t (fun _ => false) c) (s.v l a) (s.v l a))) ∧
    exec (.fneg t d a h g) s = .next (vResult s d g (fun l => elemsFmt t (fun c _ => signOp t not c) (s.v l a) (s.v l a))) ∧
    exec (.frcpF32 d a h g) s = est frcpF32 ∧
    exec (.frsqF32 d a h g) s = est frsqF32 ∧
    exec (.fex2F32 d a h g) s = est fex2F32 ∧
    exec (.flg2F32 d a h g) s = est flg2F32

/-- 06 R118, R119; 04 R77 to R81, R85, R86: conversions of four elements. A widening is exact; a narrowing from FP32 shifts its
codes into VD, and with mode 4 each element advances the thread's stochastic state. -/
def Sys2Proof.Claims.ConversionResults : Prop :=
  ∀ (s : State) (n d a r i h g : Nat), RegsIn s [d, a] →
    let wide (w : Nat) (f : Mode → Nat → Nat × BitVec 32) : Out := .next (fResult s d g (fun l =>
      packElems 32 ((four w (s.v l a)).map (f (s.cvtMode r)))))
    let narrow (b : Nat) (fm : Fmt) : Out := .next (fResult s d g (fun l =>
      let codes := (four 32 (s.v l a)).map (fun c => fm.round (s.cvtMode r) (f32.decode c))
      (shiftIn b (codes.map (·.1)) (s.v l d), codes.foldl (fun x y => x ||| y.2) 0)))
    let stoch (b : Nat) (fm : Fmt) : Out :=
      let res (l : Nat) := cvtStoch (fun m c => fm.round m (f32.decode c)) (four 32 (s.v l a)) (tget 0 s.me.sr l)
      let t := s.eachVF (s.active g) d (fun l =>
        (shiftIn b ((res l).1.map (·.1)) (s.v l d), (res l).1.foldl (fun x y => x ||| y.2) 0))
      .next (s.guarded g (t.modMe (fun c => { c with
        sr := (lanesOf (s.active g)).foldl (fun m l => tset 0 m l (res l).2) c.sr })))
    exec (.cvtF32F16 d a r i h g) s = wide 16 (fun _ c => ((f32.round .near (f16.decode c)).1, 0)) ∧
    exec (.cvtF32Bf16 d a r i h g) s = wide 16 (fun _ c => ((f32.round .near (bf16.decode c)).1, 0)) ∧
    exec (.cvtF32I32 d a r i h g) s = wide 32 (fun m c => f32.round m (FVal.ofInt (BitVec.ofNat 32 c).toInt)) ∧
    exec (.cvtF32N32 d a r i h g) s = wide 32 (fun m c => f32.round m (FVal.ofInt c)) ∧
    exec (.cvtI32F32 d a r i h g) s =
      wide 32 (fun m c => ((roundInt true m (f32.decode c)).1.toNat, (roundInt true m (f32.decode c)).2)) ∧
    exec (.cvtN32F32 d a r i h g) s =
      wide 32 (fun m c => ((roundInt false m (f32.decode c)).1.toNat, (roundInt false m (f32.decode c)).2)) ∧
    exec (.cvtF32E2m3 d a r i h g) s = wide 6 (fun _ c => ((f32.round .near (e2m3.decode c)).1, 0)) ∧
    exec (.cvtF32E3m2 d a r i h g) s = wide 6 (fun _ c => ((f32.round .near (e3m2.decode c)).1, 0)) ∧
    exec (.cvtF32E2m1 d a r i h g) s = wide 4 (fun _ c =>
      if c = 8 then ((f32.round .near (f16.decode (fld s.me.fpNow 16 16))).1, 0) else ((f32.round .near (e2m1.decode c)).1, 0)) ∧
    exec (.cvtF32S8pn n d a r i h g) s = wide 8 (fun _ c => ((f32.round .near ((s8p n (i = 1)).decode c)).1, 0)) ∧
    exec (.cvtF32N8pn n d a r i h g) s = wide 8 (fun _ c => ((f32.round .near ((n8p n (i = 1)).decode c)).1, 0)) ∧
    (r ≠ 4 →
      exec (.cvtF16F32 d a r i h g) s = narrow 16 f16 ∧
      exec (.cvtBf16F32 d a r i h g) s = narrow 16 bf16 ∧
      exec (.cvtE2m3F32 d a r i h g) s = narrow 6 e2m3 ∧
      exec (.cvtE3m2F32 d a r i h g) s = narrow 6 e3m2 ∧
      exec (.cvtE2m1F32 d a r i h g) s = narrow 4 e2m1 ∧
      exec (.cvtS8pnF32 n d a r i h g) s = narrow 8 (s8p n (i = 1)) ∧
      exec (.cvtN8pnF32 n d a r i h g) s = narrow 8 (n8p n (i = 1))) ∧
    (r = 4 →
      exec (.cvtF16F32 d a r i h g) s = stoch 16 f16 ∧
      exec (.cvtBf16F32 d a r i h g) s = stoch 16 bf16 ∧
      exec (.cvtE2m3F32 d a r i h g) s = stoch 6 e2m3 ∧
      exec (.cvtE3m2F32 d a r i h g) s = stoch 6 e3m2 ∧
      exec (.cvtE2m1F32 d a r i h g) s = stoch 4 e2m1 ∧
      exec (.cvtS8pnF32 n d a r i h g) s = stoch 8 (s8p n (i = 1)) ∧
      exec (.cvtN8pnF32 n d a r i h g) s = stoch 8 (n8p n (i = 1)))

/-- 06 R116 to R119; 04 R84 to R88: the results of the floating-point words and of the conversions. -/
def Obligations.FloatAndConversionResults : Prop :=
  Claims.FloatResults ∧ Claims.ConversionResults

/-- 06 R105, R120 to R123; 04 R90: shuffles and `bcast` read the source lane as it stood before the core clock; votes; reductions
over the active lanes' element 0. -/
def Sys2Proof.Claims.CrossLaneResults : Prop :=
  ∀ (s : State) (d a b p h g : Nat), RegsIn s [d, a, b] →
    let from_ (src : Nat → Nat) : Out := .next (vResult s d g (fun l => s.vgetPre s.cur.tid s.cur.coh (src l) a))
    let k := fld (s.sget b) 0 5
    let v := s.active g &&& s.me.pget p
    let red (f : BitVec 32 → BitVec 32 → BitVec 32) (ext : BitVec 32 → BitVec 64) : Out :=
      .next (uResult s g b (ext ((tree32 f (s.redLanes a g)).getD 0)))
    exec (.shflIdx d a b h g) s = from_ (fun l => fld (s.v l b) 0 5) ∧
    exec (.shflUp d a b h g) s = from_ (fun l => if k ≤ l then l - k else l) ∧
    exec (.shflDown d a b h g) s = from_ (fun l => if l + k ≤ 31 then l + k else l) ∧
    exec (.shflXor d a b h g) s = from_ (fun l => l ^^^ k) ∧
    exec (.bcast d a b h g) s = from_ (fun _ => k) ∧
    exec (.voteBallot p b g) s = .next (uResult s g b (v.setWidth 64)) ∧
    exec (.voteAny p b g) s = .next (uResult s g b (if v = 0 then 0 else 1)) ∧
    exec (.voteAll p b g) s = .next (uResult s g b (if v = s.active g then 1 else 0)) ∧
    exec (.voteUni p b g) s = .next (uResult s g b (if v = s.active g || v = 0 then 1 else 0)) ∧
    exec (.redaddI32 a b h g) s = red (fun x y => x + y) (BitVec.signExtend 64) ∧
    exec (.redminI32 a b h g) s = red (fun x y => if x.toInt ≤ y.toInt then x else y) (BitVec.signExtend 64) ∧
    exec (.redmaxI32 a b h g) s = red (fun x y => if y.toInt ≤ x.toInt then x else y) (BitVec.signExtend 64) ∧
    exec (.redaddF32 a b h g) s = red addF32 (BitVec.setWidth 64) ∧
    exec (.redminF32 a b h g) s = red (fun x y => BitVec.ofNat 32 (minmaxF f32 false x.toNat y.toNat)) (BitVec.setWidth 64) ∧
    exec (.redmaxF32 a b h g) s = red (fun x y => BitVec.ofNat 32 (minmaxF f32 true x.toNat y.toNat)) (BitVec.setWidth 64)

/-- 06 R124, R125: element extraction and insertion, and the immediate forms, in every thread of the group. -/
def Sys2Proof.Claims.ElementAndImmediateResults : Prop :=
  ∀ (s : State) (d a i : Nat), RegsIn s [d, a] →
    let res (f : BitVec 128 → BitVec 128 → BitVec 128) : Out := .next (iResult s d (fun l => f (s.v l d) (s.v l a)))
    let imm (f : BitVec 32 → BitVec 32) : Out := .next (iResult s d (fun l => elems1 32 f (s.v l a)))
    exec (.extN8 d a i) s = res (fun _ v => (elem 8 i v).setWidth 128) ∧
    exec (.extN16 d a i) s = res (fun _ v => (elem 16 i v).setWidth 128) ∧
    exec (.extW d a i) s = res (fun _ v => (elem 32 i v).setWidth 128) ∧
    exec (.insN8 d a i) s = res (fun z v => setFld z (8 * i) 8 v.toNat) ∧
    exec (.insN16 d a i) s = res (fun z v => setFld z (16 * i) 16 v.toNat) ∧
    exec (.insW d a i) s = res (fun z v => setFld z (32 * i) 32 v.toNat) ∧
    exec (.addiI32 d a i) s = imm (fun x => x + (BitVec.ofNat 12 i).signExtend 32) ∧
    exec (.andi d a i) s = imm (fun x => x &&& BitVec.ofNat 32 i) ∧
    exec (.ori d a i) s = imm (fun x => x ||| BitVec.ofNat 32 i) ∧
    exec (.xori d a i) s = imm (fun x => x ^^^ BitVec.ofNat 32 i) ∧
    exec (.shliW d a i) s = imm (fun x => x <<< i) ∧
    exec (.shriN32 d a i) s = imm (fun x => x >>> i) ∧
    exec (.shriI32 d a i) s = imm (fun x => x.sshiftRight i) ∧
    exec (.moviI32 d i) s = .next (iResult s d (fun _ => elems1 32 (fun _ => (BitVec.ofNat 12 i).signExtend 32) 0))

/-- 06 R120 to R125: the results of the words across lanes, and of the element and immediate words. -/
def Obligations.CrossLaneElementAndImmediateResults : Prop :=
  Claims.CrossLaneResults ∧ Claims.ElementAndImmediateResults

/-- 06 R126, R127: the operations on s registers, once for each issue of the group. A write of s63 is discarded (05 R91). -/
def Obligations.ScalarResults : Prop :=
  ∀ (s : State) (d a b i : Nat),
    let x := s.sget a
    let y := s.sget b
    let res (v : BitVec 64) : Out := .next (sResult s d v)
    exec (.sadd d a b) s = res (x + y) ∧
    exec (.ssub d a b) s = res (x - y) ∧
    exec (.smul d a b) s = res (x * y) ∧
    exec (.smulhiI d a b) s = res (BitVec.ofInt 64 (x.toInt * y.toInt / 2 ^ 64)) ∧
    exec (.smulhiN d a b) s = res (BitVec.ofNat 64 (x.toNat * y.toNat / 2 ^ 64)) ∧
    exec (.sand d a b) s = res (x &&& y) ∧
    exec (.sor d a b) s = res (x ||| y) ∧
    exec (.sxor d a b) s = res (x ^^^ y) ∧
    exec (.sshl d a b) s = res (if 64 ≤ y.toNat then 0 else x <<< y.toNat) ∧
    exec (.sshrN d a b) s = res (if 64 ≤ y.toNat then 0 else x >>> y.toNat) ∧
    exec (.sshrI d a b) s = res (if 64 ≤ y.toNat then (if x.msb then BitVec.allOnes 64 else 0) else x.sshiftRight y.toNat) ∧
    exec (.sminI d a b) s = res (if x.toInt ≤ y.toInt then x else y) ∧
    exec (.smaxI d a b) s = res (if y.toInt ≤ x.toInt then x else y) ∧
    exec (.sminN d a b) s = res (if x.toNat ≤ y.toNat then x else y) ∧
    exec (.smaxN d a b) s = res (if y.toNat ≤ x.toNat then x else y) ∧
    exec (.smov d a) s = res x ∧
    exec (.ssltI d a b) s = res (if x.toInt < y.toInt then 1 else 0) ∧
    exec (.ssltN d a b) s = res (if x.toNat < y.toNat then 1 else 0) ∧
    exec (.sseq d a b) s = res (if x = y then 1 else 0) ∧
    exec (.saddi d a i) s = res (x + (BitVec.ofNat 12 i).signExtend 64) ∧
    exec (.slui d a i) s = res ((x <<< 12) ||| BitVec.ofNat 64 i)

/-- 06 R127: `saddi` and `slui`, their encodings and the spec's example words; one `saddi` from s63 and five `slui` build any constant. -/
def Obligations.ConstantsFromSaddiAndSlui : Prop :=
  (∀ (s : State) (d a i : Nat), exec (.saddi d a i) s = .next (sResult s d (s.sget a + (BitVec.ofNat 12 i).signExtend 64)) ∧
    exec (.slui d a i) s = .next (sResult s d ((s.sget a <<< 12) ||| BitVec.ofNat 64 i))) ∧
  (∀ (d a i : Nat), encode (.saddi d a i) = 0xE1 * 2 ^ 24 + d * 2 ^ 18 + a * 2 ^ 12 + i ∧
    encode (.slui d a i) = 0xE2 * 2 ^ 24 + d * 2 ^ 18 + a * 2 ^ 12 + i) ∧
  decode 0 0xE117F123 = .ok (.saddi 5 63 0x123) ∧ decode 0 0xE2145456 = .ok (.slui 5 5 0x456) ∧ (∀ s : State, s.sget 63 = 0) ∧
  (∀ (c : BitVec 64) (i : Nat), i < 4096 → i % 16 = fld c 60 4 →
    [4, 3, 2, 1, 0].foldl (fun (x : BitVec 64) (j : Nat) => (x <<< 12) ||| BitVec.ofNat 64 (fld c (12 * j) 12)) (0 + (BitVec.ofNat 12 i).signExtend 64) = c) ∧
  ((((0 : BitVec 64) + (BitVec.ofNat 12 0x123).signExtend 64) <<< 12) ||| BitVec.ofNat 64 0x456 = 0x123456)
/-- 06 R103, R105: the frame of the words that write one v register: only VD of the writing lanes, the group's PCs and the hang
counter change; floating words and conversions also FPFLAGS and the stochastic states. -/
def Sys2Proof.Claims.VectorWordFrame : Prop :=
  ∀ (i : Instr) (s : State) (f : VForm), vectorForm i = some f → RegsIn s f.regs → ∃ t, exec i s = .next t ∧ Keeps s t ∧
    (∀ n k, (n ≠ s.myTeam.core ∨ ∀ l, l < 32 → (f.lanes s).getLsbD l → k ≠ s.me.rfKey l f.d) →
      tget 0 (t.core n).rf k = tget 0 (s.core n).rf k) ∧
    (if f.isFloat then (t.me.butPc s.me).butFloat s.me else t.me.butPc s.me) = s.me

/-- 06 R113, R122, R123, R126, R127; 05 R91: the frame of the words that write one s register, and what s63 does: a write of it is
discarded, and it reads 0. -/
def Sys2Proof.Claims.ScalarWordFrame : Prop :=
  (∀ (i : Instr) (s : State) (rs : List Nat) (d : Nat), scalarForm i = some (rs, d) → RegsIn s rs → ∃ t, exec i s = .next t ∧
    Keeps s t ∧ (∀ n, t.core n = s.core n) ∧ (∀ r, (r ≠ d ∨ d = 63) → tget 0 t.me.s r = tget 0 s.me.s r) ∧
    (t.me.butPc s.me).butS s.me = s.me) ∧
  (∀ (s : State) (d : Nat) (x : BitVec 64), d ≠ 63 → tget 0 (sResult s d x).me.s d = x) ∧
  (∀ (s : State), s.sget 63 = 0)

/-- 06 R114, R115; 03 R56: the frame of the words that write one predicate register: PD in the active lanes, and nothing at all of
p7, which is always true. -/
def Sys2Proof.Claims.PredicateWordFrame : Prop :=
  (∀ (i : Instr) (s : State) (rs : List Nat) (d g : Nat), predicateForm i = some (rs, d, g) → RegsIn s rs →
    ∃ t, exec i s = .next t ∧ Keeps s t ∧ (∀ n, t.core n = s.core n) ∧
      (∀ r l, (r ≠ d ∨ d = 7 ∨ (s.active g).getLsbD l = false) → (t.me.pget r).getLsbD l = (s.me.pget r).getLsbD l) ∧
      (t.me.butPc s.me).butP s.me = s.me) ∧
  (∀ (s : State) (d g l : Nat) (v : Lanes), d ≠ 7 → (s.active g).getLsbD l = true →
    ((pResult s d g v).me.pget d).getLsbD l = v.getLsbD l)

/-- The frames of the alu words (06 R103 to R127): what each leaves unchanged. -/
def Obligations.AluWordFrames : Prop :=
  Claims.VectorWordFrame ∧ Claims.ScalarWordFrame ∧ Claims.PredicateWordFrame

/-- 06 R103: what a word has written into VD reads back in each active lane; of a floating word, FPFLAGS gains the flags of every
active lane and loses none (04 R88). -/
def Obligations.VectorResultReadsBack : Prop :=
  (∀ (s : State) (d g l : Nat) (f : Nat → BitVec 128), l < 32 → (s.active g).getLsbD l = true → (vResult s d g f).v l d = f l) ∧
  (∀ (s : State) (d l : Nat) (f : Nat → BitVec 128), l < 32 → s.G.getLsbD l = true → (iResult s d f).v l d = f l) ∧
  (∀ (s : State) (d g l : Nat) (f : Nat → BitVec 128 × BitVec 32), l < 32 → (s.active g).getLsbD l = true →
    (fResult s d g f).v l d = (f l).1 ∧ (fResult s d g f).me.fpflags &&& (f l).2 = (f l).2 ∧
    (fResult s d g f).me.fpflags &&& s.me.fpflags = s.me.fpflags)

/-- 03 R57, R58; 09 R161: a word of the alu class that names a v register outside the allocation raises the register-range fault
before any effect; DETAIL is the first register that fails. -/
def Sys2Proof.Claims.AluRangeFaults : Prop :=
  ∀ (i : Instr) (s : State) (rs : List Nat) (r : Nat), aluRegs i = some rs → rs.find? (fun r => decide (8 * s.me.alloc ≤ r)) = some r →
    exec i s = .next (s.raise { cause := 0x12, detail := r })

/-- 03 R57, R58; 08 R141; 09 R161: so does a word of another class: a v register outside the allocation, an m register above 11, an a register in a
team that does not own the accumulators. DETAIL is the number of the first that fails, of a run its first number that does. -/
def Sys2Proof.Claims.OperandRangeFaults : Prop :=
  ∀ (i : Instr) (s : State) (rs : List RegCheck) (r : RegCheck), otherRegs s i = some (rs, true) → rs.find? (fun c => !c.1) = some r →
    exec i s = .next (s.raise { cause := 0x12, detail := r.2 })
/-- 03 R57, R58; 09 R161: register-range faults of the words of every class. -/
def Obligations.RegisterRangeFaults : Prop :=
  Claims.AluRangeFaults ∧ Claims.OperandRangeFaults

/-- 11 R186, R188 to R192, R195 to R197: a load, store, atomic or reduction that nothing stops performs its lanes' accesses, and the
group goes on. -/
def Obligations.MemoryWordsPerform : Prop :=
  ∀ (i : Instr) (s : State) (m : MemForm) (good : List (Nat × List Piece)), memForm s i = some m → m.Performs s good →
    exec i s = .next ((m.effect s (withParts (m.own s) good)).memDone m.spin)

/-- 11 R193, R194, R196; 03 R49, R52; 14 R221: a word that a fence holds, that has `cas` lanes before it, or whose flag is full waits and changes
nothing; a release beyond cohort scope first takes the cohort's dirty private lines to memory; one whose guard is false everywhere performs no
operation and attaches to no flag. -/
def Sys2Proof.Claims.MemoryWordsWaitOrPass : Prop :=
  ∀ (i : Instr) (s : State) (m : MemForm), memForm s i = some m →
    (m.lanes ≠ 0 → s.fenced m.lanes m.isLoad = true ∨ s.casPending m.lanes = true ∨ s.flagFree m.flag = false → exec i s = .next s) ∧
    (m.lanes ≠ 0 → s.fenced m.lanes m.isLoad = false → s.casPending m.lanes = false → s.flagFree m.flag = true → RegsIn s m.regs →
      s.unflushed m.rel = true → exec i s = .next (s.flushFor)) ∧
    (RegsIn s m.regs → m.accs = [] → exec i s = .next (s.done true))

/-- 09 R160; 10 R173, R176; 13 R217: a lane whose address, alignment, stack limit or range lock is wrong makes the whole word a
program fault, before translation and before any lane performs; a uniform form names every lane of the group (11 R191). -/
def Sys2Proof.Claims.MemoryWordsFaultAtStageTwo : Prop :=
  ∀ (i : Instr) (s : State) (m : MemForm) (f : FaultInfo), memForm s i = some m →
    s.fenced m.lanes m.isLoad = false → s.casPending m.lanes = false → s.flagFree m.flag = true → s.unflushed m.rel = false →
    RegsIn s m.regs → m.accs ≠ [] →
    stage2Fault m.access (m.accs.map (fun a => (a.lane, s.stage2 m.access m.n m.align a.ptr))) = some f →
    exec i s = .next (s.raise (if m.uni then { f with lanes := s.G } else f))


/-- 11 R188 to R197; 09 R160: where the loads, stores, atomics and reductions wait, pass without an access, or fault at stage 2. -/
def Obligations.MemoryWordsWaitOrFault : Prop :=
  Claims.MemoryWordsWaitOrPass ∧ Claims.MemoryWordsFaultAtStageTwo

/-- 11 R193, R194: a fence completes at issue. With an active lane it is held by the unfinished operations of its kind that owe it something at its
scope (0 acquire: loads and atomics; 1 release: stores and atomics; 2 both); a release at a scope beyond cohort takes the dirty private lines to
memory, as stores that it waits for too. A fence that an earlier one holds waits. -/
def Sys2Proof.Claims.FenceHoldsLaterWords : Prop :=
  ∀ (s : State) (sc k g : Nat),
    let ls := s.active g
    let t := if k ≠ 0 ∧ s.unflushed sc = true then s.flushFor else s
    let ops := t.opsBy (fun o => o.owes ls sc && ((k != 1 && (o.kind = 0 || o.kind = 2)) || (k != 0 && (o.kind = 1 || o.kind = 2))))
    (ls = 0 → s.fenced ls true = false → exec (.fence sc k g) s = .next (s.done true)) ∧
    (s.fenced ls true = true → exec (.fence sc k g) s = .next s) ∧
    (s.fenced ls true = false → ls ≠ 0 → exec (.fence sc k g) s = .next ((t.modMe (fun c => { c with
      holds := c.holds.filter (fun h => h.ops.any (fun o => (s.op o).isSome)) ++
        [{ lanes := ls, kind := k, ops := ops, scope := sc }] })).done true))

/-- 11 R198; 10 R173: `cclean` writes dirty private lines back, `cflush` also drops the core's copies, each as an operation of SETB that its lines'
write-backs are acknowledged to; an address that fails stage 2, a range lock among it, faults. That `cclean` ends as a store does, by its own
acknowledgement, is the model's choice (log entry 28). `pfetch` walks for what misses, then fills lines under the policy operand, and raises none. -/
def Sys2Proof.Claims.CacheOperationsPerform : Prop :=
  ∀ (s : State) (a p o g : Nat) (good : List (Nat × List Piece)),
    let as := s.laneAccs g a o 128
    let checks := stage2Fault 0 (as.map (fun x => (x.lane, s.stage2 0 1 0 x.ptr)))
    s.fenced (s.active g) true = false → s.casPending (s.active g) = false → RegsIn s [a] →
    (as ≠ [] → s.flagFree s.cur.setb = true → good ≠ [] → checks = none →
      s.transAll 1 (as.map (fun x => (x.lane, s.pieces x.lane 1 x.ptr))) = { misses := [], bads := [], good := good } →
      let lines := cacheLines (withParts as good)
      let mine := lines.filter (fun l => l.2)
      let op (n : Nat) := s.newOp { tid := s.cur.tid, coh := s.cur.coh, flag := s.cur.setb, lanes := lanesIn (withParts as good), kind := 1,
                                    left := 1 + n }
      let ends (t : State) (id : Nat) : Out := .next ((t.ackFor id 0 []).memDone false)
      exec (.cclean a p o g) s = ends (mine.foldl (fun t l => t.writeBack (op (s.dirtyIn mine)).2 t.myTeam.core l.1) (op (s.dirtyIn mine)).1)
        (op (s.dirtyIn mine)).2 ∧
      exec (.cflush a p o g) s = ends (lines.foldl (fun t l => t.l1Drop (op (s.dirtyIn lines)).2 t.myTeam.core l.1) (op (s.dirtyIn lines)).1)
        (op (s.dirtyIn lines)).2) ∧
    (∀ f, as ≠ [] → s.flagFree s.cur.setb = true → checks = some f →
      exec (.cclean a p o g) s = .next (s.raise f) ∧ exec (.cflush a p o g) s = .next (s.raise f)) ∧
    (let r := s.transAll 1 ((prefetchAccs s as).map (fun x => (x.lane, s.pieces x.lane 1 x.ptr)))
     (s.active g ≠ 0 → r.misses ≠ [] → exec (.pfetch a p o g) s =
       .next ((dedup r.misses).foldl (fun t q => t.startWalk s.myTeam.core s.myTeam.vf q) s)) ∧
     (r.misses = [] → s.active g ≠ 0 → exec (.pfetch a p o g) s = .next ((r.good.foldl (fun t e =>
       t.prefetch (s.policy p) (lineAt (e.2.headD default).pa) e.1
         ((prefetchAccs s as).any (fun x => x.lane = e.1 && spaceOf x.ptr = 1))) (s.badWalks s.myTeam.core s.myTeam.vf r.bads)).done true)))

/-- 11 R193, R194, R198: fences, and the cache operations. -/
def Obligations.FencesAndCacheOperations : Prop :=
  Claims.FenceHoldsLaterWords ∧ Claims.CacheOperationsPerform

/-- 11 R199, R200: an aligned copy between legal sides is accepted by its channel when there is room, as an operation of SETB, and the
group goes on; a copy of no bytes does nothing. -/
def Sys2Proof.Claims.CopiesAreAccepted : Prop :=
  ∀ (s : State) (isIn : Bool) (d a b ch : Nat),
    let i : Instr := if isIn then .cpin d a b ch else .cpout d a b ch
    let len := fld (s.sget b) 0 24
    s.copySide (!isIn) (s.sget d) len = true → s.copySide isIn (s.sget a) len = true →
    (s.sget b).toNat = len → len % 16 = 0 →
    (len = 0 → exec i s = .next s.done) ∧
    (len ≠ 0 → s.heldChan (s.myCore.chan ch) = true ∨ s.flagFree s.cur.setb = false → exec i s = .next s) ∧
    (∀ c, len ≠ 0 → s.heldChan (s.myCore.chan ch) = false → s.flagFree s.cur.setb = true →
      let op := s.newOp { tid := s.cur.tid, coh := s.cur.coh, flag := s.cur.setb, kind := 3 }
      s.myCore.takeCopy { op := op.2, tid := s.cur.tid, coh := s.cur.coh, vf := s.myTeam.vf, isIn := isIn, dst := s.sget d,
                          src := s.sget a, len := len, ch := ch, pc := s.herePc } = some c →
      exec i s = .next ((op.1.setCore s.myTeam.core c).done))

/-- 11 R200: a copy between wrong sides, a misaligned one, or one beyond its run is an address fault of that side; one whose length is no multiple
of 16, or 2^24 or more, of either side. -/
def Sys2Proof.Claims.WrongCopiesFault : Prop :=
  ∀ (s : State) (isIn : Bool) (d a b ch : Nat),
    let i : Instr := if isIn then .cpin d a b ch else .cpout d a b ch
    let len := fld (s.sget b) 0 24
    let fault (s : State) (p : BitVec 64) : Out := .next (s.raise { cause := 0x1D, detail := spaceOf p, pages := [p.toNat], lanes := s.G })
    (s.copySide (!isIn) (s.sget d) len = false → exec i s = fault s (s.sget d)) ∧
    (s.copySide (!isIn) (s.sget d) len = true → s.copySide isIn (s.sget a) len = false → exec i s = fault s (s.sget a)) ∧
    (s.copySide (!isIn) (s.sget d) len = true → s.copySide isIn (s.sget a) len = true → (s.sget b).toNat % 16 ≠ 0 ∨ (s.sget b).toNat ≠ len →
      exec i s = fault s.draw.1 (s.sget d) ∨ exec i s = fault s.draw.1 (s.sget a))

/-- 11 R204: a `cpwait` whose threshold has been delivered reads CHIS into SD; with s63 as its threshold it also sets the channel's
admission hold for its group. A threshold beyond CHIS counts as CHIS. Until then its group waits. -/
def Sys2Proof.Claims.CopyWaitReadsTheChannel : Prop :=
  ∀ (s : State) (d a ch : Nat),
    let h := s.myCore.chan ch
    let w := if (s.sget a).toNat ≤ h.chis.toNat then s.sget a else h.chis
    (a = 63 → s.heldChan h = true → exec (.cpwait d a ch) s = .next s) ∧
    ((a = 63 → s.heldChan h = false) → h.chwp.toNat < w.toNat → exec (.cpwait d a ch) s =
      .next ((s.modMe (fun x => { x with polls := x.polls ++ [⟨s.G, .cpwait ch w d h.chis⟩] })).suspend s.G)) ∧
    (w.toNat ≤ h.chwp.toNat → a ≠ 63 → exec (.cpwait d a ch) s = .next (sResult s d h.chis)) ∧
    (w.toNat ≤ h.chwp.toNat → a = 63 → s.heldChan h = false → exec (.cpwait d a ch) s =
      let t := sResult s d h.chis
      .next (t.modCore t.myTeam.core (fun m => m.setChan ch { h with
        hold := some (s.cur.tid, s.cur.coh, lowest s.G, tget 0 t.me.pc (lowest s.G)) })))

/-- 11 R205: `bankmode` to the mode that a bank has does nothing; to another mode it starts the bank's drain, as an operation of SETB,
unless a team's run keeps the bank. That the drain of a FIFO bank waits for the tasks that stood in the core's deques at the acceptance is the
model's choice (log entry 18). -/
def Sys2Proof.Claims.BankModeDrains : Prop :=
  ∀ (s : State) (a m : Nat),
    let b := fld (s.sget a) 0 4
    let c := s.myCore
    m < 3 → (s.sget a).toNat = b → s.flagFree s.cur.setb = true →
    (c.modeThen b ≠ 1 ∨ m = 1 ∨ ∀ t ∈ tvals s.teams, t.on s.myTeam.core = false ∨ b ∉ t.banksOf) →
    ((∀ d ∈ c.drains, d.bank ≠ b) → tget 0 c.modes b = m → exec (.bankmode a m) s = .next s.done) ∧
    (((∃ d ∈ c.drains, d.bank = b) ∨ tget 0 c.modes b ≠ m) →
      let op := s.newOp { tid := s.cur.tid, coh := s.cur.coh, flag := s.cur.setb, kind := 3 }
      exec (.bankmode a m) s =
        .next ((op.1.modCore s.myTeam.core (fun c => { c with drains := c.drains ++
          [{ bank := b, mode := m, op := op.2, tasks := s.tasksIn s.myTeam.core b }] })).done))


/-- 11 R199 to R205: copy commands, the copies that fault, the wait on a channel, and the drain of a bank for a new mode. -/
def Obligations.CopyWordsAndBankModes : Prop :=
  Claims.CopiesAreAccepted ∧ Claims.WrongCopiesFault ∧ Claims.CopyWaitReadsTheChannel ∧ Claims.BankModeDrains

/-- 03 R46, R48; 02 R24, R25; 20 R305: a header passes its group when no corrupted tile waits, the cohort's role may issue the class
and every flag that WAIT names was clear; it waits for the flags, and a class that the role may not issue faults. Before a gated stream the group
stands at the header, which its gate's acceptance passes (08 R149). -/
def Obligations.ClauseHeaderPassesOrWaits : Prop :=
  ∀ (s : State) (y b a w e c : Nat), s.me.tiles = [] →
    (s.myTeam.launch.mayRun s.cur.coh e = false → 
      exec (.clauseHeader y b a w e c) s = .next ({ s with cur := { s.cur with idx := 0 } }.raise { cause := 0x13, detail := e })) ∧
    (s.myTeam.launch.mayRun s.cur.coh e = true → s.me.flagsClear w = false → exec (.clauseHeader y b a w e c) s = .next s) ∧
    (s.myTeam.launch.mayRun s.cur.coh e = true → s.me.flagsClear w = true → e ≠ 2 →
      exec (.clauseHeader y b a w e c) s = .next (s.advance s.G)) ∧
    (s.myTeam.launch.mayRun s.cur.coh e = true → s.me.flagsClear w = true → e = 2 →
      ∀ x t, s.fetch ((s.cur.addr + 4) % 2 ^ 52) = .word x t →
        exec (.clauseHeader y b a w e c) s = .next (if gatedWord x then t else t.advance t.G))

/-- 07 R129, R131: `br` moves the active threads, `bra` the whole group if any thread is active, `jmpi` each active thread by its own
register; a transfer changes the PCs alone. -/
def Sys2Proof.Claims.BranchesMoveThreads : Prop :=
  ∀ (s : State) (o a h g : Nat),
    (∃ t, exec (.br o g) s = .next t ∧ Goes s t (s.active g) (fun _ => s.target o) id) ∧
    (∃ t, exec (.bra o g) s = .next t ∧ Goes s t (if s.active g = 0 then 0 else s.G) (fun _ => s.target o) id) ∧
    (RegsIn s [a] → ∃ t, exec (.jmpi a h g) s = .next t ∧ Goes s t (s.active g) (fun l => fld (s.v l a) 0 52) id)

/-- 07 R131: a call whose frames lie in the private words and translate stores each active thread's return address there and
transfers with DEPTH one more; a return loads it and transfers with DEPTH one less; a frame outside them is a stack-limit fault, and a
return at DEPTH 0 an illegal instruction: that it comes first, where lanes fail in both ways, is the model's choice (log entry 40). -/
def Sys2Proof.Claims.CallsPushAndReturnsPop : Prop :=
  ∀ (s : State) (o a h g : Nat) (good : List (Nat × List Piece)),
    let depth (l : Nat) : Nat := fld (tget 0 s.me.pc l) 52 8
    let ls := lanesFrom (good.map (·.1))
    s.active g ≠ 0 →
    ((∀ l ∈ lanesOf (s.active g), depth l ≠ 255 ∧ 0 ≤ pushWord s l) → FramesAt s g (pushWord s) good →
      exec (.call o g) s = .next ((pushFrames s good).transfer ls (fun _ => s.target o) (· + 1) false) ∧
      (RegsIn s [a] → exec (.calli a h g) s = .next ((pushFrames s good).transfer ls (fun l => fld (s.v l a) 0 52) (· + 1) false))) ∧
    ((∀ l ∈ lanesOf (s.active g), depth l ≠ 0 ∧ 0 ≤ popWord s l) → FramesAt s g (popWord s) good →
      let r := popFrames s good
      let got := gather [] r.2.1
      (r.2.2 = none → exec (.ret g) s = .next (r.1.transfer ls
        (fun l => ofLeBytes ((List.range 8).map (fun i => tget 0 got (8 * l + i))) % 2 ^ 52) (· - 1) false)) ∧
      (∀ e, r.2.2 = some e → exec (.ret g) s = .next (r.1.machineCheck s.cur.tid s.cur.coh s.herePc ls 4 e))) ∧
    ((∃ l ∈ lanesOf (s.active g), depth l = 255 ∨ pushWord s l < 0) → ∃ f : FaultInfo, f.cause = 0x14 ∧
      exec (.call o g) s = .next (s.raise f)) ∧
    ((∃ l ∈ lanesOf (s.active g), depth l = 0) → exec (.ret g) s = .next s.illegal) ∧
    ((∀ l ∈ lanesOf (s.active g), depth l ≠ 0) → (∃ l ∈ lanesOf (s.active g), popWord s l < 0) → ∃ f : FaultInfo, f.cause = 0x14 ∧
      exec (.ret g) s = .next (s.raise f))

/-- 07 R129 to R131: the words that move threads. -/
def Obligations.BranchesCallsAndReturns : Prop :=
  Claims.BranchesMoveThreads ∧ Claims.CallsPushAndReturnsPop

/-- 07 R134, R137; 09 R169: `join` adds the threads of the group that MB names to MA, `leave` takes the group from MA; `waitm` and
`bar` take it from MA and make it wait at a record. The mask is as the event before left it. -/
def Sys2Proof.Claims.ReconvergenceWordsUpdateMasks : Prop :=
  ∀ (s : State) (a b p n k : Nat), a < 12 → b < 12 →
    let left := s.modMe (fun c => c.mset a (c.mget a &&& ~~~s.G))
    let bound := if n = 0 then 0 else 256 * n + 1
    let wait : HwRec := { kind := 1, lanes := s.G, ma := a, mb := b, ps := p, remain := bound }
    let stop : HwRec := { kind := 2, lanes := s.G, ma := a, mb := b, imm := lowest s.G }
    exec (.join a b) s = .next ((s.modMe (fun c => c.mset a (c.mget a ||| (c.mget b &&& s.G)))).done) ∧
    exec (.leave a) s = .next left.done ∧
    (s.me.hwPlace wait = some k → exec (.waitm a b p n) s = .next (left.arriveAt k wait)) ∧
    (s.me.hwPlace wait = none → exec (.waitm a b p n) s = .next s) ∧
    (s.myTeam.bar.isOpen = true → s.myTeam.bar.mreg ≠ a → exec (.bar a b n) s = .next s.illegal) ∧
    ((s.myTeam.bar.isOpen = true → s.myTeam.bar.mreg = a) → s.me.hwPlace stop = some k → exec (.bar a b n) s =
      let t := s.modTeam s.cur.tid (fun t => { t with
        bar :=
          let o := if t.bar.isOpen then t.bar else { t.bar with isOpen := true, mreg := a, bounded := n != 0, remain := bound }
          { o with waitcoh := o.waitcoh ||| lane1 s.cur.coh } })
      .next ((t.modMe (fun c => c.mset a (c.mget a &&& ~~~s.G))).arriveAt k stop))

/-- 07 R132; 02 R43; 23 R333: `exit` makes the active threads exited, which may retire the cohort; `nop` does
nothing; `yield` moves the quad's pointer past the cohort; `brk` with breakpoints armed for the VF tells Plodor its code and asks
the team to stop. -/
def Sys2Proof.Claims.ThreadWordsEndOrPass : Prop :=
  ∀ (s : State) (c g : Nat),
    exec (.nop g) s = .next (s.done true) ∧
    (s.active g = 0 → exec (.exit g) s = .next (s.done true) ∧ exec (.yield g) s = .next (s.done true) ∧
      exec (.brk c g) s = .next (s.done true)) ∧
    (s.active g ≠ 0 →
      (s.me.unf = none → exec (.exit g) s =
        let t := (s.advance (s.G &&& ~~~(s.active g))).modMe (fun c => { (c.note false) with exited := c.exited ||| s.active g })
        .next (t.tryRetire t.cur.tid t.cur.coh)) ∧
      (s.me.unf ≠ none → exec (.exit g) s = .next s.illegal) ∧
      exec (.yield g) s = .next ((s.passCohort s.cur.tid s.cur.coh).done true) ∧
      (tget false s.brk s.myTeam.vf = false → exec (.brk c g) s = .next s.done) ∧
      (tget false s.brk s.myTeam.vf = true → exec (.brk c g) s =
        let t : State := { s with plodor := s.plodor ++ [(s.myTeam.vf, c)] }
        .next ((t.modTeam s.cur.tid (fun t => t.ask (.plodor c) s.clk)).done)))

/-- 07 R140; 05 R97: a `donate` or `accept` that names another cohort of its quad, with a legal count, makes its group wait at the
cohort's open part; a part open for another partner or count, or another kind, is an illegal instruction, and a count beyond the limits a
register-range fault, whose DETAIL no rule gives: a free value (log entry 3). -/
def Sys2Proof.Claims.DonationWordsWait : Prop :=
  ∀ (s : State) (isDonate : Bool) (g c k : Nat),
    let i : Instr := if isDonate then .donate g c else .accept g c
    let h : HwRec := { kind := if isDonate then 3 else 4, lanes := s.G, imm := g * 32 + c }
    let legal := c ≠ s.cur.coh ∧ c < s.myTeam.launch.n ∧ c % 4 = s.cur.coh % 4
    ((∃ o, s.me.part = some o ∧ (o.kind ≠ h.kind ∨ o.imm ≠ h.imm)) → exec i s = .next s.illegal) ∧
    (¬legal → exec i s = .next s.illegal) ∧
    (legal → (∀ o, s.me.part = some o → o.kind = h.kind ∧ o.imm = h.imm) →
      (if isDonate then g = 0 ∨ s.me.alloc ≤ g else 8 < s.me.alloc + g) → exec i s = .next (s.draw.1.badReg (fld s.draw.2 0 16))) ∧
    (legal → (∀ o, s.me.part = some o → o.kind = h.kind ∧ o.imm = h.imm) →
      (if isDonate then 0 < g ∧ g < s.me.alloc else s.me.alloc + g ≤ 8) → (s.coh s.cur.tid c).retired = false →
      s.me.hwPlace h = some k → exec i s = .next (s.arriveAt k h))

/-- 07 R133 to R140; 05 R96: the words of reconvergence, of a thread's end, and of donation. -/
def Obligations.ReconvergenceAndThreadWords : Prop :=
  Claims.ReconvergenceWordsUpdateMasks ∧ Claims.ThreadWordsEndOrPass ∧ Claims.DonationWordsWait

/-- 08 R144, R148: `tresv` makes a record valid with its range, `tfree` clears it when nothing names it, `tset` takes the image but for
VALID, PL, BASE and LEN, `tset.rows` sets ROWS; `kset.arm` sets REQ, `kset.sign` adds a signature for the clock's end, `kset.off` clears.
A range that is misaligned, too long, taken or of a valid record, and an image beyond the run, are illegal instructions; a `tfree` of a record that
the matrix queue or a landing request names waits, and disarms the armed ones. -/
def Obligations.TileAndConvergenceWords : Prop :=
  ∀ (s u : State) (t l o i n k : Nat),
    let old := s.myTeam.tile t
    let fresh : Tile := BitVec.ofNat 512 (1 + 4096 * o * 2 ^ 64 + 4096 * 2 ^ l * 2 ^ 96)
    let legal := o % 2 ^ l = 0 ∧ o + 2 ^ l ≤ s.myTeam.launch.opbuf / 4096 ∧ old.valid = false ∧
      ∀ y ∈ tvals s.myTeam.t, y.valid = true → fresh.meets y = false
    let img : Tile := BitVec.ofNat 512 (ofLeBytes (s.runRead s.myTeam 3 (64 * i) 64))
    let img' : Tile := setFld (setFld (Tile.setPl (setFld img 0 1 1) 0) 64 21 old.base) 96 22 old.len
    let rows : Tile := Tile.setPl (setFld old 128 11 n) 0
    (legal → exec (.tresv t l o) s = .next (s.setTile t fresh).done) ∧
    (¬legal → exec (.tresv t l o) s = .next s.illegal) ∧
    (old.valid = false → exec (.tfree t) s = .next s.done ∧ exec (.tset t i) s = .next s.illegal ∧
      exec (.tsetRows t n) s = .next s.illegal) ∧
    (old.valid = true → (∀ e ∈ s.myCore.mq, e.tid = s.cur.tid → e.mop.names t = false) →
      (∀ e ∈ s.myCore.boards, e.2.toTile s.cur.tid t = false) → exec (.tfree t) s = .next (s.setTile t 0).done) ∧
    (old.valid = true → (∃ e ∈ s.myCore.mq, e.tid = s.cur.tid ∧ e.mop.names t = true) → exec (.tfree t) s = .next s) ∧
    (old.valid = true → (∀ e ∈ s.myCore.mq, e.tid = s.cur.tid → e.mop.names t = false) →
      let w := s.disarm s.myTeam.core (fun b => b.toTile s.cur.tid t)
      (((w.core s.myTeam.core).boardsOf (fun b => b.toTile s.cur.tid t)).isEmpty = false → exec (.tfree t) s = .next w) ∧
      (((w.core s.myTeam.core).boardsOf (fun b => b.toTile s.cur.tid t)).isEmpty = true → exec (.tfree t) s = .next (w.setTile t 0).done)) ∧
    (s.myTeam.launch.opbuf < 64 * i + 64 → exec (.tset t i) s = .next s.illegal) ∧
    (old.valid = true → 64 * i + 64 ≤ s.myTeam.launch.opbuf → s.senseRun s.myTeam 3 (64 * i) 64 = (u, none) →
      (img &&& ~~~tileBits = 0 → Tile.ok img' = true → exec (.tset t i) s = .next (u.setTile t img').done) ∧
      (img &&& ~~~tileBits ≠ 0 ∨ Tile.ok img' = false → exec (.tset t i) s = .next u.illegal)) ∧
    (old.valid = true → Tile.ok rows = true → exec (.tsetRows t n) s = .next (s.setTile t rows).done) ∧
    exec (.ksetArm k n) s = .next (s.modK k (fun x => setFld x 0 11 (n + 1))).done ∧
    exec (.ksetSign k) s =
      .next (s.modTeam s.cur.tid (fun t => { t with ksigs := t.ksigs ++ [(k, s.cur.coh, popLanes s.G)] })).done ∧
    exec (.ksetOff k) s = .next (s.modK k (fun x => kClear (setFld (setFld x 0 11 0) 16 11 0))).done

/-- 08 R141, R146, R149 to R156: in a team that owns the accumulators, a matrix word enters the queue when there is room; a gated stream
also needs an open gate, which its acceptance passes. An aread is an operation of SETA, an azero and a wswap of no flag. -/
def Sys2Proof.Claims.MatrixWordsEnterTheQueue : Prop :=
  ∀ (s : State) (t a k v g o m r q c d h e : Nat) (ks : List Nat), s.myTeam.launch.acc = true →
    let x := s.myTeam.tile t
    let n := rowsOf m
    let none_ (_ : Nat) : List RLock := []
    (QueueTakes s s.cur.setb (s.tileLocks x 2 0).length ks → exec (.wload t) s =
      .next (accepted s s.cur.setb .none (.wload t x) (s.tileLocks x 2) ks).done) ∧
    (QueueTakes s 12 0 ks → exec .wswap s = .next (accepted s 12 .none .wswap none_ ks).done ∧
      (16 * o + n ≤ 128 → exec (.azero a o m) s = .next (accepted s 12 .none (.azero a n (16 * o)) none_ ks).done)) ∧
    (QueueTakes s s.cur.seta 0 ks → RegsIn s [d] → exec (.aread r a q c d h e) s =
      .next (accepted s s.cur.seta (.regs d 1) (.aread a (8 * r + q) c h e d s.G) none_ ks).done) ∧
    (x.valid = true → n ≤ x.rows → 16 * o + n ≤ 128 → QueueTakes s s.cur.setb (s.tileLocks x 1 0).length ks →
      exec (.astore t a o m) s = .next (accepted s s.cur.setb .none (.astore a t x n (16 * o)) (s.tileLocks x 1) ks).done) ∧
    (x.valid = true → (g = 1 → s.cur.idx = 1 ∧ gateOpen (s.myTeam.kreg k) = true) →
      QueueTakes s s.cur.setb (s.tileLocks x 0 0).length ks →
      let gate (s : State) : State := if g = 1 then s.modK k passGate else s
      (n ≤ x.rows → 16 * o + n ≤ 128 → exec (.mstream t a k v g o m) s =
        .next (gate (accepted s s.cur.setb .none (.mstream a t x n (16 * o) (v = 1)) (s.tileLocks x 0) ks)).done) ∧
      (0 < m → m ≤ 64 → m ≤ x.rows → exec (.mbatch t k v g m) s =
        .next (gate (accepted s s.cur.setb .none (.mbatch t x m (v = 1)) (s.tileLocks x 0) ks)).done))

/-- 08 R141, R146, R149, R154 to R156: a stream of rows beyond row 128, of a record that is not valid or has too few rows, or gated but not the first
word of its clause, is an illegal instruction, as an `mbatch` of no rows or more than 64 is, and `astore` and `azero` beyond row 128 (log entry 40); a
word for which the queue, its flag or the range-lock table has no room stays, and a closed gate takes the group back to its header. -/
def Sys2Proof.Claims.MatrixWordsWaitOrAreIllegal : Prop :=
  ∀ (s : State) (t a k v g o m r q c d h e : Nat),
    let x := s.myTeam.tile t
    let n := rowsOf m
    let full (flag n : Nat) : Prop := 64 ≤ s.myCore.mq.length ∨ s.flagFree flag = false ∨ s.myCore.freeLocks n = none
    (128 < 16 * o + n → exec (.mstream t a k v g o m) s = .next s.illegal ∧ exec (.astore t a o m) s = .next s.illegal ∧
      exec (.azero a o m) s = .next s.illegal) ∧
    (m = 0 ∨ 64 < m → exec (.mbatch t k v g m) s = .next s.illegal) ∧
    (s.myTeam.launch.acc = true →
      (16 * o + n ≤ 128 → (g = 1 ∧ s.cur.idx ≠ 1) ∨ x.valid = false ∨ x.rows < n → exec (.mstream t a k v g o m) s = .next s.illegal) ∧
      (0 < m → m ≤ 64 → (g = 1 ∧ s.cur.idx ≠ 1) ∨ x.valid = false ∨ x.rows < m → exec (.mbatch t k v g m) s = .next s.illegal) ∧
      (16 * o + n ≤ 128 → x.valid = false ∨ x.rows < n → exec (.astore t a o m) s = .next s.illegal) ∧
      (full s.cur.setb (s.tileLocks x 2 0).length → exec (.wload t) s = .next s) ∧
      (full 12 0 → exec .wswap s = .next s ∧ (16 * o + n ≤ 128 → exec (.azero a o m) s = .next s)) ∧
      (full s.cur.seta 0 → RegsIn s [d] → exec (.aread r a q c d h e) s = .next s) ∧
      (x.valid = true → n ≤ x.rows → 16 * o + n ≤ 128 → full s.cur.setb (s.tileLocks x 1 0).length → exec (.astore t a o m) s = .next s) ∧
      (x.valid = true → (g = 1 → s.cur.idx = 1) →
        (n ≤ x.rows → 16 * o + n ≤ 128 →
          (g = 1 → gateOpen (s.myTeam.kreg k) = false → exec (.mstream t a k v g o m) s = .next s.toHeader) ∧
          ((g = 1 → gateOpen (s.myTeam.kreg k) = true) → full s.cur.setb (s.tileLocks x 0 0).length → exec (.mstream t a k v g o m) s = .next s)) ∧
        (0 < m → m ≤ 64 → m ≤ x.rows →
          (g = 1 → gateOpen (s.myTeam.kreg k) = false → exec (.mbatch t k v g m) s = .next s.toHeader) ∧
          ((g = 1 → gateOpen (s.myTeam.kreg k) = true) → full s.cur.setb (s.tileLocks x 0 0).length → exec (.mbatch t k v g m) s = .next s))))

/-- 08 R141, R146, R149 to R156: the matrix words at issue: accepted, held, or illegal. -/
def Obligations.MatrixWordsAreAccepted : Prop :=
  Claims.MatrixWordsEnterTheQueue ∧ Claims.MatrixWordsWaitOrAreIllegal

/-- 19 R286 to R291: a queue word whose pointer names a queue word of the issuing core performs at once: `qinit`
writes the word, a stage ring's phase bits and an empty deque; `qpush` appends in lane order and moves TAIL, or faults without room;
`sarr` flips a phase bit, which wakes the groups that wait for its phase; `swt` passes when the bit has its phase, else waits. -/
def Sys2Proof.Claims.QueueWordsPerform : Prop :=
  ∀ (s u : State) (a b v r p g x : Nat),
    let ptr := s.sget b
    let o := offOf ptr
    let t := u.team x
    let w := u.qWord t o
    let ls := s.active g
    let vals := s.queVals ls v
    QueueAt s ptr x u →
    (QueueOpen s s.G 15 0 →
      let w := s.sget a
      let s1 := u.qWrite t o (bytesOf 8 (BitVec.ofNat 64 (fld w 0 32)))
      let ph := qBase w + qDepth w * qElem w
      qKind w < 3 → qBase w % qElem w = 0 → t.launch.scratch ≤ qBase w → qBase w + qBytes w ≤ t.runLen →
      (qKind w = 2 → o = t.launch.scratch ∧ fld w 27 3 = 2) →
      exec (.qinit a b) s = .next (
        if qKind w = 0 then s1.wakeSwt.done
        else if qKind w = 1 then ((List.range ((qDepth w + 7) / 8)).foldl (fun s i =>
            s.runWrite t 2 [{ addr := ph + i, data := 0, mask := if 8 ≤ qDepth w then 255 else BitVec.ofNat 8 (2 ^ qDepth w - 1) }])
            s1).wakeSwt.done
        else (s1.setDeque x []).wakeSwt.done)) ∧
    (QueueOpen s ls s.cur.setb 2 → RegsIn s [v] →
      let me := u.team s.cur.tid
      let ref : Bool := r = 1
      let refs := if ref then vals else []
      me.qBad w vals ref = 0 → u.refFault me refs (qElem w) false = none →
      (∀ q, qCount w + vals.length ≤ qDepth w → u.refSense me refs (qElem w) = (q, none) → exec (.qpush v b r g) s =
        let y := pushed q me t w ref vals
        .next (y.1.qWrite t o (bytesOf 8 (setFld w 48 16 y.2))).done) ∧
      (qDepth w < qCount w + vals.length → exec (.qpush v b r g) s = .next (u.qFault 0x1B ptr (lanesFrom (vals.map (·.1)))))) ∧
    (QueueOpen s s.G s.cur.setb 2 → qKind w = 1 → exec (.sarr a b) s =
      let j := qPhase w (s.sget a).toNat
      .next (u.qWrite t j.1 [(u.qRead t j.1 1).headD 0 ^^^ BitVec.ofNat 8 (2 ^ j.2)]).wakeSwt.done) ∧
    (QueueOpen s s.G 15 0 → qKind w = 1 →
      let ix := fld (s.sget a) 0 16
      (u.phaseIs x o ix p = true → exec (.swt a b p) s = .next u.done) ∧
      (u.phaseIs x o ix p = false → u.swtMet u.cur.tid ptr ix p = false → exec (.swt a b p) s =
        .next ((u.modMe (fun c => { c with polls := c.polls ++ [⟨u.G, .swt ptr ix p⟩] })).suspend u.G)))

/-- 19 R288; 10 R182; 09 R161: a queue word of another core asks that core's arbiter by a packet; its group stays at the word till the answer has
come: that the arbiter acts when the packet is taken there is the model's choice (log entry 22). A fault that the arbiter found is then raised at the
word, an uncorrectable error that it met ends the team, and else the word completes. -/
def Sys2Proof.Claims.QueueWordsAskOtherCores : Prop :=
  ∀ (i : Instr) (s : State) (lanes : Lanes) (flag b : Nat) (rel : Bool) (rs : List Nat) (x : QueOp),
    queForm s i = some (lanes, flag, b, rel, rs, x) → RegsIn s rs → lanes ≠ 0 →
    (∀ q, s.queReq = none → s.qTeam (s.sget b) = some q → (s.team q).core ≠ s.myTeam.core → QueueOpen s lanes flag (if rel then 2 else 0) →
      exec i s = .next (s.sendQue 0 s.G (.que x (s.sget b)) (s.team q).core false q 0).1) ∧
    (∀ id r a y p, s.queReq = some (id, r) → r.kind = .answer y p a →
      let t : State := { s with cur := { s.cur with lanes := s.G &&& r.lanes } }.setReq id none
      (r.held = false → exec i s = .next s) ∧
      (∀ e, r.held = true → a.bad = some e → exec i s = .next (t.machineCheck t.cur.tid t.cur.coh t.herePc t.G 0 e)) ∧
      (∀ c d pg ls, r.held = true → a.bad = none → a.fault = some (c, d, pg, ls) → c ≠ 0x15 →
        exec i s = .next (t.qFault c (s.sget b) ls)) ∧
      (r.held = true → a.bad = none → a.fault = none →
        (rel = true ∨ (∃ n, i = .qinit n b) → exec i s = .next t.done) ∧
        (∀ v e g, i = .qpop v b e g →
          let op : Op := { tid := t.cur.tid, coh := t.cur.coh, flag := t.cur.seta, lanes := t.active g, dest := .regs v 1, kind := 3 }
          exec i s = .next (t.newOp { op with got := gather [] a.got, pc := t.herePc }).1.done) ∧
        (∀ n q, i = .swt n b q → a.met = true → exec i s = .next t.done)))

/-- 19 R288; 09 R161: a queue word whose pointer names no queue word is an address fault of it, of every lane that would perform. -/
def Sys2Proof.Claims.QueueWordsCheckTheirPointer : Prop :=
  ∀ (s : State) (a b v r p g : Nat),
    let ptr := s.sget b
    s.queReq = none → s.qTeam ptr = none →
    (s.G ≠ 0 → exec (.qinit a b) s = .next (s.qFault 0x1D ptr s.G) ∧ exec (.sarr a b) s = .next (s.qFault 0x1D ptr s.G) ∧
      exec (.swt a b p) s = .next (s.qFault 0x1D ptr s.G)) ∧
    (s.active g ≠ 0 → RegsIn s [v] → exec (.qpush v b r g) s = .next (s.qFault 0x1D ptr (s.active g)) ∧
      exec (.qpop v b r g) s = .next (s.qFault 0x1D ptr (s.active g))) ∧
    (s.active g = 0 → RegsIn s [v] → exec (.qpush v b r g) s = .next (s.done true) ∧ exec (.qpop v b r g) s = .next (s.done true))

/-- 19 R288 to R290: a `qpop` takes elements in lane order while HEAD differs from TAIL, moves HEAD, and answers each lane its element
(with REF = 1 it stores it at the lane's pointer and answers the pointer) and the status 0; with an empty queue the status is 1. -/
def Sys2Proof.Claims.QpopTakesInLaneOrder : Prop :=
  ∀ (s u q : State) (v b r g x : Nat),
    let ptr := s.sget b
    let o := offOf ptr
    let t := u.team x
    let w := u.qWord t o
    let me := u.team s.cur.tid
    let ls := s.active g
    let vals := s.queVals ls v
    let ref : Bool := r = 1
    let full := vals.take (qCount w)
    let y := popped q me t w ref vals
    let z := y.1.qWrite t o (bytesOf 8 (setFld w 32 16 y.2.1))
    QueueAt s ptr x u → QueueOpen s ls s.cur.seta 0 → RegsIn s [v] → me.qBad w vals ref = 0 →
    u.refFault me (if ref then full else []) (qElem w) true = none →
    (List.range full.length).foldl (fun (y : State × Option (Nat × Nat × Nat)) i =>
      let e := y.1.senseRun t 2 (qSlot w (qHead w + i)) (qElem w)
      (e.1, y.2.orElse (fun _ => e.2))) (u, none) = (q, none) →
    exec (.qpop v b r g) s =
      let z : State := { z with freeCtr := z.freeCtr + 1 }
      .next (z.newOp { tid := z.cur.tid, coh := z.cur.coh, flag := z.cur.seta, lanes := z.active g, dest := .regs v 1, kind := 3,
                       got := gather [] y.2.2, pc := z.herePc }).1.done

/-- 19 R292 to R294: `tspawn` appends the active lanes' tasks with a key in lane order, or faults without a deque or room; `ttake` gives
lanes the newest tasks, whose wrong bits its operation meets; `tsteal` asks the victims in turn for its lanes, those of its own core at once (the
model's choice, log entry 22), or ends at once without any. A task stands in VD and the register
after it, VD twice the field h. -/
def Sys2Proof.Claims.TaskWordsPerform : Prop :=
  ∀ (s : State) (h g : Nat),
    let v := 2 * h
    let ls := s.active g
    let t := s.myTeam
    let ts := ((lanesOf ls).map (fun l => s.task l v)).filter (fun x => taskKey x != 0)
    v + 1 < 8 * s.me.alloc →
    (∀ d, s.taskDepth t = some d → t.deque.length + ts.length ≤ d → QueueOpen s ls s.cur.setb 4 →
      exec (.tspawn h g) s = .next (s.pushTasks s.cur.tid ts).done) ∧
    (ls ≠ 0 → (∀ d, s.taskDepth t = some d → d < t.deque.length + ts.length) →
      exec (.tspawn h g) s = .next (s.qFault 0x1B (BitVec.ofNat 64 (2 * 2 ^ 60 + t.launch.scratch)) ls)) ∧
    (QueueOpen s ls s.cur.seta 0 →
      let q := if (s.taskDepth t).isSome then t.deque else []
      let n := min (popLanes ls) q.length
      let r := giveTasks (lanesOf ls) (q.reverse.take n)
      let e := s.senseTasks t s.cur.tid (q.length - n) n t.vf
      let f := e.1.newOp { tid := s.cur.tid, coh := s.cur.coh, flag := s.cur.seta, lanes := ls, dest := .regs v 2, kind := 3,
                           got := gather [] r.1, bad := e.2 }
      exec (.ttake h g) s = .next (f.1.setDeque s.cur.tid (t.deque.take (t.deque.length - n))).done) ∧
    (QueueOpen s ls s.cur.seta 0 →
      let op : Op := { tid := s.cur.tid, coh := s.cur.coh, flag := s.cur.seta, lanes := ls, dest := .regs v 2, kind := 3 }
      (s.victims = [] → exec (.tsteal h g) s = .next (s.newOp op).1.done) ∧
      (∀ x xs, s.victims = x :: xs →
        let f := s.newOp { op with left := 1 }
        let q := f.1.sendQue f.2 ls (.steal (lanesOf ls) (x :: xs)) (s.team x).core false x 0
        let y := q.1.modMe (fun c => { c with acqs := c.acqs.filter (fun a => s.isOut a.2) ++ [(ls, f.2)] })
        (∀ r, y.req q.2 = some r → exec (.tsteal h g) s = .next (y.ownVisits q.2 r (x :: xs)).done)))

/-- 19 R286 to R295: the words of carved queues and of task queues. -/
def Obligations.QueueAndTaskWords : Prop :=
  Claims.QueueWordsPerform ∧ Claims.QueueWordsAskOtherCores ∧ Claims.QueueWordsCheckTheirPointer ∧ Claims.QpopTakesInLaneOrder ∧ Claims.TaskWordsPerform

/-- 21 R312, R324, R325: `llock` makes a list entry for each line and sends one request with its lanes, which wait; `ltry` sends one that
never joins a chain, as an operation of SETA; a line held or waited for already is a self-lock fault, a ninth one a lock-limit fault. -/
def Sys2Proof.Claims.LockWordsRequest : Prop :=
  ∀ (s : State) (d a b g : Nat) (ps : List (Nat × Piece)), RegsIn s [d, a] → LocksAt s a g 3 128 128 ps →
    let ls := lanesFrom (ps.map (·.1))
    let time := min (s.sget b).toNat (2 ^ 24 - 1)
    let u := (lockLines ps).foldl (fun s e =>
      let va := s.ptr (lowest e.2.2) a
      let s := s.modMe (fun c => c.addRef { line := e.1, va := va, wait := e.2.2, vd := d })
      (s.sendQue 0 e.2.2 (.lock va e.2.2 time false) e.1 true e.2.1.line e.2.1.kind).1) s
    let f := s.newOp { tid := s.cur.tid, coh := s.cur.coh, flag := s.cur.seta, lanes := ls, dest := .regs d 1, kind := 3,
                       left := (lockLines ps).length, pc := s.herePc }
    let w := (lockLines ps).foldl (fun s e =>
      let va := s.ptr (lowest e.2.2) a
      let s := s.modMe (fun c => c.addRef { line := e.1, va := va, vd := d })
      (s.sendQue f.2 e.2.2 (.lock va e.2.2 0 true) e.1 true e.2.1.line e.2.1.kind).1) f.1
    (s.lockFault a ps = none → exec (.llock d a b g) s = .next ((u.suspend ls).doneIn (u.G &&& ~~~ls &&& ~~~u.me.parked)) ∧
      (s.flagFree s.cur.seta = true → exec (.ltry d a g) s =
        .next ((w.modMe (fun c => { c with acqs := c.acqs.filter (fun a => w.isOut a.2) ++ [(ls, f.2)] })).memDone false))) ∧
    (∀ x, s.lockFault a ps = some x → exec (.llock d a b g) s = .next (s.raise x) ∧
      (s.flagFree s.cur.seta = true → exec (.ltry d a g) s = .next (s.raise x)))

/-- 21 R318, R325; 13 R217: an unlock of lines that the cohort holds sends one unlock for each, with the data of its highest lane, as an operation
of SETB that waits for the lanes' earlier ones; of a line it does not hold it is an illegal instruction. Dirty private lines go to memory first,
and data under a range lock is a fault. -/
def Sys2Proof.Claims.UnlockWordsRelease : Prop :=
  ∀ (i : Instr) (s : State) (v : Option Nat) (a g n : Nat) (ps : List (Nat × Piece)), unlockForm i = some (v, a, g, n) →
    let m := if n = 0 then 128 else n
    let ls := lanesFrom (ps.map (·.1))
    let holds (e : Nat × Piece) : Prop := ∃ r ∈ s.me.locks, r.2.line = lineAt e.2.pa ∧ r.2.holds = true
    let f := s.newOp { tid := s.cur.tid, coh := s.cur.coh, flag := s.cur.setb, lanes := ls, kind := 5, left := (lockLines ps).length,
                       parts := (lockLines ps).map (fun e => (e.2.2, 0)), pc := s.herePc }
    s.flagFree s.cur.setb = true → RegsIn s (v.toList ++ [a]) → LocksAt s a g 3 m m ps →
    (∀ x, s.unlockHit a g n = some x → exec i s = .next (s.raise x)) ∧
    (s.unlockHit a g n = none → s.unflushed 5 = true → exec i s = .next s.flushFor) ∧
    (s.unlockHit a g n = none → s.unflushed 5 = false →
      ((∀ e ∈ ps, holds e) → exec i s = .next ((sendUnlocks s f.1 v n f.2 ps).memDone false)) ∧
      ((∃ e ∈ ps, ¬holds e) → exec i s = .next s.illegal))

/-- 21 R326: `lstat` asks the slice of each line, as a spinning operation of SETA; `lstat.list` answers the list entry that SB names,
zeros for a free one, in every active lane. -/
def Sys2Proof.Claims.LockStatusWords : Prop :=
  ∀ (s : State) (d a b g : Nat), s.flagFree s.cur.seta = true →
    (∀ ps : List (Nat × Piece), RegsIn s [d, a] → LocksAt s a g 1 128 128 ps →
      let ls := lanesFrom (ps.map (·.1))
      let f := s.newOp { tid := s.cur.tid, coh := s.cur.coh, flag := s.cur.seta, lanes := ls, dest := .regs d 1, kind := 3,
                         left := (lockLines ps).length }
      exec (.lstat d a g) s = .next (((lockLines ps).foldl (fun s e =>
        (s.addReq { op := f.2, master := s.myTeam.core, vf := s.myTeam.vf, tid := s.cur.tid, coh := s.cur.coh, lanes := 0,
                    kind := .lstat e.2.2, line := e.1, page := e.2.1.line }).1) f.1).memDone true)) ∧
    (RegsIn s [d] → s.active g ≠ 0 →
      let x := match s.me.locks.find? (fun e => e.1 = fld (s.sget b) 0 3) with
        | some (_, r) => r.listed
        | none => 0
      let got := gather [] ((lanesOf (s.active g)).map (fun l => place (16 * l) (bytesOf 16 x))).flatten
      let op : Op := { tid := s.cur.tid, coh := s.cur.coh, flag := s.cur.seta, lanes := s.active g, dest := .regs d 1, kind := 3 }
      exec (.lstatList d b g) s = .next ((s.newOp { op with got := got }).1.done true))

/-- 21 R312, R318, R324 to R326: the words of line locks. -/
def Obligations.LockWords : Prop :=
  Claims.LockWordsRequest ∧ Claims.UnlockWordsRelease ∧ Claims.LockStatusWords

/-- 21 R314 to R316; 16 R249: a lock request taken at its slice: of a line without a holder, which comes there first, it makes its entry and grants
the lowest lane, with status 0, or 2 after a break (one of a cohort that has retired breaks at once, 21 R322); `ltry` of a held line answers 1 and joins no chain; a request beyond a table answers 3. One to a
held window waits. -/
def Sys2Proof.Claims.LockRequestsAreTaken : Prop :=
  ∀ (s t : State) (id k : Nat) (r : Req) (va : BitVec 64) (lanes : Lanes) (isTry : Bool),
    let u := asked s [id]
    let w := t.setReq id none
    let l := w.lock r.line
    let answer (st : Nat) : Grant := { tid := r.tid, coh := r.coh, line := r.line, lanes := lanes, status := st, vd := w.lockVd r, op := r.op }
    let e : ChainEntry := { tid := r.tid, coh := r.coh, vf := r.vf, core := (w.team r.tid).core, slot := (w.team r.tid).slot,
                            absent := (w.team r.tid).place != .resident, lanes := if isTry then 0 else lanes, tleft := k }
    let f := w.fill r.line 0
    ComesIn u id t r → r.kind = .lock va lanes k isTry → u.refusalAt r.vf r.line r.master 2 false = none →
    (t.heldWindow r.line 128 = true → exec .lockRequest u = .next (u.holdReq t id r)) ∧
    (t.heldWindow r.line 128 = false → t.missRefusal r.vf r.line = none → t.isHere r.line = false → (t.lock r.line).holder = none →
      exec .lockRequest u = .next (t.want r.vf r.line r.master id)) ∧
    (t.heldWindow r.line 128 = false → t.missRefusal r.vf r.line = none → t.isHere r.line = true ∨ (t.lock r.line).holder ≠ none →
      (w.team r.tid).terminated = false → w.turnedAway r 2 false = none →
      (isTry = true → l.holder ≠ none → exec .lockRequest u = .next (w.sendGrant (answer 1))) ∧
      ((isTry = false ∨ l.holder = none) → w.lockFull r.line = true → exec .lockRequest u = .next (w.sendGrant (answer 3))) ∧
      (isTry = false → l.holder ≠ none → w.lockFull r.line = false →
        exec .lockRequest u = .next (w.setLock r.line { l with chain := l.chain ++ [e] })) ∧
      (isTry = false → l.holder = none → w.lockFull r.line = false →
        exec .lockRequest u = .next ((f.setLock r.line { l with chain := e :: l.chain }).grantHead r.line)) ∧
      (isTry = true → l.holder = none → w.lockFull r.line = false →
        let held : LockSt := ⟨{ e with holds := true } :: l.chain, true, false, (f.work r.line).1⟩
        let y := (f.setLock r.line held).sendGrant { answer (if l.broken then 2 else 0) with got := true }
        exec .lockRequest u = .next (if (f.coh r.tid r.coh).retired then y.breakLine r.line r.tid r.coh true else y)))

/-- 21 R315, R318, R319; 10 R184: a status, the next packet of its slice, reaches its team's cohort, of `ltry` also a stopped one's; an unlock of a line that its cohort holds writes its data, applies what
waits and hands the line on, and its write is acknowledged; an entry whose timeout is over, with no unlock or other request at the line's slice in that
clock, loses its waiting lanes, which get status 1, with a deadlock report. -/
def Sys2Proof.Claims.LockStepsHandOn : Prop :=
  ∀ (s : State) (id : Nat),
    let u := asked s [id]
    (∀ g, tget none s.grants id = some g → u.isNext id = true → (s.team g.tid).terminated = false →
      (s.team g.tid).place = .resident ∨ ((s.team g.tid).place = .stopped ∧ g.op ≠ 0) →
      let w : State := { u.unmail id with grants := tset none u.grants id none }
      exec .lockGrant u = .next (w.landGrant g)) ∧
    (∀ t r ws, ComesIn u id t r → r.kind = .unlock ws → t.heldWindow r.line 128 = false →
      let w := t.setReq id none
      (∃ k relay, w.wayOf r = .arrives k relay) → (ws ≠ [] → w.turnedAway r 1 true = none) →
      (w.lock r.line).mine r.tid r.coh = true →
      let x := w.unlock r.vf r.line r.master ws
      exec .unlockStep u = .next (x.1.ackFor r.op x.2.1 x.2.2 r.lanes r.scope [] (w.backWay r))) ∧
    (∀ (line tid coh : Nat) (e : ChainEntry),
      let u := asked s [line, tid, coh]
      let due (e : ChainEntry) : Bool := e.tid = tid && e.coh = coh && e.tleft = 1 && 256 ≤ e.sub && !e.absent
      let l := u.lock line
      (∀ q ∈ tsome u.reqs, q.2.slice = true → q.2.line = line → u.ready q.1 q.2 = false) → l.chain.find? due = some e →
      let chain := (l.chain.map (fun x => if due x then { x with lanes := 0, tleft := 0, sub := 0 } else x)).filter
        (fun x => x.holds || x.lanes != 0)
      let vd := match (u.coh e.tid e.coh).locks.find? (fun r => r.2.line = line) with
        | some (_, r) => r.vd
        | none => 0
      let w := u.setLock line { l with chain := chain, broken := l.broken && (l.locked || !chain.isEmpty) }
      let answer : Grant := { tid := e.tid, coh := e.coh, line := line, lanes := e.lanes, status := 1, vd := vd }
      exec .lockTimeout u = .next ((if e.lanes = 0 then w else w.sendGrant answer).report e.vf (u.deadlock line e)))

/-- 21 R316 to R322: a lock's requests and its hand-over. -/
def Obligations.LockEventsServe : Prop :=
  Claims.LockRequestsAreTaken ∧ Claims.LockStepsHandOn

/-- 23 R330 to R332: `unfold` of a legal object, in a group with a thread on each of its W lanes and no unfolding open, writes the control
block and the root frame with lane 0's argument, opens the unfolding, and the group waits; an object beyond its limits is an
address fault of its pointer, an unfolding open already or a missing lane an illegal instruction, and a run of registers outside the allocation a
register-range fault. -/
def Sys2Proof.Claims.UnfoldOpens : Prop :=
  ∀ (s : State) (d a b : Nat) (ps qs : List Piece),
    let p := s.sget b
    let l0 := lowest s.G
    let r := s.getParts s.cur.tid s.cur.coh ps
    let o := recObj (words8 r.2.1)
    let n := 32 + 16 * o.argq
    RegsIn s [d, a] → spaceOf p = 0 → rankOf p = 0 → offOf p % 64 = 0 →
    Translates s 1 [(l0, linePieces (offOf p) 64)] [(l0, ps)] →
    (∀ e, r.2.2 = some e → exec (.unfold d a b) s = .next (r.1.machineCheck r.1.cur.tid r.1.cur.coh r.1.herePc r.1.G 0 e)) ∧
    (r.2.2 = none → recOk (words8 r.2.1) = false → exec (.unfold d a b) s =
      .next (r.1.raise { cause := 0x1D, detail := spaceOf p, pages := [p.toNat], lanes := r.1.G })) ∧
    (r.2.2 = none → recOk (words8 r.2.1) = true → r.1.me.unf ≠ none ∨ (∃ l, l < o.w ∧ r.1.G.getLsbD l = false) →
      exec (.unfold d a b) s = .next r.1.illegal) ∧
    (r.2.2 = none → recOk (words8 r.2.1) = true → r.1.me.unf = none → (∀ l, l < o.w → r.1.G.getLsbD l = true) →
      let t := r.1
      (∀ x, (t.vrun d o.resq ++ t.vrun a o.argq ++ t.vrun 1 (1 + o.argq)).find? (fun c => !c.1) = some x →
        exec (.unfold d a b) s = .next (t.badReg x.2)) ∧
      (RegsIn t (run d o.resq ++ run a o.argq ++ run 1 (1 + o.argq)) → Translates t 3 [(l0, linePieces (o.frame 0) n)] [(l0, qs)] →
        let u : Unf := { obj := o, vd := d, lanes := t.G, pc := t.herePc, last := t.cur.idx = t.cur.count,
                         pcs := (lanesOf t.G).map (fun l => (l, tget 0 t.me.pc l)), frames := [0] }
        let y := (t.suspend t.G).saveBlock t.cur.tid t.cur.coh u.begin 0
        exec (.unfold d a b) s =
          .next (y.engPut y.cur.tid y.cur.coh u.width [(qs, ({} : FrameInfo).record (y.regBytes 0 a o.argq))])))

/-- 23 R336 to R339: in an unfolding, `spawnf` writes a child's record for each active lane of a divide routine; `fret` writes the result
of each lane that does not divide, and ends the routines; `cres` answers each lane of a combine routine its next child's result. -/
def Sys2Proof.Claims.RoutineWordsPerform : Prop :=
  ∀ (s : State) (u : Unf) (v g : Nat) (good : List (Nat × List Piece)), s.me.unf = some u →
    let o := u.obj
    let ls := s.active g
    let n := 32 + 16 * o.argq
    let q := 16 * o.resq
    let child (l : Nat) : Nat :=
      o.slot l ((if u.phase = 0 then 0 else o.maxch * (u.frameInfo (u.cur l).frame).depth) + (u.cur l).spawned)
    (RegsIn s (run v o.argq) → ls ≠ 0 → s.flagFree s.cur.setb = true → s.casPending ls = false →
      (∀ l ∈ lanesOf ls, (u.cur l).kind = 0 ∧ (u.cur l).spawned < o.maxch ∧ (u.frameInfo (u.cur l).frame).depth ≠ o.dlim) →
      Translates s 3 ((lanesOf ls).map (fun l => (l, linePieces (o.frame (child l)) n ++
        after n (linePieces (o.frame (u.cur l).frame) 16)))) good →
      let r := good.foldl (fun (r : List (List Piece × List Byte) × Unf) e =>
        let u := r.2
        let c := u.cur e.1
        let i := u.frameInfo c.frame
        let x : FrameInfo := { parent := c.frame, depth := i.depth + 1, cidx := c.spawned, path := i.path + c.spawned * 8 ^ i.depth }
        let i := { i with nch := c.spawned + 1, first := if u.phase = 0 then 0 else if c.spawned = 0 then child e.1 else i.first }
        let u := ((u.setInfo (child e.1) x).setInfo c.frame i).setCur e.1 { c with spawned := c.spawned + 1 }
        (r.1 ++ [(e.2, x.record (s.regBytes e.1 v o.argq) ++ i.head 1)], u)) ([], u)
      let f := (s.setUnf s.cur.tid s.cur.coh (some r.2)).recOp (lanesFrom (good.map (·.1))) (partsIn good)
      exec (.spawnf v g) s = .next ((r.1.foldl (fun t w => t.putParts f.2 s.cur.tid w.1 w.2) f.1).memDone false)) ∧
    (RegsIn s (run v o.resq) → s.flagFree s.cur.setb = true → s.casPending s.G = false → s.relOps s.G 1 = [] →
      (∀ l ∈ lanesOf s.G, (u.cur l).kind ≠ 3) →
      Translates s 3 ((lanesOf s.G).map (fun l =>
        (l, if (u.cur l).kind != 0 then
            linePieces (o.frame (u.cur l).frame + 32 + 16 * o.argq) q ++ after q (linePieces (o.frame (u.cur l).frame) 16)
          else []))) good →
      let ends := lanesFrom (good.map (·.1))
      let f := s.recOp ends (partsIn good)
      ends ≠ 0 → exec (.fret v) s = .next ((good.foldl (fun t e =>
        if (u.cur e.1).kind != 0 then
          t.putParts f.2 s.cur.tid e.2 (s.regBytes e.1 v o.resq ++ (u.frameInfo (u.cur e.1).frame).head 2)
        else t) f.1).endRoutines ends)) ∧
    (RegsIn s (run v o.resq) → ls ≠ 0 → s.flagFree s.cur.seta = true → s.casPending ls = false →
      (∀ l ∈ lanesOf ls, (u.cur l).kind = 2) →
      Translates s 1 ((lanesOf ls).map (fun l =>
        let i := u.frameInfo (u.cur l).frame
        (l, if (u.cur l).next < i.nch then linePieces (o.frame (i.first + (u.cur l).next) + 32 + 16 * o.argq) q else []))) good →
      let r := good.foldl (fun (r : State × List (Nat × Byte) × Option (Nat × Nat × Nat)) e =>
        let x := r.1.getParts s.cur.tid s.cur.coh e.2
        (x.1, r.2.1 ++ place (q * e.1) x.2.1, r.2.2.orElse (fun _ => x.2.2))) (s, [], none)
      let t := (r.1.newOp { tid := s.cur.tid, coh := s.cur.coh, flag := s.cur.seta, lanes := lanesFrom (good.map (·.1)),
                            dest := .regs v o.resq, kind := 3, got := gather [] r.2.1, pc := s.herePc, bad := r.2.2 }).1
      exec (.cres v g) s = .next ((t.setUnf s.cur.tid s.cur.coh (some (good.foldl (fun u e =>
        u.setCur e.1 { u.cur e.1 with next := (u.cur e.1).next + 1 }) u))).memDone false))

/-- 23 R332, R336 to R339: outside an unfolding, or in a routine of another kind, the routine words are illegal instructions; a child beyond
MAXCH is one too, and a `spawnf` at the depth limit is a depth fault with the path of the lowest such lane's frame in PAGE0 to PAGE2 (09 R161). A word without an active lane does nothing. -/
def Sys2Proof.Claims.RoutineWordsCheckTheirRoutine : Prop :=
  ∀ (s : State) (v g : Nat),
    let ls := s.active g
    (s.me.unf = none → RegsIn s [v] → exec (.fret v) s = .next s.illegal ∧
      (ls ≠ 0 → exec (.spawnf v g) s = .next s.illegal ∧ exec (.cres v g) s = .next s.illegal) ∧
      (ls = 0 → exec (.spawnf v g) s = .next (s.done true) ∧ exec (.cres v g) s = .next (s.done true))) ∧
    (∀ u, s.me.unf = some u →
      let o := u.obj
      let depth (l : Nat) : Nat := (u.frameInfo (u.cur l).frame).depth
      (RegsIn s (run v o.argq) → (∃ l, (lanesOf ls).head? = some l ∧ ((u.cur l).kind ≠ 0 ∨ o.maxch ≤ (u.cur l).spawned)) →
        exec (.spawnf v g) s = .next s.illegal) ∧
      (RegsIn s (run v o.argq) → (∀ l ∈ lanesOf ls, (u.cur l).kind = 0 ∧ (u.cur l).spawned < o.maxch) →
        ∀ l, (lanesOf ls).find? (fun l => depth l = o.dlim) = some l →
          let path := (u.frameInfo (u.cur l).frame).path
          exec (.spawnf v g) s = .next (s.raise { cause := 0x18, detail := o.dlim, access := 1
                                                  pages := (List.range 3).map (fun i => path / 2 ^ (64 * i) % 2 ^ 64)
                                                  lanes := lanesFrom ((lanesOf ls).filter (fun l => depth l = o.dlim)) })) ∧
      (RegsIn s (run v o.resq) → (∃ l ∈ lanesOf s.G, (u.cur l).kind = 3) → exec (.fret v) s = .next s.illegal) ∧
      (RegsIn s (run v o.resq) → (∃ l ∈ lanesOf ls, (u.cur l).kind ≠ 2) → exec (.cres v g) s = .next s.illegal))

/-- 23 R330 to R339: the words of recursion unfolding. -/
def Obligations.RecursionWords : Prop :=
  Claims.UnfoldOpens ∧ Claims.RoutineWordsPerform ∧ Claims.RoutineWordsCheckTheirRoutine

/-- 23 R333 to R337, R340, R341: the engine dispatches a lane's next routine, whose own words alone it waits for (its frame's address and kind in v1, the argument from v2, the
routine's PC); ends a level when every lane is idle; and releases the group with the root's result in VD of each thread. What its control block is
owed comes first. -/
def Obligations.UnfoldingSteps : Prop :=
  ∀ (s : State) (tid coh l k f : Nat) (rest : List (Nat × Nat)) (u : Unf), (s.coh tid coh).unf = some u →
    let o := u.obj
    let a := o.frame f
    (let s := asked s [tid, coh, l]
     let w := lane1 l
     let ps := engParts s tid a (32 + 16 * o.argq)
     let i := u.frameInfo f
     let r := s.getParts tid coh ps
     let head := (ps.filter (fun p => p.at_ < 16)).map (fun p => { p with len := min p.len (16 - p.at_) })
     let m := r.1.setUnf tid coh (some (u.setCur l { kind := k, frame := f, spawned := 0, next := 0, todo := rest }))
     let m := if k = 0 then m.engPut tid coh w [(head, i.head 1)] else m
     let m := m.writeBlock tid coh (engParts s tid o.farea 512)
     let v1 : BitVec 128 := BitVec.ofNat 128 (a + i.depth * 2 ^ 64 + (i.nch + i.cidx * 2 ^ 4 + k * 2 ^ 7) * 2 ^ 96)
     let m := (List.range o.argq).foldl (fun m q =>
       m.vset tid coh l (2 + q) (BitVec.ofNat 128 (ofLeBytes ((r.2.1.drop (32 + 16 * q)).take 16)))) (m.vset tid coh l 1 v1)
     let pc := if k = 0 then o.divpc else if k = 1 then o.basepc else o.combpc
     (u.cur l).todo = (k, f) :: rest → (u.cur l).kind = 3 →
     (s.engOn tid u w = true → u.due ≠ 0 → exec .routineDispatch s = .next (s.dueBlock tid coh u)) ∧
     (EngineActs s tid coh u w w [(a, 32 + 16 * o.argq), (o.farea, 512)] → r.2.2 = none →
       exec .routineDispatch s = .next (m.modCoh tid coh (fun c => { c with
         waiting := c.waiting &&& ~~~w
         last := c.last &&& ~~~w
         pc := tset 0 c.pc l (jumpPc (tget 0 c.pc l) (fld pc 0 52) (fld (tget 0 u.pcs l) 52 8)) })))) ∧
    (let s := asked s [tid, coh]
     s.engOn tid u (BitVec.allOnes 32) = true → u.due = 0 → u.isOver = false → u.idle = true →
     (u.phase = 0 → exec .levelEnd s = .next (s.moveLevel tid coh u)) ∧
     (u.phase ≠ 0 → EngineActs s tid coh u (BitVec.allOnes 32) (lanesBy (fun l => l < o.w)) [(o.farea, 512)] → exec .levelEnd s =
       .next ((s.setUnf tid coh (some (u.combine u.levels))).writeBlock tid coh (engParts s tid o.farea 512)))) ∧
    (let s := asked s [tid, coh]
     let at_ := o.frame 0 + 32 + 16 * o.argq
     let r := s.getParts tid coh (engParts s tid at_ (16 * o.resq))
     u.isOver = true → EngineActs s tid coh u (BitVec.allOnes 32) u.lanes [(at_, 16 * o.resq)] → r.2.2 = none → exec .unfoldRelease s =
       .next ((((lanesOf u.lanes).foldl (fun s l => (List.range o.resq).foldl (fun s q =>
         s.vset tid coh l (u.vd + q) (BitVec.ofNat 128 (ofLeBytes ((r.2.1.drop (16 * q)).take 16)))) s) r.1).setUnf tid coh none).modCoh
           tid coh (fun c => c.release u.lanes)))

/-- 15 R234 to R236, R369; 16 R245: a launch word whose descriptor can be read sends its launch, in flight as an operation of SETB, to the
pumphouse core that the descriptor names: `pumpgo` a program, `mvsplit` a split product of NB · 16 rows, which SD tells, `secopen` a
section with its second descriptor. A bad pointer is an address fault; a descriptor whose read is refused launches nothing, and that `mvsplit` writes SD
there all the same is the model's choice (log entry 31). -/
def Sys2Proof.Claims.LaunchWordsSend : Prop :=
  ∀ (s t : State) (d a b : Nat) (q : Piece) (w : List (BitVec 64)),
    let p := s.sget a
    let m := (s.sget b).toNat
    let nb := s.me.now.mvratio.toNat * (m / 16) / 256
    let legal := m % 16 = 0 ∧ m ≠ 0 ∧ m ≤ 8192
    (∀ f, s.descFault p = some f → exec (.pumpgo a b) s = .next (s.raise f) ∧ exec (.secopen a b) s = .next (s.raise f) ∧
      (legal → exec (.mvsplit d a b) s = .next (s.raise f))) ∧
    (¬legal → exec (.mvsplit d a b) s = .next s.illegal) ∧
    (DescAt s p 3 true q → s.launchFree = false → exec (.pumpgo a b) s = .next s ∧ exec (.secopen a b) s = .next s ∧
      (legal → exec (.mvsplit d a b) s = .next s)) ∧
    (∀ x, DescAt s p 3 true q → s.launchFree = true →
      s.readLine s.myTeam.vf (lineAt q.pa) s.myTeam.core s.cur.tid s.cur.coh = (t, x, none) →
      (s.readRefusal s.myTeam.vf (lineAt q.pa) s.myTeam.core).any (fun x => x.tgt != 6) = true →
      exec (.pumpgo a b) s = .next (t.memDone false) ∧ exec (.secopen a b) s = .next (t.memDone false) ∧
      (legal → exec (.mvsplit d a b) s = .next ((t.sset d (BitVec.ofNat 64 (16 * nb))).memDone false))) ∧
    (DescAt s p 3 true q → s.launchFree = true → DescRead s q.pa t w →
      let go : PumpLaunch := { kind := 0, desc := q.pa, words := w, arg1 := s.sget b }
      let split : PumpLaunch := { kind := 1, desc := q.pa, words := w, nb := nb }
      exec (.pumpgo a b) s = .next ((t.sendLaunch (pcoreOf w) go).memDone false) ∧
      (legal → exec (.mvsplit d a b) s =
        .next (((t.sendLaunch (fld (w.getD 1 0) 32 7) split).sset d (BitVec.ofNat 64 (16 * nb))).memDone false)) ∧
      (∀ (q' : Piece) (u : State) (w' : List (BitVec 64)), PlacedAt t (fld (w.getD 0 0) 6 46 * 64) 3 true q' → DescRead t q'.pa u w' →
        let open_ : PumpLaunch := { kind := 2, desc := q'.pa, sdesc := q.pa, words := w', swords := w, arg1 := s.sget b }
        exec (.secopen a b) s = .next ((u.sendLaunch (pcoreOf w') open_).memDone false)))

/-- 15 R235; 16 R256, R257: `pumpwait` passes when STATUS says that its launch has ended, else waits; `secabort` asks for the section's
abort as an operation of SETB; `secstat` answers the section's word in VD of every thread of the group; that it reads SSTAT where PUMP cannot be read is
the model's choice (log entry 44). -/
def Sys2Proof.Claims.LaunchStatusWords : Prop :=
  ∀ (s t : State) (d a : Nat) (q : Piece) (w : List (BitVec 64)),
    let wait : Wait := .pumpwait (q.pa + 0x30) d
    (DescAt s (s.sget a) 1 false q →
      (∀ u, s.pollDone s.cur.tid s.cur.coh s.G wait = some u → u.myTeam.terminated = false →
        exec (.pumpwait d a) s = .next (u.memDone false)) ∧
      (s.pollDone s.cur.tid s.cur.coh s.G wait = none → exec (.pumpwait d a) s =
        let t := (s.awaits s.myTeam.vf q.pa s.myTeam.core).getD
          (s.readFor s.myTeam.vf (lineAt q.pa) s.myTeam.core s.cur.tid s.cur.coh).1
        .next ((t.modMe (fun c => { c with polls := c.polls ++ [⟨s.G, wait⟩] })).suspend s.G))) ∧
    (DescAt s (s.sget a) 1 true q → DescRead s q.pa t w →
      (s.flagFree s.cur.setb = true →
        let n := t.newOp { tid := s.cur.tid, coh := s.cur.coh, flag := s.cur.setb, kind := 3 }
        exec (.secabort a) s = .next ((n.1.abortSect s.myTeam.vf q.pa n.2).memDone false)) ∧
      (s.flagFree s.cur.seta = true → RegsIn s [d] → exec (.secstat d a) s =
        let c := t.sectCore w
        .next ((c.1.resultAll d (c.1.sectWord q.pa c.2 w)).memDone true)))

/-- 15 R234 to R236, R369; 16 R245, R256, R257: the words that launch near-memory work and read its end. -/
def Obligations.NearMemoryLaunchWords : Prop :=
  Claims.LaunchWordsSend ∧ Claims.LaunchStatusWords

/-- 20 R302, R306, R307: a boarding word takes the lowest free slot, as an operation of SETB, for its tile key, schedule and destination; a
key that its team has requested already does nothing; its stop checks it from the next ring clock on (R308); `unboard` disarms, held by a landing; `boardstat` answers its slot's word. -/
def Obligations.BoardingWordsAct : Prop :=
  ∀ (s : State) (d a t i : Nat),
    let p := s.sget a
    let k := boardKey p
    let x := s.myTeam.tile t
    let taken := ∃ e ∈ s.myCore.boards, e.1 < 4 ∧ (e.2.state = 1 ∨ e.2.state = 2) ∧ e.2.quit = 0 ∧ e.2.names s.cur.tid k = true
    let n := s.newOp { tid := s.cur.tid, coh := s.cur.coh, flag := s.cur.setb, kind := 3 }
    let b : BoardSlot := { state := 1, key := k.1, sched := k.2, tid := s.cur.tid, coh := s.cur.coh, pending := true, ask := s.rclk + 1,
                           op := n.2 }
    (fld p 38 26 ≠ 0 → exec (.boardShadow a) s = .next s.illegal ∧ exec (.boardTile a t) s = .next s.illegal ∧
      exec (.unboard a) s = .next s.illegal ∧ (RegsIn s [d] → exec (.boardstat d a) s = .next s.illegal)) ∧
    (fld p 38 26 = 0 →
      (s.myTeam.launch.acc = true → taken → exec (.boardShadow a) s = .next s.done) ∧
      (x.valid = true → 65536 ≤ x.len → taken → exec (.boardTile a t) s = .next s.done) ∧
      (¬taken → s.flagFree s.cur.setb = true → s.myCore.freeSlot = some i →
        (s.myTeam.launch.acc = true → exec (.boardShadow a) s =
          .next (n.1.modCore s.myTeam.core (fun c => c.setBoard i b)).done) ∧
        (x.valid = true → 65536 ≤ x.len → exec (.boardTile a t) s =
          .next (n.1.modCore s.myTeam.core (fun c => c.setBoard i { b with dest := 1, t := t, base := x.base })).done)) ∧
      (let mine (b : BoardSlot) : Bool := b.names s.cur.tid k
       exec (.unboard a) s = .next (if s.landing s.myTeam.core mine then s.disarm s.myTeam.core mine
         else (s.disarm s.myTeam.core mine).done)) ∧
      (RegsIn s [d] → s.flagFree s.cur.seta = true → exec (.boardstat d a) s =
        .next ((s.resultAll d (statWord (s.myCore.statSlot s.cur.tid k))).done true)))

/-- 09 R161, R164, R166: outside a handler, with TRAPVEC not 0, `trap` and every program fault of a word enter the handler for each
thread of the group that is not parked; TRAPPC is the faulting word, of `trap` the word after it. A range-lock fault is counted first (24 R346). -/
def Sys2Proof.Claims.ProgramFaultsEnterTheHandler : Prop :=
  ∀ (s : State) (c : Nat), s.myTeam.launch.trapvec ≠ 0 → s.me.trapstat = false →
    let pc := s.herePc
    let words (s : State) (x : FaultInfo) : List Nat := s.faultWords s.cur.tid s.cur.coh pc x false
    (∃ t, exec (.trap c) s = .next t ∧ EntersHandler s t s.cur.tid s.cur.coh s.G (nextPc pc (s.cur.idx = s.cur.count))
      (words s { cause := 0x1C, detail := c, lanes := s.G })) ∧
    (∀ (x : FaultInfo),
      let grp := s.G &&& ~~~s.me.parked
      let u := if x.cause = 0x15 then s.count s.myTeam.core 0x0A 4 1 else s
      EntersHandler u (s.raise x) s.cur.tid s.cur.coh grp pc (words u (if groupCause x.cause then { x with lanes := grp } else x)))

/-- 09 R164, R165: without a handler, or in one, a program fault terminates the team: no thread of it is runnable, waiting or parked any
more, and its waits, its armed boarding requests and its copy commands that wait for a RESUME are gone, also those of a saved team's lists; a landing
request is cancelled. -/
def Sys2Proof.Claims.NestedFaultsTerminateTheTeam : Prop :=
  ∀ (s : State) (x : FaultInfo), (s.myTeam.launch.trapvec = 0 ∨ s.me.trapstat = true) → s.myTeam.terminated = false →
    let u := s.raise x
    let t := u.team s.cur.tid
    let c := u.core s.myTeam.core
    t.terminated = true ∧ t.boards = [] ∧ t.copies = [] ∧
    (∀ e ∈ c.boards, e.2.tid = s.cur.tid → e.2.state ≠ 1 ∧ (e.2.state = 2 → e.2.cancel = true)) ∧
    (∀ h ∈ c.chans, ∀ y ∈ h.2.queue, y.op ≠ 0 → y.tid = s.cur.tid → y.wait = none) ∧
    (∀ e ∈ t.cohs, e.2.retired = true ∧ e.2.exited = BitVec.allOnes 32 ∧ e.2.waiting = 0 ∧ e.2.parked = 0 ∧ e.2.hw = [] ∧ e.2.polls = [])

/-- 09 R158, R164, R165: a program fault enters its cohort's handler, or terminates the team. -/
def Obligations.FaultsEnterOrTerminate : Prop :=
  Claims.ProgramFaultsEnterTheHandler ∧ Claims.NestedFaultsTerminateTheTeam

/-- 09 R166; 05 R92 to R94; 24 R343, R345: `mfsr` reads a register as it stood before the core clock, a counter only when no fence or
acquire of the group is open; `mtsr` writes the five writable ones under R94; every other number is an illegal instruction. -/
def Sys2Proof.Claims.SystemRegisterWords : Prop :=
  ∀ (s : State) (r n : Nat),
    let x := s.sget r
    let set (f : Cohort → Cohort) : Out := .next (s.modMe f).done
    (∀ v, s.sysRead n = some v → (isCounter n = true → s.fenced s.G true = false ∧ s.acqPending s.G = false) →
      exec (.mfsr r n) s = .next ((s.sset r v).done true)) ∧
    (∀ v, s.sysRead n = some v → isCounter n = true → s.fenced s.G true = true ∨ s.acqPending s.G = true →
      exec (.mfsr r n) s = .next s) ∧
    (s.sysRead n = none → exec (.mfsr r n) s = .next s.illegal) ∧
    s.sysRead 0x001 = some s.myTeam.launch.addr ∧ s.sysRead 0x002 = some (BitVec.ofNat 64 s.myTeam.number) ∧
    s.sysRead 0x003 = some (BitVec.ofNat 64 s.myTeam.nteams) ∧ s.sysRead 0x004 = some (BitVec.ofNat 64 s.me.now.valloc) ∧
    s.sysRead 0x008 = some (s.me.now.fpflags.setWidth 64) ∧ s.sysRead 0x009 = some ((tget 0 s.me.sr (lowest s.G)).setWidth 64) ∧
    s.sysRead 0x020 = some s.timebase ∧ s.sysRead 0x070 = some s.me.now.trappc ∧
    s.sysRead 0x071 = some (if s.me.now.trapstat then 1 else 0) ∧
    exec (.mtsr r 0x008) s = set (fun c => { c with fpflags := x.setWidth 32 &&& 0xFFFF033F }) ∧
    exec (.mtsr r 0x009) s = set (fun c => { c with
      sr := (lanesOf s.G).foldl (fun t l => tset 0 t l (seedOf (fld x 0 32) (s.myTeam.linear s.cur.coh l))) c.sr }) ∧
    exec (.mtsr r 0x00A) s = set (fun c => { c with mvratio := if 256 < x.toNat then 256 else x }) ∧
    exec (.mtsr r 0x021) s = set (fun c => { c with hangctl := if x.toNat < 10 then 10 else if 40 < x.toNat then 40 else x }) ∧
    exec (.mtsr r 0x070) s = set (fun c => { c with trappc := x }) ∧
    (n ≠ 0x008 → n ≠ 0x009 → n ≠ 0x00A → n ≠ 0x021 → n ≠ 0x070 → exec (.mtsr r n) s = .next s.illegal)

/-- 09 R166; 03 R59: `tret` in a handler clears TRAPSTAT, sets STKCUR to STKLIM and puts each thread of the group at TRAPPC, outside one it
is an illegal instruction; `fencei` waits for the cohort's unfinished stores, then discards the words that its quad holds. That reductions and cache
operations are stores of it is the model's choice (log entry 28). -/
def Sys2Proof.Claims.TretAndFencei : Prop :=
  ∀ (s : State),
    let stores := s.opsOf (BitVec.allOnes 32) (fun o => o.kind = 1)
    (s.me.now.trapstat = false → exec .tret s = .next s.illegal) ∧
    (s.me.now.trapstat = true → ∃ t, exec .tret s = .next t ∧ Stays s.cur.tid s.cur.coh s t ∧ (∀ n, t.core n = s.core n) ∧
      t.me.trapstat = false ∧ t.me.stkcur = s.myTeam.launch.stklim ∧
      (∀ l, tget 0 t.me.pc l = if l < 32 && s.G.getLsbD l then s.me.now.trappc else tget 0 s.me.pc l) ∧
      (t.me.butTrap s.me).butPc s.me = s.me ∧ t.me.s = s.me.s ∧ t.me.trappc = s.me.trappc ∧
      t.me.waiting = s.me.waiting ∧ t.me.last = s.me.last) ∧
    (stores = [] → exec .fencei s = .next ((s.modMe (fun c => { c with words := [] })).done)) ∧
    (stores ≠ [] → exec .fencei s =
      .next ((s.modMe (fun c => { c with polls := c.polls ++ [⟨s.G, .fencei stores⟩] })).suspend s.G))

/-- 05 R92; 09 R164, R166: the words of the sys class. -/
def Obligations.SystemWords : Prop :=
  Claims.SystemRegisterWords ∧ Claims.TretAndFencei

/-- 15 R229, R230: a move to a plain port writes it, of G0 to G15 and the operand ports each its own; one to a unit sets the unit's result
from the ports and the move's value, of the SFU to be read after four pumphouse clocks. -/
def Sys2Proof.Claims.UnitMovesCompute : Prop :=
  ∀ (s : State) (pc : Nat) (m : Move) (r : Run) (v : BitVec 64), MoveRuns s pc m r v →
    let res (f : Ports → Ports) : Out := .next (portResult s pc f)
    let k := fld v 0 6
    exec .pumpMove s = res (fun p =>
      if m.d ≤ 15 then { p with g := tset 0 p.g m.d v }
      else if m.d = 16 then { p with alua := v }
      else if m.d = 27 then { p with cmpa := v }
      else if m.d = 32 then { p with sfua := v }
      else if m.d = 33 then { p with sfub := v }
      else if m.d = 40 then { p with sta := v }
      else if m.d = 43 then { p with bka := v }
      else if m.d = 44 then { p with bks := v }
      else p) ∧
    exec .aluadd s = res (fun p => { p with alur := p.alua + v }) ∧
    exec .alusub s = res (fun p => { p with alur := p.alua - v }) ∧
    exec .aluand s = res (fun p => { p with alur := p.alua &&& v }) ∧
    exec .aluor s = res (fun p => { p with alur := p.alua ||| v }) ∧
    exec .aluxor s = res (fun p => { p with alur := p.alua ^^^ v }) ∧
    exec .alushl s = res (fun p => { p with alur := p.alua <<< k }) ∧
    exec .alushr s = res (fun p => { p with alur := p.alua >>> k }) ∧
    exec .alusra s = res (fun p => { p with alur := p.alua.sshiftRight k }) ∧
    exec .alumul s = res (fun p => { p with alur := p.alua * v }) ∧
    exec .cmpeq s = res (fun p => { p with c := p.cmpa = v }) ∧
    exec .cmplt s = res (fun p => { p with c := p.cmpa.toInt < v.toInt }) ∧
    exec .cmpltu s = res (fun p => { p with c := p.cmpa.toNat < v.toNat }) ∧
    exec .sfufma s = .next (sfuResult s pc (fun p => BitVec.ofNat 64 (f32.round .near
      ((((f32.decode (fld p.sfua 0 32)).mul (f32.decode (fld p.sfub 0 32))).1.add .near (f32.decode (fld v 0 32))).1)).1)) ∧
    exec .sfucvt s = .next (sfuResult s pc (fun _ => BitVec.ofNat 64 (bf16.round .near (f32.decode (fld v 0 32))).1))

/-- 15 R229: a guarded move whose GS is not C does nothing, and the bundle goes on. -/
def Sys2Proof.Claims.GuardedMovesAreSkipped : Prop :=
  ∀ (i : Instr) (s : State) (pc : Nat) (m : Move) (r : Run), i ∈ pumpMoves → s.mv = (pc, m) → (s.pump pc).run = some r →
    m.g = 1 → nbit r.old.c ≠ m.e → exec i s = .next (s.moveDone pc)

/-- 15 R230; 16 R249: JUMP and JREL name the next bundle, DRAIN, SLUICE and DONE make the bundle stall, DONE with the code of its value. -/
def Sys2Proof.Claims.ControlMovesSteerTheProgram : Prop :=
  ∀ (s : State) (pc : Nat) (m : Move) (r : Run) (v : BitVec 64), MoveRuns s pc m r v →
    exec .jump s = .next (runResult s pc (fun r => { r with jump := some v })) ∧
    exec .jrel s = .next (runResult s pc (fun r => { r with jump := some (BitVec.ofNat 64 r.bundle + v) })) ∧
    exec .drain s = .next (runResult s pc (fun r => { r with stall := max r.stall 1 })) ∧
    exec .sluice s = .next (runResult s pc (fun r => { r with stall := max r.stall 2 })) ∧
    exec .pumpDone s =
      .next (runResult s pc (fun r => { r with stall := 3, code := if fld v 0 8 = 0 then 0 else 0x80 + fld v 0 7 }))

/-- 15 R229, R230: the moves that compute, that a guard skips, and that steer a pumphouse program. -/
def Obligations.UnitAndControlMoves : Prop :=
  Claims.UnitMovesCompute ∧ Claims.GuardedMovesAreSkipped ∧ Claims.ControlMovesSteerTheProgram

/-- 15 R226, R229, R230; 10 R182: LDS and STS move 8 bytes between LDR, a value and the data SRAM; LDG and STG of a program that is no section
send an access of 8 bytes to its home slice; BKC enqueues its microcommand at the bank that BKA names, and stalls while that queue is full. A bad
address ends the launch with code 5, an untranslatable one with code 6, a word of the data SRAM with more than one wrong bit with code 7. -/
def Sys2Proof.Claims.MemoryMovesAccess : Prop :=
  ∀ (s t : State) (pc pa k : Nat) (m : Move) (r : Run) (v : BitVec 64), MoveRuns s pc m r v →
    let p := s.pump pc
    let sta := p.ports.sta
    let bka := p.ports.bka
    let vf := r.launch.vf
    (sramOk v = true → s.sense vf 4 pc (v.toNat / 8) 0 = (t, none) → exec .lds s = .next ((t.modPump pc (fun p =>
      let x : BitVec 64 := BitVec.ofNat 64 (ofLeBytes ((List.range 8).map (fun i => tget 0 p.sram (v.toNat + i))))
      { p with ports := { p.ports with ldr := x }, run := p.run.map (fun r => { r with ld := 0 }) })).moveDone pc)) ∧
    (∀ x, sramOk v = true → s.sense vf 4 pc (v.toNat / 8) 0 = (t, some x) →
      exec .lds s = .next ((t.logError 0x11 vf x.1 x.2.1 x.2.2 []).endRun pc 7)) ∧
    (sramOk v = false → exec .lds s = .next (s.endRun pc 5)) ∧
    (sramOk sta = true → exec .sts s = .next (((s.setUpset 4 pc (sta.toNat / 8) 0).modPump pc (fun p =>
      { p with sram := gather p.sram (place sta.toNat (bytesOf 8 v)) })).moveDone pc)) ∧
    (sramOk sta = false → exec .sts s = .next (s.endRun pc 5)) ∧
    (globalOk v = false → exec .ldg s = .next (s.endRun pc 5)) ∧
    (globalOk v = true → s.transFor vf v.toNat 1 (0x116 + pc / 32) = (t, some (pa, k)) → (t.pump pc).sect = none →
      let n := t.pumpSend pc r.launch pa 0 (.read [(0, pa, 8)] none)
      exec .ldg s = .next ((n.1.modRun pc (fun x => { x with ld := n.2 })).moveDone pc)) ∧
    (globalOk v = true → s.transFor vf v.toNat 1 (0x116 + pc / 32) = (t, none) → exec .ldg s = .next (t.endRun pc 6)) ∧
    (globalOk sta = false → exec .stg s = .next (s.endRun pc 5)) ∧
    (globalOk sta = true → s.transFor vf sta.toNat 2 (0x116 + pc / 32) = (t, some (pa, k)) → (t.pump pc).sect = none →
      exec .stg s = .next ((t.pumpSend pc r.launch pa 1 (.write (wbytes pa (bytesOf 8 v)))).1.moveDone pc)) ∧
    (globalOk sta = true → s.transFor vf sta.toNat 2 (0x116 + pc / 32) = (t, none) → exec .stg s = .next (t.endRun pc 6)) ∧
    (∀ i x, decodeMicro v.toNat = .ok (i, x) →
      (bkaOk pc x.op bka = false → exec .bkc s = .next (s.endRun pc 5)) ∧
      (bkaOk pc x.op bka = true → 16 ≤ (s.bank (fld bka 27 13)).queue.length → exec .bkc s = .next s) ∧
      (bkaOk pc x.op bka = true → (s.bank (fld bka 27 13)).queue.length < 16 →
        exec .bkc s = .next ((s.modBank (fld bka 27 13) (fun b => { b with
          queue := b.queue ++ [{ pc := pc, x := x, row := fld bka 11 16, col := fld bka 5 6, sc := p.ports.bks }] })).moveDone pc))) ∧
    (∀ e, decodeMicro v.toNat = .error e → exec .bkc s = .next (s.endRun pc 5))

/-- 16 R248, R254: in a section's optimistic run an LDG of a window line enters the signature and reads the line at its stack's base die, through the
memory-side cache, with the freeboard bytes over it, and an STG enters the signature and goes to the freeboard buffer alone, of 512 lines, beyond which
the run overflows; in the spillway an STG goes to the line's channel; outside the window it ends the section with code 5. -/
def Sys2Proof.Claims.SectionMovesUseTheFreeboard : Prop :=
  ∀ (s t : State) (pc pa k : Nat) (m : Move) (r : Run) (v : BitVec 64) (x : Section), MoveRuns s pc m r v →
    (t.pump pc).sect = some x →
    let vf := r.launch.vf
    let d := (t.dramLine (lineAt pa)).getD 0
    let f := t.memFold pc pa
    (x.has pa = true → globalOk v = true → s.transFor vf v.toNat 1 (0x116 + pc / 32) = (t, some (pa, k)) →
      let u := if (t.sectOf pc).spill then t else f
      let d := (u.dramLine (lineAt pa)).getD 0
      ∀ w, u.permits (128 + stackOf d) vf (0x80 + pc) 0 = true → u.mscHas d = true →
        u.sense vf 2 (stackOf d) d (lineAt pa) = (w, none) →
        let bs := lineBytes (w.dramNow d (lineAt pa)).1 (pa % 128) 8
        let ldr := BitVec.ofNat 64 (ofLeBytes ((List.range 8).map (fun i => (tget none (w.sectOf pc).board (pa + i)).getD (bs.getD i 0))))
        exec .ldg s = .next ((w.modPump pc (fun p => { p with
          ports := { p.ports with ldr := ldr }, run := p.run.map (fun r => { r with ld := 0 }) })).moveDone pc)) ∧
    (let sta := (s.pump pc).ports.sta
     let lines := dedup ((tsome (f.sectOf pc).board).map (fun b => lineAt b.1))
     globalOk sta = true → s.transFor vf sta.toNat 2 (0x116 + pc / 32) = (t, some (pa, k)) →
     (x.has pa = true → x.spill = false →
       (lineAt pa ∈ lines ∨ lines.length < 512 → exec .stg s = .next ((f.modSect pc (fun y => { y with
         board := (place pa (bytesOf 8 v)).foldl (fun b e => tset none b e.1 (some e.2)) y.board })).moveDone pc)) ∧
       (lineAt pa ∉ lines → 512 ≤ lines.length → (f.sectOf pc).abort = false →
         exec .stg s = .next (f.modSect pc (fun y => { y with phase := 3, outcome := 2, board := [], todo := f.windowSlices (f.sectOf pc) })))) ∧
     (x.has pa = true → x.spill = true → t.permits (128 + stackOf d) vf (0x80 + pc) 1 = true → t.keyless vf = false →
       let n := t.newOp { tid := r.launch.tid, coh := 64, lanes := 1, kind := 1, left := 1, pump := some pc }
       exec .stg s = .next (((n.1.modRun pc (fun r => { r with ops := n.2 :: r.ops })).sendWrite d (lineAt pa) vf (0x80 + pc) n.2
         (wbytes pa (bytesOf 8 v)) false).moveDone pc)) ∧
     (x.has pa = false → exec .stg s = .next (t.endRun pc 5)))

/-- 15 R226, R229, R230; 16 R248: the moves that access memory, in and outside a section. -/
def Obligations.MemoryAndSectionMoves : Prop :=
  Claims.MemoryMovesAccess ∧ Claims.SectionMovesUseTheFreeboard

/-- 15 R227, R228, R232, R237; 18 R270, R274: the ACTs of a queue have their rows recalled ahead of their turns, and an ACT, checked again, opens its
row when the recall is over; a MAC adds to its accumulators' lanes, a WB
writes its column, a PRE closes the row, or discards a suspended one, a CLR zeroes its accumulators' lanes. Each leaves the queue. A column that cannot be corrected ends the
launch with code 7. -/
def Sys2Proof.Claims.MicrocommandsAct : Prop :=
  ∀ (s : State) (gb : Nat) (c : MicroCmd),
    let s := asked s [gb]
    let b := s.bank gb
    let vf := s.runVf c.pc
    let wr : Bool := c.x.wr = 1
    ((∃ x ∈ b.queue, s.mayRecall gb x = true) → exec .microAct s = .next (s.recallQueue gb)) ∧
    (s.bankHead gb 0 = some c → (∀ x ∈ b.queue, s.mayRecall gb x = false) →
      (b.open? ≠ none ∨ b.susp ≠ none → exec .microAct s = .next (s.launchErr c.pc 5)) ∧
      (b.open? = none → b.susp = none →
        (s.mayActivate vf gb c.row wr = false → exec .microAct s = .next (s.actRefused gb c.row c.pc)) ∧
        (s.mayActivate vf gb c.row wr = true → c.recalled = false → exec .microAct s = .next (s.launchErr c.pc 5)) ∧
        (s.mayActivate vf gb c.row wr = true → c.recalled = true → s.recalling gb c.row = true ∨ s.canIssue gb 0 = false →
          exec .microAct s = .next s) ∧
        (s.mayActivate vf gb c.row wr = true → c.recalled = true → s.recalling gb c.row = false → s.canIssue gb 0 = true →
          exec .microAct s =
            let row : Row := { row := c.row, pc := c.pc, wr := wr, act := s.dclk }
            .next (s.modBank gb (fun b => { b.pop with row := some row, busy := s.dclk + 1 }))))) ∧
    (∀ u e, HeadIssues s gb 1 c → RowReady b c → s.senseColumn vf gb c.row c.col = (u, e) →
      let t := u.modBank gb (fun b => (List.range (if c.x.fmt = 0 then 16 else 32)).foldl (fun b i =>
        b.setAcc c.pc c.x.acc i (macLane c.x.fmt (tget 0 b.acc (bankKey c.pc c.x.acc i)) (s.column gb c.row c.col) i c.sc))
        { b.pop with busy := s.dclk + 1 })
      (e = none → exec .microMac s = .next t) ∧
      (∀ x, e = some x → exec .microMac s = .next ((t.logError 0x11 vf x.1 x.2.1 x.2.2 []).launchErr c.pc 7))) ∧
    (HeadIssues s gb 2 c → RowReady b c →
      let t := s.modBank gb (fun b => { b.pop with busy := s.dclk + 2 })
      (s.keyless vf = false → exec .microWb s = .next (t.putColumn gb c.row c.col vf
        (wbBytes c.x.fmt c.x.h (fun i => tget 0 b.acc (bankKey c.pc c.x.acc i))))) ∧
      (t.keyless vf = true → exec .microWb s =
        .next ((t.refuse vf 1 (gb / 512) (0x80 + c.pc) 1 (((t.rowLines gb c.row).head?).getD 0)).launchErr c.pc 3))) ∧
    (s.bankHead gb 3 = some c →
      (b.susp.any (fun r => r.pc = c.pc) = true → exec .microPre s =
        .next (s.modBank gb (fun b => { b.pop with susp := none, recalled := false }))) ∧
      (b.susp.any (fun r => r.pc = c.pc) = false → b.open?.any (fun r => r.pc = c.pc) = true → s.canIssue gb 3 = true →
        exec .microPre s = .next (s.modBank gb (fun b => { b.pop with
          row := none, pre := s.dclk + 14, preBy := c.pc, busy := s.dclk + 1 }))) ∧
      (b.susp.any (fun r => r.pc = c.pc) = false → b.open?.any (fun r => r.pc = c.pc) = false →
        exec .microPre s = .next (s.modBank gb Bank.pop))) ∧
    (HeadIssues s gb 4 c → exec .microClr s =
      .next (s.modBank gb (fun b => (List.range 32).foldl (fun b i => b.setAcc c.pc c.x.acc i 0) b.pop)))

/-- 15 R228, R237, R238; 25 R357: a compute row that a waiting request needs closed is suspended, and resumed, after its check and its recall, which
has ended at every slice, and in a clock of the bank duty, when no normal request is left; in one DRAM clock a channel takes one normal command: a waiting request's first, its ACT, which admits with it all that wait for its row and have the
right, or with its row open its read or write; an admitted one's read or write; or the PRE of a normal row that no admitted request needs. -/
def Sys2Proof.Claims.BankEventsInterleave : Prop :=
  ∀ (s : State) (x : Nat) (r : Row) (n : NReq),
    let s := asked s [x]
    let b := s.bank x
    (b.open? = some r → s.waitingAt x ≠ [] → s.bankHeld x = false → max b.busy (r.act + 32) ≤ s.dclk → exec .bankSuspension s =
      .next (s.setBank x { b with row := none, susp := some r, pre := s.dclk + 14, preBy := 128, busy := s.dclk + 1 })) ∧
    (b.susp = some r → s.normalAt x = [] → b.row = none → (s.bankHead x 3).any (fun c => c.pc = r.pc) = false →
      max b.busy b.pre ≤ s.dclk →
      let gone := s.setBank x { b with susp := none, recalled := false }
      (s.mayActivate (s.runVf r.pc) x r.row r.wr = false → exec .bankResumption s = .next (gone.actRefused x r.row r.pc)) ∧
      (s.mayActivate (s.runVf r.pc) x r.row r.wr = true → r.wr = true → s.rowInWindow x r.row = true →
        exec .bankResumption s = .next (gone.launchErr r.pc 5)) ∧
      (s.mayActivate (s.runVf r.pc) x r.row r.wr = true → (r.wr = true → s.rowInWindow x r.row = false) →
        (b.recalled = false → exec .bankResumption s =
          .next ((s.recall r.pc x r.row r.wr).modBank x (fun b => { b with recalled := true }))) ∧
        (b.recalled = true → s.recalling x r.row = true ∨ s.bd ≤ s.dclk % 16 → exec .bankResumption s = .next s) ∧
        (b.recalled = true → s.recalling x r.row = false → s.dclk % 16 < s.bd → exec .bankResumption s = .next (s.setBank x { b with
          susp := none, row := some { r with act := s.dclk, again := true }, busy := s.dclk + 1, recalled := false })))) ∧
    (s.nextNormal x = some (.inr n) → n.admitted = false →
      exec .normalRequestAdmission s =
        let t := if (s.waitingAt n.bank).head? = some n then s.modBank n.bank (fun b => { b with since := s.dclk }) else s
        let row : Row := { row := n.row, pc := 128, wr := false, act := s.dclk, normal := true }
        let u := (t.takePath x).modBank n.bank (fun b => { b with row := some row, busy := s.dclk + 1 })
        .next (if s.mayNormal n then
            if (s.bank n.bank).row.isSome then (t.takePath x).lineCommand x n
            else { u with chans := tset [] u.chans x ((tget [] u.chans x).map (fun y =>
                if y = n || (y.bank = n.bank && y.row = n.row && u.mayNormal y) then { y with admitted := true } else y)) }
          else t.dropRefused x n)) ∧
    (s.nextNormal x = some (.inr n) → n.admitted = true → exec .normalCommandIssue s = .next ((s.takePath x).lineCommand x n)) ∧
    (∀ gb, s.nextNormal x = some (.inl gb) → exec .normalCommandIssue s =
      .next ((s.takePath x).modBank gb (fun b => { b with row := none, pre := s.dclk + 14, preBy := 128, busy := s.dclk + 1 })))

/-- 15 R238; 10 R180, R182: the read or write of a normal request of a line with a place in DRAM: a read puts the line into the memory-side cache; a
write changes the written bytes of the line and is answered, and one of the whole line ends its wrong bits, or brings those of the line that it writes
back. -/
def Sys2Proof.Claims.LineCommandsMoveLines : Prop :=
  ∀ (s : State) (ch d : Nat) (n : NReq), s.dramLine n.line = some d →
    let t := (s.dropNormal ch n).modBank n.bank (fun b => { b with busy := s.dclk + 4 })
    (n.ws = none → s.lineCommand ch n = t.mscPut d) ∧
    (∀ ws, n.ws = some ws →
      let k := if n.bad then 2 else 0
      let u := if wholeLine ws then (t.setUpset 3 (stackOf d) d k).setUpset 2 (stackOf d) d k else t
      s.lineCommand ch n = (u.dramWrite d n.vf (applyBytes (u.dramRead d).1 ws)).partDone n.rq [])

/-- 15 R227, R237, R238: microcommands at their banks, the events of a bank between them, and the normal commands of a channel. -/
def Obligations.MicrocommandsAndLinesMove : Prop :=
  Claims.MicrocommandsAct ∧ Claims.BankEventsInterleave ∧ Claims.LineCommandsMoveLines

/-- 15 R231, R232; 16 R246: the launch at the head of a free core's queue starts, with zeroed accumulators and ports, when it is permitted,
legal and loads; else it ends with its code (8 aborted, 6 its STATUS unwritable, 3 refused, 1 a bad descriptor). -/
def Sys2Proof.Claims.LaunchesStart : Prop :=
  ∀ (s : State) (pc : Nat) (l : PumpLaunch),
    let s := asked s [pc]
    let fail (s : State) (code : Nat) (x : Option Section) : State := s.beginRun pc l { ended := some code } x
    (s.pump pc).queue.head? = some l → (s.pump pc).run = none →
    (l.kind ≠ 2 →
      (l.abort = true → exec .pumpLaunchStart s = .next (fail s 8 none)) ∧
      (l.abort = false → l.mute = true → exec .pumpLaunchStart s = .next (fail s 6 none)) ∧
      (l.abort = false → l.mute = false → s.mayCompute pc l = false →
        exec .pumpLaunchStart s = .next (fail (s.computeRefused pc l) 3 none)) ∧
      (l.abort = false → l.mute = false → s.mayCompute pc l = true →
        (l.kind = 1 → splitDescOk l.words pc = true → exec .pumpLaunchStart s =
          .next (((s.zeroAccs pc).beginRun pc l {} none).modPump pc (fun p => { p with ports := {}, prog := [], sram := [] }))) ∧
        (l.kind = 1 → splitDescOk l.words pc = false → exec .pumpLaunchStart s = .next (fail s 1 none)) ∧
        (l.kind ≠ 1 → pumpDescOk l.words = false → exec .pumpLaunchStart s = .next (fail s 1 none)) ∧
        (∀ t m, l.kind ≠ 1 → pumpDescOk l.words = true → s.loadProgram pc l = (t, .ok m) → exec .pumpLaunchStart s =
          .next ((((t.zeroAccs pc).mendPump pc).beginRun pc l { nbun := fld (l.word 1) 0 9 } none).modPump pc (fun p =>
            { p with ports := {}, prog := m.1, sram := m.2 }))) ∧
        (∀ t c, l.kind ≠ 1 → pumpDescOk l.words = true → s.loadProgram pc l = (t, .error c) →
          exec .pumpLaunchStart s = .next (match c with
            | some code => fail t code none
            | none => t)))) ∧
    (l.kind = 2 →
      (l.abort = true → exec .sectionStart s = .next (fail s 8 (some {}))) ∧
      (l.abort = false → s.mayCompute pc l = false → exec .sectionStart s = .next (fail (s.computeRefused pc l) 3 (some {}))) ∧
      (l.abort = false → s.mayCompute pc l = true → sectDescOk l.swords = false ∨ pumpDescOk l.words = false →
        exec .sectionStart s = .next (fail s 1 (some {}))) ∧
      (l.abort = false → s.mayCompute pc l = true → sectDescOk l.swords = true → pumpDescOk l.words = true →
        (∀ t, s.windowRuns pc l.vf (l.sword 1).toNat (fld (l.sword 2) 0 36) = (t, none) →
          exec .sectionStart s = .next (fail t 0x0B (some {}))) ∧
        (∀ t u m runs, s.windowRuns pc l.vf (l.sword 1).toNat (fld (l.sword 2) 0 36) = (t, some runs) → t.loadProgram pc l = (u, .ok m) →
          let x : Section := { base := (l.sword 1).toNat, len := fld (l.sword 2) 0 36, runs := runs, k := fld (l.sword 3) 0 4,
                               hsel := fld (l.sword 3) 4 2, limit := limitOf (l.sword 3) }
          exec .sectionStart s = .next (((u.zeroAccs pc).beginRun pc l { nbun := fld (l.word 1) 0 9 }
            (some { x with todo := u.windowSlices x })).modPump pc (fun p => { p with ports := {}, prog := m.1, sram := m.2 })))))

/-- 15 R232, R233; 16 R242, R255; 19 R280, R285: a program that has run 2^LIMIT clocks ends with TIMEOUT (0x0A); an ended launch whose accesses,
rows and microcommands are done frees its core and its section's entries and writes SSTAT, of a section, and then STATUS; a pump node ends when
that write has been acknowledged. -/
def Sys2Proof.Claims.LaunchesEnd : Prop :=
  ∀ (s : State) (pc code : Nat) (r : Run),
    let s := asked s [pc]
    ((s.pump pc).run = some r → r.launch.kind ≠ 1 → fld (r.launch.word 1) 24 5 ≠ 0 → r.ended = none →
      (r.launch.kind = 2 → ¬((s.sectOf pc).phase = 2 ∨ (s.sectOf pc).phase = 3 ∧ (s.sectOf pc).outcome ≤ 1)) → r.start + 2 ^ fld (r.launch.word 1) 24 5 ≤ s.pclk →
      exec .pumpLimitTimeout s = .next (s.endRun pc 0x0A)) ∧
    (∀ o g n c, (s.pump pc).nodes.find? (fun e => s.ended [e.1]) = some (o, g, n, c) → exec .pumpLaunchEnd s =
      .next ((s.modPump pc (fun p => { p with nodes := p.nodes.erase (o, g, n, c) })).nodeEnded g n c)) ∧
    ((s.pump pc).nodes.find? (fun e => s.ended [e.1]) = none → (s.pump pc).run = some r → r.ended = some code →
      (∀ e ∈ tsome s.ops, e.2.pump = some pc → e.2.coh = 64 → ¬e.2.kind ≤ 1) →
      (r.launch.kind = 2 → (s.sectOf pc).phase = 3 → (s.sectOf pc).outcome = 0 → (s.sectOf pc).todo = [] ∧ (s.sectOf pc).lifts = []) →
      let t := s.closeRows pc
      t.openRows pc = [] → t.bkq pc = 0 →
      let x := t.sectOf pc
      let u := (if r.launch.kind = 2 then t.freeEntries pc else t).modPump pc (fun p => { p with run := none, sect := none })
      let w := x.opOut.foldl (fun s o => s.endOp o) (u.writeEnd pc r.launch x code r.bundle (u.pclk - r.start))
      exec .pumpLaunchEnd s = .next (match r.launch.graph with
        | some (g, n) => if r.launch.mute then w.nodeEnded g n code
          else w.modPump pc (fun p => { p with nodes := p.nodes ++ [(r.launch.op, g, n, code)] })
        | none => w))

/-- 15 R231, R232; 16 R246: a pumphouse launch's start and its end. -/
def Obligations.LaunchesStartAndEnd : Prop :=
  Claims.LaunchesStart ∧ Claims.LaunchesEnd

/-- 16 R246, R249, R253, R260: a window slice with a free entry is claimed, the last one starts the run; a snapshot takes a slice's signature and
sets HOLD; a spill request cleans and invalidates a slice's window lines and sets HOLD, and the last one starts the run. -/
def Sys2Proof.Claims.WindowSlicesReport : Prop :=
  ∀ (s : State) (pc sl : Nat) (x : Section) (r : Run),
    let s := asked s [pc, sl]
    let c := s.dirtyFold sl x
    let e := ((s.slice sl).secs.find? (fun e => e.pc = pc)).getD { pc := pc }
    (s.pump pc).sect = some x → (s.pump pc).run = some r →
    (x.phase = 0 → x.todo.head? = some sl → (s.slice sl).secs.length < 4 → r.ended = none →
      let t := (s.setSlice sl { s.slice sl with secs := (s.slice sl).secs ++ [{ pc := pc, c1 := c.1, c2 := c.2 }] }).modSect pc
        (fun x => { x with todo := x.todo.drop 1 })
      exec .sliceClaim s = .next (if (x.todo.drop 1).isEmpty then
          (t.modSect pc (fun x => { x with ckPorts := (t.pump pc).ports, ckSram := (t.pump pc).sram, ckBundle := 0 })).nextRun pc
            (x.limit = 0)
        else t)) ∧
    (x.phase = 2 → sl ∈ x.todo → exec .sliceSnapshot s =
      .next ((s.modEntry sl pc (fun e => { e with c1 := c.1, c2 := c.2, hold := true })).modSect pc (fun x =>
        { x with c1 := x.c1 ||| e.c1, c2 := x.c2 ||| e.c2, todo := x.todo.erase sl }))) ∧
    (x.phase = 4 → sl ∈ x.todo →
      let lines := ((s.slice sl).lines.filter (fun e => e.2.valid && x.inWindow e.1)).map (·.1)
      let t := lines.foldl (fun s pa => (s.cleanLine pa).invalidateLine pa) s
      exec .spillRequest s = .next ((t.modEntry sl pc (fun e => { e with hold := true })).modSect pc (fun x =>
        { x with todo := x.todo.erase sl, phase := if (x.todo.erase sl).isEmpty then 1 else 4 })))

/-- 16 R244, R249 to R251, R254; 13 R219: with every snapshot the outcome is a breach when the chosen signatures intersect, and then the freeboard is
dropped; the outcome reaches each window slice, and after a clean one every slice clears its HOLD when all have accepted their lines and no older L1
copy is left; after a clean one the segment commits and the next begins, or the section ends; after a breach it replays from its checkpoint, at the
limit in the spillway; after an overflow of the freeboard it begins again in the spillway, with no line in a bucket and nothing counted. That HOLD stays
until no L1 keeps an older copy of a line (`lifts`, `invs`) is the model's reading of R219, by log entry 44 (DEDUCED): no rule says it. -/
def Sys2Proof.Claims.SluicesDecide : Prop :=
  ∀ (s : State) (pc sl : Nat) (x : Section) (r : Run),
    let s := asked s [pc, sl]
    (s.pump pc).sect = some x → (s.pump pc).run = some r →
    (x.phase = 2 → x.todo = [] →
      let i1 := x.m1 &&& x.c1
      let i2 := x.m2 &&& x.c2
      let breach : Bool := if x.hsel = 1 then i1 != 0 else if x.hsel = 2 then i2 != 0 else i1 != 0 && i2 != 0
      exec .sluiceOutcome s = .next (s.modSect pc (fun y => { y with
        phase := 3, outcome := nbit breach, i1 := i1, i2 := i2, todo := s.windowSlices x,
        board := if breach then [] else y.board }))) ∧
    (x.phase = 3 → sl ∈ x.todo →
      let t := s.modSect pc (fun x => { x with todo := x.todo.erase sl })
      (x.outcome = 0 → exec .outcomeAtWindowSlice s =
        let mine := x.boardLines.filter (fun b => t.homeSlice b.1 = sl)
        let u := mine.foldl (fun s b => s.releaseLine pc r.launch b.1 b.2) t
        .next (if mine.isEmpty then t.clearHold sl pc
          else u.modSect pc (fun y => { y with lifts := y.lifts ++ [sl], invs := y.invs ++ u.copiesOut (mine.map (·.1)) }))) ∧
      (x.outcome ≠ 0 →
        let lines := ((t.slice sl).lines.filter (fun e => e.2.valid && e.2.dirty && x.inWindow e.1 && x.outcome = 1 && x.hit e.1)).map (·.1)
        let u := lines.foldl (fun s pa => s.cleanLine pa) t
        let c := u.dirtyFold sl x
        exec .outcomeAtWindowSlice s = .next ((u.modEntry sl pc (fun e => { e with c1 := c.1, c2 := c.2 })).clearHold sl pc))) ∧
    (x.phase = 3 → x.todo = [] → sl ∈ x.lifts → (∀ i ∈ x.invs, tget none s.invs i = none) → exec .outcomeAtWindowSlice s =
      .next ((s.modSect pc (fun x => { x with lifts := x.lifts.erase sl })).clearHold sl pc)) ∧
    (x.phase = 3 → x.outcome = 0 → x.todo = [] → x.lifts = [] → s.ended r.ops = true →
      let t := s.modSect pc (fun x => { x with phase := 1, seg := min 65535 (x.seg + 1), rcnt := 0, board := [], invs := [] })
      let u := t.passBundle pc
      exec .segmentCommit s = .next (
        if r.ended.isSome then t
        else if x.abort then t.endRun pc 8
        else if x.isOver then t.endRun pc r.code
        else (u.modSect pc (fun x => { x with
          ckPorts := (u.pump pc).ports, ckSram := (u.pump pc).sram, ckBundle := r.nextBundle })).nextRun pc (x.limit = 0))) ∧
    (x.phase = 3 → x.outcome = 1 → x.todo = [] →
      let t := s.modSect pc (fun x => { x with rcnt := x.rcnt + 1, replays := min (x.replays + 1) (2 ^ 32 - 1), isOver := false })
      exec .segmentReplay s = .next (
        if x.abort || r.ended.isSome then (t.modSect pc (fun x => { x with phase := 1 })).endRun pc 8
        else (t.restoreSect pc).nextRun pc (x.rcnt + 1 = x.limit))) ∧
    (x.phase = 3 → x.outcome = 2 → x.todo = [] → exec .segmentReplay s = .next (
      if x.abort || r.ended.isSome then (s.modSect pc (fun x => { x with phase := 1 })).endRun pc 8
      else (s.restoreSect pc).nextRun pc true))

/-- 16 R244 to R253: the events of a memory-side section. -/
def Obligations.SectionEvents : Prop :=
  Claims.WindowSlicesReport ∧ Claims.SluicesDecide

/-- 10 R178; 11 R195, R196; 13 R208; 15 R238; 16 R249; 18 R270; 21 R316: at its home slice a read of a line that the slice holds is served; one that
misses waits for its line, and is served when it is there; in a held window it waits. -/
def Sys2Proof.Claims.SlicesServeReads : Prop :=
  ∀ (s : State) (id : Nat) (t : State) (r : Req),
    let s := asked s [id]
    (Arrives s id t r 0 false → ((∃ p c, r.kind = .read p c) ∨ (∃ p c, r.kind = .fill p c)) →
      (Served t r 128 →
        ((t.sline r.line).isSome = true → exec .sliceRead s = .next ((t.touch r.line).serveRead id r)) ∧
        (t.sline r.line = none → exec .sliceRead s = .next ((t.fill r.line r.cls).serveRead id r))) ∧
      (t.heldWindow r.line 128 = true → exec .sliceRead s = .next (s.holdReq t id r)) ∧
      (t.heldWindow r.line 128 = false → t.missRefusal r.vf r.line = none → t.isHere r.line = false →
        exec .sliceRead s = .next (t.want r.vf r.line r.master id)) ∧
      (∀ x, t.heldWindow r.line 128 = false → t.missRefusal r.vf r.line = some x →
        exec .sliceRead s = .next ((t.refuseAt r.vf r.master 0 x).refuseRead id r))) ∧
    (∀ l, Arrives s id t r 0 false → r.kind = .lstat l → exec .sliceRead s = .next (t.serveStat id r l)) ∧
    (∀ u, ComesIn s id t r → r.slice = true → t.turnedAway r 0 false = some u →
      ((∃ p c, r.kind = .read p c) ∨ (∃ p c, r.kind = .fill p c) ∨ (∃ l, r.kind = .lstat l)) →
      exec .sliceRead s = .next ((u.pumpRefused r.op).refuseRead id r))

/-- A write or an atomic comes to its home slice: it is performed by `k` in one step when its line is there, and waits in a held window, at another's
lock, or for its line; refused, it is dropped. -/
def TakenAtSlice (i : Instr) (s : State) (id : Nat) (t : State) (r : Req) (right : Nat) (k : State → State) : Prop :=
  (Arrives s id t r right true →
    (t.heldWindow r.line r.sect = true → exec i s = .next (s.holdReq t id r)) ∧
    (t.heldWindow r.line r.sect = false →
      (t.lockedOut r = true → exec i s = .next (t.setReq id (some { r with held := true }))) ∧
      (t.lockedOut r = false →
        (r.sect < 128 ∨ (right = 1 ∧ t.noWay r.line = true) → exec i s = .next (k (t.setReq id none))) ∧
        (128 ≤ r.sect → ¬(right = 1 ∧ t.noWay r.line = true) →
          (∀ x, t.missRefusal r.vf r.line = some x → exec i s = .next ((t.refuseAt r.vf r.master right x).dropWrite id r)) ∧
          (t.missRefusal r.vf r.line = none →
            (t.isHere r.line = true → exec i s = .next (k (t.setReq id none))) ∧
            (t.isHere r.line = false → exec i s = .next (t.want r.vf r.line r.master id))))))) ∧
  (∀ u, ComesIn s id t r → r.slice = true → t.turnedAway r right true = some u → exec i s = .next ((u.pumpRefused r.op).dropWrite id r))

/-- 10 R178; 11 R195, R196; 16 R249; 18 R270; 21 R316: at its home slice a write and an atomic are performed in one step, or wait while another
cohort holds the line's lock, or a section its window, or for their line; a refused one is dropped. -/
def Sys2Proof.Claims.SlicesServeRequests : Prop :=
  ∀ (s : State) (id op n addr : Nat) (t : State) (r : Req) (ws : List WByte) (ls : List ALane),
    let s := asked s [id]
    (r.kind = .write ws → TakenAtSlice .sliceWrite s id t r 1 (fun u => u.doWrite r ws)) ∧
    (r.kind = .atomic op n addr ls → TakenAtSlice .sliceAtomic s id t r 2 (fun u => u.doAtomic r op n addr ls))

/-- 10 R175, R178, R179, R182, R184; 11 R186, R187; 18 R267: the next packet of its slice that a core gets is taken: a sharer's copy goes when its
invalidation arrives, a translation cache's when what it translated with the entry has been taken; a write's acknowledgement returns after those of
its invalidations, and its operation has one part less; an L1 gives up the victim of a set; a result whose parts are in is written, and its operation
ends; with bits that could not be corrected among it, its team takes a machine check. -/
def Sys2Proof.Claims.CopiesAndResultsSettle : Prop :=
  ∀ (s : State) (x y : Nat),
    let t := asked s [x, y]
    (∀ i, tget none s.invs x = some i → t.isNext x = true → i.sharer < 128 ∨ t.usesLeaf (i.sharer - 128) i.line x = false →
      exec .invalidation t = .next ((t.dropCopy i.sharer i.line).unshare i.sharer i.line)) ∧
    (∀ a, tget none s.acks x = some a → t.isNext x = true → (∀ i ∈ a.invs, tget none s.invs i = none) → (∀ o, s.op a.op = some o → o.bad = none) →
      exec .writeAcknowledgement t =
        .next ((({ t with acks := tset none t.acks x none } : State).unmail x).partDone a.op a.res a.lanes a.scope)) ∧
    (l1Victim ((s.core x).l1Set y) = some y → exec .l1Eviction t = .next (t.l1Drop 0 x y)) ∧
    (let u := t.takeParts x
     ∀ o, u.op x = some o → (∀ e ∈ u.inbox, e.2.2 ≠ x) → o.due ≤ u.clk → o.left = 0 →
      (o.kind = 0 ∨ o.kind = 2 ∨ (o.kind = 3 ∧ o.dest ≠ .none)) → o.pump = none → o.rest = [] → (u.team o.tid).terminated = false →
      (o.bad = none → u.canLand o = true → exec .loadReturn t = .next ((u.land o).endOp x)) ∧
      (∀ e, o.bad = some e →
        exec .loadReturn t = .next ((u.endOp x).machineCheck o.tid o.coh o.pc o.lanes (if o.kind = 2 then 2 else 0) e)))

/-- 09 R162; 11 R200, R202, R205; 18 R266, R267: a walk that finds a leaf gives it to every cache whose miss it covers, as sharers of its line; a
waiting record is written when it can be; a channel's translated head command delivers its next piece, and one whose pages fault makes a
record; a bank that has drained takes its mode. That a drain from cache mode writes back and drops every line of the core's L1, and that a FIFO bank has
drained when the tasks of its acceptance have been taken, is the model's choice (log entry 18). -/
def Sys2Proof.Claims.WalksRecordsAndPiecesArrive : Prop :=
  ∀ (s : State) (x y : Nat),
    let s := asked s [x, y]
    (∀ w l, tget none s.walks x = some w → (s.inFlight w.die).any (fun e => e.1 = x) = true →
      s.walk w.vf (w.page * 65536) (0x116 + w.die) = .leaf l →
      let served := (tsome s.walks).filter (fun e => e.2.die = w.die && e.2.vf = w.vf && e.2.page * 65536 / 2 ^ l.lg = l.va)
      let t : State := { s with walks := served.foldl (fun ws e => tset none ws e.1 none) s.walks }
      exec .walkCompletion s = .next ((dedup ((served.map (·.2.cores)).flatten)).foldl
        (fun s c => (s.modCore c (fun k => k.keepLeaf l)).share l.line (128 + c)) (t.fill l.line 0))) ∧
    (∀ r, s.frecs.find? (fun r => r.vf = x && s.canRecord r) = some r →
      exec .faultRecordDeferred s = .next (({ s with frecs := s.frecs.erase r } : State).record r)) ∧
    (∀ c cs, ((s.core x).chan y).queue = c :: cs → c.wait = none → (c.ok = true ∨ c.out ≠ 0) →
      exec .copyPieceDelivery s = .next (s.copyPiece x c)) ∧
    (∀ c cs p need e ps rs, ((s.core x).chan y).queue = c :: cs → c.wait = none → c.ok = false → c.out = 0 → c.global = some (p, need) →
      s.copyPages c.vf x need (offOf p) c.len = .bad e ps rs → exec .copyPieceDelivery s = .next (s.copyFault x c e ps rs)) ∧
    (∀ d, (s.core x).drains.find? (fun d => d.bank = y) = some d → s.drained x d = true →
      let old := tget 0 (s.core x).modes y
      let caches : Prop := old = 0 ∧ d.mode ≠ 0
      let dirty : Prop := ∃ e ∈ (s.core x).l1, e.2.dirty = true
      (caches ∧ dirty → exec .bankmodeDrainComplete s = .next (s.drainL1 x d.op)) ∧
      (¬(caches ∧ dirty) → (∀ o, s.op d.op = some o → o.left = 0) →
        let t := if old = 0 && d.mode != 0 then (((s.core x).l1).map (·.1)).foldl (fun s l => s.l1Drop 0 x l) s else s
        let u := if old = 1 && d.mode != 1 then t.scramble x y else t
        exec .bankmodeDrainComplete s = .next ((u.modCore x (fun c => { c with
          drains := c.drains.filter (fun e => e.op != d.op), modes := tset 0 c.modes y d.mode })).endOp d.op)))

/-- 10 R178, R179; 09 R162; 18 R266: copies, acknowledgements, results, walks, records and copy pieces settle. -/
def Obligations.CopiesResultsAndWalksSettle : Prop :=
  Claims.CopiesAndResultsSettle ∧ Claims.WalksRecordsAndPiecesArrive

/-- 19 R294, R295; 10 R173, R182; 18 R272: at its target core's queue arbiter a remote read, write or atomic is performed on the team's run, and a
steal on its victim's deque; one whose packet a router has dropped is refused. The reply goes back as a packet, and a queue word's answer waits at its
core for its group to issue again: the model's reading of how another core's arbiter is asked (log entry 22). -/
def Sys2Proof.Claims.MeshOperationsArrive : Prop :=
  ∀ (s : State) (id op n addr : Nat) (u : State) (r : Req),
    let s := asked s [id]
    let t := u.team r.page
    ComesIn s id u r → r.slice = false →
    (∀ x, u.wayOf r = .drops x → exec .meshOperationAtQueueArbiter s = .next (u.meshDropped id r x)) ∧
    ((∀ x, u.wayOf r ≠ .drops x) →
      let reply (v : State) (bytes : List (Nat × Byte)) : State :=
        if r.line = r.master then (v.setReq id none).partDone r.op bytes r.lanes r.scope else v.sendBack id r (.reply bytes)
      (t.placed r.line = true →
        (∀ parts c, r.kind = .read parts c → u.upsets = [] → exec .meshOperationAtQueueArbiter s =
          .next (reply u ((parts.map (fun p => place p.1 (u.runRead t 2 p.2.1 p.2.2))).flatten))) ∧
        (∀ ws, r.kind = .write ws → exec .meshOperationAtQueueArbiter s = .next (reply (u.runWrite t 2 ws) [])) ∧
        (∀ ls, r.kind = .atomic op n addr ls → u.upsets = [] → exec .meshOperationAtQueueArbiter s =
          let x := atomRun op ls (BitVec.ofNat 64 (ofLeBytes (u.runRead t 2 addr n))) none
          let w := match x.1 with
            | some y => u.runWrite t 2 (wbytes addr (bytesOf n y))
            | none => u
          .next (reply w (if (w.op r.op).any (fun o => o.kind = 2) then atomPlaces n x.2 else []))) ∧
        (∀ q p, r.kind = .que q p → (u.team r.tid).terminated = false → exec .meshOperationAtQueueArbiter s =
          let y := u.queStep r.tid r.lanes r.page p q
          .next (y.1.sendBack id r (.answer q p y.2)))) ∧
      (∀ lanes vs, r.kind = .steal lanes vs → exec .meshOperationAtQueueArbiter s = .next (u.stealStep id r lanes true vs)) ∧
      (∀ res, r.kind = .reply res → exec .meshOperationAtQueueArbiter s = .next ((u.setReq id none).partDone r.op res r.lanes r.scope)) ∧
      (∀ q p a, r.kind = .answer q p a → (u.team r.tid).terminated = false →
        exec .meshOperationAtQueueArbiter s = .next (u.setReq id (some { r with held := true }))))

/-- 10 R178; 19 R294: requests at a home slice and at a queue's arbiter. -/
def Obligations.SlicesAndArbitersServe : Prop :=
  Claims.SlicesServeReads ∧ Claims.SlicesServeRequests ∧ Claims.MeshOperationsArrive

/-- 10 R172, R173, R178; 11 R190: the frame of stored bytes. A write that a slice accepts into a line it holds changes only that line's
written bytes there, and marks it dirty for its function; a write of a team's run changes only the written bytes of its core. -/
def Obligations.StoresChangeTheirBytesOnly : Prop :=
  (∀ (s : State) (vf pa master keep but cls : Nat) (ws : List WByte) (l : SLine), s.sline pa = some l →
    let t := (s.accept vf pa master keep but cls ws).1
    (∃ m, t.sline pa = some m ∧ m.kid = vf ∧ m.dirty = true ∧
      (∀ i, i < 128 → (∀ w ∈ ws, w.addr % 128 ≠ i) → lineBytes m.data i 1 = lineBytes l.data i 1) ∧
      (∀ w, ws = [w] → w.mask = 255 → lineBytes m.data (w.addr % 128) 1 = [w.data])) ∧
    (∀ q, q ≠ pa → t.sline q = s.sline q) ∧ t.dram = s.dram ∧ (∀ n, t.core n = s.core n)) ∧
  (∀ (s : State) (t : Team) (space a : Nat) (ws : List WByte),
    let at_ (i : Nat) : Nat := if space = 3 then t.opOff + i else t.scrKey i
    let u := s.runWrite t space ws
    ((∀ w ∈ ws, at_ w.addr ≠ at_ a) → u.runRead t space a 1 = s.runRead t space a 1) ∧
    (∀ w, ws = [w] → w.mask = 255 → u.runRead t space w.addr 1 = [w.data]) ∧
    (∀ n, n ≠ t.core → u.core n = s.core n) ∧ u.dram = s.dram)

/-- 08 R145, R150, R151, R152: the head of a matrix queue is executed: a `wload` begins when no delivery lands in the shadow plane and its
rows are delivered, takes its clocks, and completes: the shadow plane is the record's, of the team's records only this one is PL 1; a `wswap`
exchanges the planes, the refills with them, and PL 1 with PL 2. The operation ends, and its locks go. The model's choices: the tile's bytes are those
of the step that completes the operation (log entry 20), and a refill is a request in a slot from 4 on, which its plane takes along (log entry
30); both are DEDUCED. -/
def Sys2Proof.Claims.PlaneOperationsExecute : Prop :=
  ∀ (s : State) (core : Nat) (e : MEntry),
    let s := asked s [core]
    s.mhead core = some e → s.landing core (fun b => b.into 0) = false →
    (∀ t x, e.mop = .wload t x →
      (e.filling = false → RowsAt (s.core core) e x (min x.rows (groupDepth (fmtGroup x.fmt))) → exec .wloadFill s =
        .next (((s.endRefill core 0).modCore core (fun c => c.setHead { e with filling := true })).headIn core (fillClocks x))) ∧
      (e.filling = true →
        let rows := min x.rows (groupDepth (fmtGroup x.fmt))
        let scales := if x.scl then (List.range ((rows + x.blk - 1) / x.blk)).map (fun q => (x.sbase + q * x.sstride, min x.cols 256)) else []
        ∀ v, Sensed s e ((List.range rows).map (fun i => (x.base + i * x.rstride, x.rowBytes)) ++ scales) v →
          let u := (v.modCore core (fun c => { c with shadow := v.loadPlane (v.team e.tid) x })).mendPlaces core (planePlace 0) (2 ^ 17)
          exec .wloadFill s = .next (((u.modPl e.tid (fun p => if p = 1 then 0 else p)).modTeam e.tid (fun u =>
            u.setTile t ((u.tile t).setPl 1))).mdone core e))) ∧
    (e.mop = .wswap → exec .wswapExecute s =
      let u := s.modCore core (fun c => { c with
        active := c.shadow, shadow := c.active
        boards := c.boards.map (fun b => (b.1, if 4 ≤ b.1 then { b.2 with plane := 1 - b.2.plane } else b.2)) })
      .next (((u.swapPlaces core).modPl e.tid (fun p => if p = 1 then 2 else if p = 2 then 1 else p)).mdone core e))

/-- 08 R145, R154; 24 R346; 25 R357: a stream at the head, with no refill of the active plane awaited, takes its next row in a clock of the matrix
duty when that row has been delivered; it counts in event 0x0B; a row that has not is waited for, with the CHIS of the wait's begin. -/
def TakesRows (i : Instr) (s : State) (core : Nat) (e : MEntry) (x : Tile) (m : Nat) : Prop :=
  let chis := e.chis.getD ((s.core core).chan x.wpch).chis
  e.row < m → s.clk % 16 < s.md →
    (x.wpg = false ∨ rowReady (s.core core) x e.row chis = true → exec i s =
      .next (((s.modCore core (fun c => c.setHead { e with row := e.row + 1, chis := none })).count core 0x0B 4 1).headIn core
        (if e.row + 1 = m then 40 else if fmtGroup x.fmt = 4 ∨ fmtGroup x.fmt = 5 then 2 else 1))) ∧
    (x.wpg = true → rowReady (s.core core) x e.row chis = false →
      exec i s = .next (s.modCore core (fun c => c.setHead { e with chis := some chis })))

/-- 08 R145, R153 to R155; 24 R346; 25 R357: a stream at the head, with no refill of the active plane awaited, takes its rows one by one; when it has
them all it has added them to the accumulators, and ends. That the accumulators change in that one step, from the tile's bytes as they stand in
it, is the model's choice (log entry 20, DEDUCED). -/
def Sys2Proof.Claims.StreamsExecute : Prop :=
  ∀ (s : State) (core : Nat) (e : MEntry) (u v : State),
    let s := asked s [core]
    let p := (s.core core).active
    s.mhead core = some e → s.refilling core = false →
    (∀ a t x m o ovr, e.mop = .mstream a t x m o ovr → TakesRows .mstreamExecute s core e x m ∧
      (m ≤ e.row → Sensed s e (rowRanges x m) u → u.sensePlane (s.team e.tid).core (s.team e.tid).vf = (v, none) → exec .mstreamExecute s =
          let fits := fmtGroup x.fmt != 0 && fmtGroup x.fmt = fmtGroup p.fmt
          .next ((v.runStream core (v.team e.tid) x ovr fits (streamRow a o (groupDepth (fmtGroup p.fmt))) m).mdone core e))) ∧
    (∀ t x m ovr, e.mop = .mbatch t x m ovr → TakesRows .mbatchExecute s core e x m ∧
      (m ≤ e.row → Sensed s e (rowRanges x m) u → u.sensePlane (s.team e.tid).core (s.team e.tid).vf = (v, none) → exec .mbatchExecute s =
          let g := fmtGroup x.fmt
          let fits := (g = 1 || g = 2) && g = fmtGroup p.fmt && !(x.scl && x.blk = 32) && !(p.scl && p.blk) && x.cols = 256
          .next ((v.runStream core (v.team e.tid) x ovr fits batchRow m).mdone core e)))

/-- 08 R156: an `aread` at the head sends a row's lanes to the registers, which they reach eight clocks later; an `astore` takes a clock a row and
writes rows of the operand buffer below the team's run's end; an `azero` takes a clock for 16 rows, makes them 0 and leaves the other elements. The
operation leaves the queue. That FMT 0 stores 32 bits an element is the model's reading (log entry 20, DEDUCED). -/
def Sys2Proof.Claims.AccumulatorOperationsExecute : Prop :=
  ∀ (s : State) (core : Nat) (e : MEntry),
    let s := asked s [core]
    let acc := (s.core core).acc
    let begins (n : Nat) : Out := .next ((s.modCore core (fun c => c.setHead { e with row := 1 })).headIn core n)
    s.mhead core = some e →
    (∀ a row cv h sc vd lanes, e.mop = .aread a row cv h sc vd lanes → exec .areadExecute s =
      let u := ((s.modCore core (fun c => { c with mq := c.mq.drop 1 })).headIn core 1).partDone e.op (((lanesOf lanes).map (fun l =>
        place (16 * l) (bytesOf 16 (areadLane (fun n => tget 0 acc (accKey a row n)) cv h (sextNat 3 sc) l)))).flatten)
      .next (match u.op e.op with
        | some o => u.setOp e.op (some { o with due := u.clk + 8 })
        | none => u)) ∧
    (∀ a t x m o, e.mop = .astore a t x m o →
      (e.row = 0 → exec .astoreExecute s = begins m) ∧
      (e.row ≠ 0 → exec .astoreExecute s =
        let rows := (List.range m).map (fun r => packRow (x.base + r * x.rstride) (if x.fmt = 0 then 32 else fmtBits x.fmt)
          ((List.range (min x.cols 256)).map (fun n => storeCode x (tget 0 acc (accKey a (o + r) n)))))
        .next ((s.runWrite (s.team e.tid) 3 (rows.flatten.filter (fun w => w.addr < (s.team e.tid).launch.opbuf))).mdone core e))) ∧
    (∀ a m o, e.mop = .azero a m o →
      (e.row = 0 → exec .azeroExecute s = begins ((m + 15) / 16)) ∧
      (e.row ≠ 0 → ∃ u, exec .azeroExecute s = .next (u.mdone core e) ∧
        u = s.modCore core (fun c => { c with acc := (u.core core).acc }) ∧
        ∀ b row col, o + m ≤ 128 → row < 128 → col < 256 → tget 0 (u.core core).acc (accKey b row col) =
          if b = a ∧ o ≤ row ∧ row < o + m then 0 else tget 0 acc (accKey b row col)))

/-- 08 R145, R150 to R156: the head of a matrix queue is executed. -/
def Obligations.MatrixQueueExecutes : Prop :=
  Claims.PlaneOperationsExecute ∧ Claims.StreamsExecute ∧ Claims.AccumulatorOperationsExecute

/-- 08 R146, R149; 07 R129: a group at the header of a matrix clause whose WAIT is met, before a gated stream whose gate is open and for
which the queue has room, passes the header, and the stream is accepted. -/
def Obligations.GatedStreamsAreAccepted : Prop :=
  ∀ (s : State) (tid coh lane y b a w c x k j r q o m : Nat) (t u : State) (ks : List Nat),
    let s := asked s [tid, coh, lane]
    let port := tget 0 (s.core (s.team tid).core).ports (s.coh tid coh).quad
    let z : State := { u.passHeader with cur := { u.passHeader.cur with addr := (t.cur.addr + 4) % 2 ^ 52, idx := 1, word := x } }
    let i := z.myTeam.tile j
    let stream (n : Nat) (f : MOp) : Prop := z.myTeam.launch.acc = true → i.valid = true → n ≤ i.rows →
      QueueTakes z z.cur.setb (z.tileLocks i 0 0).length ks →
      let v := ((accepted z z.cur.setb .none f (z.tileLocks i 0) ks).modK k passGate).done
      (v.coh tid coh).stands (u.passHeader.coh tid coh) = false → exec .gateAccept s = .next v
    s.issue port tid coh lane = .run (.clauseHeader y b a w 2 c) t → t.myTeam.launch.mayRun t.cur.coh 2 = true →
    t.me.flagsClear w = true → t.me.tiles = [] → t.fetch ((t.cur.addr + 4) % 2 ^ 52) = .word x u →
    gateOpen (u.myTeam.kreg k) = true →
    (decode 2 x = .ok (.mstream j r k q 1 o m) → 16 * o + rowsOf m ≤ 128 →
      stream (rowsOf m) (.mstream r j i (rowsOf m) (16 * o) (q = 1))) ∧
    (decode 2 x = .ok (.mbatch j k q 1 m) → 0 < m → m ≤ 64 → stream m (.mbatch j i m (q = 1)))


/-- 05 R95, R96; 07 R134, R135, R138; 09 R171: a donation moves IMM granules from the donor's end to the recipient's when the writes
outstanding to them have landed, and both waits end; a granule of a retired cohort returns then. What the clock's arrivals complete wins
over a timeout: a `waitm` that is still there and has expired expects its lanes again, makes its predicate false, and its lanes go on; a
team barrier that is still open and has expired ends, and each cohort's arrival faults. -/
def Sys2Proof.Claims.CohortWaitsEnd : Prop :=
  ∀ (s : State) (tid x y : Nat), (s.team tid).place = .resident →
    let s := asked s [tid, x, y]
    let c := s.coh tid x
    let q := s.settle tid
    let d := q.coh tid x
    let b := (q.team tid).bar
    (∀ hd he, c.part = some hd → (s.coh tid y).part = some he → paired x y hd he = true → he.imm / 32 = hd.imm / 32 →
      let g := hd.imm / 32
      let e := s.coh tid y
      s.regBusy tid x (8 * (c.valloc - g)) (8 * c.valloc) = false → g ≤ c.valloc → x ≠ y →
      ∃ t, exec .donationComplete s = .next t ∧ (t.coh tid x).valloc = c.valloc - g ∧ (t.coh tid y).valloc = e.valloc + g ∧
        (t.coh tid x).waiting = c.waiting &&& ~~~hd.lanes ∧ (t.coh tid y).waiting = e.waiting &&& ~~~he.lanes ∧
        (∀ j, j < c.valloc - g → tget 0 (t.coh tid x).gmap j = tget 0 c.gmap j) ∧
        (∀ j, j < e.valloc → tget 0 (t.coh tid y).gmap j = tget 0 e.gmap j) ∧
        (∀ j, j < g → tget 0 (t.coh tid y).gmap (e.valloc + j) = tget 0 c.gmap (c.valloc - g + j))) ∧
    (∀ h, d.hw.find? (fun e => e.1 = y) = some (y, h) → h.kind = 1 → h.remain = 1 → exec .waitmTimeout s =
      .next (q.modCoh tid x (fun c =>
        let c := c.mset h.ma (c.mget h.ma ||| h.lanes)
        let c := if h.ps = 0 then c else c.pset (h.ps - 1) h.lanes 0
        { c with hw := tdel y c.hw }.release h.lanes))) ∧
    (d.hw.find? (fun e => e.1 = y) = none → exec .waitmTimeout s = .next q) ∧
    (b.isOpen = true → b.bounded = true → b.remain = 1 → exec .barrierTimeout s =
      .next ((List.range (q.team tid).launch.n).foldl (fun s c => s.barFault tid c b.mreg)
        (q.modTeam tid (fun t => { t with bar := t.bar.ended })))) ∧
    (b.isOpen = false → exec .barrierTimeout s = .next q) ∧
    (c.retired = true → y < c.valloc → y ∉ c.returned → s.regBusy tid x (8 * y) (8 * y + 8) = false →
      exec .granuleReturn s = .next (s.modCoh tid x (fun c => { c with returned := y :: c.returned })))

/-- 02 R40, R42; 20 R305: a cohort that has stood for 2^HANGCTL clocks is reported once, with its places; a corrupted tile faults at the
header that a lane has reached. -/
def Sys2Proof.Claims.HangsAndTilesAreReported : Prop :=
  ∀ (s : State) (tid coh l : Nat) (x : Nat × Nat) (xs : List (Nat × Nat)),
    let s := asked s [tid, coh, l]
    let t := s.team tid
    let c := s.coh tid coh
    let pc := tget 0 c.pc l
    let gs := c.byPopulation
    let pcs := (List.range 4).map (fun i => match gs[i]? with
      | some g => (tget 0 c.pc (lowest g)).toNat
      | none => 0)
    t.place = .resident →
    (c.hangrep = false → 2 ^ fld c.hangctl 0 6 ≤ c.hangcnt.toNat → exec .hangReport s =
      .next ((s.modCoh tid coh (fun c => { c with hangrep := true })).report t.vf
        (rec512 ([0x02 + t.vf * 2 ^ 8 + t.core * 2 ^ 16 + t.slot * 2 ^ 23 + coh * 2 ^ 28, s.timebase.toNat,
          c.hangcnt.toNat + gs.length * 2 ^ 48] ++ pcs ++ [(gs.headD 0).toNat])))) ∧
    (c.tiles = x :: xs → c.runnable.getLsbD l = true → fld pc 60 4 = 0 → exec .corruptedTileFault s =
      .next ((s.modCoh tid coh (fun c => { c with tiles := xs })).programFault tid coh (c.group l) pc pc (tileFault x)))

/-- 05 R96; 07 R134, R138; 02 R40 to R43; 20 R305: the events of a cohort. -/
def Obligations.CohortEventsSettle : Prop :=
  Claims.CohortWaitsEnd ∧ Claims.HangsAndTilesAreReported

/-- 09 R167, R168, R171; 19 R293; 23 R341; 25 R349, R350: a team that was asked to in an earlier clock and stands stops, after what its clock
completes: it takes a save area, once its recursion engines have written their control blocks and what they have accepted has landed, or,
without one, its askers get status 8 and it goes on; each class is written to its place in the area when it may be; after the last one
DONE is set, the askers get status 1, and the team re-enters the pool or is held. The model's choices: the area's TIME is TIMEBASE at the stop (log
entry 40, DESIGN CHOICE), and what the area's layout has no place for is kept in State (log entry 25, DEDUCED). -/
def Obligations.TeamsStopAndSave : Prop :=
  ∀ (s : State) (tid a : Nat),
    let s := asked s [tid]
    let q := s.closeTeam tid
    let t := q.team tid
    (t.place = .resident → t.terminated = false → t.asks ≠ [] → t.askClk < q.clk → t.standing = true →
      (q.freeArea t.vf t.areaLen = some a → (∀ e ∈ t.unfs, q.ended e.2.ops = true) →
        ((∀ e ∈ t.unfs, e.2.due % 2 ≠ 0) → exec .teamStop s =
          let u := q.modTeam tid (fun t => { t.applySigs with
            place := .stopped, area := some a, saved := 0, saveTime := q.timebase, cohs := t.cohs.map (fun e => (e.1, e.2.stop)) })
          .next ((((u.stopBoards tid).stopCopies tid).markAbsent tid).dropPriv tid)) ∧
        ((∃ e ∈ t.unfs, e.2.due % 2 = 0) → exec .teamStop s = .next (q.saveBlocks tid))) ∧
      (q.freeArea t.vf t.areaLen = none → exec .teamStop s =
        .next ((q.answer t.asks 8).modTeam tid (fun t => { t with asks := [] })))) ∧
    ((s.team tid).place = .stopped →
      let u := s.stopCopies tid
      let t := u.team tid
      t.area = some a → t.place = .stopped → t.terminated = false → u.maySave tid t.saved = true →
      let v := (if t.saved = 10 then u.spillDeque tid else u).senseClass tid t.saved
      let bs := v.classBytes tid t.saved
      let pad := List.replicate ((bs.length + 4095) / 4096 * 4096 - bs.length) (0 : Byte)
      let w := (v.cpWrite t.vf (a + t.offset t.saved) (bs ++ pad)).modTeam tid (fun t => { t with saved := t.saved + 1 })
      exec .teamSave s = .next (
        if t.saved < 11 then w
        else ((((w.cpWrite t.vf a ((t.header true).take 8)).stopPlanes tid).modTeam tid (fun t => { t with
          place := .saved, slack := [] })).answer t.asks 1).requeue tid))

/-- 09 R165, R170; 02 R44; 10 R175; 19 R280: a saved team with a new place and a valid header is restored: its registers, runs, deque and
planes from the area, its requests, copies, timeouts and RESUMEs from what was kept with it in State (log entry 25, DEDUCED), and a control block still
owed is written; an area without DONE terminates it. A team
that is gone, and that nothing holds, writes its dirty private lines back, and is released when they are; with the last team of a wholly
placed node the node ends, 4 if it failed, else 1. -/
def Obligations.TeamsRestoreAndRelease : Prop :=
  ∀ (s : State) (tid a : Nat) (c : Core),
    let s := asked s [tid]
    let t := s.team tid
    let m := (s.fetchBytes t.vf a 8).1
    let h := ofLeBytes (s.fetchBytes t.vf a 8).2
    (t.area = some a → t.place = .saved → t.due = true → t.terminated = false → s.areaLost t a = false →
      (h % 65536 = 1 ∧ h / 2 ^ 23 % 2 = 1 → ((m.core t.core).rearm tid t.boards).bind (Core.retake t.copies) = some c →
        exec .teamRestore s =
          let u := (((m.loadV tid a).loadRuns tid a).loadDeque tid).loadPlanes tid
          let c : Core := { u.core t.core with boards := c.boards, chans := c.chans, rlocks := c.rlocks }
          let u := ((u.setCore t.core (c.rebase tid t)).markPresent tid).modTeam tid (fun t => { t with
            place := .resident, due := false, area := none, saved := 0, boards := [], copies := [], resumes := []
            cohs := t.cohs.map (fun e => (e.1, e.2.restored)) })
          let v := t.resumes.foldl (fun s f => s.applyResume t.vf f) u
          .next (((v.team tid).unfs.filter (fun e => e.2.due != 0)).foldl (fun s e => s.dueBlock tid e.1 e.2) v)) ∧
      (¬(h % 65536 = 1 ∧ h / 2 ^ 23 % 2 = 1) → exec .teamRestore s = .next (m.saveInvalid tid a))) ∧
    (s.mayRelease tid = true →
      let dirty : Prop := t.place ≠ .saved ∧ ∃ i, i < t.launch.n ∧ s.dirtyPriv tid i ≠ []
      (dirty → exec .teamRelease s = .next (s.flushTeam tid)) ∧
      (¬dirty → exec .teamRelease s =
        let u := t.asks.foldl (fun s a => match a with
          | .host j _ => s.finishJ j 0x0A
          | _ => s) s
        let u := (u.modTeam tid (fun t => { t with
          place := .gone, released := true, asks := [], area := none, due := false, held := false, deque := [], slack := [],
          boards := [] })).modNode t.graph t.node (fun x => { x with live := x.live - 1 })
        let x := u.node t.graph t.node
        .next (if x.live = 0 && (x.failed || x.total ≤ x.next) then u.endNode t.graph t.node (if x.failed then 4 else 1) else u)))

/-- 19 R281 to R283: a decision always completes. With no reservation standing or due, the first entry in dispatch order (the higher
priority, then the older) is placed when its next unit fits on the open cores of its polder, the preferred core first; a node with
nothing left to place leaves the pool. -/
def Obligations.DispatchDecides : Prop :=
  ∀ (s : State) (pref : Nat),
    let s := asked s [pref]
    (∃ t, exec .dispatchDecision s = .next t) ∧
    (∀ e es l t, s.order = e :: es → (∀ e ∈ s.pool, e.skip < 64) → tsome s.reserves = [] → tsome s.pumpRes = [] →
      let x := s.node e.graph e.node
      x.pump = false → s.waitingTeams e.graph e.node = [] → s.allPlaced e.graph e.node = false → x.lrec = some l →
      (x.started = true ∨ s.conflicts e.graph e.node = false) →
      s.placeNew e.graph e.node l (s.openCores x.polder pref) = some t →
      (∀ e ∈ (t.afterPlace e.graph e.node).pool, e.skip < 64) → tsome (t.afterPlace e.graph e.node).reserves = [] →
      exec .dispatchDecision s = .next (t.afterPlace e.graph e.node))

/-- 19 R279 to R281; 09 R163, R167; 25 R350 to R352: SUBMIT-GRAPH loads the nodes of a legal graph: those without predecessors enter the pool,
in order, and bad ones end 7; its status comes later. RESUME applies its FSEQ and ends 1; a PREEMPT asks its resident or stopped team,
a release puts its held team into the pool, and without such a team they end 0x0A. -/
def Obligations.GraphAndTeamCommands : Prop :=
  ∀ (s : State) (fn : Nat) (c : Cmd),
    let s := asked s [fn]
    let u := taken s fn c
    (Taken s fn 4 c → ∀ t l, (c.arg 0).toNat % 128 = 0 → (c.arg 0).toNat < 2 ^ 52 → fld (c.arg 1) 17 47 = 0 →
      1 ≤ fld (c.arg 1) 0 17 → fld (c.arg 1) 0 17 ≤ 65536 →
      let n := fld (c.arg 1) 0 17
      State.readNodes c.tvf (c.arg 0).toNat n n u (some []) = (t, some l) →
      let f := t.fresh
      let x : Graph := { vf := c.tvf, base := (c.arg 0).toNat, n := n, cmd := c, nodes := (List.range n).foldl (fun t i =>
        tset {} t i (l.getD i ({}, false)).1) [] }
      let v : State := { f.1 with graphs := tset {} f.1.graphs f.2 x }
      let bad (i : Nat) : Bool := (l.getD i ({}, false)).2
      let v := (List.range n).foldl (fun s i => if !(bad i) && (s.node f.2 i).npred = 0 then s.enterPool f.2 i else s) v
      exec .submitGraph s = .next ((List.range n).foldl (fun s i => if bad i then s.endNode f.2 i 7 else s) v)) ∧
    (Taken s fn 8 c → fld (c.arg 0) 16 48 = 0 → exec .resume s = .next ((u.applyResume c.tvf (fld (c.arg 0) 0 16)).finish c 1)) ∧
    (fld (c.arg 1) 34 30 = 0 →
      let onCore := u.named c (fun t => t.place = .resident || t.place = .stopped)
      let ask (hold : Bool) (o : Out) : Prop :=
        (∀ tid t, onCore = some (tid, t) → o = .next (u.modTeam tid (fun t => t.ask (.host c.jseq hold) u.clk))) ∧
        (onCore = none → o = .next (u.finish c 0x0A))
      (Taken s fn 12 c → ask false (exec .preempt s)) ∧ (Taken s fn 13 c → ask true (exec .preemptHold s)) ∧
      (Taken s fn 14 c →
        (∀ tid t, u.named c (fun t => t.place = .saved && t.held) = some (tid, t) → exec .preemptRelease s =
          .next (((u.modTeam tid (fun t => { t with held := false })).enterPool t.graph t.node).finish c 1)) ∧
        (u.named c (fun t => t.place = .saved && t.held) = none → exec .preemptRelease s = .next (u.finish c 0x0A)))) ∧
    (∀ i k, (i, k) ∈ [(Instr.resume, 8), (.preempt, 12), (.preemptHold, 13), (.preemptRelease, 14), (.submitGraph, 4)] →
      Taken s fn k c → (k = 4 → (c.arg 0).toNat % 128 ≠ 0) → (k = 8 → fld (c.arg 0) 16 48 ≠ 0) →
      (12 ≤ k → fld (c.arg 1) 34 30 ≠ 0) → exec i s = .next (u.finish c 7))

/-- 18 R263, R264, R269, R271 to R275; 25 R350: the PF's POLDER-SET of an idle target sets a polder's legal entry with the tables of its
routers, a function's access row at each target in the polder, its TROOT, or a stack's domains and rows; KEY-INSTALL gives an idle
function without keys new ones, KEY-DESTROY takes them, both with a new generation; a busy target ends 2, another function's table
command 6. -/
def Obligations.TableCommands : Prop :=
  ∀ (s : State) (fn : Nat) (c : Cmd),
    let s := asked s [fn]
    let u := taken s fn c
    let i := fld (c.arg 0) 0 4
    let a := (c.arg 1).toNat
    let old := u.polder i
    let bare := (if old.valid then old.sites else []).foldl (fun t x => tset none t x none) u.routes
    let p := polderOfImage (u.hostWords a 4)
    let row := BitVec.ofNat 512 (ofLeBytes (u.hostBytes a 64))
    let bs := u.hostBytes a 38
    let dom (i : Nat) : BitVec 16 := BitVec.ofNat 16 (ofLeBytes ((bs.drop (2 * (i - 1))).take 2))
    let x := BitVec.ofNat 64 (ofLeBytes (bs.drop 30))
    let stack := fld x 0 4
    let idle : Prop := u.busyPolder i = false
    let idleVf : Prop := u.busyVf c.tvf = false
    let setup (k : Nat) : Prop := Taken s fn k c ∧ fn = 0 ∧ fld (c.arg 0) 6 58 = 0
    let images (k : Nat) : BitVec 1024 := lineOf (u.hostBytes (a + 32 + 128 * k) 128)
    let sites := p.1.sites
    let tables := (List.range sites.length).foldl (fun t k => tset none t (sites.getD k 0) (some (images k))) []
    (setup 16 → p.2 = true →
      (idle → p.1.valid = false → exec .polderSetEntry s =
        .next (({ u with polders := tset {} u.polders i p.1, routes := bare } : State).finish c 1)) ∧
      (idle → p.1.valid = true → u.badPolder i p.1 = true → exec .polderSetEntry s = .next (u.finish c 3)) ∧
      (idle → p.1.valid = true → u.badPolder i p.1 = false →
        (badRoutes sites tables = true → exec .polderSetEntry s = .next (u.finish c 4)) ∧
        (badRoutes sites tables = false → exec .polderSetEntry s = .next (({ u with
          polders := tset {} u.polders i p.1
          routes := sites.foldl (fun t x => tset none t x (tget none tables x)) bare } : State).finish c 1))) ∧
      (¬idle → exec .polderSetEntry s = .next (u.finish c 2))) ∧
    (setup 17 → fld row 282 38 = 0 → fld row 329 183 = 0 →
      (idle → idleVf → exec .polderSetAccess s = .next ((old.targets.foldl (fun s t => s.setRow c.tvf row t) u).finish c 1)) ∧
      (¬idle ∨ ¬idleVf → exec .polderSetAccess s = .next (u.finish c 2))) ∧
    (setup 18 → (idleVf → exec .polderSetTroot s =
        .next (({ u with troot := tset 0 u.troot c.tvf ((u.hostWords a 1).getD 0 0) } : State).finish c 1)) ∧
      (¬idleVf → exec .polderSetTroot s = .next (u.finish c 2))) ∧
    (setup 19 → fld x 60 4 = 0 → (∀ i, 1 ≤ i → i ≤ 15 → fld (dom i) 9 7 = 0) → fld x 4 26 + fld x 30 26 ≤ 25165824 →
      (idle → exec .polderSetRows s = .next (({ u with
        domains := ((List.range 15).map (· + 1)).foldl (fun t i => tset none t (stack * 16 + i) (some (dom i))) u.domains
        rowDom := (List.range (fld x 30 26)).foldl (fun t k => tset 1 t (stackRow stack (fld x 4 26 + k)) (fld x 56 4)) u.rowDom } :
          State).finish c 1)) ∧
      (¬idle → exec .polderSetRows s = .next (u.finish c 2))) ∧
    (Taken s fn 24 c →
      (idleVf → (u.key c.tvf).kstate ≠ 1 → exec .keyInstall s =
        let new : Key := { kstate := 1, kgen := (u.key c.tvf).kgen + 1
                           keys := BitVec.ofNat 512 (ofLeBytes (u.hostBytes (c.arg 0).toNat 64)) }
        .next (({ u with keys := tset {} u.keys c.tvf new } : State).finish c 1)) ∧
      (¬idleVf ∨ (u.key c.tvf).kstate = 1 → exec .keyInstall s = .next (u.finish c 2))) ∧
    (Taken s fn 28 c → (idleVf → exec .keyDestroy s = .next ((u.destroyKey c.tvf).finish c 1)) ∧
      (¬idleVf → exec .keyDestroy s = .next (u.finish c 2))) ∧
    (∀ i k, (i, k) ∈ [(Instr.polderSetEntry, 16), (.polderSetAccess, 17), (.polderSetTroot, 18), (.polderSetRows, 19), (.resetVf, 32)] →
      Taken s fn k c → fn ≠ 0 → exec i s = .next (u.finish c 6))

/-- 20 R297, R298; 25 R350; 09 R165: RING-LOAD of a legal list whose records are right loads the schedule at once, or, of a loaded one, at
its next lap boundary; a wrong list ends 5, another function's schedule 2. The PF's RESET-VF ends the work of its target, and when that is
gone, and the ends of its launches are written, its schedules, keys, access rows, TROOT, fault sequence and registers are reset, and it ends 1. -/
def Obligations.RingLoadAndResetVf : Prop :=
  ∀ (s : State) (fn : Nat) (c : Cmd),
    let s := asked s [fn]
    let u := taken s fn c
    let i := fld (c.arg 0) 0 2
    let share := fld (c.arg 0) 2 5
    let speed := fld (c.arg 0) 7 5
    let list := (c.arg 1).toNat
    let n := fld (c.arg 2) 0 21
    let r := (List.range n).foldl (fun (r : State × List SlotRec) k =>
      let y := r.1.readFor c.tvf (lineAt (list + 32 * k)) 0x111 0 64
      (y.1, r.2 ++ [words64 4 (lineBytes y.2 ((list + 32 * k) % 128) 32)])) (u, [])
    let right : Prop := n = 0 ∨ (list % 32 = 0 ∧ r.2.all (fun l => slotOk l && r.1.mapped c.tvf (slotSrc l)) = true ∧
      ((r.2.map slotKey).zip ((r.2.map slotKey).drop 1)).all (fun e => e.1 < e.2) = true)
    (Taken s fn 20 c → fld (c.arg 0) 12 52 = 0 → fld (c.arg 2) 21 43 = 0 → list < 2 ^ 52 → n ≤ 1048576 → speed ≤ 16 →
      (n = 0 ∨ (1 ≤ share ∧ share ≤ 16)) →
      ((u.sched i).loaded = false ∨ (u.sched i).owner = c.tvf →
        (right → exec .ringLoad s =
          let t : State := if c.fn = 0 && speed != 0 then { r.1 with rspd := speed } else r.1
          .next ((if (u.sched i).loaded then t.modSched i (fun x => { x with pend := some (list, n, share, c.tvf) })
            else t.setSched i (list, n, share, c.tvf)).finish c 1)) ∧
        (¬right → exec .ringLoad s = .next (r.1.finish c 5))) ∧
      ((u.sched i).loaded = true → (u.sched i).owner ≠ c.tvf → exec .ringLoad s = .next (u.finish c 2))) ∧
    (Taken s fn 32 c → fn = 0 → exec .resetVf s = .next (u.endWork c.tvf)) ∧
    (s.cmds.find? (fun c => c.typ = 8) = some c → s.busyVf c.tvf = false → s.writesEnd c.tvf = false →
      exec .resetVf s = .next ((s.wipeVf c.tvf).finish c 1))

/-- 25 R348, R351, R354, R355; 24 R343, R346; 07 R132: a write of a served function's registers: CQTAIL beyond the queue's slots sets CQOVR; a
nonzero LGD enables a disabled queue at 4 to its limit, 0 disables and clears it; FQRD is stored, and so are the registers without an
event, ELRD and the staging window; a PERFSELi is stored and its PERFCi becomes 0; a breakpoint point is armed or disarmed. -/
def Obligations.HostRegisterWrites : Prop :=
  ∀ (s : State) (fn v w : Nat),
    let s := asked s [fn, v, w]
    let f := s.fn fn
    (s.serves fn = true →
      exec .cqtailDoorbell s = .next (s.setFn fn { f with
        cqtail := BitVec.ofNat 16 v
        cqovr := f.cqovr || (f.cqlgd != 0 && 2 ^ f.cqlgd < (BitVec.ofNat 16 v - f.cqhead).toNat) }) ∧
      exec .cqlgdWrite s = .next (s.setFn fn (if v % 16 = 0 then { f with cqlgd := 0, cqhead := 0, cqtail := 0, cqovr := false }
        else if f.cqlgd = 0 then { f with cqlgd := max 4 (min (v % 16) 12) } else f)) ∧
      exec .fqlgdWrite s = .next (s.setFn fn (if v % 32 = 0 then { f with fqlgd := 0, fqrd := 0, fqwr := 0 }
        else if f.fqlgd = 0 then { f with fqlgd := max 4 (min (v % 32) 16) } else f)) ∧
      exec .rqlgdWrite s = .next (s.setFn fn (if v % 32 = 0 then { f with rqlgd := 0, rqrd := 0, rqwr := 0 }
        else if f.rqlgd = 0 then { f with rqlgd := max 4 (min (v % 32) 16) } else f)) ∧
      exec .fqrdWrite s = .next (s.setFn fn { f with fqrd := BitVec.ofNat 32 v }) ∧
      exec .registerWrite s = .next (
        if fn = 0 ∧ v = 0x090 then { s with elrd := BitVec.ofNat 32 w }
        else if fn = 0 ∧ 0x180000 ≤ v ∧ v + 8 ≤ 0x200000 then
          { s with stage := memWrite s.stage (v - 0x180000) (bytesOf 8 (BitVec.ofNat 64 w)) }
        else s.setFn fn (f.write v w))) ∧
    (s.serves fn = false → ∀ i ∈ [Instr.cqtailDoorbell, .cqlgdWrite, .fqlgdWrite, .rqlgdWrite, .fqrdWrite, .registerWrite],
      exec i s = .next s) ∧
    (fn < 128 → v < 16 → exec .perfselWrite s = .next (s.modCore fn (fun c => { c with
      perfsel := tset 0 c.perfsel v (BitVec.ofNat 64 (w % 2 ^ 12)), perfc := tset 0 c.perfc v 0 }))) ∧
    exec .plodorBreakpointArm s = .next { s with brk := tset false s.brk fn (decide (v = 1)) }

/-- 25 R353, R354: in its MSTATE an LDCTL write begins to take its chunk from the staging window, LDSTAT 1; a write meanwhile, or of the wrong kind,
length or MSTATE, fails with 5, and MSTATE 3 then accepts nothing. When the chunk is taken, which the model puts at the end of the core clock (log
entry 10, DESIGN CHOICE), the object goes on, or is checked: an image with a valid header and signature makes MSTATE 1, the blob, with fields in
range, 2, and a bad one fails with its code. A module reset returns every part to its reset value, but for DRAM's bytes and the memories outside. -/
def Sys2Proof.Claims.BringUpLoadsAndResets : Prop :=
  ∀ (s : State) (len last : Nat),
    let s := asked s [len, last]
    let fits (obj : Nat) : Prop := s.mstate = obj ∧ 8 ≤ len ∧ len ≤ 524288 ∧ len % 8 = 0 ∧ s.ldstate ≠ 1 ∧ (s.ldstate = 2 → s.objKind = obj)
    let old : State := if s.ldstate = 2 then s else { s with object := [], objLen := 0 }
    let begun (obj : Nat) : State := { old with objKind := obj, ldstate := 1, ldchunk := (len, last != 0) }
    let n := s.ldchunk.1
    let t : State := { s with object := memWrite s.object s.objLen (memBytes s.stage 0 n), objLen := s.objLen + n }
    let bs := memBytes t.object 0 t.objLen
    let fails (code : Nat) : State := { t with ldstate := 3, lderr := code, mstate := 3 }
    (s.mstate ≠ 3 → (fits 0 → exec .ldctlFirmware s = .next (begun 0)) ∧ (fits 1 → exec .ldctlBlob s = .next (begun 1)) ∧
      (¬fits 0 → exec .ldctlFirmware s = .next { s with ldstate := 3, lderr := 5, mstate := 3 }) ∧
      (¬fits 1 → exec .ldctlBlob s = .next { s with ldstate := 3, lderr := 5, mstate := 3 })) ∧
    (s.mstate = 3 → exec .ldctlFirmware s = .next s ∧ exec .ldctlBlob s = .next s) ∧
    (s.ldstate = 1 → s.ldchunk.2 = false → s.closeLoad = { t with ldstate := 2 }) ∧
    (s.ldstate = 1 → s.ldchunk.2 = true → s.objKind = 0 → s.closeLoad =
      if headerErr bs 0x56465A4F none ≠ 0 then fails (headerErr bs 0x56465A4F none)
      else if Ecdsa.signed Config.fusedKey bs = false then fails 3
      else { t with mstate := 1, ldstate := 0, object := [], objLen := 0 }) ∧
    (s.ldstate = 1 → s.ldchunk.2 = true → s.objKind = 1 →
      let e := headerErr bs 0x42465A4F (some 0x178)
      let field (o k : Nat) : Nat := ofLeBytes ((bs.drop o).take k)
      (e ≠ 0 → s.closeLoad = fails e) ∧
      (e = 0 → blobOk bs = false → s.closeLoad = fails 4) ∧
      (e = 0 → blobOk bs = true → Ecdsa.signed Config.fusedKey bs = false → s.closeLoad = fails 3) ∧
      (e = 0 → blobOk bs = true → Ecdsa.signed Config.fusedKey bs = true →
        s.closeLoad.mstate = 2 ∧ s.closeLoad.ldstate = 0 ∧ s.closeLoad.pcap = field 0x10 2 ∧ s.closeLoad.mfloor = field 0x12 1 ∧
        s.closeLoad.tjmax = field 0x13 1 ∧ s.closeLoad.nvf = field 0x14 1 ∧ s.closeLoad.self = field 0x15 1 ∧
        (∀ m, m < 256 → tget 0xFF s.closeLoad.portmap m = field (0x18 + m) 1))) ∧
    exec .moduleReset s = .next { State.reset with
      dram := s.dram, lineMeta := s.lineMeta, upsets := s.upsets.filter (fun e => e.1 % 8 = 3), hostMem := s.hostMem, peerMem := s.peerMem, agenda := s.agenda, freeCtr := s.freeCtr }

/-- 25 R356 to R358, R355: at the end of an interval of 10 us, once, the governor halves MD above TJMAX, else lowers MD, then BD, above PCAP, and raises
BD, then MD, below PCAP less 200 W; at TJMAX and 15 degrees the module stops and logs it; the link's replay changes nothing. -/
def Sys2Proof.Claims.GovernorAndTrip : Prop :=
  ∀ (s : State) (p temp : Nat),
    let s := asked s [p, temp]
    let now := s.timebase.toNat / 10000 * 10000
    let t : State := { s with govTime := now }
    (s.govTime < now → s.mstate = 2 → exec .governorInterval s = .next (
      if s.tjmax < temp then { t with md := max (s.md / 2) 1 }
      else if s.pcap < p then
        if s.mfloor < s.md then { t with md := s.md - 1 } else if 1 < s.bd then { t with bd := s.bd - 1 } else t
      else if p + 200 < s.pcap then
        if s.bd < 16 then { t with bd := s.bd + 1 } else if s.md < 16 then { t with md := s.md + 1 } else t
      else t)) ∧
    (now ≤ s.govTime ∨ s.mstate ≠ 2 → exec .governorInterval s = .next s) ∧
    (s.tjmax + 15 ≤ temp → s.mstate = 2 → s.stopped = false → exec .thermalTrip s =
      .next (({ s with stopped := true } : State).elog (rec512 [0x13 + 6 * 2 ^ 16 + p * 2 ^ 19, 0, s.timebase.toNat, temp]))) ∧
    exec .linkLevelReplay s = .next s

/-- 25 R353 to R358: bring-up, the module reset, the governor and the trip. -/
def Obligations.BringUpAndGovernor : Prop :=
  Claims.BringUpLoadsAndResets ∧ Claims.GovernorAndTrip

/-- 20 R298 to R304, R308, R311: the next slot of the picked schedule is put on the ring when its clock has come, at a further slot 0 with RINGLAP
counted; a stop takes a request that it admits, of a loaded schedule that holds its key, and arms it; a slot's header takes the armed
requests of its key at a stop that it reaches; a delivery whose CRC matches lands, another is corrupted. Of one ring clock the disarms come first, then
the armings, the arrivals and the landings (R308). -/
def Obligations.SlotsIssuePassAndLand : Prop :=
  ∀ (s : State) (core x k : Nat) (r : RSlot),
    let s := asked s [core, x]
    let q := s.takeQuits core
    let b := (q.core core).boardAt x
    let vf := (q.team b.tid).vf
    let w := s.stopWords core
    let v := (s.arrivals core).landBeats core x
    let d := (v.core core).boardAt x
    (∀ t u, s.pick = some (k, t) → ((s.sched k).next ≠ 0 ∨ (s.sched k).fresh = true) → t.putSlot k = some u →
      exec .slotIssue s = .next u) ∧
    (∀ t u, s.pick = some (k, t) → (s.sched k).next = 0 → (s.sched k).fresh = false →
      (∀ p, (s.sched k).pend = some p →
        exec .slotIssue s = .next (({ s with ringlap := tmod 0 s.ringlap k (· + 1) } : State).setSched k p)) ∧
      ((s.sched k).pend = none → ({ t with ringlap := tmod 0 t.ringlap k (· + 1) } : State).putSlot k = some u →
        exec .slotIssue s = .next u)) ∧
    (b.state = 1 → b.pending = true → b.ask ≤ q.rclk →
      let may := q.permits (144 + core) vf core 4 && q.permits (144 + core) vf core (5 + b.sched)
      let held := (q.sched b.sched).loaded &&
        (q.listKeys (q.sched b.sched).list (q.sched b.sched).nslot).contains b.key
      (may = true → held = true → exec .boardArm s = .next (q.modCore core (fun c =>
        let c := c.modBoard x (fun b => { b with pending := false, arm := q.rclk })
        if (tget none c.lastkey b.sched).any (fun k => b.key ≤ k) then c.miss x else c))) ∧
      (may = true → held = false → exec .boardArm s = .next (q.endBoard core x endAbsent)) ∧
      (may = false → exec .boardArm s = .next ((q.refuse vf 2 core core 4 b.key).endBoard core x endRefused))) ∧
    (b.state = 1 → b.pending = true → q.rclk < b.ask → exec .boardArm s = .next q) ∧
    (tget none w.ring x = some r → core < 128 → r.at_ core ≤ w.rclk → core ∉ r.seen → exec .slotPassage s =
        let t : State := { w with ring := tset none w.ring x (some { r with seen := core :: r.seen }) }
        .next (if r.bad then t else t.modCore core (fun c =>
          let c := { c with lastkey := tset none c.lastkey r.sched (some r.key) }
          (c.boardsOf (fun b => b.state = 1 && !b.pending && b.sched = r.sched && b.key = r.key)).foldl (fun c e =>
            c.takePass (t.team e.2.tid).vf x (r.at_ core) r e.1) c))) ∧
    (tget none v.ring d.sn = some r → d.state = 2 → r.at_ core + 16 ≤ v.rclk → exec .deliveryCrcCheck s =
      .next (if crc32c ((List.range 65536).map (fun j => tget 0 r.payload j)) = r.crc then v.deliver core x d r
        else v.corrupt core x d))

/-- 03 R51, R65 to R67: every well-formed alu instruction's word decodes to it under the alu class, with every operand at every value
that its fields allow. -/
def Obligations.AluWordsDecodeBack : Prop := ∀ i : Instr, i.wf = true → i.cls = 0 → decode 0 (encode i) = .ok i

/-- 03 R45, R51, R68 to R73: the same for the words of the mem, mtx, ctl, que, nmc and sys classes and for clause headers. -/
def Obligations.OtherWordsDecodeBack : Prop := ∀ i : Instr, i.wf = true → 1 ≤ i.cls → i.cls ≤ 7 → decode i.cls (encode i) = .ok i

/-- 15 R226, R229 to R231: a well-formed move's word and a well-formed microcommand's value decode to it. 03 R58: a word that any class
accepts is a well-formed instruction of that class, and encodes to itself. -/
def Obligations.MovesDecodeBackAndAcceptedWordsAreWellFormed : Prop :=
  (∀ x : Move, x.wf = true → decodeMove (encodeMove x) = .ok (moveInstr x.d, x)) ∧
  (∀ x : Micro, x.wf = true → decodeMicro (encodeMicro x) = .ok (microInstr x.op, x)) ∧
  ∀ (c w : Nat) (i : Instr), decode c w = .ok i → i.wf = true ∧ i.cls = c ∧ encode i = w

/-- 03 R50, R51: the words of the spec's own examples, one of each format, decode to the instructions beside them. -/
def Obligations.WordsOfTheSpecDecode : Prop :=
  decode 7 0xA1080092 = .ok (.clauseHeader 0 2 1 1 1 2) ∧ decode 1 0x0B143E07 = .ok (.stW 5 3 7 0 7) ∧
  decode 0 0x6010518A = .ok (.fadd 0 4 5 6 1 2) ∧ decode 0 0xD81C8FFD = .ok (.addiI32 7 8 0xFFD) ∧
  decode 0 0xC324A507 = .ok (.shflXor 9 10 20 0 7) ∧ decode 0 0x50681087 = .ok (.cmpI32 3 2 1 2 0 7) ∧
  decode 0 0xE028B308 = .ok (.sshl 10 11 12) ∧ decode 1 0x05102E1F = .ok (.ldW 4 2 7 3 7) ∧
  decode 3 0x01FFFFD1 = .ok (.br 0x1FFFFA 1) ∧ decode 3 0x0A200064 = .ok (.waitm 2 0 0 100) ∧
  decode 2 0x10544440 = .ok (.mstream 5 2 1 0 1 0 64) ∧ decode 4 0x18182A07 = .ok (.llock 6 2 40 7) ∧
  decode 6 0x01140800 = .ok (.mfsr 5 0x20)

/-- What a step comes to when its action, in the state t, has the outcome o: where it has met a line that it cannot read yet, it waits for the line
(15 R238; log entry 4), and phase bits that it has changed are tested for the groups that wait for them (19 R291). -/
def ended (t : State) (o : Out) : Out :=
  match t.waitOut o with
  | .next u => .next u.wakeSwt
  | o => o

/-- 02 R22, R25, R36; 03 R45 to R47, R58; 06 R104; 07 R129: the step that issues a lane's group, as its grouping stage has formed it, executes what
decodes at its place: a header at IDX 0, else the word under its clause's class, which its cohort must be able to run, and whose operands are
free of interlock; a group that stands at a matrix clause's header may pass it with a gated stream (08 R149); a word that does not decode is an illegal
instruction, and what is no header an illegal clause. -/
def Obligations.StepIssuesTheDecodedWord : Prop :=
  ∀ (s t u v : State) (as : List Action) (clock : Bool) (port tid coh lane hw x y b a w e c : Nat) (i : Instr) (bad : DecodeError),
    let s0 : State := { s with agenda := as }
    s.agenda = .issue clock port tid coh lane :: as → s.stopped = false → (clock = true → s.nextOffer = none) →
    t = (if clock then s0.nextClock else s0) →
    t.mayIssue port tid coh lane = true →
    let k := chosen t port tid coh lane
    let h := (k.cur.addr + 2 ^ 52 - 4 * k.cur.idx) % 2 ^ 52
    let f := (c, e, a, b)
    let issues (o : Out) : Out := ended s0 (t.issuedOut o port tid coh lane)
    k.cur.addr % 4 = 0 → k.fetch h = .word hw u →
    (decode 7 hw = .ok (.clauseHeader y b a w e c) →
      (∀ z, k.cur.idx = 0 → (noted u f hw u.cur.yld).waitOut (exec (.clauseHeader y b a w e c) (noted u f hw u.cur.yld)) = .next z →
        ((t.coh tid coh).stands (z.coh tid coh) = false ∨ e ≠ 2 → step s = issues (.next z)) ∧
        ((t.coh tid coh).stands (z.coh tid coh) = true → e = 2 → step s = issues (exec .gateAccept { z with args := [tid, coh, lane] }))) ∧
      (1 ≤ k.cur.idx → u.myTeam.launch.mayRun coh e = false → step s = issues (.next (t.orWait (u.badRole h e)))) ∧
      (1 ≤ k.cur.idx → k.cur.idx ≤ c → u.myTeam.launch.mayRun coh e = true → u.fetch k.cur.addr = .word x v →
        let n := noted v f x (y = 1 && k.cur.idx = c)
        let m := if y = 1 && k.cur.idx = c then n.passCohort tid coh else n
        (decode e x = .ok i → n.interlocked port tid coh (t.offered tid coh lane) e x = false → step s = issues (m.waitOut (exec i m))) ∧
        (decode e x = .ok i → n.interlocked port tid coh (t.offered tid coh lane) e x = true → step s = issues (.next (t.orWait n))) ∧
        (decode e x = .error bad → step s = issues (.next (t.orWait n.illegal))))) ∧
    (decode 7 hw = .error bad → step s = issues (.next (t.orWait (u.badClause h hw))))

/-- 03 R58, R59; 18 R367; 10 R182: a fetch gives the word that the cohort's quad holds, else the word that memory holds at the translated address,
which is held from then on (log entry 5); it waits for a line that is not there, and for a translation by a walk; what does not translate parks the group (09 R159). -/
def Obligations.FetchReadsTheWord : Prop :=
  ∀ (s : State) (addr pa lg kind : Nat),
    let t := s.myTeam
    (∀ k w, s.me.words.find? (fun e => e.1 = addr) = some (k, w) → s.fetch addr = .word w.toNat s) ∧
    (s.me.words.find? (fun e => e.1 = addr) = none →
      (s.translate t.core t.vf addr 4 = .miss → s.fetch addr = .none (s.startWalk t.core t.vf (addr / 65536))) ∧
      (∀ c r, s.translate t.core t.vf addr 4 = .bad c r →
        s.fetch addr = .none (s.park ((lanesOf s.G).map (fun l => ⟨l, c, addr, r⟩)) 4 3)) ∧
      (s.translate t.core t.vf addr 4 = .ok pa lg kind →
        (∀ u, s.awaits t.vf pa t.core = some u → s.fetch addr = .none u) ∧
        (s.awaits t.vf pa t.core = none →
          let r := s.readLine t.vf (lineAt pa) t.core s.cur.tid s.cur.coh
          let w : BitVec 32 := BitVec.ofNat 32 (ofLeBytes (lineBytes r.2.1 (pa % 128) 4))
          (r.2.2 = none → s.fetch addr = .word w.toNat (r.1.modMe (fun c => { c with words := tins addr w (tdel addr c.words) }))) ∧
          (∀ e, r.2.2 = some e → s.fetch addr = .none (r.1.machineCheck s.cur.tid s.cur.coh s.herePc s.G 3 e)))))

/-- 15 R224, R229; 25 R350, R358; 02 R36, R39: what the clock's grouping stages owe moves first; then a step that is a bundle's next move, a bank's
head microcommand, the next slot's command or an event is that instruction's meaning, and the instruction-buffer entries follow (02
R37). A core clock passes; a stopped module issues nothing more, which the model answers by a fault. -/
def Obligations.StepRunsMovesCommandsAndEvents : Prop :=
  ∀ (s u : State) (as : List Action) (pc gb fn : Nat) (i : Instr) (args : List Nat) (c : MicroCmd),
    let t : State := { s with agenda := as }
    (∀ a b, s.agenda = a :: as → s.owed a = some b → step s = s.perform b) ∧
    (s.nextOffer = none →
      (s.agenda = .bundle pc :: as → s.stopped = false → t.nextMove pc = .run i u → step s = ended t (exec i u)) ∧
      (s.agenda = .bundle pc :: as → s.stopped = false → t.nextMove pc = .done u → step s = ended t (.next u)) ∧
      (s.agenda = .bank gb :: as → (t.bank gb).queue.head? = some c →
        step s = ended t (exec (microInstr c.x.op) { t with args := [gb] })) ∧
      (s.agenda = .command :: as → t.nextFn = some fn → commandInstr (t.slotCmd fn).kind = some i →
        step s = ended t (exec i { t with args := [fn] })) ∧
      (s.agenda = .command :: as → t.nextFn = some fn → commandInstr (t.slotCmd fn).kind = none →
        step s = ended t (.next (t.badCommand fn))) ∧
      (s.agenda = .event i args :: as → i.cls = 10 → i ≠ .gateAccept → step s = ended t (exec i { t with args := args })) ∧
      (∀ tid coh lane, s.agenda = .event .gateAccept [tid, coh, lane] :: as → s.stopped = false →
        let x : State := { t with args := [tid, coh, lane] }
        step s = ended t
          (x.issuedOut (exec .gateAccept x) (tget 0 (s.core (s.team tid).core).ports (s.coh tid coh).quad) tid coh lane)) ∧
      (∀ x, s.agenda = .input x :: as → step s = ended t (.next (t.input x))) ∧
      (s.agenda = .idle :: as → step s = ended t (.next t.nextClock))) ∧
    (∀ clock port tid coh lane, (s.agenda = .issue clock port tid coh lane :: as ∨ s.agenda = .bundle pc :: as ∨
      s.agenda = .event .gateAccept [tid, coh, lane] :: as) → s.stopped = true → step s = .fault .machineStopped) ∧
    (s.agenda = [] → step s = s.firstMove s.mayMove)

/-- 20 R298; 25 R348, R353, R357; 18 R274: after a module reset MSTATE is 0, every function's registers are 0 (no queue is enabled, every pointer is 0),
no team, graph, command or schedule stands, RSPD is 16 and every RINGLAP is 0, no function has keys (KSTATE 0), MD and BD are 16 and nothing is
stopped. -/
def Obligations.ResetValues : Prop :=
  State.reset.mstate = 0 ∧
  (∀ f, let r := State.reset.fn f
    r.cqbase = 0 ∧ r.cqlgd = 0 ∧ r.cqtail = 0 ∧ r.cqhead = 0 ∧ r.cqovr = false ∧ r.fqbase = 0 ∧ r.fqlgd = 0 ∧ r.fqrd = 0 ∧ r.fqwr = 0 ∧
    r.rqbase = 0 ∧ r.rqlgd = 0 ∧ r.rqrd = 0 ∧ r.rqwr = 0 ∧ r.rqdrop = 0 ∧ r.savebase = 0 ∧ r.savecnt = 0 ∧ r.savesz = 0 ∧ r.fqdrop = 0) ∧
  State.reset.teams = [] ∧ State.reset.graphs = [] ∧ State.reset.cmds = [] ∧
  State.reset.jseq = 0 ∧ State.reset.rspd = 16 ∧ (∀ i, tget 0 State.reset.ringlap i = 0) ∧ State.reset.loadedScheds = [] ∧
  (∀ f, (State.reset.key f).kstate = 0 ∧ (State.reset.key f).kgen = 0 ∧ (State.reset.key f).keys = 0) ∧
  State.reset.md = 16 ∧ State.reset.bd = 16 ∧ State.reset.stopped = false

/-- The model's own invariant (log entry 2): no step breaks the canonical form of DRAM, addresses rising and no byte listed that reads as an
unlisted one. -/
def Obligations.DramKeepsItsForm : Prop :=
  ∀ s t : State, Memory.wf s.dram = true → step s = .next t → Memory.wf t.dram = true

/-- The reset state's memories are in their canonical form (log entry 2). -/
def Obligations.ResetMemoryInForm : Prop := State.reset.wfMem = true

/-- 11 R186, R188, R191, R192; 10 R173, R178; 21 R316: the bytes that a load returns. Of the scratchpad and the operand buffer they are the run's bytes, at
issue, from 16 l on for lane l. At a home slice they are those of the line as the requester sees it, at the places that the request names; they
join the operation's. When every part is in, each lane's register gets its bytes, the first the lowest, with zeros above, or with the sign from the
element's top bit up to bit 31; a uniform load's s register gets eight (of a team that is not being saved, whose area has no flag byte yet). -/
def Sys2Proof.Claims.LoadsDeliverTheirBytes : Prop :=
  (∀ (i : Instr) (s : State) (m : MemForm) (good : List (Nat × List Piece)), memForm s i = some m → m.access = 0 → m.Performs s good →
    s.upsets = [] → (∀ a ∈ m.own s, spaceOf a.ptr = 2 ∨ spaceOf a.ptr = 3) →
    ∃ u o, exec i s = .next u ∧ u.op s.nextId = some o ∧ o.left = 0 ∧ o.kind = 0 ∧
      ∀ a ∈ m.own s, ∀ k, k < m.n → [tget 0 o.got (16 * a.lane + k)] = s.runRead s.myTeam (spaceOf a.ptr) (offOf a.ptr + k) 1) ∧
  (∀ (s : State) (id : Nat) (t : State) (r : Req) (parts : List (Nat × Nat × Nat)),
    let s := asked s [id]
    Arrives s id t r 0 false → Served t r 128 → (t.sline r.line).isSome = true → (t.touch r.line).senseLine r.vf r.line = (t.touch r.line, none) →
    r.kind = .read parts none → (tsome t.invs).any (fun e => e.2 = ⟨r.master, r.line⟩) = false →
    exec .sliceRead s = .next ((((t.touch r.line).setReq id none).partBack r
      ((parts.map (fun p => place p.1 (lineBytes ((t.touch r.line).seen r.line r.tid r.coh) (p.2.1 % 128) p.2.2))).flatten)))) ∧
  (∀ (s : State) (r : Req) (o : Op) (bytes : List (Nat × Byte)), s.op r.op = some o → o.kind = 0 →
    (s.partBack r bytes).op r.op =
      some { o with left := o.left - 1, got := gather o.got bytes, parts := o.parts.erase (r.lanes, r.scope) }) ∧
  (∀ (s : State) (id : Nat) (o : Op),
    let t := (asked s [id]).takeParts id
    t.op id = some o → (∀ e ∈ t.inbox, e.2.2 ≠ id) → o.due ≤ t.clk → o.left = 0 → o.rest = [] → o.kind = 0 → o.pump = none → o.bad = none →
    t.canLand o = true → (t.team o.tid).terminated = false → (t.team o.tid).area = none →
    let b (k : Nat) : Nat := (tget 0 o.got k).toNat
    (∀ vd n sx, o.dest = .load vd n sx → 1 ≤ n → n ≤ 16 → (sx = true → n < 4) → ∃ u, exec .loadReturn (asked s [id]) = .next u ∧
      ∀ l ∈ lanesOf o.lanes, u.vget o.tid o.coh l vd =
        let v := (List.range n).foldl (fun x k => x + b (16 * l + k) * 256 ^ k) 0
        BitVec.ofNat 128 (if sx = true ∧ 2 ^ (8 * n - 1) ≤ v then v + 2 ^ 32 - 2 ^ (8 * n) else v)) ∧
    (∀ sd, o.dest = .sload sd → sd < 63 → ∃ u, exec .loadReturn (asked s [id]) = .next u ∧
      tget 0 (u.coh o.tid o.coh).s sd = BitVec.ofNat 64 ((List.range 8).foldl (fun x k => x + b (16 * lowest o.lanes + k) * 256 ^ k) 0)))

/-- 09 R160, R162; 11 R191: stage 3 of a load, store, atomic or reduction. With a lane whose address has not been translated the group waits and starts
the walks. Otherwise the lanes that do not translate are parked at their word, each cause makes one record (its lanes, up to four distinct pages and
whether there are more, the access kind, the size in DETAIL), and the other lanes perform; of a uniform form the whole group parks. Where the
record waits and how a refused walk is reported is 09 R162's and 18 R270's. -/
def Sys2Proof.Claims.LanesThatDoNotTranslatePark : Prop :=
  ∀ (i : Instr) (s : State) (m : MemForm), memForm s i = some m →
    s.fenced m.lanes m.isLoad = false → s.casPending m.lanes = false → s.flagFree m.flag = true → s.unflushed m.rel = false →
    RegsIn s m.regs → m.lanes ≠ 0 →
    stage2Fault m.access (m.accs.map (fun a => (a.lane, s.stage2 m.access m.n m.align a.ptr))) = none →
    let r := s.transAll (needOf m.access) ((m.own s).map (fun a => (a.lane, s.pieces a.lane m.n a.ptr)))
    (r.misses ≠ [] → exec i s = .next ((dedup r.misses).foldl (fun t q => t.startWalk s.myTeam.core s.myTeam.vf q) s)) ∧
    (r.misses = [] → r.bads ≠ [] → s.orderHold m.x (m.own s) r.good = none →
      let bads := if m.uni then (r.bads.map (fun b => (lanesOf s.G).map (fun l => { b with lane := l }))).flatten else r.bads
      let ls := lanesFrom (bads.map (·.lane))
      let parked := (s.modMe (fun c => { c with
        parked := c.parked ||| ls, last := if s.cur.idx = s.cur.count then c.last ||| ls else c.last &&& ~~~ls })).badWalks s.myTeam.core s.myTeam.vf bads
      let record (t : State) (cause : Nat) : State :=
        let bs := bads.filter (fun b => b.cause = cause)
        let pages := distinctPages (bs.map (·.addr)) []
        let seq := t.takeFseq s.myTeam.vf
        let lanes := lanesFrom (bs.map (·.lane))
        let info : FaultInfo := { cause := cause, detail := m.n, pages := pages.take 4, more := 4 < pages.length, access := m.access,
                                  lanes := lanes, fseq := seq.2 }
        if bs.isEmpty then t
        else seq.1.sendRecord { vf := s.myTeam.vf, data := rec512 (seq.1.faultWords s.cur.tid s.cur.coh s.herePc info false), fseq := seq.2,
                                park := some { tid := s.cur.tid, coh := s.cur.coh, lanes := lanes } }
      let t := record (record parked 0x01) 0x02
      exec i s = .next ((if r.good = [] then t else m.effect t (withParts (m.own s) r.good)).memDone m.spin))

/-- 11 R186, R188; 09 R160, R162: the bytes that a load returns, and the lanes that do not translate. -/
def Obligations.LoadBytesAndParkedLanes : Prop :=
  Claims.LoadsDeliverTheirBytes ∧ Claims.LanesThatDoNotTranslatePark
end

