-- ==== Sys2Proof/Laws/Table.lean ====
section
/-!
SUPPORT. Laws/Table.lean: what a table reads after it has been written, and that every memory operation keeps the canonical form.
-/
namespace Sys2Proof.Machine

variable {α : Type}

theorem tget_tdel_self (d : α) (t : Tab α) (i : Nat) : tget d (tdel i t) i = d := by
  induction t with
  | nil => rfl
  | cons e t ih =>
    obtain ⟨k, v⟩ := e
    by_cases h : k = i
    · simp [tdel, h, ih]
    · simp [tdel, tget, h, ih]

theorem tget_tdel_ne (d : α) (t : Tab α) {i j : Nat} (h : j ≠ i) : tget d (tdel i t) j = tget d t j := by
  induction t with
  | nil => rfl
  | cons e t ih =>
    obtain ⟨k, v⟩ := e
    by_cases hk : k = i
    · have : k ≠ j := fun e => h (e ▸ hk)
      simp [tdel, tget, hk, ih, Ne.symm h]
    · simp [tdel, tget, hk, ih]

theorem tget_tins_ne (d : α) (t : Tab α) {i j : Nat} (v : α) (h : j ≠ i) : tget d (tins i v t) j = tget d t j := by
  induction t with
  | nil => simp [tins, tget, Ne.symm h]
  | cons e t ih =>
    obtain ⟨k, w⟩ := e
    by_cases hk : i < k
    · simp [tins, tget, hk, Ne.symm h]
    · simp [tins, tget, hk, ih]

theorem tget_tins_self (d : α) (t : Tab α) (i : Nat) (v : α) (h : ∀ e ∈ t, e.1 ≠ i) : tget d (tins i v t) i = v := by
  induction t with
  | nil => simp [tins, tget]
  | cons e t ih =>
    obtain ⟨k, w⟩ := e
    have hk : k ≠ i := h _ (List.mem_cons_self ..)
    by_cases hl : i < k
    · simp [tins, tget, hl]
    · simp [tins, tget, hl, hk, ih (fun e he => h e (List.mem_cons_of_mem _ he))]

theorem ne_of_mem_tdel (i : Nat) (t : Tab α) : ∀ e ∈ tdel i t, e.1 ≠ i := by
  induction t with
  | nil => simp [tdel]
  | cons e t ih =>
    obtain ⟨k, v⟩ := e
    by_cases h : k = i
    · simpa [tdel, h] using ih
    · simp only [tdel, h, if_false, List.mem_cons]
      rintro e (rfl | he)
      · exact h
      · exact ih e he

theorem mem_tdel {i : Nat} {t : Tab α} {e : Nat × α} (h : e ∈ tdel i t) : e ∈ t := by
  induction t with
  | nil => simp [tdel] at h
  | cons x t ih =>
    obtain ⟨k, v⟩ := x
    by_cases hk : k = i
    · simp only [tdel, hk, if_true] at h
      exact List.mem_cons_of_mem _ (ih h)
    · simp only [tdel, hk, if_false, List.mem_cons] at h
      rcases h with rfl | h
      · exact List.mem_cons_self ..
      · exact List.mem_cons_of_mem _ (ih h)

theorem mem_tins {i : Nat} {v : α} {t : Tab α} {e : Nat × α} (h : e ∈ tins i v t) : e = (i, v) ∨ e ∈ t := by
  induction t with
  | nil => simpa [tins] using h
  | cons x t ih =>
    obtain ⟨k, w⟩ := x
    by_cases hk : i < k
    · simp only [tins, hk, if_true, List.mem_cons] at h
      rcases h with rfl | rfl | h
      · exact .inl rfl
      · exact .inr (List.mem_cons_self ..)
      · exact .inr (List.mem_cons_of_mem _ h)
    · simp only [tins, hk, if_false, List.mem_cons] at h
      rcases h with rfl | h
      · exact .inr (List.mem_cons_self ..)
      · rcases ih h with rfl | h
        · exact .inl rfl
        · exact .inr (List.mem_cons_of_mem _ h)

theorem pairwise_tdel {i : Nat} {t : Tab α} (h : t.Pairwise (fun a b => a.1 < b.1)) :
    (tdel i t).Pairwise (fun a b => a.1 < b.1) := by
  induction t with
  | nil => simp [tdel]
  | cons x t ih =>
    obtain ⟨k, v⟩ := x
    have h' := List.pairwise_cons.1 h
    by_cases hk : k = i
    · simpa [tdel, hk] using ih h'.2
    · simp only [tdel, hk, if_false]
      exact List.pairwise_cons.2 ⟨fun e he => h'.1 e (mem_tdel he), ih h'.2⟩

theorem pairwise_tins {i : Nat} {v : α} {t : Tab α} (h : t.Pairwise (fun a b => a.1 < b.1)) (hi : ∀ e ∈ t, e.1 ≠ i) :
    (tins i v t).Pairwise (fun a b => a.1 < b.1) := by
  induction t with
  | nil => simp [tins]
  | cons x t ih =>
    obtain ⟨k, w⟩ := x
    have h' := List.pairwise_cons.1 h
    have hne : k ≠ i := hi _ (List.mem_cons_self ..)
    by_cases hk : i < k
    · simp only [tins, hk, if_true]
      refine List.pairwise_cons.2 ⟨?_, h⟩
      intro e he
      rcases List.mem_cons.1 he with rfl | he
      · exact hk
      · exact Nat.lt_trans hk (h'.1 e he)
    · simp only [tins, hk, if_false]
      refine List.pairwise_cons.2 ⟨?_, ih h'.2 (fun e he => hi e (List.mem_cons_of_mem _ he))⟩
      intro e he
      rcases mem_tins he with rfl | he
      · exact Nat.lt_of_le_of_ne (Nat.le_of_not_lt hk) hne
      · exact h'.1 e he

section Defaults
variable [DecidableEq α]

/-- Read after write, at the same key. -/
@[simp] theorem tget_tset_self (d : α) (t : Tab α) (i : Nat) (v : α) : tget d (tset d t i v) i = v := by
  unfold tset
  split
  · next h => rw [tget_tdel_self, h]
  · exact tget_tins_self d _ i v (ne_of_mem_tdel i t)

/-- A write leaves every other key alone. -/
theorem tget_tset_ne (d : α) (t : Tab α) {i j : Nat} (v : α) (h : j ≠ i) : tget d (tset d t i v) j = tget d t j := by
  unfold tset
  split
  · exact tget_tdel_ne d t h
  · rw [tget_tins_ne d _ v h, tget_tdel_ne d t h]

theorem tget_tset (d : α) (t : Tab α) (i j : Nat) (v : α) : tget d (tset d t i v) j = if j = i then v else tget d t j := by
  by_cases h : j = i
  · subst h; simp
  · simp [h, tget_tset_ne]

theorem tget_tmod (d : α) (t : Tab α) (i j : Nat) (f : α → α) :
    tget d (tmod d t i f) j = if j = i then f (tget d t i) else tget d t j := by
  unfold tmod; rw [tget_tset]

-- the canonical form ------------------------------------------------------------------------------------------------------

/-- The canonical form, as a proposition on lists. -/
theorem twf_iff (d : α) (t : Tab α) :
    twf d t = true ↔ t.Pairwise (fun a b => a.1 < b.1) ∧ ∀ e ∈ t, e.2 ≠ d := by
  induction t with
  | nil => simp [twf]
  | cons e t ih =>
    obtain ⟨k, v⟩ := e
    cases t with
    | nil => simp [twf]
    | cons e' t =>
      obtain ⟨k', v'⟩ := e'
      have h : twf d ((k, v) :: (k', v') :: t) = (v != d && k < k' && twf d ((k', v') :: t)) := rfl
      rw [h, Bool.and_eq_true, Bool.and_eq_true, ih, List.pairwise_cons (a := (k, v))]
      simp only [bne_iff_ne, decide_eq_true_eq]
      constructor
      · rintro ⟨⟨hv, hk⟩, hp, ha⟩
        have hp' := List.pairwise_cons.1 hp
        refine ⟨⟨?_, hp⟩, ?_⟩
        · intro e he
          rcases List.mem_cons.1 he with rfl | he
          · exact hk
          · exact Nat.lt_trans hk (hp'.1 e he)
        · intro e he
          rcases List.mem_cons.1 he with rfl | he
          · exact hv
          · exact ha e he
      · rintro ⟨⟨h1, hp⟩, ha⟩
        exact ⟨⟨ha _ (List.mem_cons_self ..), h1 _ (List.mem_cons_self ..)⟩, hp, fun e he => ha e (List.mem_cons_of_mem _ he)⟩

/-- Every write of a table keeps the canonical form. -/
theorem twf_tset {d : α} {t : Tab α} (i : Nat) (v : α) (h : twf d t = true) : twf d (tset d t i v) = true := by
  rw [twf_iff] at h ⊢
  unfold tset
  split
  · exact ⟨pairwise_tdel h.1, fun e he => h.2 e (mem_tdel he)⟩
  · next hv =>
    refine ⟨pairwise_tins (pairwise_tdel h.1) (ne_of_mem_tdel i t), fun e he => ?_⟩
    rcases mem_tins he with rfl | he
    · exact hv
    · exact h.2 e (mem_tdel he)

theorem twf_tmod {d : α} {t : Tab α} (i : Nat) (f : α → α) (h : twf d t = true) : twf d (tmod d t i f) = true := twf_tset i _ h

/-- A filter keeps the canonical form. -/
theorem twf_filter {d : α} {t : Tab α} (p : Nat × α → Bool) (h : twf d t = true) : twf d (t.filter p) = true := by
  rw [twf_iff] at h ⊢
  exact ⟨h.1.sublist List.filter_sublist, fun e he => h.2 e ((List.mem_filter.1 he).1)⟩

/-- Canonical tables that read alike are equal data. -/
theorem twf_ext {d : α} {t u : Tab α} (ht : twf d t = true) (hu : twf d u = true) (h : ∀ i, tget d t i = tget d u i) : t = u := by
  rw [twf_iff] at ht hu
  induction t generalizing u with
  | nil =>
    cases u with
    | nil => rfl
    | cons e u =>
      obtain ⟨k, v⟩ := e
      have := h k
      simp [tget] at this
      exact absurd this.symm (hu.2 (k, v) (List.mem_cons_self ..))
  | cons e t ih =>
    obtain ⟨k, v⟩ := e
    have low {j : Nat} {w : Tab α} (hw : ∀ x ∈ w, j < x.1) : tget d w j = d := by
      induction w with
      | nil => rfl
      | cons x w ihw =>
        have hx := hw x (List.mem_cons_self ..)
        have : x.1 ≠ j := by omega
        simp [tget, this, ihw (fun y hy => hw y (List.mem_cons_of_mem _ hy))]
    have pt := List.pairwise_cons.1 ht.1
    cases u with
    | nil =>
      have := h k
      simp [tget] at this
      exact absurd this (ht.2 (k, v) (List.mem_cons_self ..))
    | cons e' u =>
      obtain ⟨k', v'⟩ := e'
      have pu := List.pairwise_cons.1 hu.1
      have hk : k = k' := by
        rcases Nat.lt_trichotomy k k' with hlt | heq | hgt
        · have h1 := h k
          have : tget d ((k', v') :: u) k = d := low (fun x hx => by
            rcases List.mem_cons.1 hx with rfl | hx
            · exact hlt
            · exact Nat.lt_trans hlt (pu.1 x hx))
          rw [this] at h1
          simp [tget] at h1
          exact absurd h1 (ht.2 (k, v) (List.mem_cons_self ..))
        · exact heq
        · have h1 := h k'
          have : tget d ((k, v) :: t) k' = d := low (fun x hx => by
            rcases List.mem_cons.1 hx with rfl | hx
            · exact hgt
            · exact Nat.lt_trans hgt (pt.1 x hx))
          rw [this] at h1
          simp [tget] at h1
          exact absurd h1.symm (hu.2 (k', v') (List.mem_cons_self ..))
      subst hk
      have hv : v = v' := by simpa [tget] using h k
      subst hv
      have : t = u := ih ⟨pt.2, fun e he => ht.2 e (List.mem_cons_of_mem _ he)⟩
        ⟨pu.2, fun e he => hu.2 e (List.mem_cons_of_mem _ he)⟩ (fun i => by
          by_cases hi : i = k
          · subst hi
            rw [low pt.1, low pu.1]
          · have := h i
            simpa [tget, Ne.symm hi] using this)
      rw [this]

/-- Writing a table leaves it as it was when the value stands there already. -/
theorem tset_tget_self {d : α} {t : Tab α} (h : twf d t = true) (i : Nat) : tset d t i (tget d t i) = t :=
  twf_ext (twf_tset i _ h) h (fun j => by rw [tget_tset]; split <;> simp_all)

end Defaults

-- memory --------------------------------------------------------------------------------------------------------------------

/-- A run of bytes written keeps the memory's form. -/
theorem wf_memWrite {m : List Host.Cell} (h : Memory.wf m = true) (a : Nat) (bs : List Byte) : Memory.wf (memWrite m a bs) = true := by
  induction bs generalizing m a with
  | nil => exact h
  | cons b bs ih => exact ih (m := tset 0 m a b) (twf_tset a b h) (a + 1)

/-- Outside the bytes written, memory reads as before. -/
theorem tget_memWrite_out (m : List Host.Cell) (a : Nat) (bs : List Byte) (x : Nat) (h : x < a ∨ a + bs.length ≤ x) :
    tget 0 (memWrite m a bs) x = tget 0 m x := by
  induction bs generalizing m a with
  | nil => rfl
  | cons b bs ih =>
    simp only [List.length_cons] at h
    unfold memWrite
    rw [ih _ _ (by omega), tget_tset_ne 0 m b (by omega)]

/-- The bytes written read back. -/
theorem tget_memWrite_in (m : List Host.Cell) (a : Nat) (bs : List Byte) (i : Nat) (h : i < bs.length) :
    tget 0 (memWrite m a bs) (a + i) = bs[i] := by
  induction bs generalizing m a i with
  | nil => simp at h
  | cons b bs ih =>
    unfold memWrite
    cases i with
    | zero => rw [tget_memWrite_out _ _ _ _ (by omega)]; simp
    | succ i =>
      have := ih (tset 0 m a b) (a + 1) i (by simpa using h)
      rw [show a + (i + 1) = a + 1 + i by omega, this]
      simp

/-- A run of bytes read has its length. -/
@[simp] theorem memBytes_length (m : List Host.Cell) (a n : Nat) : (memBytes m a n).length = n := by
  induction n generalizing a with
  | zero => rfl
  | succ n ih => simp [memBytes, ih]

/-- A fold that keeps a form at every element keeps it. -/
theorem foldl_keeps {β γ : Type} (P : β → Prop) (f : β → γ → β) (l : List γ) (b : β) (h : P b)
    (hf : ∀ b c, c ∈ l → P b → P (f b c)) : P (l.foldl f b) := by
  induction l generalizing b with
  | nil => exact h
  | cons c l ih =>
    exact ih (f b c) (hf b c (List.mem_cons_self ..) h) (fun b c hc => hf b c (List.mem_cons_of_mem _ hc))

end Sys2Proof.Machine
end

