-- ==== Sys2Proof/Laws/State.lean ====
section
/-!
SUPPORT. Laws/State.lean: what each update of the state by name leaves alone, field by field, and what it reads back.
-/
namespace Sys2Proof.Machine

-- setCore -----------------------------------------------------------------------------------------------------------------

@[simp] theorem State.setCore_teams (s : State) (n : Nat) (c : Core) : (s.setCore n c).teams = s.teams := rfl
@[simp] theorem State.setCore_slices (s : State) (n : Nat) (c : Core) : (s.setCore n c).slices = s.slices := rfl
@[simp] theorem State.setCore_locks (s : State) (n : Nat) (c : Core) : (s.setCore n c).locks = s.locks := rfl
@[simp] theorem State.setCore_dram (s : State) (n : Nat) (c : Core) : (s.setCore n c).dram = s.dram := rfl
@[simp] theorem State.setCore_lineMeta (s : State) (n : Nat) (c : Core) : (s.setCore n c).lineMeta = s.lineMeta := rfl
@[simp] theorem State.setCore_msc (s : State) (n : Nat) (c : Core) : (s.setCore n c).msc = s.msc := rfl
@[simp] theorem State.setCore_upsets (s : State) (n : Nat) (c : Core) : (s.setCore n c).upsets = s.upsets := rfl
@[simp] theorem State.setCore_banks (s : State) (n : Nat) (c : Core) : (s.setCore n c).banks = s.banks := rfl
@[simp] theorem State.setCore_chans (s : State) (n : Nat) (c : Core) : (s.setCore n c).chans = s.chans := rfl
@[simp] theorem State.setCore_chanClk (s : State) (n : Nat) (c : Core) : (s.setCore n c).chanClk = s.chanClk := rfl
@[simp] theorem State.setCore_pumps (s : State) (n : Nat) (c : Core) : (s.setCore n c).pumps = s.pumps := rfl
@[simp] theorem State.setCore_hostMem (s : State) (n : Nat) (c : Core) : (s.setCore n c).hostMem = s.hostMem := rfl
@[simp] theorem State.setCore_peerMem (s : State) (n : Nat) (c : Core) : (s.setCore n c).peerMem = s.peerMem := rfl
@[simp] theorem State.setCore_troot (s : State) (n : Nat) (c : Core) : (s.setCore n c).troot = s.troot := rfl
@[simp] theorem State.setCore_access (s : State) (n : Nat) (c : Core) : (s.setCore n c).access = s.access := rfl
@[simp] theorem State.setCore_polders (s : State) (n : Nat) (c : Core) : (s.setCore n c).polders = s.polders := rfl
@[simp] theorem State.setCore_routes (s : State) (n : Nat) (c : Core) : (s.setCore n c).routes = s.routes := rfl
@[simp] theorem State.setCore_rowDom (s : State) (n : Nat) (c : Core) : (s.setCore n c).rowDom = s.rowDom := rfl
@[simp] theorem State.setCore_domains (s : State) (n : Nat) (c : Core) : (s.setCore n c).domains = s.domains := rfl
@[simp] theorem State.setCore_keys (s : State) (n : Nat) (c : Core) : (s.setCore n c).keys = s.keys := rfl
@[simp] theorem State.setCore_resetKey (s : State) (n : Nat) (c : Core) : (s.setCore n c).resetKey = s.resetKey := rfl
@[simp] theorem State.setCore_fseq (s : State) (n : Nat) (c : Core) : (s.setCore n c).fseq = s.fseq := rfl
@[simp] theorem State.setCore_parks (s : State) (n : Nat) (c : Core) : (s.setCore n c).parks = s.parks := rfl
@[simp] theorem State.setCore_frecs (s : State) (n : Nat) (c : Core) : (s.setCore n c).frecs = s.frecs := rfl
@[simp] theorem State.setCore_graphs (s : State) (n : Nat) (c : Core) : (s.setCore n c).graphs = s.graphs := rfl
@[simp] theorem State.setCore_pool (s : State) (n : Nat) (c : Core) : (s.setCore n c).pool = s.pool := rfl
@[simp] theorem State.setCore_poolWait (s : State) (n : Nat) (c : Core) : (s.setCore n c).poolWait = s.poolWait := rfl
@[simp] theorem State.setCore_reserves (s : State) (n : Nat) (c : Core) : (s.setCore n c).reserves = s.reserves := rfl
@[simp] theorem State.setCore_pumpRes (s : State) (n : Nat) (c : Core) : (s.setCore n c).pumpRes = s.pumpRes := rfl
@[simp] theorem State.setCore_nextAge (s : State) (n : Nat) (c : Core) : (s.setCore n c).nextAge = s.nextAge := rfl
@[simp] theorem State.setCore_scheds (s : State) (n : Nat) (c : Core) : (s.setCore n c).scheds = s.scheds := rfl
@[simp] theorem State.setCore_rspd (s : State) (n : Nat) (c : Core) : (s.setCore n c).rspd = s.rspd := rfl
@[simp] theorem State.setCore_ringlap (s : State) (n : Nat) (c : Core) : (s.setCore n c).ringlap = s.ringlap := rfl
@[simp] theorem State.setCore_ring (s : State) (n : Nat) (c : Core) : (s.setCore n c).ring = s.ring := rfl
@[simp] theorem State.setCore_ringSn (s : State) (n : Nat) (c : Core) : (s.setCore n c).ringSn = s.ringSn := rfl
@[simp] theorem State.setCore_ringClk (s : State) (n : Nat) (c : Core) : (s.setCore n c).ringClk = s.ringClk := rfl
@[simp] theorem State.setCore_ringPos (s : State) (n : Nat) (c : Core) : (s.setCore n c).ringPos = s.ringPos := rfl
@[simp] theorem State.setCore_fns (s : State) (n : Nat) (c : Core) : (s.setCore n c).fns = s.fns := rfl
@[simp] theorem State.setCore_jseq (s : State) (n : Nat) (c : Core) : (s.setCore n c).jseq = s.jseq := rfl
@[simp] theorem State.setCore_journal (s : State) (n : Nat) (c : Core) : (s.setCore n c).journal = s.journal := rfl
@[simp] theorem State.setCore_cmds (s : State) (n : Nat) (c : Core) : (s.setCore n c).cmds = s.cmds := rfl
@[simp] theorem State.setCore_ending (s : State) (n : Nat) (c : Core) : (s.setCore n c).ending = s.ending := rfl
@[simp] theorem State.setCore_cpOps (s : State) (n : Nat) (c : Core) : (s.setCore n c).cpOps = s.cpOps := rfl
@[simp] theorem State.setCore_round (s : State) (n : Nat) (c : Core) : (s.setCore n c).round = s.round := rfl
@[simp] theorem State.setCore_mstate (s : State) (n : Nat) (c : Core) : (s.setCore n c).mstate = s.mstate := rfl
@[simp] theorem State.setCore_stage (s : State) (n : Nat) (c : Core) : (s.setCore n c).stage = s.stage := rfl
@[simp] theorem State.setCore_object (s : State) (n : Nat) (c : Core) : (s.setCore n c).object = s.object := rfl
@[simp] theorem State.setCore_objLen (s : State) (n : Nat) (c : Core) : (s.setCore n c).objLen = s.objLen := rfl
@[simp] theorem State.setCore_objKind (s : State) (n : Nat) (c : Core) : (s.setCore n c).objKind = s.objKind := rfl
@[simp] theorem State.setCore_ldstate (s : State) (n : Nat) (c : Core) : (s.setCore n c).ldstate = s.ldstate := rfl
@[simp] theorem State.setCore_lderr (s : State) (n : Nat) (c : Core) : (s.setCore n c).lderr = s.lderr := rfl
@[simp] theorem State.setCore_ldchunk (s : State) (n : Nat) (c : Core) : (s.setCore n c).ldchunk = s.ldchunk := rfl
@[simp] theorem State.setCore_elwr (s : State) (n : Nat) (c : Core) : (s.setCore n c).elwr = s.elwr := rfl
@[simp] theorem State.setCore_elrd (s : State) (n : Nat) (c : Core) : (s.setCore n c).elrd = s.elrd := rfl
@[simp] theorem State.setCore_ellost (s : State) (n : Nat) (c : Core) : (s.setCore n c).ellost = s.ellost := rfl
@[simp] theorem State.setCore_errlog (s : State) (n : Nat) (c : Core) : (s.setCore n c).errlog = s.errlog := rfl
@[simp] theorem State.setCore_pcap (s : State) (n : Nat) (c : Core) : (s.setCore n c).pcap = s.pcap := rfl
@[simp] theorem State.setCore_mfloor (s : State) (n : Nat) (c : Core) : (s.setCore n c).mfloor = s.mfloor := rfl
@[simp] theorem State.setCore_tjmax (s : State) (n : Nat) (c : Core) : (s.setCore n c).tjmax = s.tjmax := rfl
@[simp] theorem State.setCore_nvf (s : State) (n : Nat) (c : Core) : (s.setCore n c).nvf = s.nvf := rfl
@[simp] theorem State.setCore_self (s : State) (n : Nat) (c : Core) : (s.setCore n c).self = s.self := rfl
@[simp] theorem State.setCore_portmap (s : State) (n : Nat) (c : Core) : (s.setCore n c).portmap = s.portmap := rfl
@[simp] theorem State.setCore_md (s : State) (n : Nat) (c : Core) : (s.setCore n c).md = s.md := rfl
@[simp] theorem State.setCore_bd (s : State) (n : Nat) (c : Core) : (s.setCore n c).bd = s.bd := rfl
@[simp] theorem State.setCore_govTime (s : State) (n : Nat) (c : Core) : (s.setCore n c).govTime = s.govTime := rfl
@[simp] theorem State.setCore_stopped (s : State) (n : Nat) (c : Core) : (s.setCore n c).stopped = s.stopped := rfl
@[simp] theorem State.setCore_brk (s : State) (n : Nat) (c : Core) : (s.setCore n c).brk = s.brk := rfl
@[simp] theorem State.setCore_plodor (s : State) (n : Nat) (c : Core) : (s.setCore n c).plodor = s.plodor := rfl
@[simp] theorem State.setCore_hostGot (s : State) (n : Nat) (c : Core) : (s.setCore n c).hostGot = s.hostGot := rfl
@[simp] theorem State.setCore_msix (s : State) (n : Nat) (c : Core) : (s.setCore n c).msix = s.msix := rfl
@[simp] theorem State.setCore_agenda (s : State) (n : Nat) (c : Core) : (s.setCore n c).agenda = s.agenda := rfl
@[simp] theorem State.setCore_args (s : State) (n : Nat) (c : Core) : (s.setCore n c).args = s.args := rfl
@[simp] theorem State.setCore_cur (s : State) (n : Nat) (c : Core) : (s.setCore n c).cur = s.cur := rfl
@[simp] theorem State.setCore_mv (s : State) (n : Nat) (c : Core) : (s.setCore n c).mv = s.mv := rfl
@[simp] theorem State.setCore_clk (s : State) (n : Nat) (c : Core) : (s.setCore n c).clk = s.clk := rfl
@[simp] theorem State.setCore_freeCtr (s : State) (n : Nat) (c : Core) : (s.setCore n c).freeCtr = s.freeCtr := rfl
@[simp] theorem State.setCore_nextId (s : State) (n : Nat) (c : Core) : (s.setCore n c).nextId = s.nextId := rfl
@[simp] theorem State.setCore_late (s : State) (n : Nat) (c : Core) : (s.setCore n c).late = s.late := rfl
@[simp] theorem State.setCore_reqs (s : State) (n : Nat) (c : Core) : (s.setCore n c).reqs = s.reqs := rfl
@[simp] theorem State.setCore_ops (s : State) (n : Nat) (c : Core) : (s.setCore n c).ops = s.ops := rfl
@[simp] theorem State.setCore_acks (s : State) (n : Nat) (c : Core) : (s.setCore n c).acks = s.acks := rfl
@[simp] theorem State.setCore_invs (s : State) (n : Nat) (c : Core) : (s.setCore n c).invs = s.invs := rfl
@[simp] theorem State.setCore_walks (s : State) (n : Nat) (c : Core) : (s.setCore n c).walks = s.walks := rfl
@[simp] theorem State.setCore_grants (s : State) (n : Nat) (c : Core) : (s.setCore n c).grants = s.grants := rfl
@[simp] theorem State.setCore_inbox (s : State) (n : Nat) (c : Core) : (s.setCore n c).inbox = s.inbox := rfl
@[simp] theorem State.setCore_missed (s : State) (n : Nat) (c : Core) : (s.setCore n c).missed = s.missed := rfl

@[simp] theorem State.core_setCore_self (s : State) (n : Nat) (c : Core) : (s.setCore n c).core n = c := by
  simp [State.core, State.setCore]
theorem State.core_setCore (s : State) (n m : Nat) (c : Core) : (s.setCore n c).core m = if m = n then c else s.core m := by
  simp only [State.core, State.setCore, tget_tset]
@[simp] theorem State.setCore_team (s : State) (n m : Nat) (c : Core) : (s.setCore n c).team m = s.team m := rfl
@[simp] theorem State.setCore_slice (s : State) (n m : Nat) (c : Core) : (s.setCore n c).slice m = s.slice m := rfl
@[simp] theorem State.setCore_lock (s : State) (n m : Nat) (c : Core) : (s.setCore n c).lock m = s.lock m := rfl
@[simp] theorem State.setCore_pump (s : State) (n m : Nat) (c : Core) : (s.setCore n c).pump m = s.pump m := rfl
@[simp] theorem State.setCore_bank (s : State) (n m : Nat) (c : Core) : (s.setCore n c).bank m = s.bank m := rfl
@[simp] theorem State.setCore_fn (s : State) (n m : Nat) (c : Core) : (s.setCore n c).fn m = s.fn m := rfl
@[simp] theorem State.setCore_req (s : State) (n m : Nat) (c : Core) : (s.setCore n c).req m = s.req m := rfl
@[simp] theorem State.setCore_op (s : State) (n m : Nat) (c : Core) : (s.setCore n c).op m = s.op m := rfl

-- setTeam -----------------------------------------------------------------------------------------------------------------

@[simp] theorem State.setTeam_cores (s : State) (n : Nat) (x : Team) : (s.setTeam n x).cores = s.cores := rfl
@[simp] theorem State.setTeam_slices (s : State) (n : Nat) (x : Team) : (s.setTeam n x).slices = s.slices := rfl
@[simp] theorem State.setTeam_locks (s : State) (n : Nat) (x : Team) : (s.setTeam n x).locks = s.locks := rfl
@[simp] theorem State.setTeam_dram (s : State) (n : Nat) (x : Team) : (s.setTeam n x).dram = s.dram := rfl
@[simp] theorem State.setTeam_lineMeta (s : State) (n : Nat) (x : Team) : (s.setTeam n x).lineMeta = s.lineMeta := rfl
@[simp] theorem State.setTeam_msc (s : State) (n : Nat) (x : Team) : (s.setTeam n x).msc = s.msc := rfl
@[simp] theorem State.setTeam_upsets (s : State) (n : Nat) (x : Team) : (s.setTeam n x).upsets = s.upsets := rfl
@[simp] theorem State.setTeam_banks (s : State) (n : Nat) (x : Team) : (s.setTeam n x).banks = s.banks := rfl
@[simp] theorem State.setTeam_chans (s : State) (n : Nat) (x : Team) : (s.setTeam n x).chans = s.chans := rfl
@[simp] theorem State.setTeam_chanClk (s : State) (n : Nat) (x : Team) : (s.setTeam n x).chanClk = s.chanClk := rfl
@[simp] theorem State.setTeam_pumps (s : State) (n : Nat) (x : Team) : (s.setTeam n x).pumps = s.pumps := rfl
@[simp] theorem State.setTeam_hostMem (s : State) (n : Nat) (x : Team) : (s.setTeam n x).hostMem = s.hostMem := rfl
@[simp] theorem State.setTeam_peerMem (s : State) (n : Nat) (x : Team) : (s.setTeam n x).peerMem = s.peerMem := rfl
@[simp] theorem State.setTeam_troot (s : State) (n : Nat) (x : Team) : (s.setTeam n x).troot = s.troot := rfl
@[simp] theorem State.setTeam_access (s : State) (n : Nat) (x : Team) : (s.setTeam n x).access = s.access := rfl
@[simp] theorem State.setTeam_polders (s : State) (n : Nat) (x : Team) : (s.setTeam n x).polders = s.polders := rfl
@[simp] theorem State.setTeam_routes (s : State) (n : Nat) (x : Team) : (s.setTeam n x).routes = s.routes := rfl
@[simp] theorem State.setTeam_rowDom (s : State) (n : Nat) (x : Team) : (s.setTeam n x).rowDom = s.rowDom := rfl
@[simp] theorem State.setTeam_domains (s : State) (n : Nat) (x : Team) : (s.setTeam n x).domains = s.domains := rfl
@[simp] theorem State.setTeam_keys (s : State) (n : Nat) (x : Team) : (s.setTeam n x).keys = s.keys := rfl
@[simp] theorem State.setTeam_resetKey (s : State) (n : Nat) (x : Team) : (s.setTeam n x).resetKey = s.resetKey := rfl
@[simp] theorem State.setTeam_fseq (s : State) (n : Nat) (x : Team) : (s.setTeam n x).fseq = s.fseq := rfl
@[simp] theorem State.setTeam_parks (s : State) (n : Nat) (x : Team) : (s.setTeam n x).parks = s.parks := rfl
@[simp] theorem State.setTeam_frecs (s : State) (n : Nat) (x : Team) : (s.setTeam n x).frecs = s.frecs := rfl
@[simp] theorem State.setTeam_graphs (s : State) (n : Nat) (x : Team) : (s.setTeam n x).graphs = s.graphs := rfl
@[simp] theorem State.setTeam_pool (s : State) (n : Nat) (x : Team) : (s.setTeam n x).pool = s.pool := rfl
@[simp] theorem State.setTeam_poolWait (s : State) (n : Nat) (x : Team) : (s.setTeam n x).poolWait = s.poolWait := rfl
@[simp] theorem State.setTeam_reserves (s : State) (n : Nat) (x : Team) : (s.setTeam n x).reserves = s.reserves := rfl
@[simp] theorem State.setTeam_pumpRes (s : State) (n : Nat) (x : Team) : (s.setTeam n x).pumpRes = s.pumpRes := rfl
@[simp] theorem State.setTeam_nextAge (s : State) (n : Nat) (x : Team) : (s.setTeam n x).nextAge = s.nextAge := rfl
@[simp] theorem State.setTeam_scheds (s : State) (n : Nat) (x : Team) : (s.setTeam n x).scheds = s.scheds := rfl
@[simp] theorem State.setTeam_rspd (s : State) (n : Nat) (x : Team) : (s.setTeam n x).rspd = s.rspd := rfl
@[simp] theorem State.setTeam_ringlap (s : State) (n : Nat) (x : Team) : (s.setTeam n x).ringlap = s.ringlap := rfl
@[simp] theorem State.setTeam_ring (s : State) (n : Nat) (x : Team) : (s.setTeam n x).ring = s.ring := rfl
@[simp] theorem State.setTeam_ringSn (s : State) (n : Nat) (x : Team) : (s.setTeam n x).ringSn = s.ringSn := rfl
@[simp] theorem State.setTeam_ringClk (s : State) (n : Nat) (x : Team) : (s.setTeam n x).ringClk = s.ringClk := rfl
@[simp] theorem State.setTeam_ringPos (s : State) (n : Nat) (x : Team) : (s.setTeam n x).ringPos = s.ringPos := rfl
@[simp] theorem State.setTeam_fns (s : State) (n : Nat) (x : Team) : (s.setTeam n x).fns = s.fns := rfl
@[simp] theorem State.setTeam_jseq (s : State) (n : Nat) (x : Team) : (s.setTeam n x).jseq = s.jseq := rfl
@[simp] theorem State.setTeam_journal (s : State) (n : Nat) (x : Team) : (s.setTeam n x).journal = s.journal := rfl
@[simp] theorem State.setTeam_cmds (s : State) (n : Nat) (x : Team) : (s.setTeam n x).cmds = s.cmds := rfl
@[simp] theorem State.setTeam_ending (s : State) (n : Nat) (x : Team) : (s.setTeam n x).ending = s.ending := rfl
@[simp] theorem State.setTeam_cpOps (s : State) (n : Nat) (x : Team) : (s.setTeam n x).cpOps = s.cpOps := rfl
@[simp] theorem State.setTeam_round (s : State) (n : Nat) (x : Team) : (s.setTeam n x).round = s.round := rfl
@[simp] theorem State.setTeam_mstate (s : State) (n : Nat) (x : Team) : (s.setTeam n x).mstate = s.mstate := rfl
@[simp] theorem State.setTeam_stage (s : State) (n : Nat) (x : Team) : (s.setTeam n x).stage = s.stage := rfl
@[simp] theorem State.setTeam_object (s : State) (n : Nat) (x : Team) : (s.setTeam n x).object = s.object := rfl
@[simp] theorem State.setTeam_objLen (s : State) (n : Nat) (x : Team) : (s.setTeam n x).objLen = s.objLen := rfl
@[simp] theorem State.setTeam_objKind (s : State) (n : Nat) (x : Team) : (s.setTeam n x).objKind = s.objKind := rfl
@[simp] theorem State.setTeam_ldstate (s : State) (n : Nat) (x : Team) : (s.setTeam n x).ldstate = s.ldstate := rfl
@[simp] theorem State.setTeam_lderr (s : State) (n : Nat) (x : Team) : (s.setTeam n x).lderr = s.lderr := rfl
@[simp] theorem State.setTeam_ldchunk (s : State) (n : Nat) (x : Team) : (s.setTeam n x).ldchunk = s.ldchunk := rfl
@[simp] theorem State.setTeam_elwr (s : State) (n : Nat) (x : Team) : (s.setTeam n x).elwr = s.elwr := rfl
@[simp] theorem State.setTeam_elrd (s : State) (n : Nat) (x : Team) : (s.setTeam n x).elrd = s.elrd := rfl
@[simp] theorem State.setTeam_ellost (s : State) (n : Nat) (x : Team) : (s.setTeam n x).ellost = s.ellost := rfl
@[simp] theorem State.setTeam_errlog (s : State) (n : Nat) (x : Team) : (s.setTeam n x).errlog = s.errlog := rfl
@[simp] theorem State.setTeam_pcap (s : State) (n : Nat) (x : Team) : (s.setTeam n x).pcap = s.pcap := rfl
@[simp] theorem State.setTeam_mfloor (s : State) (n : Nat) (x : Team) : (s.setTeam n x).mfloor = s.mfloor := rfl
@[simp] theorem State.setTeam_tjmax (s : State) (n : Nat) (x : Team) : (s.setTeam n x).tjmax = s.tjmax := rfl
@[simp] theorem State.setTeam_nvf (s : State) (n : Nat) (x : Team) : (s.setTeam n x).nvf = s.nvf := rfl
@[simp] theorem State.setTeam_self (s : State) (n : Nat) (x : Team) : (s.setTeam n x).self = s.self := rfl
@[simp] theorem State.setTeam_portmap (s : State) (n : Nat) (x : Team) : (s.setTeam n x).portmap = s.portmap := rfl
@[simp] theorem State.setTeam_md (s : State) (n : Nat) (x : Team) : (s.setTeam n x).md = s.md := rfl
@[simp] theorem State.setTeam_bd (s : State) (n : Nat) (x : Team) : (s.setTeam n x).bd = s.bd := rfl
@[simp] theorem State.setTeam_govTime (s : State) (n : Nat) (x : Team) : (s.setTeam n x).govTime = s.govTime := rfl
@[simp] theorem State.setTeam_stopped (s : State) (n : Nat) (x : Team) : (s.setTeam n x).stopped = s.stopped := rfl
@[simp] theorem State.setTeam_brk (s : State) (n : Nat) (x : Team) : (s.setTeam n x).brk = s.brk := rfl
@[simp] theorem State.setTeam_plodor (s : State) (n : Nat) (x : Team) : (s.setTeam n x).plodor = s.plodor := rfl
@[simp] theorem State.setTeam_hostGot (s : State) (n : Nat) (x : Team) : (s.setTeam n x).hostGot = s.hostGot := rfl
@[simp] theorem State.setTeam_msix (s : State) (n : Nat) (x : Team) : (s.setTeam n x).msix = s.msix := rfl
@[simp] theorem State.setTeam_agenda (s : State) (n : Nat) (x : Team) : (s.setTeam n x).agenda = s.agenda := rfl
@[simp] theorem State.setTeam_args (s : State) (n : Nat) (x : Team) : (s.setTeam n x).args = s.args := rfl
@[simp] theorem State.setTeam_cur (s : State) (n : Nat) (x : Team) : (s.setTeam n x).cur = s.cur := rfl
@[simp] theorem State.setTeam_mv (s : State) (n : Nat) (x : Team) : (s.setTeam n x).mv = s.mv := rfl
@[simp] theorem State.setTeam_clk (s : State) (n : Nat) (x : Team) : (s.setTeam n x).clk = s.clk := rfl
@[simp] theorem State.setTeam_freeCtr (s : State) (n : Nat) (x : Team) : (s.setTeam n x).freeCtr = s.freeCtr := rfl
@[simp] theorem State.setTeam_nextId (s : State) (n : Nat) (x : Team) : (s.setTeam n x).nextId = s.nextId := rfl
@[simp] theorem State.setTeam_late (s : State) (n : Nat) (x : Team) : (s.setTeam n x).late = s.late := rfl
@[simp] theorem State.setTeam_reqs (s : State) (n : Nat) (x : Team) : (s.setTeam n x).reqs = s.reqs := rfl
@[simp] theorem State.setTeam_ops (s : State) (n : Nat) (x : Team) : (s.setTeam n x).ops = s.ops := rfl
@[simp] theorem State.setTeam_acks (s : State) (n : Nat) (x : Team) : (s.setTeam n x).acks = s.acks := rfl
@[simp] theorem State.setTeam_invs (s : State) (n : Nat) (x : Team) : (s.setTeam n x).invs = s.invs := rfl
@[simp] theorem State.setTeam_walks (s : State) (n : Nat) (x : Team) : (s.setTeam n x).walks = s.walks := rfl
@[simp] theorem State.setTeam_grants (s : State) (n : Nat) (x : Team) : (s.setTeam n x).grants = s.grants := rfl
@[simp] theorem State.setTeam_inbox (s : State) (n : Nat) (x : Team) : (s.setTeam n x).inbox = s.inbox := rfl
@[simp] theorem State.setTeam_missed (s : State) (n : Nat) (x : Team) : (s.setTeam n x).missed = s.missed := rfl

@[simp] theorem State.team_setTeam_self (s : State) (n : Nat) (x : Team) : (s.setTeam n x).team n = x := by
  simp [State.team, State.setTeam]
theorem State.team_setTeam (s : State) (n m : Nat) (x : Team) : (s.setTeam n x).team m = if m = n then x else s.team m := by
  simp only [State.team, State.setTeam, tget_tset]
@[simp] theorem State.setTeam_core (s : State) (n m : Nat) (x : Team) : (s.setTeam n x).core m = s.core m := rfl
@[simp] theorem State.setTeam_slice (s : State) (n m : Nat) (x : Team) : (s.setTeam n x).slice m = s.slice m := rfl
@[simp] theorem State.setTeam_lock (s : State) (n m : Nat) (x : Team) : (s.setTeam n x).lock m = s.lock m := rfl
@[simp] theorem State.setTeam_pump (s : State) (n m : Nat) (x : Team) : (s.setTeam n x).pump m = s.pump m := rfl
@[simp] theorem State.setTeam_bank (s : State) (n m : Nat) (x : Team) : (s.setTeam n x).bank m = s.bank m := rfl
@[simp] theorem State.setTeam_fn (s : State) (n m : Nat) (x : Team) : (s.setTeam n x).fn m = s.fn m := rfl
@[simp] theorem State.setTeam_req (s : State) (n m : Nat) (x : Team) : (s.setTeam n x).req m = s.req m := rfl
@[simp] theorem State.setTeam_op (s : State) (n m : Nat) (x : Team) : (s.setTeam n x).op m = s.op m := rfl

-- setSlice -----------------------------------------------------------------------------------------------------------------

@[simp] theorem State.setSlice_cores (s : State) (n : Nat) (x : Slice) : (s.setSlice n x).cores = s.cores := rfl
@[simp] theorem State.setSlice_teams (s : State) (n : Nat) (x : Slice) : (s.setSlice n x).teams = s.teams := rfl
@[simp] theorem State.setSlice_locks (s : State) (n : Nat) (x : Slice) : (s.setSlice n x).locks = s.locks := rfl
@[simp] theorem State.setSlice_dram (s : State) (n : Nat) (x : Slice) : (s.setSlice n x).dram = s.dram := rfl
@[simp] theorem State.setSlice_lineMeta (s : State) (n : Nat) (x : Slice) : (s.setSlice n x).lineMeta = s.lineMeta := rfl
@[simp] theorem State.setSlice_msc (s : State) (n : Nat) (x : Slice) : (s.setSlice n x).msc = s.msc := rfl
@[simp] theorem State.setSlice_upsets (s : State) (n : Nat) (x : Slice) : (s.setSlice n x).upsets = s.upsets := rfl
@[simp] theorem State.setSlice_banks (s : State) (n : Nat) (x : Slice) : (s.setSlice n x).banks = s.banks := rfl
@[simp] theorem State.setSlice_chans (s : State) (n : Nat) (x : Slice) : (s.setSlice n x).chans = s.chans := rfl
@[simp] theorem State.setSlice_chanClk (s : State) (n : Nat) (x : Slice) : (s.setSlice n x).chanClk = s.chanClk := rfl
@[simp] theorem State.setSlice_pumps (s : State) (n : Nat) (x : Slice) : (s.setSlice n x).pumps = s.pumps := rfl
@[simp] theorem State.setSlice_hostMem (s : State) (n : Nat) (x : Slice) : (s.setSlice n x).hostMem = s.hostMem := rfl
@[simp] theorem State.setSlice_peerMem (s : State) (n : Nat) (x : Slice) : (s.setSlice n x).peerMem = s.peerMem := rfl
@[simp] theorem State.setSlice_troot (s : State) (n : Nat) (x : Slice) : (s.setSlice n x).troot = s.troot := rfl
@[simp] theorem State.setSlice_access (s : State) (n : Nat) (x : Slice) : (s.setSlice n x).access = s.access := rfl
@[simp] theorem State.setSlice_polders (s : State) (n : Nat) (x : Slice) : (s.setSlice n x).polders = s.polders := rfl
@[simp] theorem State.setSlice_routes (s : State) (n : Nat) (x : Slice) : (s.setSlice n x).routes = s.routes := rfl
@[simp] theorem State.setSlice_rowDom (s : State) (n : Nat) (x : Slice) : (s.setSlice n x).rowDom = s.rowDom := rfl
@[simp] theorem State.setSlice_domains (s : State) (n : Nat) (x : Slice) : (s.setSlice n x).domains = s.domains := rfl
@[simp] theorem State.setSlice_keys (s : State) (n : Nat) (x : Slice) : (s.setSlice n x).keys = s.keys := rfl
@[simp] theorem State.setSlice_resetKey (s : State) (n : Nat) (x : Slice) : (s.setSlice n x).resetKey = s.resetKey := rfl
@[simp] theorem State.setSlice_fseq (s : State) (n : Nat) (x : Slice) : (s.setSlice n x).fseq = s.fseq := rfl
@[simp] theorem State.setSlice_parks (s : State) (n : Nat) (x : Slice) : (s.setSlice n x).parks = s.parks := rfl
@[simp] theorem State.setSlice_frecs (s : State) (n : Nat) (x : Slice) : (s.setSlice n x).frecs = s.frecs := rfl
@[simp] theorem State.setSlice_graphs (s : State) (n : Nat) (x : Slice) : (s.setSlice n x).graphs = s.graphs := rfl
@[simp] theorem State.setSlice_pool (s : State) (n : Nat) (x : Slice) : (s.setSlice n x).pool = s.pool := rfl
@[simp] theorem State.setSlice_poolWait (s : State) (n : Nat) (x : Slice) : (s.setSlice n x).poolWait = s.poolWait := rfl
@[simp] theorem State.setSlice_reserves (s : State) (n : Nat) (x : Slice) : (s.setSlice n x).reserves = s.reserves := rfl
@[simp] theorem State.setSlice_pumpRes (s : State) (n : Nat) (x : Slice) : (s.setSlice n x).pumpRes = s.pumpRes := rfl
@[simp] theorem State.setSlice_nextAge (s : State) (n : Nat) (x : Slice) : (s.setSlice n x).nextAge = s.nextAge := rfl
@[simp] theorem State.setSlice_scheds (s : State) (n : Nat) (x : Slice) : (s.setSlice n x).scheds = s.scheds := rfl
@[simp] theorem State.setSlice_rspd (s : State) (n : Nat) (x : Slice) : (s.setSlice n x).rspd = s.rspd := rfl
@[simp] theorem State.setSlice_ringlap (s : State) (n : Nat) (x : Slice) : (s.setSlice n x).ringlap = s.ringlap := rfl
@[simp] theorem State.setSlice_ring (s : State) (n : Nat) (x : Slice) : (s.setSlice n x).ring = s.ring := rfl
@[simp] theorem State.setSlice_ringSn (s : State) (n : Nat) (x : Slice) : (s.setSlice n x).ringSn = s.ringSn := rfl
@[simp] theorem State.setSlice_ringClk (s : State) (n : Nat) (x : Slice) : (s.setSlice n x).ringClk = s.ringClk := rfl
@[simp] theorem State.setSlice_ringPos (s : State) (n : Nat) (x : Slice) : (s.setSlice n x).ringPos = s.ringPos := rfl
@[simp] theorem State.setSlice_fns (s : State) (n : Nat) (x : Slice) : (s.setSlice n x).fns = s.fns := rfl
@[simp] theorem State.setSlice_jseq (s : State) (n : Nat) (x : Slice) : (s.setSlice n x).jseq = s.jseq := rfl
@[simp] theorem State.setSlice_journal (s : State) (n : Nat) (x : Slice) : (s.setSlice n x).journal = s.journal := rfl
@[simp] theorem State.setSlice_cmds (s : State) (n : Nat) (x : Slice) : (s.setSlice n x).cmds = s.cmds := rfl
@[simp] theorem State.setSlice_ending (s : State) (n : Nat) (x : Slice) : (s.setSlice n x).ending = s.ending := rfl
@[simp] theorem State.setSlice_cpOps (s : State) (n : Nat) (x : Slice) : (s.setSlice n x).cpOps = s.cpOps := rfl
@[simp] theorem State.setSlice_round (s : State) (n : Nat) (x : Slice) : (s.setSlice n x).round = s.round := rfl
@[simp] theorem State.setSlice_mstate (s : State) (n : Nat) (x : Slice) : (s.setSlice n x).mstate = s.mstate := rfl
@[simp] theorem State.setSlice_stage (s : State) (n : Nat) (x : Slice) : (s.setSlice n x).stage = s.stage := rfl
@[simp] theorem State.setSlice_object (s : State) (n : Nat) (x : Slice) : (s.setSlice n x).object = s.object := rfl
@[simp] theorem State.setSlice_objLen (s : State) (n : Nat) (x : Slice) : (s.setSlice n x).objLen = s.objLen := rfl
@[simp] theorem State.setSlice_objKind (s : State) (n : Nat) (x : Slice) : (s.setSlice n x).objKind = s.objKind := rfl
@[simp] theorem State.setSlice_ldstate (s : State) (n : Nat) (x : Slice) : (s.setSlice n x).ldstate = s.ldstate := rfl
@[simp] theorem State.setSlice_lderr (s : State) (n : Nat) (x : Slice) : (s.setSlice n x).lderr = s.lderr := rfl
@[simp] theorem State.setSlice_ldchunk (s : State) (n : Nat) (x : Slice) : (s.setSlice n x).ldchunk = s.ldchunk := rfl
@[simp] theorem State.setSlice_elwr (s : State) (n : Nat) (x : Slice) : (s.setSlice n x).elwr = s.elwr := rfl
@[simp] theorem State.setSlice_elrd (s : State) (n : Nat) (x : Slice) : (s.setSlice n x).elrd = s.elrd := rfl
@[simp] theorem State.setSlice_ellost (s : State) (n : Nat) (x : Slice) : (s.setSlice n x).ellost = s.ellost := rfl
@[simp] theorem State.setSlice_errlog (s : State) (n : Nat) (x : Slice) : (s.setSlice n x).errlog = s.errlog := rfl
@[simp] theorem State.setSlice_pcap (s : State) (n : Nat) (x : Slice) : (s.setSlice n x).pcap = s.pcap := rfl
@[simp] theorem State.setSlice_mfloor (s : State) (n : Nat) (x : Slice) : (s.setSlice n x).mfloor = s.mfloor := rfl
@[simp] theorem State.setSlice_tjmax (s : State) (n : Nat) (x : Slice) : (s.setSlice n x).tjmax = s.tjmax := rfl
@[simp] theorem State.setSlice_nvf (s : State) (n : Nat) (x : Slice) : (s.setSlice n x).nvf = s.nvf := rfl
@[simp] theorem State.setSlice_self (s : State) (n : Nat) (x : Slice) : (s.setSlice n x).self = s.self := rfl
@[simp] theorem State.setSlice_portmap (s : State) (n : Nat) (x : Slice) : (s.setSlice n x).portmap = s.portmap := rfl
@[simp] theorem State.setSlice_md (s : State) (n : Nat) (x : Slice) : (s.setSlice n x).md = s.md := rfl
@[simp] theorem State.setSlice_bd (s : State) (n : Nat) (x : Slice) : (s.setSlice n x).bd = s.bd := rfl
@[simp] theorem State.setSlice_govTime (s : State) (n : Nat) (x : Slice) : (s.setSlice n x).govTime = s.govTime := rfl
@[simp] theorem State.setSlice_stopped (s : State) (n : Nat) (x : Slice) : (s.setSlice n x).stopped = s.stopped := rfl
@[simp] theorem State.setSlice_brk (s : State) (n : Nat) (x : Slice) : (s.setSlice n x).brk = s.brk := rfl
@[simp] theorem State.setSlice_plodor (s : State) (n : Nat) (x : Slice) : (s.setSlice n x).plodor = s.plodor := rfl
@[simp] theorem State.setSlice_hostGot (s : State) (n : Nat) (x : Slice) : (s.setSlice n x).hostGot = s.hostGot := rfl
@[simp] theorem State.setSlice_msix (s : State) (n : Nat) (x : Slice) : (s.setSlice n x).msix = s.msix := rfl
@[simp] theorem State.setSlice_agenda (s : State) (n : Nat) (x : Slice) : (s.setSlice n x).agenda = s.agenda := rfl
@[simp] theorem State.setSlice_args (s : State) (n : Nat) (x : Slice) : (s.setSlice n x).args = s.args := rfl
@[simp] theorem State.setSlice_cur (s : State) (n : Nat) (x : Slice) : (s.setSlice n x).cur = s.cur := rfl
@[simp] theorem State.setSlice_mv (s : State) (n : Nat) (x : Slice) : (s.setSlice n x).mv = s.mv := rfl
@[simp] theorem State.setSlice_clk (s : State) (n : Nat) (x : Slice) : (s.setSlice n x).clk = s.clk := rfl
@[simp] theorem State.setSlice_freeCtr (s : State) (n : Nat) (x : Slice) : (s.setSlice n x).freeCtr = s.freeCtr := rfl
@[simp] theorem State.setSlice_nextId (s : State) (n : Nat) (x : Slice) : (s.setSlice n x).nextId = s.nextId := rfl
@[simp] theorem State.setSlice_late (s : State) (n : Nat) (x : Slice) : (s.setSlice n x).late = s.late := rfl
@[simp] theorem State.setSlice_reqs (s : State) (n : Nat) (x : Slice) : (s.setSlice n x).reqs = s.reqs := rfl
@[simp] theorem State.setSlice_ops (s : State) (n : Nat) (x : Slice) : (s.setSlice n x).ops = s.ops := rfl
@[simp] theorem State.setSlice_acks (s : State) (n : Nat) (x : Slice) : (s.setSlice n x).acks = s.acks := rfl
@[simp] theorem State.setSlice_invs (s : State) (n : Nat) (x : Slice) : (s.setSlice n x).invs = s.invs := rfl
@[simp] theorem State.setSlice_walks (s : State) (n : Nat) (x : Slice) : (s.setSlice n x).walks = s.walks := rfl
@[simp] theorem State.setSlice_grants (s : State) (n : Nat) (x : Slice) : (s.setSlice n x).grants = s.grants := rfl
@[simp] theorem State.setSlice_inbox (s : State) (n : Nat) (x : Slice) : (s.setSlice n x).inbox = s.inbox := rfl
@[simp] theorem State.setSlice_missed (s : State) (n : Nat) (x : Slice) : (s.setSlice n x).missed = s.missed := rfl

@[simp] theorem State.slice_setSlice_self (s : State) (n : Nat) (x : Slice) : (s.setSlice n x).slice n = x := by
  simp [State.slice, State.setSlice]
theorem State.slice_setSlice (s : State) (n m : Nat) (x : Slice) : (s.setSlice n x).slice m = if m = n then x else s.slice m := by
  simp only [State.slice, State.setSlice, tget_tset]
@[simp] theorem State.setSlice_core (s : State) (n m : Nat) (x : Slice) : (s.setSlice n x).core m = s.core m := rfl
@[simp] theorem State.setSlice_team (s : State) (n m : Nat) (x : Slice) : (s.setSlice n x).team m = s.team m := rfl
@[simp] theorem State.setSlice_lock (s : State) (n m : Nat) (x : Slice) : (s.setSlice n x).lock m = s.lock m := rfl
@[simp] theorem State.setSlice_pump (s : State) (n m : Nat) (x : Slice) : (s.setSlice n x).pump m = s.pump m := rfl
@[simp] theorem State.setSlice_bank (s : State) (n m : Nat) (x : Slice) : (s.setSlice n x).bank m = s.bank m := rfl
@[simp] theorem State.setSlice_fn (s : State) (n m : Nat) (x : Slice) : (s.setSlice n x).fn m = s.fn m := rfl
@[simp] theorem State.setSlice_req (s : State) (n m : Nat) (x : Slice) : (s.setSlice n x).req m = s.req m := rfl
@[simp] theorem State.setSlice_op (s : State) (n m : Nat) (x : Slice) : (s.setSlice n x).op m = s.op m := rfl

-- setLock -----------------------------------------------------------------------------------------------------------------

@[simp] theorem State.setLock_cores (s : State) (n : Nat) (x : LockSt) : (s.setLock n x).cores = s.cores := rfl
@[simp] theorem State.setLock_teams (s : State) (n : Nat) (x : LockSt) : (s.setLock n x).teams = s.teams := rfl
@[simp] theorem State.setLock_slices (s : State) (n : Nat) (x : LockSt) : (s.setLock n x).slices = s.slices := rfl
@[simp] theorem State.setLock_dram (s : State) (n : Nat) (x : LockSt) : (s.setLock n x).dram = s.dram := rfl
@[simp] theorem State.setLock_lineMeta (s : State) (n : Nat) (x : LockSt) : (s.setLock n x).lineMeta = s.lineMeta := rfl
@[simp] theorem State.setLock_msc (s : State) (n : Nat) (x : LockSt) : (s.setLock n x).msc = s.msc := rfl
@[simp] theorem State.setLock_upsets (s : State) (n : Nat) (x : LockSt) : (s.setLock n x).upsets = s.upsets := rfl
@[simp] theorem State.setLock_banks (s : State) (n : Nat) (x : LockSt) : (s.setLock n x).banks = s.banks := rfl
@[simp] theorem State.setLock_chans (s : State) (n : Nat) (x : LockSt) : (s.setLock n x).chans = s.chans := rfl
@[simp] theorem State.setLock_chanClk (s : State) (n : Nat) (x : LockSt) : (s.setLock n x).chanClk = s.chanClk := rfl
@[simp] theorem State.setLock_pumps (s : State) (n : Nat) (x : LockSt) : (s.setLock n x).pumps = s.pumps := rfl
@[simp] theorem State.setLock_hostMem (s : State) (n : Nat) (x : LockSt) : (s.setLock n x).hostMem = s.hostMem := rfl
@[simp] theorem State.setLock_peerMem (s : State) (n : Nat) (x : LockSt) : (s.setLock n x).peerMem = s.peerMem := rfl
@[simp] theorem State.setLock_troot (s : State) (n : Nat) (x : LockSt) : (s.setLock n x).troot = s.troot := rfl
@[simp] theorem State.setLock_access (s : State) (n : Nat) (x : LockSt) : (s.setLock n x).access = s.access := rfl
@[simp] theorem State.setLock_polders (s : State) (n : Nat) (x : LockSt) : (s.setLock n x).polders = s.polders := rfl
@[simp] theorem State.setLock_routes (s : State) (n : Nat) (x : LockSt) : (s.setLock n x).routes = s.routes := rfl
@[simp] theorem State.setLock_rowDom (s : State) (n : Nat) (x : LockSt) : (s.setLock n x).rowDom = s.rowDom := rfl
@[simp] theorem State.setLock_domains (s : State) (n : Nat) (x : LockSt) : (s.setLock n x).domains = s.domains := rfl
@[simp] theorem State.setLock_keys (s : State) (n : Nat) (x : LockSt) : (s.setLock n x).keys = s.keys := rfl
@[simp] theorem State.setLock_resetKey (s : State) (n : Nat) (x : LockSt) : (s.setLock n x).resetKey = s.resetKey := rfl
@[simp] theorem State.setLock_fseq (s : State) (n : Nat) (x : LockSt) : (s.setLock n x).fseq = s.fseq := rfl
@[simp] theorem State.setLock_parks (s : State) (n : Nat) (x : LockSt) : (s.setLock n x).parks = s.parks := rfl
@[simp] theorem State.setLock_frecs (s : State) (n : Nat) (x : LockSt) : (s.setLock n x).frecs = s.frecs := rfl
@[simp] theorem State.setLock_graphs (s : State) (n : Nat) (x : LockSt) : (s.setLock n x).graphs = s.graphs := rfl
@[simp] theorem State.setLock_pool (s : State) (n : Nat) (x : LockSt) : (s.setLock n x).pool = s.pool := rfl
@[simp] theorem State.setLock_poolWait (s : State) (n : Nat) (x : LockSt) : (s.setLock n x).poolWait = s.poolWait := rfl
@[simp] theorem State.setLock_reserves (s : State) (n : Nat) (x : LockSt) : (s.setLock n x).reserves = s.reserves := rfl
@[simp] theorem State.setLock_pumpRes (s : State) (n : Nat) (x : LockSt) : (s.setLock n x).pumpRes = s.pumpRes := rfl
@[simp] theorem State.setLock_nextAge (s : State) (n : Nat) (x : LockSt) : (s.setLock n x).nextAge = s.nextAge := rfl
@[simp] theorem State.setLock_scheds (s : State) (n : Nat) (x : LockSt) : (s.setLock n x).scheds = s.scheds := rfl
@[simp] theorem State.setLock_rspd (s : State) (n : Nat) (x : LockSt) : (s.setLock n x).rspd = s.rspd := rfl
@[simp] theorem State.setLock_ringlap (s : State) (n : Nat) (x : LockSt) : (s.setLock n x).ringlap = s.ringlap := rfl
@[simp] theorem State.setLock_ring (s : State) (n : Nat) (x : LockSt) : (s.setLock n x).ring = s.ring := rfl
@[simp] theorem State.setLock_ringSn (s : State) (n : Nat) (x : LockSt) : (s.setLock n x).ringSn = s.ringSn := rfl
@[simp] theorem State.setLock_ringClk (s : State) (n : Nat) (x : LockSt) : (s.setLock n x).ringClk = s.ringClk := rfl
@[simp] theorem State.setLock_ringPos (s : State) (n : Nat) (x : LockSt) : (s.setLock n x).ringPos = s.ringPos := rfl
@[simp] theorem State.setLock_fns (s : State) (n : Nat) (x : LockSt) : (s.setLock n x).fns = s.fns := rfl
@[simp] theorem State.setLock_jseq (s : State) (n : Nat) (x : LockSt) : (s.setLock n x).jseq = s.jseq := rfl
@[simp] theorem State.setLock_journal (s : State) (n : Nat) (x : LockSt) : (s.setLock n x).journal = s.journal := rfl
@[simp] theorem State.setLock_cmds (s : State) (n : Nat) (x : LockSt) : (s.setLock n x).cmds = s.cmds := rfl
@[simp] theorem State.setLock_ending (s : State) (n : Nat) (x : LockSt) : (s.setLock n x).ending = s.ending := rfl
@[simp] theorem State.setLock_cpOps (s : State) (n : Nat) (x : LockSt) : (s.setLock n x).cpOps = s.cpOps := rfl
@[simp] theorem State.setLock_round (s : State) (n : Nat) (x : LockSt) : (s.setLock n x).round = s.round := rfl
@[simp] theorem State.setLock_mstate (s : State) (n : Nat) (x : LockSt) : (s.setLock n x).mstate = s.mstate := rfl
@[simp] theorem State.setLock_stage (s : State) (n : Nat) (x : LockSt) : (s.setLock n x).stage = s.stage := rfl
@[simp] theorem State.setLock_object (s : State) (n : Nat) (x : LockSt) : (s.setLock n x).object = s.object := rfl
@[simp] theorem State.setLock_objLen (s : State) (n : Nat) (x : LockSt) : (s.setLock n x).objLen = s.objLen := rfl
@[simp] theorem State.setLock_objKind (s : State) (n : Nat) (x : LockSt) : (s.setLock n x).objKind = s.objKind := rfl
@[simp] theorem State.setLock_ldstate (s : State) (n : Nat) (x : LockSt) : (s.setLock n x).ldstate = s.ldstate := rfl
@[simp] theorem State.setLock_lderr (s : State) (n : Nat) (x : LockSt) : (s.setLock n x).lderr = s.lderr := rfl
@[simp] theorem State.setLock_ldchunk (s : State) (n : Nat) (x : LockSt) : (s.setLock n x).ldchunk = s.ldchunk := rfl
@[simp] theorem State.setLock_elwr (s : State) (n : Nat) (x : LockSt) : (s.setLock n x).elwr = s.elwr := rfl
@[simp] theorem State.setLock_elrd (s : State) (n : Nat) (x : LockSt) : (s.setLock n x).elrd = s.elrd := rfl
@[simp] theorem State.setLock_ellost (s : State) (n : Nat) (x : LockSt) : (s.setLock n x).ellost = s.ellost := rfl
@[simp] theorem State.setLock_errlog (s : State) (n : Nat) (x : LockSt) : (s.setLock n x).errlog = s.errlog := rfl
@[simp] theorem State.setLock_pcap (s : State) (n : Nat) (x : LockSt) : (s.setLock n x).pcap = s.pcap := rfl
@[simp] theorem State.setLock_mfloor (s : State) (n : Nat) (x : LockSt) : (s.setLock n x).mfloor = s.mfloor := rfl
@[simp] theorem State.setLock_tjmax (s : State) (n : Nat) (x : LockSt) : (s.setLock n x).tjmax = s.tjmax := rfl
@[simp] theorem State.setLock_nvf (s : State) (n : Nat) (x : LockSt) : (s.setLock n x).nvf = s.nvf := rfl
@[simp] theorem State.setLock_self (s : State) (n : Nat) (x : LockSt) : (s.setLock n x).self = s.self := rfl
@[simp] theorem State.setLock_portmap (s : State) (n : Nat) (x : LockSt) : (s.setLock n x).portmap = s.portmap := rfl
@[simp] theorem State.setLock_md (s : State) (n : Nat) (x : LockSt) : (s.setLock n x).md = s.md := rfl
@[simp] theorem State.setLock_bd (s : State) (n : Nat) (x : LockSt) : (s.setLock n x).bd = s.bd := rfl
@[simp] theorem State.setLock_govTime (s : State) (n : Nat) (x : LockSt) : (s.setLock n x).govTime = s.govTime := rfl
@[simp] theorem State.setLock_stopped (s : State) (n : Nat) (x : LockSt) : (s.setLock n x).stopped = s.stopped := rfl
@[simp] theorem State.setLock_brk (s : State) (n : Nat) (x : LockSt) : (s.setLock n x).brk = s.brk := rfl
@[simp] theorem State.setLock_plodor (s : State) (n : Nat) (x : LockSt) : (s.setLock n x).plodor = s.plodor := rfl
@[simp] theorem State.setLock_hostGot (s : State) (n : Nat) (x : LockSt) : (s.setLock n x).hostGot = s.hostGot := rfl
@[simp] theorem State.setLock_msix (s : State) (n : Nat) (x : LockSt) : (s.setLock n x).msix = s.msix := rfl
@[simp] theorem State.setLock_agenda (s : State) (n : Nat) (x : LockSt) : (s.setLock n x).agenda = s.agenda := rfl
@[simp] theorem State.setLock_args (s : State) (n : Nat) (x : LockSt) : (s.setLock n x).args = s.args := rfl
@[simp] theorem State.setLock_cur (s : State) (n : Nat) (x : LockSt) : (s.setLock n x).cur = s.cur := rfl
@[simp] theorem State.setLock_mv (s : State) (n : Nat) (x : LockSt) : (s.setLock n x).mv = s.mv := rfl
@[simp] theorem State.setLock_clk (s : State) (n : Nat) (x : LockSt) : (s.setLock n x).clk = s.clk := rfl
@[simp] theorem State.setLock_freeCtr (s : State) (n : Nat) (x : LockSt) : (s.setLock n x).freeCtr = s.freeCtr := rfl
@[simp] theorem State.setLock_nextId (s : State) (n : Nat) (x : LockSt) : (s.setLock n x).nextId = s.nextId := rfl
@[simp] theorem State.setLock_late (s : State) (n : Nat) (x : LockSt) : (s.setLock n x).late = s.late := rfl
@[simp] theorem State.setLock_reqs (s : State) (n : Nat) (x : LockSt) : (s.setLock n x).reqs = s.reqs := rfl
@[simp] theorem State.setLock_ops (s : State) (n : Nat) (x : LockSt) : (s.setLock n x).ops = s.ops := rfl
@[simp] theorem State.setLock_acks (s : State) (n : Nat) (x : LockSt) : (s.setLock n x).acks = s.acks := rfl
@[simp] theorem State.setLock_invs (s : State) (n : Nat) (x : LockSt) : (s.setLock n x).invs = s.invs := rfl
@[simp] theorem State.setLock_walks (s : State) (n : Nat) (x : LockSt) : (s.setLock n x).walks = s.walks := rfl
@[simp] theorem State.setLock_grants (s : State) (n : Nat) (x : LockSt) : (s.setLock n x).grants = s.grants := rfl
@[simp] theorem State.setLock_inbox (s : State) (n : Nat) (x : LockSt) : (s.setLock n x).inbox = s.inbox := rfl
@[simp] theorem State.setLock_missed (s : State) (n : Nat) (x : LockSt) : (s.setLock n x).missed = s.missed := rfl

@[simp] theorem State.lock_setLock_self (s : State) (n : Nat) (x : LockSt) : (s.setLock n x).lock n = x := by
  simp [State.lock, State.setLock]
theorem State.lock_setLock (s : State) (n m : Nat) (x : LockSt) : (s.setLock n x).lock m = if m = n then x else s.lock m := by
  simp only [State.lock, State.setLock, tget_tset]
@[simp] theorem State.setLock_core (s : State) (n m : Nat) (x : LockSt) : (s.setLock n x).core m = s.core m := rfl
@[simp] theorem State.setLock_team (s : State) (n m : Nat) (x : LockSt) : (s.setLock n x).team m = s.team m := rfl
@[simp] theorem State.setLock_slice (s : State) (n m : Nat) (x : LockSt) : (s.setLock n x).slice m = s.slice m := rfl
@[simp] theorem State.setLock_pump (s : State) (n m : Nat) (x : LockSt) : (s.setLock n x).pump m = s.pump m := rfl
@[simp] theorem State.setLock_bank (s : State) (n m : Nat) (x : LockSt) : (s.setLock n x).bank m = s.bank m := rfl
@[simp] theorem State.setLock_fn (s : State) (n m : Nat) (x : LockSt) : (s.setLock n x).fn m = s.fn m := rfl
@[simp] theorem State.setLock_req (s : State) (n m : Nat) (x : LockSt) : (s.setLock n x).req m = s.req m := rfl
@[simp] theorem State.setLock_op (s : State) (n m : Nat) (x : LockSt) : (s.setLock n x).op m = s.op m := rfl

-- setPump -----------------------------------------------------------------------------------------------------------------

@[simp] theorem State.setPump_cores (s : State) (n : Nat) (x : Pump) : (s.setPump n x).cores = s.cores := rfl
@[simp] theorem State.setPump_teams (s : State) (n : Nat) (x : Pump) : (s.setPump n x).teams = s.teams := rfl
@[simp] theorem State.setPump_slices (s : State) (n : Nat) (x : Pump) : (s.setPump n x).slices = s.slices := rfl
@[simp] theorem State.setPump_locks (s : State) (n : Nat) (x : Pump) : (s.setPump n x).locks = s.locks := rfl
@[simp] theorem State.setPump_dram (s : State) (n : Nat) (x : Pump) : (s.setPump n x).dram = s.dram := rfl
@[simp] theorem State.setPump_lineMeta (s : State) (n : Nat) (x : Pump) : (s.setPump n x).lineMeta = s.lineMeta := rfl
@[simp] theorem State.setPump_msc (s : State) (n : Nat) (x : Pump) : (s.setPump n x).msc = s.msc := rfl
@[simp] theorem State.setPump_upsets (s : State) (n : Nat) (x : Pump) : (s.setPump n x).upsets = s.upsets := rfl
@[simp] theorem State.setPump_banks (s : State) (n : Nat) (x : Pump) : (s.setPump n x).banks = s.banks := rfl
@[simp] theorem State.setPump_chans (s : State) (n : Nat) (x : Pump) : (s.setPump n x).chans = s.chans := rfl
@[simp] theorem State.setPump_chanClk (s : State) (n : Nat) (x : Pump) : (s.setPump n x).chanClk = s.chanClk := rfl
@[simp] theorem State.setPump_hostMem (s : State) (n : Nat) (x : Pump) : (s.setPump n x).hostMem = s.hostMem := rfl
@[simp] theorem State.setPump_peerMem (s : State) (n : Nat) (x : Pump) : (s.setPump n x).peerMem = s.peerMem := rfl
@[simp] theorem State.setPump_troot (s : State) (n : Nat) (x : Pump) : (s.setPump n x).troot = s.troot := rfl
@[simp] theorem State.setPump_access (s : State) (n : Nat) (x : Pump) : (s.setPump n x).access = s.access := rfl
@[simp] theorem State.setPump_polders (s : State) (n : Nat) (x : Pump) : (s.setPump n x).polders = s.polders := rfl
@[simp] theorem State.setPump_routes (s : State) (n : Nat) (x : Pump) : (s.setPump n x).routes = s.routes := rfl
@[simp] theorem State.setPump_rowDom (s : State) (n : Nat) (x : Pump) : (s.setPump n x).rowDom = s.rowDom := rfl
@[simp] theorem State.setPump_domains (s : State) (n : Nat) (x : Pump) : (s.setPump n x).domains = s.domains := rfl
@[simp] theorem State.setPump_keys (s : State) (n : Nat) (x : Pump) : (s.setPump n x).keys = s.keys := rfl
@[simp] theorem State.setPump_resetKey (s : State) (n : Nat) (x : Pump) : (s.setPump n x).resetKey = s.resetKey := rfl
@[simp] theorem State.setPump_fseq (s : State) (n : Nat) (x : Pump) : (s.setPump n x).fseq = s.fseq := rfl
@[simp] theorem State.setPump_parks (s : State) (n : Nat) (x : Pump) : (s.setPump n x).parks = s.parks := rfl
@[simp] theorem State.setPump_frecs (s : State) (n : Nat) (x : Pump) : (s.setPump n x).frecs = s.frecs := rfl
@[simp] theorem State.setPump_graphs (s : State) (n : Nat) (x : Pump) : (s.setPump n x).graphs = s.graphs := rfl
@[simp] theorem State.setPump_pool (s : State) (n : Nat) (x : Pump) : (s.setPump n x).pool = s.pool := rfl
@[simp] theorem State.setPump_poolWait (s : State) (n : Nat) (x : Pump) : (s.setPump n x).poolWait = s.poolWait := rfl
@[simp] theorem State.setPump_reserves (s : State) (n : Nat) (x : Pump) : (s.setPump n x).reserves = s.reserves := rfl
@[simp] theorem State.setPump_pumpRes (s : State) (n : Nat) (x : Pump) : (s.setPump n x).pumpRes = s.pumpRes := rfl
@[simp] theorem State.setPump_nextAge (s : State) (n : Nat) (x : Pump) : (s.setPump n x).nextAge = s.nextAge := rfl
@[simp] theorem State.setPump_scheds (s : State) (n : Nat) (x : Pump) : (s.setPump n x).scheds = s.scheds := rfl
@[simp] theorem State.setPump_rspd (s : State) (n : Nat) (x : Pump) : (s.setPump n x).rspd = s.rspd := rfl
@[simp] theorem State.setPump_ringlap (s : State) (n : Nat) (x : Pump) : (s.setPump n x).ringlap = s.ringlap := rfl
@[simp] theorem State.setPump_ring (s : State) (n : Nat) (x : Pump) : (s.setPump n x).ring = s.ring := rfl
@[simp] theorem State.setPump_ringSn (s : State) (n : Nat) (x : Pump) : (s.setPump n x).ringSn = s.ringSn := rfl
@[simp] theorem State.setPump_ringClk (s : State) (n : Nat) (x : Pump) : (s.setPump n x).ringClk = s.ringClk := rfl
@[simp] theorem State.setPump_ringPos (s : State) (n : Nat) (x : Pump) : (s.setPump n x).ringPos = s.ringPos := rfl
@[simp] theorem State.setPump_fns (s : State) (n : Nat) (x : Pump) : (s.setPump n x).fns = s.fns := rfl
@[simp] theorem State.setPump_jseq (s : State) (n : Nat) (x : Pump) : (s.setPump n x).jseq = s.jseq := rfl
@[simp] theorem State.setPump_journal (s : State) (n : Nat) (x : Pump) : (s.setPump n x).journal = s.journal := rfl
@[simp] theorem State.setPump_cmds (s : State) (n : Nat) (x : Pump) : (s.setPump n x).cmds = s.cmds := rfl
@[simp] theorem State.setPump_ending (s : State) (n : Nat) (x : Pump) : (s.setPump n x).ending = s.ending := rfl
@[simp] theorem State.setPump_cpOps (s : State) (n : Nat) (x : Pump) : (s.setPump n x).cpOps = s.cpOps := rfl
@[simp] theorem State.setPump_round (s : State) (n : Nat) (x : Pump) : (s.setPump n x).round = s.round := rfl
@[simp] theorem State.setPump_mstate (s : State) (n : Nat) (x : Pump) : (s.setPump n x).mstate = s.mstate := rfl
@[simp] theorem State.setPump_stage (s : State) (n : Nat) (x : Pump) : (s.setPump n x).stage = s.stage := rfl
@[simp] theorem State.setPump_object (s : State) (n : Nat) (x : Pump) : (s.setPump n x).object = s.object := rfl
@[simp] theorem State.setPump_objLen (s : State) (n : Nat) (x : Pump) : (s.setPump n x).objLen = s.objLen := rfl
@[simp] theorem State.setPump_objKind (s : State) (n : Nat) (x : Pump) : (s.setPump n x).objKind = s.objKind := rfl
@[simp] theorem State.setPump_ldstate (s : State) (n : Nat) (x : Pump) : (s.setPump n x).ldstate = s.ldstate := rfl
@[simp] theorem State.setPump_lderr (s : State) (n : Nat) (x : Pump) : (s.setPump n x).lderr = s.lderr := rfl
@[simp] theorem State.setPump_ldchunk (s : State) (n : Nat) (x : Pump) : (s.setPump n x).ldchunk = s.ldchunk := rfl
@[simp] theorem State.setPump_elwr (s : State) (n : Nat) (x : Pump) : (s.setPump n x).elwr = s.elwr := rfl
@[simp] theorem State.setPump_elrd (s : State) (n : Nat) (x : Pump) : (s.setPump n x).elrd = s.elrd := rfl
@[simp] theorem State.setPump_ellost (s : State) (n : Nat) (x : Pump) : (s.setPump n x).ellost = s.ellost := rfl
@[simp] theorem State.setPump_errlog (s : State) (n : Nat) (x : Pump) : (s.setPump n x).errlog = s.errlog := rfl
@[simp] theorem State.setPump_pcap (s : State) (n : Nat) (x : Pump) : (s.setPump n x).pcap = s.pcap := rfl
@[simp] theorem State.setPump_mfloor (s : State) (n : Nat) (x : Pump) : (s.setPump n x).mfloor = s.mfloor := rfl
@[simp] theorem State.setPump_tjmax (s : State) (n : Nat) (x : Pump) : (s.setPump n x).tjmax = s.tjmax := rfl
@[simp] theorem State.setPump_nvf (s : State) (n : Nat) (x : Pump) : (s.setPump n x).nvf = s.nvf := rfl
@[simp] theorem State.setPump_self (s : State) (n : Nat) (x : Pump) : (s.setPump n x).self = s.self := rfl
@[simp] theorem State.setPump_portmap (s : State) (n : Nat) (x : Pump) : (s.setPump n x).portmap = s.portmap := rfl
@[simp] theorem State.setPump_md (s : State) (n : Nat) (x : Pump) : (s.setPump n x).md = s.md := rfl
@[simp] theorem State.setPump_bd (s : State) (n : Nat) (x : Pump) : (s.setPump n x).bd = s.bd := rfl
@[simp] theorem State.setPump_govTime (s : State) (n : Nat) (x : Pump) : (s.setPump n x).govTime = s.govTime := rfl
@[simp] theorem State.setPump_stopped (s : State) (n : Nat) (x : Pump) : (s.setPump n x).stopped = s.stopped := rfl
@[simp] theorem State.setPump_brk (s : State) (n : Nat) (x : Pump) : (s.setPump n x).brk = s.brk := rfl
@[simp] theorem State.setPump_plodor (s : State) (n : Nat) (x : Pump) : (s.setPump n x).plodor = s.plodor := rfl
@[simp] theorem State.setPump_hostGot (s : State) (n : Nat) (x : Pump) : (s.setPump n x).hostGot = s.hostGot := rfl
@[simp] theorem State.setPump_msix (s : State) (n : Nat) (x : Pump) : (s.setPump n x).msix = s.msix := rfl
@[simp] theorem State.setPump_agenda (s : State) (n : Nat) (x : Pump) : (s.setPump n x).agenda = s.agenda := rfl
@[simp] theorem State.setPump_args (s : State) (n : Nat) (x : Pump) : (s.setPump n x).args = s.args := rfl
@[simp] theorem State.setPump_cur (s : State) (n : Nat) (x : Pump) : (s.setPump n x).cur = s.cur := rfl
@[simp] theorem State.setPump_mv (s : State) (n : Nat) (x : Pump) : (s.setPump n x).mv = s.mv := rfl
@[simp] theorem State.setPump_clk (s : State) (n : Nat) (x : Pump) : (s.setPump n x).clk = s.clk := rfl
@[simp] theorem State.setPump_freeCtr (s : State) (n : Nat) (x : Pump) : (s.setPump n x).freeCtr = s.freeCtr := rfl
@[simp] theorem State.setPump_nextId (s : State) (n : Nat) (x : Pump) : (s.setPump n x).nextId = s.nextId := rfl
@[simp] theorem State.setPump_late (s : State) (n : Nat) (x : Pump) : (s.setPump n x).late = s.late := rfl
@[simp] theorem State.setPump_reqs (s : State) (n : Nat) (x : Pump) : (s.setPump n x).reqs = s.reqs := rfl
@[simp] theorem State.setPump_ops (s : State) (n : Nat) (x : Pump) : (s.setPump n x).ops = s.ops := rfl
@[simp] theorem State.setPump_acks (s : State) (n : Nat) (x : Pump) : (s.setPump n x).acks = s.acks := rfl
@[simp] theorem State.setPump_invs (s : State) (n : Nat) (x : Pump) : (s.setPump n x).invs = s.invs := rfl
@[simp] theorem State.setPump_walks (s : State) (n : Nat) (x : Pump) : (s.setPump n x).walks = s.walks := rfl
@[simp] theorem State.setPump_grants (s : State) (n : Nat) (x : Pump) : (s.setPump n x).grants = s.grants := rfl
@[simp] theorem State.setPump_inbox (s : State) (n : Nat) (x : Pump) : (s.setPump n x).inbox = s.inbox := rfl
@[simp] theorem State.setPump_missed (s : State) (n : Nat) (x : Pump) : (s.setPump n x).missed = s.missed := rfl

@[simp] theorem State.pump_setPump_self (s : State) (n : Nat) (x : Pump) : (s.setPump n x).pump n = x := by
  simp [State.pump, State.setPump]
theorem State.pump_setPump (s : State) (n m : Nat) (x : Pump) : (s.setPump n x).pump m = if m = n then x else s.pump m := by
  simp only [State.pump, State.setPump, tget_tset]
@[simp] theorem State.setPump_core (s : State) (n m : Nat) (x : Pump) : (s.setPump n x).core m = s.core m := rfl
@[simp] theorem State.setPump_team (s : State) (n m : Nat) (x : Pump) : (s.setPump n x).team m = s.team m := rfl
@[simp] theorem State.setPump_slice (s : State) (n m : Nat) (x : Pump) : (s.setPump n x).slice m = s.slice m := rfl
@[simp] theorem State.setPump_lock (s : State) (n m : Nat) (x : Pump) : (s.setPump n x).lock m = s.lock m := rfl
@[simp] theorem State.setPump_bank (s : State) (n m : Nat) (x : Pump) : (s.setPump n x).bank m = s.bank m := rfl
@[simp] theorem State.setPump_fn (s : State) (n m : Nat) (x : Pump) : (s.setPump n x).fn m = s.fn m := rfl
@[simp] theorem State.setPump_req (s : State) (n m : Nat) (x : Pump) : (s.setPump n x).req m = s.req m := rfl
@[simp] theorem State.setPump_op (s : State) (n m : Nat) (x : Pump) : (s.setPump n x).op m = s.op m := rfl

-- setBank -----------------------------------------------------------------------------------------------------------------

@[simp] theorem State.setBank_cores (s : State) (n : Nat) (x : Bank) : (s.setBank n x).cores = s.cores := rfl
@[simp] theorem State.setBank_teams (s : State) (n : Nat) (x : Bank) : (s.setBank n x).teams = s.teams := rfl
@[simp] theorem State.setBank_slices (s : State) (n : Nat) (x : Bank) : (s.setBank n x).slices = s.slices := rfl
@[simp] theorem State.setBank_locks (s : State) (n : Nat) (x : Bank) : (s.setBank n x).locks = s.locks := rfl
@[simp] theorem State.setBank_dram (s : State) (n : Nat) (x : Bank) : (s.setBank n x).dram = s.dram := rfl
@[simp] theorem State.setBank_lineMeta (s : State) (n : Nat) (x : Bank) : (s.setBank n x).lineMeta = s.lineMeta := rfl
@[simp] theorem State.setBank_msc (s : State) (n : Nat) (x : Bank) : (s.setBank n x).msc = s.msc := rfl
@[simp] theorem State.setBank_upsets (s : State) (n : Nat) (x : Bank) : (s.setBank n x).upsets = s.upsets := rfl
@[simp] theorem State.setBank_chans (s : State) (n : Nat) (x : Bank) : (s.setBank n x).chans = s.chans := rfl
@[simp] theorem State.setBank_chanClk (s : State) (n : Nat) (x : Bank) : (s.setBank n x).chanClk = s.chanClk := rfl
@[simp] theorem State.setBank_pumps (s : State) (n : Nat) (x : Bank) : (s.setBank n x).pumps = s.pumps := rfl
@[simp] theorem State.setBank_hostMem (s : State) (n : Nat) (x : Bank) : (s.setBank n x).hostMem = s.hostMem := rfl
@[simp] theorem State.setBank_peerMem (s : State) (n : Nat) (x : Bank) : (s.setBank n x).peerMem = s.peerMem := rfl
@[simp] theorem State.setBank_troot (s : State) (n : Nat) (x : Bank) : (s.setBank n x).troot = s.troot := rfl
@[simp] theorem State.setBank_access (s : State) (n : Nat) (x : Bank) : (s.setBank n x).access = s.access := rfl
@[simp] theorem State.setBank_polders (s : State) (n : Nat) (x : Bank) : (s.setBank n x).polders = s.polders := rfl
@[simp] theorem State.setBank_routes (s : State) (n : Nat) (x : Bank) : (s.setBank n x).routes = s.routes := rfl
@[simp] theorem State.setBank_rowDom (s : State) (n : Nat) (x : Bank) : (s.setBank n x).rowDom = s.rowDom := rfl
@[simp] theorem State.setBank_domains (s : State) (n : Nat) (x : Bank) : (s.setBank n x).domains = s.domains := rfl
@[simp] theorem State.setBank_keys (s : State) (n : Nat) (x : Bank) : (s.setBank n x).keys = s.keys := rfl
@[simp] theorem State.setBank_resetKey (s : State) (n : Nat) (x : Bank) : (s.setBank n x).resetKey = s.resetKey := rfl
@[simp] theorem State.setBank_fseq (s : State) (n : Nat) (x : Bank) : (s.setBank n x).fseq = s.fseq := rfl
@[simp] theorem State.setBank_parks (s : State) (n : Nat) (x : Bank) : (s.setBank n x).parks = s.parks := rfl
@[simp] theorem State.setBank_frecs (s : State) (n : Nat) (x : Bank) : (s.setBank n x).frecs = s.frecs := rfl
@[simp] theorem State.setBank_graphs (s : State) (n : Nat) (x : Bank) : (s.setBank n x).graphs = s.graphs := rfl
@[simp] theorem State.setBank_pool (s : State) (n : Nat) (x : Bank) : (s.setBank n x).pool = s.pool := rfl
@[simp] theorem State.setBank_poolWait (s : State) (n : Nat) (x : Bank) : (s.setBank n x).poolWait = s.poolWait := rfl
@[simp] theorem State.setBank_reserves (s : State) (n : Nat) (x : Bank) : (s.setBank n x).reserves = s.reserves := rfl
@[simp] theorem State.setBank_pumpRes (s : State) (n : Nat) (x : Bank) : (s.setBank n x).pumpRes = s.pumpRes := rfl
@[simp] theorem State.setBank_nextAge (s : State) (n : Nat) (x : Bank) : (s.setBank n x).nextAge = s.nextAge := rfl
@[simp] theorem State.setBank_scheds (s : State) (n : Nat) (x : Bank) : (s.setBank n x).scheds = s.scheds := rfl
@[simp] theorem State.setBank_rspd (s : State) (n : Nat) (x : Bank) : (s.setBank n x).rspd = s.rspd := rfl
@[simp] theorem State.setBank_ringlap (s : State) (n : Nat) (x : Bank) : (s.setBank n x).ringlap = s.ringlap := rfl
@[simp] theorem State.setBank_ring (s : State) (n : Nat) (x : Bank) : (s.setBank n x).ring = s.ring := rfl
@[simp] theorem State.setBank_ringSn (s : State) (n : Nat) (x : Bank) : (s.setBank n x).ringSn = s.ringSn := rfl
@[simp] theorem State.setBank_ringClk (s : State) (n : Nat) (x : Bank) : (s.setBank n x).ringClk = s.ringClk := rfl
@[simp] theorem State.setBank_ringPos (s : State) (n : Nat) (x : Bank) : (s.setBank n x).ringPos = s.ringPos := rfl
@[simp] theorem State.setBank_fns (s : State) (n : Nat) (x : Bank) : (s.setBank n x).fns = s.fns := rfl
@[simp] theorem State.setBank_jseq (s : State) (n : Nat) (x : Bank) : (s.setBank n x).jseq = s.jseq := rfl
@[simp] theorem State.setBank_journal (s : State) (n : Nat) (x : Bank) : (s.setBank n x).journal = s.journal := rfl
@[simp] theorem State.setBank_cmds (s : State) (n : Nat) (x : Bank) : (s.setBank n x).cmds = s.cmds := rfl
@[simp] theorem State.setBank_ending (s : State) (n : Nat) (x : Bank) : (s.setBank n x).ending = s.ending := rfl
@[simp] theorem State.setBank_cpOps (s : State) (n : Nat) (x : Bank) : (s.setBank n x).cpOps = s.cpOps := rfl
@[simp] theorem State.setBank_round (s : State) (n : Nat) (x : Bank) : (s.setBank n x).round = s.round := rfl
@[simp] theorem State.setBank_mstate (s : State) (n : Nat) (x : Bank) : (s.setBank n x).mstate = s.mstate := rfl
@[simp] theorem State.setBank_stage (s : State) (n : Nat) (x : Bank) : (s.setBank n x).stage = s.stage := rfl
@[simp] theorem State.setBank_object (s : State) (n : Nat) (x : Bank) : (s.setBank n x).object = s.object := rfl
@[simp] theorem State.setBank_objLen (s : State) (n : Nat) (x : Bank) : (s.setBank n x).objLen = s.objLen := rfl
@[simp] theorem State.setBank_objKind (s : State) (n : Nat) (x : Bank) : (s.setBank n x).objKind = s.objKind := rfl
@[simp] theorem State.setBank_ldstate (s : State) (n : Nat) (x : Bank) : (s.setBank n x).ldstate = s.ldstate := rfl
@[simp] theorem State.setBank_lderr (s : State) (n : Nat) (x : Bank) : (s.setBank n x).lderr = s.lderr := rfl
@[simp] theorem State.setBank_ldchunk (s : State) (n : Nat) (x : Bank) : (s.setBank n x).ldchunk = s.ldchunk := rfl
@[simp] theorem State.setBank_elwr (s : State) (n : Nat) (x : Bank) : (s.setBank n x).elwr = s.elwr := rfl
@[simp] theorem State.setBank_elrd (s : State) (n : Nat) (x : Bank) : (s.setBank n x).elrd = s.elrd := rfl
@[simp] theorem State.setBank_ellost (s : State) (n : Nat) (x : Bank) : (s.setBank n x).ellost = s.ellost := rfl
@[simp] theorem State.setBank_errlog (s : State) (n : Nat) (x : Bank) : (s.setBank n x).errlog = s.errlog := rfl
@[simp] theorem State.setBank_pcap (s : State) (n : Nat) (x : Bank) : (s.setBank n x).pcap = s.pcap := rfl
@[simp] theorem State.setBank_mfloor (s : State) (n : Nat) (x : Bank) : (s.setBank n x).mfloor = s.mfloor := rfl
@[simp] theorem State.setBank_tjmax (s : State) (n : Nat) (x : Bank) : (s.setBank n x).tjmax = s.tjmax := rfl
@[simp] theorem State.setBank_nvf (s : State) (n : Nat) (x : Bank) : (s.setBank n x).nvf = s.nvf := rfl
@[simp] theorem State.setBank_self (s : State) (n : Nat) (x : Bank) : (s.setBank n x).self = s.self := rfl
@[simp] theorem State.setBank_portmap (s : State) (n : Nat) (x : Bank) : (s.setBank n x).portmap = s.portmap := rfl
@[simp] theorem State.setBank_md (s : State) (n : Nat) (x : Bank) : (s.setBank n x).md = s.md := rfl
@[simp] theorem State.setBank_bd (s : State) (n : Nat) (x : Bank) : (s.setBank n x).bd = s.bd := rfl
@[simp] theorem State.setBank_govTime (s : State) (n : Nat) (x : Bank) : (s.setBank n x).govTime = s.govTime := rfl
@[simp] theorem State.setBank_stopped (s : State) (n : Nat) (x : Bank) : (s.setBank n x).stopped = s.stopped := rfl
@[simp] theorem State.setBank_brk (s : State) (n : Nat) (x : Bank) : (s.setBank n x).brk = s.brk := rfl
@[simp] theorem State.setBank_plodor (s : State) (n : Nat) (x : Bank) : (s.setBank n x).plodor = s.plodor := rfl
@[simp] theorem State.setBank_hostGot (s : State) (n : Nat) (x : Bank) : (s.setBank n x).hostGot = s.hostGot := rfl
@[simp] theorem State.setBank_msix (s : State) (n : Nat) (x : Bank) : (s.setBank n x).msix = s.msix := rfl
@[simp] theorem State.setBank_agenda (s : State) (n : Nat) (x : Bank) : (s.setBank n x).agenda = s.agenda := rfl
@[simp] theorem State.setBank_args (s : State) (n : Nat) (x : Bank) : (s.setBank n x).args = s.args := rfl
@[simp] theorem State.setBank_cur (s : State) (n : Nat) (x : Bank) : (s.setBank n x).cur = s.cur := rfl
@[simp] theorem State.setBank_mv (s : State) (n : Nat) (x : Bank) : (s.setBank n x).mv = s.mv := rfl
@[simp] theorem State.setBank_clk (s : State) (n : Nat) (x : Bank) : (s.setBank n x).clk = s.clk := rfl
@[simp] theorem State.setBank_freeCtr (s : State) (n : Nat) (x : Bank) : (s.setBank n x).freeCtr = s.freeCtr := rfl
@[simp] theorem State.setBank_nextId (s : State) (n : Nat) (x : Bank) : (s.setBank n x).nextId = s.nextId := rfl
@[simp] theorem State.setBank_late (s : State) (n : Nat) (x : Bank) : (s.setBank n x).late = s.late := rfl
@[simp] theorem State.setBank_reqs (s : State) (n : Nat) (x : Bank) : (s.setBank n x).reqs = s.reqs := rfl
@[simp] theorem State.setBank_ops (s : State) (n : Nat) (x : Bank) : (s.setBank n x).ops = s.ops := rfl
@[simp] theorem State.setBank_acks (s : State) (n : Nat) (x : Bank) : (s.setBank n x).acks = s.acks := rfl
@[simp] theorem State.setBank_invs (s : State) (n : Nat) (x : Bank) : (s.setBank n x).invs = s.invs := rfl
@[simp] theorem State.setBank_walks (s : State) (n : Nat) (x : Bank) : (s.setBank n x).walks = s.walks := rfl
@[simp] theorem State.setBank_grants (s : State) (n : Nat) (x : Bank) : (s.setBank n x).grants = s.grants := rfl
@[simp] theorem State.setBank_inbox (s : State) (n : Nat) (x : Bank) : (s.setBank n x).inbox = s.inbox := rfl
@[simp] theorem State.setBank_missed (s : State) (n : Nat) (x : Bank) : (s.setBank n x).missed = s.missed := rfl

@[simp] theorem State.bank_setBank_self (s : State) (n : Nat) (x : Bank) : (s.setBank n x).bank n = x := by
  simp [State.bank, State.setBank]
theorem State.bank_setBank (s : State) (n m : Nat) (x : Bank) : (s.setBank n x).bank m = if m = n then x else s.bank m := by
  simp only [State.bank, State.setBank, tget_tset]
@[simp] theorem State.setBank_core (s : State) (n m : Nat) (x : Bank) : (s.setBank n x).core m = s.core m := rfl
@[simp] theorem State.setBank_team (s : State) (n m : Nat) (x : Bank) : (s.setBank n x).team m = s.team m := rfl
@[simp] theorem State.setBank_slice (s : State) (n m : Nat) (x : Bank) : (s.setBank n x).slice m = s.slice m := rfl
@[simp] theorem State.setBank_lock (s : State) (n m : Nat) (x : Bank) : (s.setBank n x).lock m = s.lock m := rfl
@[simp] theorem State.setBank_pump (s : State) (n m : Nat) (x : Bank) : (s.setBank n x).pump m = s.pump m := rfl
@[simp] theorem State.setBank_fn (s : State) (n m : Nat) (x : Bank) : (s.setBank n x).fn m = s.fn m := rfl
@[simp] theorem State.setBank_req (s : State) (n m : Nat) (x : Bank) : (s.setBank n x).req m = s.req m := rfl
@[simp] theorem State.setBank_op (s : State) (n m : Nat) (x : Bank) : (s.setBank n x).op m = s.op m := rfl

-- setFn -----------------------------------------------------------------------------------------------------------------

@[simp] theorem State.setFn_cores (s : State) (n : Nat) (x : Fn) : (s.setFn n x).cores = s.cores := rfl
@[simp] theorem State.setFn_teams (s : State) (n : Nat) (x : Fn) : (s.setFn n x).teams = s.teams := rfl
@[simp] theorem State.setFn_slices (s : State) (n : Nat) (x : Fn) : (s.setFn n x).slices = s.slices := rfl
@[simp] theorem State.setFn_locks (s : State) (n : Nat) (x : Fn) : (s.setFn n x).locks = s.locks := rfl
@[simp] theorem State.setFn_dram (s : State) (n : Nat) (x : Fn) : (s.setFn n x).dram = s.dram := rfl
@[simp] theorem State.setFn_lineMeta (s : State) (n : Nat) (x : Fn) : (s.setFn n x).lineMeta = s.lineMeta := rfl
@[simp] theorem State.setFn_msc (s : State) (n : Nat) (x : Fn) : (s.setFn n x).msc = s.msc := rfl
@[simp] theorem State.setFn_upsets (s : State) (n : Nat) (x : Fn) : (s.setFn n x).upsets = s.upsets := rfl
@[simp] theorem State.setFn_banks (s : State) (n : Nat) (x : Fn) : (s.setFn n x).banks = s.banks := rfl
@[simp] theorem State.setFn_chans (s : State) (n : Nat) (x : Fn) : (s.setFn n x).chans = s.chans := rfl
@[simp] theorem State.setFn_chanClk (s : State) (n : Nat) (x : Fn) : (s.setFn n x).chanClk = s.chanClk := rfl
@[simp] theorem State.setFn_pumps (s : State) (n : Nat) (x : Fn) : (s.setFn n x).pumps = s.pumps := rfl
@[simp] theorem State.setFn_hostMem (s : State) (n : Nat) (x : Fn) : (s.setFn n x).hostMem = s.hostMem := rfl
@[simp] theorem State.setFn_peerMem (s : State) (n : Nat) (x : Fn) : (s.setFn n x).peerMem = s.peerMem := rfl
@[simp] theorem State.setFn_troot (s : State) (n : Nat) (x : Fn) : (s.setFn n x).troot = s.troot := rfl
@[simp] theorem State.setFn_access (s : State) (n : Nat) (x : Fn) : (s.setFn n x).access = s.access := rfl
@[simp] theorem State.setFn_polders (s : State) (n : Nat) (x : Fn) : (s.setFn n x).polders = s.polders := rfl
@[simp] theorem State.setFn_routes (s : State) (n : Nat) (x : Fn) : (s.setFn n x).routes = s.routes := rfl
@[simp] theorem State.setFn_rowDom (s : State) (n : Nat) (x : Fn) : (s.setFn n x).rowDom = s.rowDom := rfl
@[simp] theorem State.setFn_domains (s : State) (n : Nat) (x : Fn) : (s.setFn n x).domains = s.domains := rfl
@[simp] theorem State.setFn_keys (s : State) (n : Nat) (x : Fn) : (s.setFn n x).keys = s.keys := rfl
@[simp] theorem State.setFn_resetKey (s : State) (n : Nat) (x : Fn) : (s.setFn n x).resetKey = s.resetKey := rfl
@[simp] theorem State.setFn_fseq (s : State) (n : Nat) (x : Fn) : (s.setFn n x).fseq = s.fseq := rfl
@[simp] theorem State.setFn_parks (s : State) (n : Nat) (x : Fn) : (s.setFn n x).parks = s.parks := rfl
@[simp] theorem State.setFn_frecs (s : State) (n : Nat) (x : Fn) : (s.setFn n x).frecs = s.frecs := rfl
@[simp] theorem State.setFn_graphs (s : State) (n : Nat) (x : Fn) : (s.setFn n x).graphs = s.graphs := rfl
@[simp] theorem State.setFn_pool (s : State) (n : Nat) (x : Fn) : (s.setFn n x).pool = s.pool := rfl
@[simp] theorem State.setFn_poolWait (s : State) (n : Nat) (x : Fn) : (s.setFn n x).poolWait = s.poolWait := rfl
@[simp] theorem State.setFn_reserves (s : State) (n : Nat) (x : Fn) : (s.setFn n x).reserves = s.reserves := rfl
@[simp] theorem State.setFn_pumpRes (s : State) (n : Nat) (x : Fn) : (s.setFn n x).pumpRes = s.pumpRes := rfl
@[simp] theorem State.setFn_nextAge (s : State) (n : Nat) (x : Fn) : (s.setFn n x).nextAge = s.nextAge := rfl
@[simp] theorem State.setFn_scheds (s : State) (n : Nat) (x : Fn) : (s.setFn n x).scheds = s.scheds := rfl
@[simp] theorem State.setFn_rspd (s : State) (n : Nat) (x : Fn) : (s.setFn n x).rspd = s.rspd := rfl
@[simp] theorem State.setFn_ringlap (s : State) (n : Nat) (x : Fn) : (s.setFn n x).ringlap = s.ringlap := rfl
@[simp] theorem State.setFn_ring (s : State) (n : Nat) (x : Fn) : (s.setFn n x).ring = s.ring := rfl
@[simp] theorem State.setFn_ringSn (s : State) (n : Nat) (x : Fn) : (s.setFn n x).ringSn = s.ringSn := rfl
@[simp] theorem State.setFn_ringClk (s : State) (n : Nat) (x : Fn) : (s.setFn n x).ringClk = s.ringClk := rfl
@[simp] theorem State.setFn_ringPos (s : State) (n : Nat) (x : Fn) : (s.setFn n x).ringPos = s.ringPos := rfl
@[simp] theorem State.setFn_jseq (s : State) (n : Nat) (x : Fn) : (s.setFn n x).jseq = s.jseq := rfl
@[simp] theorem State.setFn_journal (s : State) (n : Nat) (x : Fn) : (s.setFn n x).journal = s.journal := rfl
@[simp] theorem State.setFn_cmds (s : State) (n : Nat) (x : Fn) : (s.setFn n x).cmds = s.cmds := rfl
@[simp] theorem State.setFn_ending (s : State) (n : Nat) (x : Fn) : (s.setFn n x).ending = s.ending := rfl
@[simp] theorem State.setFn_cpOps (s : State) (n : Nat) (x : Fn) : (s.setFn n x).cpOps = s.cpOps := rfl
@[simp] theorem State.setFn_round (s : State) (n : Nat) (x : Fn) : (s.setFn n x).round = s.round := rfl
@[simp] theorem State.setFn_mstate (s : State) (n : Nat) (x : Fn) : (s.setFn n x).mstate = s.mstate := rfl
@[simp] theorem State.setFn_stage (s : State) (n : Nat) (x : Fn) : (s.setFn n x).stage = s.stage := rfl
@[simp] theorem State.setFn_object (s : State) (n : Nat) (x : Fn) : (s.setFn n x).object = s.object := rfl
@[simp] theorem State.setFn_objLen (s : State) (n : Nat) (x : Fn) : (s.setFn n x).objLen = s.objLen := rfl
@[simp] theorem State.setFn_objKind (s : State) (n : Nat) (x : Fn) : (s.setFn n x).objKind = s.objKind := rfl
@[simp] theorem State.setFn_ldstate (s : State) (n : Nat) (x : Fn) : (s.setFn n x).ldstate = s.ldstate := rfl
@[simp] theorem State.setFn_lderr (s : State) (n : Nat) (x : Fn) : (s.setFn n x).lderr = s.lderr := rfl
@[simp] theorem State.setFn_ldchunk (s : State) (n : Nat) (x : Fn) : (s.setFn n x).ldchunk = s.ldchunk := rfl
@[simp] theorem State.setFn_elwr (s : State) (n : Nat) (x : Fn) : (s.setFn n x).elwr = s.elwr := rfl
@[simp] theorem State.setFn_elrd (s : State) (n : Nat) (x : Fn) : (s.setFn n x).elrd = s.elrd := rfl
@[simp] theorem State.setFn_ellost (s : State) (n : Nat) (x : Fn) : (s.setFn n x).ellost = s.ellost := rfl
@[simp] theorem State.setFn_errlog (s : State) (n : Nat) (x : Fn) : (s.setFn n x).errlog = s.errlog := rfl
@[simp] theorem State.setFn_pcap (s : State) (n : Nat) (x : Fn) : (s.setFn n x).pcap = s.pcap := rfl
@[simp] theorem State.setFn_mfloor (s : State) (n : Nat) (x : Fn) : (s.setFn n x).mfloor = s.mfloor := rfl
@[simp] theorem State.setFn_tjmax (s : State) (n : Nat) (x : Fn) : (s.setFn n x).tjmax = s.tjmax := rfl
@[simp] theorem State.setFn_nvf (s : State) (n : Nat) (x : Fn) : (s.setFn n x).nvf = s.nvf := rfl
@[simp] theorem State.setFn_self (s : State) (n : Nat) (x : Fn) : (s.setFn n x).self = s.self := rfl
@[simp] theorem State.setFn_portmap (s : State) (n : Nat) (x : Fn) : (s.setFn n x).portmap = s.portmap := rfl
@[simp] theorem State.setFn_md (s : State) (n : Nat) (x : Fn) : (s.setFn n x).md = s.md := rfl
@[simp] theorem State.setFn_bd (s : State) (n : Nat) (x : Fn) : (s.setFn n x).bd = s.bd := rfl
@[simp] theorem State.setFn_govTime (s : State) (n : Nat) (x : Fn) : (s.setFn n x).govTime = s.govTime := rfl
@[simp] theorem State.setFn_stopped (s : State) (n : Nat) (x : Fn) : (s.setFn n x).stopped = s.stopped := rfl
@[simp] theorem State.setFn_brk (s : State) (n : Nat) (x : Fn) : (s.setFn n x).brk = s.brk := rfl
@[simp] theorem State.setFn_plodor (s : State) (n : Nat) (x : Fn) : (s.setFn n x).plodor = s.plodor := rfl
@[simp] theorem State.setFn_hostGot (s : State) (n : Nat) (x : Fn) : (s.setFn n x).hostGot = s.hostGot := rfl
@[simp] theorem State.setFn_msix (s : State) (n : Nat) (x : Fn) : (s.setFn n x).msix = s.msix := rfl
@[simp] theorem State.setFn_agenda (s : State) (n : Nat) (x : Fn) : (s.setFn n x).agenda = s.agenda := rfl
@[simp] theorem State.setFn_args (s : State) (n : Nat) (x : Fn) : (s.setFn n x).args = s.args := rfl
@[simp] theorem State.setFn_cur (s : State) (n : Nat) (x : Fn) : (s.setFn n x).cur = s.cur := rfl
@[simp] theorem State.setFn_mv (s : State) (n : Nat) (x : Fn) : (s.setFn n x).mv = s.mv := rfl
@[simp] theorem State.setFn_clk (s : State) (n : Nat) (x : Fn) : (s.setFn n x).clk = s.clk := rfl
@[simp] theorem State.setFn_freeCtr (s : State) (n : Nat) (x : Fn) : (s.setFn n x).freeCtr = s.freeCtr := rfl
@[simp] theorem State.setFn_nextId (s : State) (n : Nat) (x : Fn) : (s.setFn n x).nextId = s.nextId := rfl
@[simp] theorem State.setFn_late (s : State) (n : Nat) (x : Fn) : (s.setFn n x).late = s.late := rfl
@[simp] theorem State.setFn_reqs (s : State) (n : Nat) (x : Fn) : (s.setFn n x).reqs = s.reqs := rfl
@[simp] theorem State.setFn_ops (s : State) (n : Nat) (x : Fn) : (s.setFn n x).ops = s.ops := rfl
@[simp] theorem State.setFn_acks (s : State) (n : Nat) (x : Fn) : (s.setFn n x).acks = s.acks := rfl
@[simp] theorem State.setFn_invs (s : State) (n : Nat) (x : Fn) : (s.setFn n x).invs = s.invs := rfl
@[simp] theorem State.setFn_walks (s : State) (n : Nat) (x : Fn) : (s.setFn n x).walks = s.walks := rfl
@[simp] theorem State.setFn_grants (s : State) (n : Nat) (x : Fn) : (s.setFn n x).grants = s.grants := rfl
@[simp] theorem State.setFn_inbox (s : State) (n : Nat) (x : Fn) : (s.setFn n x).inbox = s.inbox := rfl
@[simp] theorem State.setFn_missed (s : State) (n : Nat) (x : Fn) : (s.setFn n x).missed = s.missed := rfl

@[simp] theorem State.fn_setFn_self (s : State) (n : Nat) (x : Fn) : (s.setFn n x).fn n = x := by
  simp [State.fn, State.setFn]
theorem State.fn_setFn (s : State) (n m : Nat) (x : Fn) : (s.setFn n x).fn m = if m = n then x else s.fn m := by
  simp only [State.fn, State.setFn, tget_tset]
@[simp] theorem State.setFn_core (s : State) (n m : Nat) (x : Fn) : (s.setFn n x).core m = s.core m := rfl
@[simp] theorem State.setFn_team (s : State) (n m : Nat) (x : Fn) : (s.setFn n x).team m = s.team m := rfl
@[simp] theorem State.setFn_slice (s : State) (n m : Nat) (x : Fn) : (s.setFn n x).slice m = s.slice m := rfl
@[simp] theorem State.setFn_lock (s : State) (n m : Nat) (x : Fn) : (s.setFn n x).lock m = s.lock m := rfl
@[simp] theorem State.setFn_pump (s : State) (n m : Nat) (x : Fn) : (s.setFn n x).pump m = s.pump m := rfl
@[simp] theorem State.setFn_bank (s : State) (n m : Nat) (x : Fn) : (s.setFn n x).bank m = s.bank m := rfl
@[simp] theorem State.setFn_req (s : State) (n m : Nat) (x : Fn) : (s.setFn n x).req m = s.req m := rfl
@[simp] theorem State.setFn_op (s : State) (n m : Nat) (x : Fn) : (s.setFn n x).op m = s.op m := rfl

-- setReq -----------------------------------------------------------------------------------------------------------------

@[simp] theorem State.setReq_cores (s : State) (n : Nat) (x : Option Req) : (s.setReq n x).cores = s.cores := rfl
@[simp] theorem State.setReq_teams (s : State) (n : Nat) (x : Option Req) : (s.setReq n x).teams = s.teams := rfl
@[simp] theorem State.setReq_slices (s : State) (n : Nat) (x : Option Req) : (s.setReq n x).slices = s.slices := rfl
@[simp] theorem State.setReq_locks (s : State) (n : Nat) (x : Option Req) : (s.setReq n x).locks = s.locks := rfl
@[simp] theorem State.setReq_dram (s : State) (n : Nat) (x : Option Req) : (s.setReq n x).dram = s.dram := rfl
@[simp] theorem State.setReq_lineMeta (s : State) (n : Nat) (x : Option Req) : (s.setReq n x).lineMeta = s.lineMeta := rfl
@[simp] theorem State.setReq_msc (s : State) (n : Nat) (x : Option Req) : (s.setReq n x).msc = s.msc := rfl
@[simp] theorem State.setReq_upsets (s : State) (n : Nat) (x : Option Req) : (s.setReq n x).upsets = s.upsets := rfl
@[simp] theorem State.setReq_banks (s : State) (n : Nat) (x : Option Req) : (s.setReq n x).banks = s.banks := rfl
@[simp] theorem State.setReq_chans (s : State) (n : Nat) (x : Option Req) : (s.setReq n x).chans = s.chans := rfl
@[simp] theorem State.setReq_chanClk (s : State) (n : Nat) (x : Option Req) : (s.setReq n x).chanClk = s.chanClk := rfl
@[simp] theorem State.setReq_pumps (s : State) (n : Nat) (x : Option Req) : (s.setReq n x).pumps = s.pumps := rfl
@[simp] theorem State.setReq_hostMem (s : State) (n : Nat) (x : Option Req) : (s.setReq n x).hostMem = s.hostMem := rfl
@[simp] theorem State.setReq_peerMem (s : State) (n : Nat) (x : Option Req) : (s.setReq n x).peerMem = s.peerMem := rfl
@[simp] theorem State.setReq_troot (s : State) (n : Nat) (x : Option Req) : (s.setReq n x).troot = s.troot := rfl
@[simp] theorem State.setReq_access (s : State) (n : Nat) (x : Option Req) : (s.setReq n x).access = s.access := rfl
@[simp] theorem State.setReq_polders (s : State) (n : Nat) (x : Option Req) : (s.setReq n x).polders = s.polders := rfl
@[simp] theorem State.setReq_routes (s : State) (n : Nat) (x : Option Req) : (s.setReq n x).routes = s.routes := rfl
@[simp] theorem State.setReq_rowDom (s : State) (n : Nat) (x : Option Req) : (s.setReq n x).rowDom = s.rowDom := rfl
@[simp] theorem State.setReq_domains (s : State) (n : Nat) (x : Option Req) : (s.setReq n x).domains = s.domains := rfl
@[simp] theorem State.setReq_keys (s : State) (n : Nat) (x : Option Req) : (s.setReq n x).keys = s.keys := rfl
@[simp] theorem State.setReq_resetKey (s : State) (n : Nat) (x : Option Req) : (s.setReq n x).resetKey = s.resetKey := rfl
@[simp] theorem State.setReq_fseq (s : State) (n : Nat) (x : Option Req) : (s.setReq n x).fseq = s.fseq := rfl
@[simp] theorem State.setReq_parks (s : State) (n : Nat) (x : Option Req) : (s.setReq n x).parks = s.parks := rfl
@[simp] theorem State.setReq_frecs (s : State) (n : Nat) (x : Option Req) : (s.setReq n x).frecs = s.frecs := rfl
@[simp] theorem State.setReq_graphs (s : State) (n : Nat) (x : Option Req) : (s.setReq n x).graphs = s.graphs := rfl
@[simp] theorem State.setReq_pool (s : State) (n : Nat) (x : Option Req) : (s.setReq n x).pool = s.pool := rfl
@[simp] theorem State.setReq_poolWait (s : State) (n : Nat) (x : Option Req) : (s.setReq n x).poolWait = s.poolWait := rfl
@[simp] theorem State.setReq_reserves (s : State) (n : Nat) (x : Option Req) : (s.setReq n x).reserves = s.reserves := rfl
@[simp] theorem State.setReq_pumpRes (s : State) (n : Nat) (x : Option Req) : (s.setReq n x).pumpRes = s.pumpRes := rfl
@[simp] theorem State.setReq_nextAge (s : State) (n : Nat) (x : Option Req) : (s.setReq n x).nextAge = s.nextAge := rfl
@[simp] theorem State.setReq_scheds (s : State) (n : Nat) (x : Option Req) : (s.setReq n x).scheds = s.scheds := rfl
@[simp] theorem State.setReq_rspd (s : State) (n : Nat) (x : Option Req) : (s.setReq n x).rspd = s.rspd := rfl
@[simp] theorem State.setReq_ringlap (s : State) (n : Nat) (x : Option Req) : (s.setReq n x).ringlap = s.ringlap := rfl
@[simp] theorem State.setReq_ring (s : State) (n : Nat) (x : Option Req) : (s.setReq n x).ring = s.ring := rfl
@[simp] theorem State.setReq_ringSn (s : State) (n : Nat) (x : Option Req) : (s.setReq n x).ringSn = s.ringSn := rfl
@[simp] theorem State.setReq_ringClk (s : State) (n : Nat) (x : Option Req) : (s.setReq n x).ringClk = s.ringClk := rfl
@[simp] theorem State.setReq_ringPos (s : State) (n : Nat) (x : Option Req) : (s.setReq n x).ringPos = s.ringPos := rfl
@[simp] theorem State.setReq_fns (s : State) (n : Nat) (x : Option Req) : (s.setReq n x).fns = s.fns := rfl
@[simp] theorem State.setReq_jseq (s : State) (n : Nat) (x : Option Req) : (s.setReq n x).jseq = s.jseq := rfl
@[simp] theorem State.setReq_journal (s : State) (n : Nat) (x : Option Req) : (s.setReq n x).journal = s.journal := rfl
@[simp] theorem State.setReq_cmds (s : State) (n : Nat) (x : Option Req) : (s.setReq n x).cmds = s.cmds := rfl
@[simp] theorem State.setReq_ending (s : State) (n : Nat) (x : Option Req) : (s.setReq n x).ending = s.ending := rfl
@[simp] theorem State.setReq_cpOps (s : State) (n : Nat) (x : Option Req) : (s.setReq n x).cpOps = s.cpOps := rfl
@[simp] theorem State.setReq_round (s : State) (n : Nat) (x : Option Req) : (s.setReq n x).round = s.round := rfl
@[simp] theorem State.setReq_mstate (s : State) (n : Nat) (x : Option Req) : (s.setReq n x).mstate = s.mstate := rfl
@[simp] theorem State.setReq_stage (s : State) (n : Nat) (x : Option Req) : (s.setReq n x).stage = s.stage := rfl
@[simp] theorem State.setReq_object (s : State) (n : Nat) (x : Option Req) : (s.setReq n x).object = s.object := rfl
@[simp] theorem State.setReq_objLen (s : State) (n : Nat) (x : Option Req) : (s.setReq n x).objLen = s.objLen := rfl
@[simp] theorem State.setReq_objKind (s : State) (n : Nat) (x : Option Req) : (s.setReq n x).objKind = s.objKind := rfl
@[simp] theorem State.setReq_ldstate (s : State) (n : Nat) (x : Option Req) : (s.setReq n x).ldstate = s.ldstate := rfl
@[simp] theorem State.setReq_lderr (s : State) (n : Nat) (x : Option Req) : (s.setReq n x).lderr = s.lderr := rfl
@[simp] theorem State.setReq_ldchunk (s : State) (n : Nat) (x : Option Req) : (s.setReq n x).ldchunk = s.ldchunk := rfl
@[simp] theorem State.setReq_elwr (s : State) (n : Nat) (x : Option Req) : (s.setReq n x).elwr = s.elwr := rfl
@[simp] theorem State.setReq_elrd (s : State) (n : Nat) (x : Option Req) : (s.setReq n x).elrd = s.elrd := rfl
@[simp] theorem State.setReq_ellost (s : State) (n : Nat) (x : Option Req) : (s.setReq n x).ellost = s.ellost := rfl
@[simp] theorem State.setReq_errlog (s : State) (n : Nat) (x : Option Req) : (s.setReq n x).errlog = s.errlog := rfl
@[simp] theorem State.setReq_pcap (s : State) (n : Nat) (x : Option Req) : (s.setReq n x).pcap = s.pcap := rfl
@[simp] theorem State.setReq_mfloor (s : State) (n : Nat) (x : Option Req) : (s.setReq n x).mfloor = s.mfloor := rfl
@[simp] theorem State.setReq_tjmax (s : State) (n : Nat) (x : Option Req) : (s.setReq n x).tjmax = s.tjmax := rfl
@[simp] theorem State.setReq_nvf (s : State) (n : Nat) (x : Option Req) : (s.setReq n x).nvf = s.nvf := rfl
@[simp] theorem State.setReq_self (s : State) (n : Nat) (x : Option Req) : (s.setReq n x).self = s.self := rfl
@[simp] theorem State.setReq_portmap (s : State) (n : Nat) (x : Option Req) : (s.setReq n x).portmap = s.portmap := rfl
@[simp] theorem State.setReq_md (s : State) (n : Nat) (x : Option Req) : (s.setReq n x).md = s.md := rfl
@[simp] theorem State.setReq_bd (s : State) (n : Nat) (x : Option Req) : (s.setReq n x).bd = s.bd := rfl
@[simp] theorem State.setReq_govTime (s : State) (n : Nat) (x : Option Req) : (s.setReq n x).govTime = s.govTime := rfl
@[simp] theorem State.setReq_stopped (s : State) (n : Nat) (x : Option Req) : (s.setReq n x).stopped = s.stopped := rfl
@[simp] theorem State.setReq_brk (s : State) (n : Nat) (x : Option Req) : (s.setReq n x).brk = s.brk := rfl
@[simp] theorem State.setReq_plodor (s : State) (n : Nat) (x : Option Req) : (s.setReq n x).plodor = s.plodor := rfl
@[simp] theorem State.setReq_hostGot (s : State) (n : Nat) (x : Option Req) : (s.setReq n x).hostGot = s.hostGot := rfl
@[simp] theorem State.setReq_msix (s : State) (n : Nat) (x : Option Req) : (s.setReq n x).msix = s.msix := rfl
@[simp] theorem State.setReq_agenda (s : State) (n : Nat) (x : Option Req) : (s.setReq n x).agenda = s.agenda := rfl
@[simp] theorem State.setReq_args (s : State) (n : Nat) (x : Option Req) : (s.setReq n x).args = s.args := rfl
@[simp] theorem State.setReq_cur (s : State) (n : Nat) (x : Option Req) : (s.setReq n x).cur = s.cur := rfl
@[simp] theorem State.setReq_mv (s : State) (n : Nat) (x : Option Req) : (s.setReq n x).mv = s.mv := rfl
@[simp] theorem State.setReq_clk (s : State) (n : Nat) (x : Option Req) : (s.setReq n x).clk = s.clk := rfl
@[simp] theorem State.setReq_freeCtr (s : State) (n : Nat) (x : Option Req) : (s.setReq n x).freeCtr = s.freeCtr := rfl
@[simp] theorem State.setReq_nextId (s : State) (n : Nat) (x : Option Req) : (s.setReq n x).nextId = s.nextId := rfl
@[simp] theorem State.setReq_late (s : State) (n : Nat) (x : Option Req) : (s.setReq n x).late = s.late := rfl
@[simp] theorem State.setReq_ops (s : State) (n : Nat) (x : Option Req) : (s.setReq n x).ops = s.ops := rfl
@[simp] theorem State.setReq_acks (s : State) (n : Nat) (x : Option Req) : (s.setReq n x).acks = s.acks := rfl
@[simp] theorem State.setReq_invs (s : State) (n : Nat) (x : Option Req) : (s.setReq n x).invs = s.invs := rfl
@[simp] theorem State.setReq_walks (s : State) (n : Nat) (x : Option Req) : (s.setReq n x).walks = s.walks := rfl
@[simp] theorem State.setReq_grants (s : State) (n : Nat) (x : Option Req) : (s.setReq n x).grants = s.grants := rfl
@[simp] theorem State.setReq_inbox (s : State) (n : Nat) (x : Option Req) : (s.setReq n x).inbox = s.inbox := rfl
@[simp] theorem State.setReq_missed (s : State) (n : Nat) (x : Option Req) : (s.setReq n x).missed = s.missed := rfl

@[simp] theorem State.req_setReq_self (s : State) (n : Nat) (x : Option Req) : (s.setReq n x).req n = x := by
  simp [State.req, State.setReq]
theorem State.req_setReq (s : State) (n m : Nat) (x : Option Req) : (s.setReq n x).req m = if m = n then x else s.req m := by
  simp only [State.req, State.setReq, tget_tset]
@[simp] theorem State.setReq_core (s : State) (n m : Nat) (x : Option Req) : (s.setReq n x).core m = s.core m := rfl
@[simp] theorem State.setReq_team (s : State) (n m : Nat) (x : Option Req) : (s.setReq n x).team m = s.team m := rfl
@[simp] theorem State.setReq_slice (s : State) (n m : Nat) (x : Option Req) : (s.setReq n x).slice m = s.slice m := rfl
@[simp] theorem State.setReq_lock (s : State) (n m : Nat) (x : Option Req) : (s.setReq n x).lock m = s.lock m := rfl
@[simp] theorem State.setReq_pump (s : State) (n m : Nat) (x : Option Req) : (s.setReq n x).pump m = s.pump m := rfl
@[simp] theorem State.setReq_bank (s : State) (n m : Nat) (x : Option Req) : (s.setReq n x).bank m = s.bank m := rfl
@[simp] theorem State.setReq_fn (s : State) (n m : Nat) (x : Option Req) : (s.setReq n x).fn m = s.fn m := rfl
@[simp] theorem State.setReq_op (s : State) (n m : Nat) (x : Option Req) : (s.setReq n x).op m = s.op m := rfl

-- setOp -----------------------------------------------------------------------------------------------------------------

@[simp] theorem State.setOp_cores (s : State) (n : Nat) (x : Option Op) : (s.setOp n x).cores = s.cores := rfl
@[simp] theorem State.setOp_teams (s : State) (n : Nat) (x : Option Op) : (s.setOp n x).teams = s.teams := rfl
@[simp] theorem State.setOp_slices (s : State) (n : Nat) (x : Option Op) : (s.setOp n x).slices = s.slices := rfl
@[simp] theorem State.setOp_locks (s : State) (n : Nat) (x : Option Op) : (s.setOp n x).locks = s.locks := rfl
@[simp] theorem State.setOp_dram (s : State) (n : Nat) (x : Option Op) : (s.setOp n x).dram = s.dram := rfl
@[simp] theorem State.setOp_lineMeta (s : State) (n : Nat) (x : Option Op) : (s.setOp n x).lineMeta = s.lineMeta := rfl
@[simp] theorem State.setOp_msc (s : State) (n : Nat) (x : Option Op) : (s.setOp n x).msc = s.msc := rfl
@[simp] theorem State.setOp_upsets (s : State) (n : Nat) (x : Option Op) : (s.setOp n x).upsets = s.upsets := rfl
@[simp] theorem State.setOp_banks (s : State) (n : Nat) (x : Option Op) : (s.setOp n x).banks = s.banks := rfl
@[simp] theorem State.setOp_chans (s : State) (n : Nat) (x : Option Op) : (s.setOp n x).chans = s.chans := rfl
@[simp] theorem State.setOp_chanClk (s : State) (n : Nat) (x : Option Op) : (s.setOp n x).chanClk = s.chanClk := rfl
@[simp] theorem State.setOp_pumps (s : State) (n : Nat) (x : Option Op) : (s.setOp n x).pumps = s.pumps := rfl
@[simp] theorem State.setOp_hostMem (s : State) (n : Nat) (x : Option Op) : (s.setOp n x).hostMem = s.hostMem := rfl
@[simp] theorem State.setOp_peerMem (s : State) (n : Nat) (x : Option Op) : (s.setOp n x).peerMem = s.peerMem := rfl
@[simp] theorem State.setOp_troot (s : State) (n : Nat) (x : Option Op) : (s.setOp n x).troot = s.troot := rfl
@[simp] theorem State.setOp_access (s : State) (n : Nat) (x : Option Op) : (s.setOp n x).access = s.access := rfl
@[simp] theorem State.setOp_polders (s : State) (n : Nat) (x : Option Op) : (s.setOp n x).polders = s.polders := rfl
@[simp] theorem State.setOp_routes (s : State) (n : Nat) (x : Option Op) : (s.setOp n x).routes = s.routes := rfl
@[simp] theorem State.setOp_rowDom (s : State) (n : Nat) (x : Option Op) : (s.setOp n x).rowDom = s.rowDom := rfl
@[simp] theorem State.setOp_domains (s : State) (n : Nat) (x : Option Op) : (s.setOp n x).domains = s.domains := rfl
@[simp] theorem State.setOp_keys (s : State) (n : Nat) (x : Option Op) : (s.setOp n x).keys = s.keys := rfl
@[simp] theorem State.setOp_resetKey (s : State) (n : Nat) (x : Option Op) : (s.setOp n x).resetKey = s.resetKey := rfl
@[simp] theorem State.setOp_fseq (s : State) (n : Nat) (x : Option Op) : (s.setOp n x).fseq = s.fseq := rfl
@[simp] theorem State.setOp_parks (s : State) (n : Nat) (x : Option Op) : (s.setOp n x).parks = s.parks := rfl
@[simp] theorem State.setOp_frecs (s : State) (n : Nat) (x : Option Op) : (s.setOp n x).frecs = s.frecs := rfl
@[simp] theorem State.setOp_graphs (s : State) (n : Nat) (x : Option Op) : (s.setOp n x).graphs = s.graphs := rfl
@[simp] theorem State.setOp_pool (s : State) (n : Nat) (x : Option Op) : (s.setOp n x).pool = s.pool := rfl
@[simp] theorem State.setOp_poolWait (s : State) (n : Nat) (x : Option Op) : (s.setOp n x).poolWait = s.poolWait := rfl
@[simp] theorem State.setOp_reserves (s : State) (n : Nat) (x : Option Op) : (s.setOp n x).reserves = s.reserves := rfl
@[simp] theorem State.setOp_pumpRes (s : State) (n : Nat) (x : Option Op) : (s.setOp n x).pumpRes = s.pumpRes := rfl
@[simp] theorem State.setOp_nextAge (s : State) (n : Nat) (x : Option Op) : (s.setOp n x).nextAge = s.nextAge := rfl
@[simp] theorem State.setOp_scheds (s : State) (n : Nat) (x : Option Op) : (s.setOp n x).scheds = s.scheds := rfl
@[simp] theorem State.setOp_rspd (s : State) (n : Nat) (x : Option Op) : (s.setOp n x).rspd = s.rspd := rfl
@[simp] theorem State.setOp_ringlap (s : State) (n : Nat) (x : Option Op) : (s.setOp n x).ringlap = s.ringlap := rfl
@[simp] theorem State.setOp_ring (s : State) (n : Nat) (x : Option Op) : (s.setOp n x).ring = s.ring := rfl
@[simp] theorem State.setOp_ringSn (s : State) (n : Nat) (x : Option Op) : (s.setOp n x).ringSn = s.ringSn := rfl
@[simp] theorem State.setOp_ringClk (s : State) (n : Nat) (x : Option Op) : (s.setOp n x).ringClk = s.ringClk := rfl
@[simp] theorem State.setOp_ringPos (s : State) (n : Nat) (x : Option Op) : (s.setOp n x).ringPos = s.ringPos := rfl
@[simp] theorem State.setOp_fns (s : State) (n : Nat) (x : Option Op) : (s.setOp n x).fns = s.fns := rfl
@[simp] theorem State.setOp_jseq (s : State) (n : Nat) (x : Option Op) : (s.setOp n x).jseq = s.jseq := rfl
@[simp] theorem State.setOp_journal (s : State) (n : Nat) (x : Option Op) : (s.setOp n x).journal = s.journal := rfl
@[simp] theorem State.setOp_cmds (s : State) (n : Nat) (x : Option Op) : (s.setOp n x).cmds = s.cmds := rfl
@[simp] theorem State.setOp_ending (s : State) (n : Nat) (x : Option Op) : (s.setOp n x).ending = s.ending := rfl
@[simp] theorem State.setOp_cpOps (s : State) (n : Nat) (x : Option Op) : (s.setOp n x).cpOps = s.cpOps := rfl
@[simp] theorem State.setOp_round (s : State) (n : Nat) (x : Option Op) : (s.setOp n x).round = s.round := rfl
@[simp] theorem State.setOp_mstate (s : State) (n : Nat) (x : Option Op) : (s.setOp n x).mstate = s.mstate := rfl
@[simp] theorem State.setOp_stage (s : State) (n : Nat) (x : Option Op) : (s.setOp n x).stage = s.stage := rfl
@[simp] theorem State.setOp_object (s : State) (n : Nat) (x : Option Op) : (s.setOp n x).object = s.object := rfl
@[simp] theorem State.setOp_objLen (s : State) (n : Nat) (x : Option Op) : (s.setOp n x).objLen = s.objLen := rfl
@[simp] theorem State.setOp_objKind (s : State) (n : Nat) (x : Option Op) : (s.setOp n x).objKind = s.objKind := rfl
@[simp] theorem State.setOp_ldstate (s : State) (n : Nat) (x : Option Op) : (s.setOp n x).ldstate = s.ldstate := rfl
@[simp] theorem State.setOp_lderr (s : State) (n : Nat) (x : Option Op) : (s.setOp n x).lderr = s.lderr := rfl
@[simp] theorem State.setOp_ldchunk (s : State) (n : Nat) (x : Option Op) : (s.setOp n x).ldchunk = s.ldchunk := rfl
@[simp] theorem State.setOp_elwr (s : State) (n : Nat) (x : Option Op) : (s.setOp n x).elwr = s.elwr := rfl
@[simp] theorem State.setOp_elrd (s : State) (n : Nat) (x : Option Op) : (s.setOp n x).elrd = s.elrd := rfl
@[simp] theorem State.setOp_ellost (s : State) (n : Nat) (x : Option Op) : (s.setOp n x).ellost = s.ellost := rfl
@[simp] theorem State.setOp_errlog (s : State) (n : Nat) (x : Option Op) : (s.setOp n x).errlog = s.errlog := rfl
@[simp] theorem State.setOp_pcap (s : State) (n : Nat) (x : Option Op) : (s.setOp n x).pcap = s.pcap := rfl
@[simp] theorem State.setOp_mfloor (s : State) (n : Nat) (x : Option Op) : (s.setOp n x).mfloor = s.mfloor := rfl
@[simp] theorem State.setOp_tjmax (s : State) (n : Nat) (x : Option Op) : (s.setOp n x).tjmax = s.tjmax := rfl
@[simp] theorem State.setOp_nvf (s : State) (n : Nat) (x : Option Op) : (s.setOp n x).nvf = s.nvf := rfl
@[simp] theorem State.setOp_self (s : State) (n : Nat) (x : Option Op) : (s.setOp n x).self = s.self := rfl
@[simp] theorem State.setOp_portmap (s : State) (n : Nat) (x : Option Op) : (s.setOp n x).portmap = s.portmap := rfl
@[simp] theorem State.setOp_md (s : State) (n : Nat) (x : Option Op) : (s.setOp n x).md = s.md := rfl
@[simp] theorem State.setOp_bd (s : State) (n : Nat) (x : Option Op) : (s.setOp n x).bd = s.bd := rfl
@[simp] theorem State.setOp_govTime (s : State) (n : Nat) (x : Option Op) : (s.setOp n x).govTime = s.govTime := rfl
@[simp] theorem State.setOp_stopped (s : State) (n : Nat) (x : Option Op) : (s.setOp n x).stopped = s.stopped := rfl
@[simp] theorem State.setOp_brk (s : State) (n : Nat) (x : Option Op) : (s.setOp n x).brk = s.brk := rfl
@[simp] theorem State.setOp_plodor (s : State) (n : Nat) (x : Option Op) : (s.setOp n x).plodor = s.plodor := rfl
@[simp] theorem State.setOp_hostGot (s : State) (n : Nat) (x : Option Op) : (s.setOp n x).hostGot = s.hostGot := rfl
@[simp] theorem State.setOp_msix (s : State) (n : Nat) (x : Option Op) : (s.setOp n x).msix = s.msix := rfl
@[simp] theorem State.setOp_agenda (s : State) (n : Nat) (x : Option Op) : (s.setOp n x).agenda = s.agenda := rfl
@[simp] theorem State.setOp_args (s : State) (n : Nat) (x : Option Op) : (s.setOp n x).args = s.args := rfl
@[simp] theorem State.setOp_cur (s : State) (n : Nat) (x : Option Op) : (s.setOp n x).cur = s.cur := rfl
@[simp] theorem State.setOp_mv (s : State) (n : Nat) (x : Option Op) : (s.setOp n x).mv = s.mv := rfl
@[simp] theorem State.setOp_clk (s : State) (n : Nat) (x : Option Op) : (s.setOp n x).clk = s.clk := rfl
@[simp] theorem State.setOp_freeCtr (s : State) (n : Nat) (x : Option Op) : (s.setOp n x).freeCtr = s.freeCtr := rfl
@[simp] theorem State.setOp_nextId (s : State) (n : Nat) (x : Option Op) : (s.setOp n x).nextId = s.nextId := rfl
@[simp] theorem State.setOp_late (s : State) (n : Nat) (x : Option Op) : (s.setOp n x).late = s.late := rfl
@[simp] theorem State.setOp_reqs (s : State) (n : Nat) (x : Option Op) : (s.setOp n x).reqs = s.reqs := rfl
@[simp] theorem State.setOp_acks (s : State) (n : Nat) (x : Option Op) : (s.setOp n x).acks = s.acks := rfl
@[simp] theorem State.setOp_invs (s : State) (n : Nat) (x : Option Op) : (s.setOp n x).invs = s.invs := rfl
@[simp] theorem State.setOp_walks (s : State) (n : Nat) (x : Option Op) : (s.setOp n x).walks = s.walks := rfl
@[simp] theorem State.setOp_grants (s : State) (n : Nat) (x : Option Op) : (s.setOp n x).grants = s.grants := rfl
@[simp] theorem State.setOp_inbox (s : State) (n : Nat) (x : Option Op) : (s.setOp n x).inbox = s.inbox := rfl
@[simp] theorem State.setOp_missed (s : State) (n : Nat) (x : Option Op) : (s.setOp n x).missed = s.missed := rfl

@[simp] theorem State.op_setOp_self (s : State) (n : Nat) (x : Option Op) : (s.setOp n x).op n = x := by
  simp [State.op, State.setOp]
theorem State.op_setOp (s : State) (n m : Nat) (x : Option Op) : (s.setOp n x).op m = if m = n then x else s.op m := by
  simp only [State.op, State.setOp, tget_tset]
@[simp] theorem State.setOp_core (s : State) (n m : Nat) (x : Option Op) : (s.setOp n x).core m = s.core m := rfl
@[simp] theorem State.setOp_team (s : State) (n m : Nat) (x : Option Op) : (s.setOp n x).team m = s.team m := rfl
@[simp] theorem State.setOp_slice (s : State) (n m : Nat) (x : Option Op) : (s.setOp n x).slice m = s.slice m := rfl
@[simp] theorem State.setOp_lock (s : State) (n m : Nat) (x : Option Op) : (s.setOp n x).lock m = s.lock m := rfl
@[simp] theorem State.setOp_pump (s : State) (n m : Nat) (x : Option Op) : (s.setOp n x).pump m = s.pump m := rfl
@[simp] theorem State.setOp_bank (s : State) (n m : Nat) (x : Option Op) : (s.setOp n x).bank m = s.bank m := rfl
@[simp] theorem State.setOp_fn (s : State) (n m : Nat) (x : Option Op) : (s.setOp n x).fn m = s.fn m := rfl
@[simp] theorem State.setOp_req (s : State) (n m : Nat) (x : Option Op) : (s.setOp n x).req m = s.req m := rfl

-- parts of parts -------------------------------------------------------------------------------------------------------------

theorem State.modCore_eq (s : State) (n : Nat) (f : Core → Core) : s.modCore n f = s.setCore n (f (s.core n)) := rfl
theorem State.modTeam_eq (s : State) (n : Nat) (f : Team → Team) : s.modTeam n f = s.setTeam n (f (s.team n)) := rfl
theorem State.modPump_eq (s : State) (n : Nat) (f : Pump → Pump) : s.modPump n f = s.setPump n (f (s.pump n)) := rfl
theorem State.setCoh_eq (s : State) (t c : Nat) (x : Cohort) : s.setCoh t c x = s.setTeam t ((s.team t).setCoh c x) := rfl
theorem State.modCoh_eq (s : State) (t c : Nat) (f : Cohort → Cohort) : s.modCoh t c f = s.setCoh t c (f (s.coh t c)) := rfl

@[simp] theorem State.coh_setCoh_self (s : State) (t c : Nat) (x : Cohort) : (s.setCoh t c x).coh t c = x := by
  simp [State.coh, State.setCoh, State.modTeam, Team.setCoh]

theorem State.coh_setCoh (s : State) (t c t' c' : Nat) (x : Cohort) :
    (s.setCoh t c x).coh t' c' = if t' = t ∧ c' = c then x else s.coh t' c' := by
  by_cases ht : t' = t
  · subst ht; by_cases hc : c' = c <;> simp [State.coh, State.setCoh, State.modTeam, Team.setCoh, tget_tset, hc]
  · simp [State.coh, State.setCoh, State.modTeam, State.team_setTeam, ht]

@[simp] theorem State.setCoh_core (s : State) (t c n : Nat) (x : Cohort) : (s.setCoh t c x).core n = s.core n := rfl
@[simp] theorem State.setCoh_cur (s : State) (t c : Nat) (x : Cohort) : (s.setCoh t c x).cur = s.cur := rfl
@[simp] theorem State.setCoh_teamCore (s : State) (t c k : Nat) (x : Cohort) : ((s.setCoh t c x).team k).core = (s.team k).core := by
  simp only [State.setCoh, State.modTeam, State.team_setTeam, Team.setCoh]; split <;> simp_all
@[simp] theorem State.modCore_coh (s : State) (n t c : Nat) (f : Core → Core) : (s.modCore n f).coh t c = s.coh t c := rfl
@[simp] theorem State.setCore_coh (s : State) (n t c : Nat) (x : Core) : (s.setCore n x).coh t c = s.coh t c := rfl
@[simp] theorem State.modCore_team (s : State) (n t : Nat) (f : Core → Core) : (s.modCore n f).team t = s.team t := rfl

end Sys2Proof.Machine
end

