-- ==== Sys2Proof/Laws/Words.lean ====
section
/-!
SUPPORT. Laws/Words.lean: what the shared operations of an issued word can do: writes of v, s and predicate registers, the advance of
the group, and the end of a word.
-/
namespace Sys2Proof.Machine

-- what stays ------------------------------------------------------------------------------------------------------------------

theorem Stays.refl (tid c : Nat) (s : State) : Stays tid c s s := ⟨rfl, fun _ _ => rfl, rfl, fun _ _ => rfl, fun _ => rfl⟩

theorem butTeams_butTeams (u t s : State) : (u.butTeams t).butTeams s = u.butTeams s := rfl
theorem butCohs_butCohs (u t s : Team) : (u.butCohs t).butCohs s = u.butCohs s := rfl
theorem butRf_butRf (u t s : Core) : (u.butRf t).butRf s = u.butRf s := rfl

theorem Stays.trans {tid c : Nat} {s t u : State} (h : Stays tid c s t) (k : Stays tid c t u) : Stays tid c s u where
  rest := by rw [← butTeams_butTeams u t s, k.rest, h.rest]
  teams := fun n hn => (k.teams n hn).trans (h.teams n hn)
  team := by rw [← butCohs_butCohs _ (t.team tid), k.team, h.team]
  cohs := fun n hn => (k.cohs n hn).trans (h.cohs n hn)
  cores := fun n => by rw [← butRf_butRf _ (t.core n), k.cores n, h.cores n]

theorem Stays.cur {tid c : Nat} {s t : State} (h : Stays tid c s t) : t.cur = s.cur :=
  show (t.butTeams s).cur = s.cur by rw [h.rest]

theorem butCohs_core (t u : Team) : (t.butCohs u).core = t.core := rfl

theorem Stays.teamCore {tid c : Nat} {s t : State} (h : Stays tid c s t) (k : Nat) : (t.team k).core = (s.team k).core := by
  by_cases hk : k = tid
  · subst hk; rw [← butCohs_core _ (s.team k), h.team]
  · rw [h.teams k hk]

/-- A change of the cohort itself. -/
theorem stays_modCoh (s : State) (tid c : Nat) (f : Cohort → Cohort) : Stays tid c s (s.modCoh tid c f) where
  rest := rfl
  teams := fun k hk => by simp [State.modCoh, State.setCoh, State.modTeam, State.team_setTeam, hk]
  team := by simp [State.modCoh, State.setCoh, State.modTeam, Team.setCoh, Team.butCohs]
  cohs := fun k hk => by simp [State.modCoh, State.coh_setCoh, hk]
  cores := fun _ => rfl

@[simp] theorem coh_modCoh_self (s : State) (tid c : Nat) (f : Cohort → Cohort) : (s.modCoh tid c f).coh tid c = f (s.coh tid c) := by
  simp [State.modCoh]

@[simp] theorem core_modCoh (s : State) (tid c n : Nat) (f : Cohort → Cohort) : (s.modCoh tid c f).core n = s.core n := rfl
@[simp] theorem cur_modCoh (s : State) (tid c : Nat) (f : Cohort → Cohort) : (s.modCoh tid c f).cur = s.cur := rfl

-- v registers -------------------------------------------------------------------------------------------------------------------

/-- A cohort with its pre-clock values replaced. -/
def Cohort.putPre (c : Cohort) (p : Option Pre) : Cohort := { c with pre := p }

theorem putPre_putPre (c : Cohort) (p q : Option Pre) : (c.putPre p).putPre q = c.putPre q := rfl

/-- From s to t the register file gets x at one place, and only the cohort's pre-clock values may change beside it. -/
structure Writes (tid c : Nat) (s t : State) (key : Nat) (x : BitVec 128) : Prop where
  stays : Stays tid c s t
  coh : (t.coh tid c).putPre (s.coh tid c).pre = s.coh tid c
  rf : ∀ n k, tget 0 (t.core n).rf k = if n = (s.team tid).core ∧ k = key then x else tget 0 (s.core n).rf k

/-- A write of the register file alone. -/
theorem writes_modCore (s u : State) (tid c key : Nat) (x : BitVec 128) (hu : Stays tid c s u) (hc : u.cores = s.cores)
    (hp : (u.coh tid c).putPre (s.coh tid c).pre = s.coh tid c) :
    Writes tid c s (u.modCore (u.team tid).core (fun m => { m with rf := tset 0 m.rf key x })) key x where
  stays := {
    rest := hu.rest
    teams := hu.teams
    team := hu.team
    cohs := hu.cohs
    cores := fun n => by
      have core : u.core n = s.core n := by simp [State.core, hc]
      by_cases hn : n = (u.team tid).core
      · subst hn; simp [State.modCore, core, Core.butRf]
      · simp [State.modCore, State.core_setCore, hn, core, Core.butRf] }
  coh := hp
  rf := fun n k => by
    have core : u.core n = s.core n := by simp [State.core, hc]
    rw [← hu.teamCore]
    by_cases hn : n = (u.team tid).core
    · subst hn; simp [State.modCore, core, tget_tset]
    · simp [State.modCore, State.core_setCore, hn, core]

/-- One write of a v register. -/
theorem vset_writes (s : State) (tid c l r : Nat) (x : BitVec 128) :
    Writes tid c s (s.vset tid c l r x) ((s.coh tid c).rfKey l r) x := by
  cases hpre : (s.coh tid c).pre with
  | none =>
    have e : s.vset tid c l r x =
        s.modCore (s.team tid).core (fun m => { m with rf := tset 0 m.rf ((s.coh tid c).rfKey l r) x }) := by
      simp only [State.vset, hpre]
    rw [e]; exact writes_modCore s s tid c _ x (Stays.refl ..) rfl rfl
  | some p =>
    by_cases hp : (tget none p.v ((s.coh tid c).rfKey l r)).isSome = true
    · have e : s.vset tid c l r x =
          s.modCore (s.team tid).core (fun m => { m with rf := tset 0 m.rf ((s.coh tid c).rfKey l r) x }) := by
        simp only [State.vset, hpre, hp, if_true]
      rw [e]; exact writes_modCore s s tid c _ x (Stays.refl ..) rfl rfl
    · let q : Option Pre := some { p with v := tset none p.v ((s.coh tid c).rfKey l r) (some (s.vget tid c l r)) }
      have e : s.vset tid c l r x = (s.modCoh tid c (fun h => h.putPre q)).modCore
          ((s.modCoh tid c (fun h => h.putPre q)).team tid).core
          (fun m => { m with rf := tset 0 m.rf ((s.coh tid c).rfKey l r) x }) := by
        simp only [State.vset, hpre, hp, if_false, Bool.false_eq_true]; rfl
      rw [e]
      exact writes_modCore s _ tid c _ x (stays_modCoh s tid c _) rfl (by simp only [coh_modCoh_self]; rfl)

theorem rfKey_putPre (c : Cohort) (p : Option Pre) (l r : Nat) : (c.putPre p).rfKey l r = c.rfKey l r := rfl

/-- A register's places in different lanes differ. -/
theorem rfKey_lane {c : Cohort} {l m r q : Nat} (hl : l < 32) (hm : m < 32) (h : c.rfKey l r = c.rfKey m q) : l = m := by
  unfold Cohort.rfKey at h; omega

theorem rfKey_writes {tid c : Nat} {s t : State} {key : Nat} {x : BitVec 128} (h : Writes tid c s t key x) (l r : Nat) :
    (t.coh tid c).rfKey l r = (s.coh tid c).rfKey l r := by
  rw [← rfKey_putPre _ (s.coh tid c).pre, h.coh]

/-- What the register file holds at a place after writes of one register in a list of lanes, the last one prevailing. -/
def written (c : Cohort) (r k : Nat) : List (Nat × BitVec 128) → BitVec 128 → BitVec 128
  | [], y => y
  | x :: ls, y => written c r k ls (if k = c.rfKey x.1 r then x.2 else y)

/-- From s to t a register of the issuing cohort has been written in some lanes. -/
structure WritesAll (s t : State) (r : Nat) (ls : List (Nat × BitVec 128)) : Prop where
  stays : Stays s.cur.tid s.cur.coh s t
  coh : (t.coh s.cur.tid s.cur.coh).putPre s.me.pre = s.me
  rf : ∀ n k, tget 0 (t.core n).rf k =
    if n = s.myTeam.core then written s.me r k ls (tget 0 (s.core n).rf k) else tget 0 (s.core n).rf k

theorem setVs_writes (s : State) (r : Nat) (ls : List (Nat × BitVec 128)) :
    WritesAll s (ls.foldl (fun s x => s.setV x.1 r x.2) s) r ls := by
  induction ls generalizing s with
  | nil => exact ⟨Stays.refl .., rfl, fun n k => by simp [written]⟩
  | cons x ls ih =>
    have h : Writes s.cur.tid s.cur.coh s (s.setV x.1 r x.2) (s.me.rfKey x.1 r) x.2 := vset_writes ..
    have hcur : (s.setV x.1 r x.2).cur = s.cur := h.stays.cur
    have ih := ih (s.setV x.1 r x.2)
    have hfin := ih.stays
    rw [hcur] at hfin
    have hme : (s.setV x.1 r x.2).me = (s.setV x.1 r x.2).coh s.cur.tid s.cur.coh := by rw [State.me, hcur]
    refine ⟨h.stays.trans hfin, ?_, fun n k => ?_⟩
    · have h1 := ih.coh
      rw [hme, hcur] at h1
      rw [List.foldl_cons, ← putPre_putPre, h1]
      exact h.coh
    · have key (l : Nat) : (s.setV x.1 r x.2).me.rfKey l r = s.me.rfKey l r := by rw [hme]; exact rfKey_writes h l r
      have hw (ls : List (Nat × BitVec 128)) (y : BitVec 128) : written (s.setV x.1 r x.2).me r k ls y = written s.me r k ls y := by
        induction ls generalizing y with
        | nil => rfl
        | cons z ls ih => simp only [written, key, ih]
      have ht : (s.setV x.1 r x.2).myTeam.core = s.myTeam.core := by
        rw [State.myTeam, hcur]; exact h.stays.teamCore _
      simp only [List.foldl_cons]
      rw [ih.rf n k, ht, hw, h.rf n k]
      by_cases hn : n = s.myTeam.core
      · have hn' : n = (s.team s.cur.tid).core := hn
        simp only [hn, written, if_true]
        by_cases hk : k = s.me.rfKey x.1 r
        · simp [hk, State.myTeam]
        · simp [hk]
      · have hn' : ¬n = (s.team s.cur.tid).core := hn
        simp [hn, hn']

theorem WritesAll.me {s t : State} {r : Nat} {ls : List (Nat × BitVec 128)} (h : WritesAll s t r ls) :
    t.me.putPre s.me.pre = s.me := by
  rw [State.me, h.stays.cur]; exact h.coh

theorem written_none {c : Cohort} {r k : Nat} {ls : List (Nat × BitVec 128)} (y : BitVec 128)
    (h : ∀ x ∈ ls, k ≠ c.rfKey x.1 r) : written c r k ls y = y := by
  induction ls with
  | nil => rfl
  | cons x ls ih =>
    rw [written, if_neg (h x (List.mem_cons_self ..)), ih (fun z hz => h z (List.mem_cons_of_mem _ hz))]

theorem written_lane {c : Cohort} {r l : Nat} {ls : List Nat} {f : Nat → BitVec 128} (y : BitVec 128) (hl : l < 32)
    (hls : ∀ m ∈ ls, m < 32) (hmem : l ∈ ls) : written c r (c.rfKey l r) (ls.map (fun m => (m, f m))) y = f l := by
  induction ls generalizing y with
  | nil => simp at hmem
  | cons m ls ih =>
    simp only [List.map_cons, written]
    have hls' : ∀ n ∈ ls, n < 32 := fun n hn => hls n (List.mem_cons_of_mem _ hn)
    by_cases hin : l ∈ ls
    · exact ih _ hls' hin
    · have : l = m := by simpa [hin] using hmem
      subst this
      rw [if_pos rfl]
      refine written_none _ (fun x hx => ?_)
      obtain ⟨n, hn, rfl⟩ := List.mem_map.1 hx
      intro hk
      exact hin (rfKey_lane hl (hls' n hn) hk ▸ hn)

theorem mem_lanesOf {g : Lanes} {l : Nat} : l ∈ lanesOf g ↔ l < 32 ∧ g.getLsbD l = true := by
  simp [lanesOf]

/-- A word's results in the lanes of a set. -/
theorem eachV_writes (s : State) (g : Lanes) (r : Nat) (f : Nat → BitVec 128) :
    WritesAll s (s.eachV g r f) r ((lanesOf g).map (fun l => (l, f l))) := setVs_writes ..

-- the advance ---------------------------------------------------------------------------------------------------------------------

theorem foldl_tmod_get {α : Type} [DecidableEq α] (d : α) (f : α → α) (ls : List Nat) (hnd : ls.Nodup) (t : Tab α) (i : Nat) :
    tget d (ls.foldl (fun t l => tmod d t l f) t) i = if i ∈ ls then f (tget d t i) else tget d t i := by
  induction ls generalizing t with
  | nil => simp
  | cons l ls ih =>
    have hn := List.nodup_cons.1 hnd
    rw [List.foldl_cons, ih hn.2, tget_tmod]
    by_cases hi : i = l
    · subst hi; simp [hn.1]
    · simp [hi]

theorem nodup_lanesOf (g : Lanes) : (lanesOf g).Nodup := List.Nodup.sublist List.filter_sublist List.nodup_range

/-- The PCs after an advance. -/
theorem advance_pc (s : State) (g : Lanes) (l : Nat) :
    tget 0 (s.advance g).me.pc l =
      if l < 32 ∧ g.getLsbD l = true then nextPc (tget 0 s.me.pc l) (s.cur.idx = s.cur.count) else tget 0 s.me.pc l := by
  have : (s.advance g).me = { s.me with
      pc := (lanesOf g).foldl (fun t l => tmod 0 t l (fun x => nextPc x (s.cur.idx = s.cur.count))) s.me.pc } := by
    simp [State.advance, State.modMe, State.me]
  rw [this]
  simp only [foldl_tmod_get _ _ _ (nodup_lanesOf g), mem_lanesOf]

/-- The end of a word: the group's PCs advance, and the hang counter is noted. -/
theorem done_spec (s : State) (spin : Bool) :
    Stays s.cur.tid s.cur.coh s (s.done spin) ∧ (s.done spin).me.butPc s.me = s.me ∧ (s.done spin).cores = s.cores ∧
    ∀ l, tget 0 (s.done spin).me.pc l =
      if s.G.getLsbD l && decide (l < 32) then nextPc (tget 0 s.me.pc l) (s.cur.idx = s.cur.count) else tget 0 s.me.pc l := by
  have h1 : Stays s.cur.tid s.cur.coh s (s.advance s.G) := by
    unfold State.advance State.modMe; exact stays_modCoh ..
  have h2 : Stays s.cur.tid s.cur.coh (s.advance s.G) (s.done spin) := by
    have e : (s.advance s.G).cur = s.cur := by simp only [State.advance, State.modMe, cur_modCoh]
    have := stays_modCoh (s.advance s.G) s.cur.tid s.cur.coh (fun c => c.note spin)
    simpa only [State.done, State.modMe, e] using this
  have hme : (s.done spin).me = ((s.advance s.G).me).note spin := by
    simp [State.done, State.modMe, State.me, State.advance]
  refine ⟨h1.trans h2, ?_, rfl, fun l => ?_⟩
  · rw [hme]
    simp only [State.advance, State.modMe, State.me, cur_modCoh, coh_modCoh_self, Cohort.note, Cohort.butPc]
    cases spin <;> rfl
  · rw [hme]
    have hpc : (((s.advance s.G).me).note spin).pc = (s.advance s.G).me.pc := by cases spin <;> rfl
    rw [hpc, advance_pc]
    simp only [Bool.and_eq_true, decide_eq_true_eq, and_comm]

/-- A word that writes one v register and ends: everything it can do. -/
structure WritesV (s t : State) (d : Nat) (ls : Lanes) (f : Nat → BitVec 128) : Prop where
  stays : Stays s.cur.tid s.cur.coh s t
  next : ∀ l, tget 0 t.me.pc l =
    if s.G.getLsbD l && decide (l < 32) then nextPc (tget 0 s.me.pc l) (s.cur.idx = s.cur.count) else tget 0 s.me.pc l
  coh : t.me.butPc s.me = s.me
  other : ∀ n k, (n ≠ s.myTeam.core ∨ ∀ l, l < 32 → ls.getLsbD l → k ≠ s.me.rfKey l d) → tget 0 (t.core n).rf k = tget 0 (s.core n).rf k
  lane : ∀ l, l < 32 → ls.getLsbD l = true → t.v l d = f l

theorem eachV_pc {s t : State} {r : Nat} {ls : List (Nat × BitVec 128)} (h : WritesAll s t r ls) : t.me.pc = s.me.pc := by
  rw [← h.me]; rfl

theorem butPc_putPre (c d : Cohort) (p : Option Pre) : (c.putPre p).butPc d = c.butPc d := rfl
theorem butPc_butPc (c d e : Cohort) : (c.butPc d).butPc e = c.butPc e := rfl
theorem butPc_self (c : Cohort) : c.butPc c = c := rfl
theorem rfKey_butPc (c d : Cohort) (l r : Nat) : (c.butPc d).rfKey l r = c.rfKey l r := rfl

theorem vword_spec (s : State) (d : Nat) (ls : Lanes) (f : Nat → BitVec 128) (spin : Bool) :
    WritesV s ((s.eachV ls d f).done spin) d ls f := by
  have h := eachV_writes s ls d f
  have e := done_spec (s.eachV ls d f) spin
  have hcur := h.stays.cur
  have es := e.1
  rw [hcur] at es
  have hG : (s.eachV ls d f).G = s.G := by rw [State.G, hcur, State.G]
  have hme : ((s.eachV ls d f).done spin).me.butPc s.me = s.me := by
    rw [← butPc_butPc _ (s.eachV ls d f).me, e.2.1, ← butPc_putPre _ _ s.me.pre, h.me, butPc_self]
  have hcores (n : Nat) : ((s.eachV ls d f).done spin).core n = (s.eachV ls d f).core n := by rw [State.core, e.2.2.1, State.core]
  have hin : ∀ x ∈ (lanesOf ls).map (fun l => (l, f l)), ∃ l, l < 32 ∧ ls.getLsbD l = true ∧ x = (l, f l) := by
    intro x hx
    obtain ⟨l, hl, rfl⟩ := List.mem_map.1 hx
    exact ⟨l, (mem_lanesOf.1 hl).1, (mem_lanesOf.1 hl).2, rfl⟩
  refine ⟨h.stays.trans es, ?_, hme, ?_, ?_⟩
  · intro l
    rw [e.2.2.2 l, hG, hcur, eachV_pc h]
  · intro n k hk
    rw [hcores, h.rf]
    by_cases hn : n = s.myTeam.core
    · rw [if_pos hn]
      refine written_none _ (fun x hx => ?_)
      obtain ⟨l, hl, hg, rfl⟩ := hin x hx
      exact (hk.resolve_left (fun h => h hn)) l hl hg
    · rw [if_neg hn]
  · intro l hl hg
    have hc : ((s.eachV ls d f).done spin).cur = s.cur := es.cur.trans hcur
    have key : ((s.eachV ls d f).done spin).me.rfKey l d = s.me.rfKey l d := by rw [← rfKey_butPc _ s.me, hme]
    have core : ((s.eachV ls d f).done spin).myTeam.core = s.myTeam.core := by
      rw [State.myTeam, hc]; exact (h.stays.trans es).teamCore _
    rw [State.v, State.vget]
    change tget 0 (((s.eachV ls d f).done spin).core ((s.eachV ls d f).done spin).myTeam.core).rf
      (((s.eachV ls d f).done spin).me.rfKey l d) = f l
    rw [core, key, hcores, h.rf, if_pos rfl]
    exact written_lane _ hl (fun m hm => (mem_lanesOf.1 hm).1) (mem_lanesOf.2 ⟨hl, hg⟩)

/-- What changing a cohort's own fields does before the end of a word. -/
theorem done_modMe_spec (s : State) (g : Cohort → Cohort) (spin : Bool) (hpc : ∀ c, (g c).pc = c.pc) :
    let t := (s.modMe g).done spin
    Stays s.cur.tid s.cur.coh s t ∧ t.cores = s.cores ∧ t.me.butPc s.me = (g s.me).butPc s.me ∧
    ∀ l, tget 0 t.me.pc l =
      if s.G.getLsbD l && decide (l < 32) then nextPc (tget 0 s.me.pc l) (s.cur.idx = s.cur.count) else tget 0 s.me.pc l := by
  intro t
  have h : Stays s.cur.tid s.cur.coh s (s.modMe g) := stays_modCoh ..
  have e := done_spec (s.modMe g) spin
  have hcur : (s.modMe g).cur = s.cur := h.cur
  have hme : (s.modMe g).me = g s.me := by rw [State.me, hcur]; simp [State.modMe, State.me]
  have es := e.1
  rw [hcur] at es
  refine ⟨h.trans es, e.2.2.1, ?_, fun l => ?_⟩
  · rw [← butPc_butPc _ (s.modMe g).me, e.2.1, hme]
  · rw [e.2.2.2 l, State.G, hcur, hme, hpc, State.G]

/-- A word that writes one v register and flags: everything it can do. -/
structure WritesVF (s t : State) (d : Nat) (ls : Lanes) (f : Nat → BitVec 128 × BitVec 32) : Prop where
  stays : Stays s.cur.tid s.cur.coh s t
  next : ∀ l, tget 0 t.me.pc l =
    if s.G.getLsbD l && decide (l < 32) then nextPc (tget 0 s.me.pc l) (s.cur.idx = s.cur.count) else tget 0 s.me.pc l
  coh : (t.me.butPc s.me).butFloat s.me = s.me
  flags : t.me.fpflags = s.me.fpflags ||| (lanesOf ls).foldl (fun a l => a ||| (f l).2) 0
  other : ∀ n k, (n ≠ s.myTeam.core ∨ ∀ l, l < 32 → ls.getLsbD l → k ≠ s.me.rfKey l d) → tget 0 (t.core n).rf k = tget 0 (s.core n).rf k
  lane : ∀ l, l < 32 → ls.getLsbD l = true → t.v l d = (f l).1

end Sys2Proof.Machine
end

