-- ==== Sys2Proof/Tests/Slice0.lean ====
section
/-!
SUPPORT. Slice0.lean: the model's own tests: words written out from the encodings of spec/ decode to their instructions;
terms that are no instruction are refused; and each statement's hypotheses are met by a state and operands shown here.
-/
namespace Sys2Proof
-- The tests are elaborated one after another: each takes a thread of its own otherwise.
set_option Elab.async false

/-! ### Words. Each word is put together from the field positions of 03 R45 and R51, the opcodes of 03 R65 to R73, and the
field uses that the instruction's own rule gives (08 R144 to R156, 15 R234 to R236, 16 R245 to R257, 19 R287 to R292,
20 R302, 21 R324, 23 R332 to R339); moves from 15 R229 and R230, microcommands from 15 R226. -/

/-- The words of a class decode to the instructions beside them. -/
abbrev Decodes (c : Nat) (l : List (Nat × Instr)) : Prop :=
  l.all (fun e => decode? c e.1 == some e.2) = true

theorem test_alu_words_decode_a :
    Decodes 0 [
      (0x05252955, .add 1 9 18 37 2 5), (0x06252955, .add 2 9 18 37 2 5), (0x0A252955, .sub 2 9 18 37 2 5),
      (0x0B252955, .sub 3 9 18 37 2 5), (0x0F252955, .mul 3 9 18 37 2 5), (0x0C252955, .mul 0 9 18 37 2 5),
      (0x10252955, .mulhiI 0 9 18 37 2 5), (0x11252955, .mulhiI 1 9 18 37 2 5), (0x15252955, .mulhiN 1 9 18 37 2 5),
      (0x16252955, .mulhiN 2 9 18 37 2 5), (0x1A252955, .minI 2 9 18 37 2 5), (0x1B252955, .minI 3 9 18 37 2 5),
      (0x1F252955, .minN 3 9 18 37 2 5), (0x1C252955, .minN 0 9 18 37 2 5), (0x20252955, .maxI 0 9 18 37 2 5),
      (0x21252955, .maxI 1 9 18 37 2 5), (0x25252955, .maxN 1 9 18 37 2 5), (0x26252955, .maxN 2 9 18 37 2 5),
      (0x2A252955, .shl 2 9 18 37 2 5), (0x2B252955, .shl 3 9 18 37 2 5), (0x2F252955, .shrN 3 9 18 37 2 5),
      (0x2C252955, .shrN 0 9 18 37 2 5), (0x30252955, .shrI 0 9 18 37 2 5), (0x31252955, .shrI 1 9 18 37 2 5),
      (0x35252955, .addsI 1 9 18 37 2 5), (0x36252955, .addsI 2 9 18 37 2 5), (0x3A252955, .addsN 2 9 18 37 2 5),
      (0x3B252955, .addsN 3 9 18 37 2 5), (0x3F252955, .subsI 3 9 18 37 2 5), (0x3C252955, .subsI 0 9 18 37 2 5),
      (0x40252955, .subsN 0 9 18 37 2 5), (0x41252955, .subsN 1 9 18 37 2 5), (0x4425294D, .and 9 18 37 1 5),
      (0x4525294D, .or 9 18 37 1 5), (0x4625294D, .xor 9 18 37 1 5), (0x4725294D, .andn 9 18 37 1 5),
      (0x4825200D, .popcW 9 18 1 5), (0x4925200D, .clzW 9 18 1 5), (0x4A25200D, .brevW 9 18 1 5),
      (0x4B252955, .bfxN32 9 18 37 2 5)] := by decide +kernel

theorem test_alu_words_decode_b :
    Decodes 0 [
      (0x4C252955, .bfxI32 9 18 37 2 5), (0x4D252965, .bfiW 9 18 37 4 5), (0x4E25295D, .lea 9 18 37 3 5),
      (0x4F25295D, .sel 9 18 37 3 5), (0x50752955, .cmpI32 3 5 18 37 2 5), (0x51752955, .cmpN32 3 5 18 37 2 5),
      (0x52752955, .cmpI64 3 5 18 37 2 5), (0x53752955, .cmpN64 3 5 18 37 2 5), (0x54792955, .cmpF32 3 6 18 37 2 5),
      (0x55792955, .cmpF16 3 6 18 37 2 5), (0x56792955, .cmpBf16 3 6 18 37 2 5), (0x57604185, .pand 3 4 6 5),
      (0x57644185, .por 3 4 6 5), (0x57684185, .pxor 3 4 6 5), (0x576C4185, .pandn 3 4 6 5), (0x57704005, .pmov 3 4 5),
      (0x57744005, .pnot 3 4 5), (0x5825200D, .mov 9 18 1 5), (0x59240945, .mvs 9 37 5), (0x5A01294D, .mfv 18 37 1 5),
      (0x60252955, .fadd 0 9 18 37 2 5), (0x61252955, .fadd 1 9 18 37 2 5), (0x65252955, .fsub 1 9 18 37 2 5),
      (0x66252955, .fsub 2 9 18 37 2 5), (0x6A252955, .fmul 2 9 18 37 2 5), (0x68252955, .fmul 0 9 18 37 2 5),
      (0x6C252965, .fma 0 9 18 37 4 5), (0x6D252965, .fma 1 9 18 37 4 5), (0x71252955, .fmin 1 9 18 37 2 5),
      (0x72252955, .fmin 2 9 18 37 2 5), (0x76252955, .fmax 2 9 18 37 2 5), (0x74252955, .fmax 0 9 18 37 2 5),
      (0x7825200D, .fabs 0 9 18 1 5), (0x7925200D, .fabs 1 9 18 1 5), (0x7D25200D, .fneg 1 9 18 1 5),
      (0x7E25200D, .fneg 2 9 18 1 5), (0x8025200D, .frcpF32 9 18 1 5), (0x8125200D, .frsqF32 9 18 1 5),
      (0x8225200D, .fex2F32 9 18 1 5), (0x8325200D, .flg2F32 9 18 1 5)] := by decide +kernel

theorem test_alu_words_decode_c :
    Decodes 0 [
      (0x9025260D, .cvtF32F16 9 18 3 0 1 5), (0x9125280D, .cvtF16F32 9 18 4 0 1 5), (0x9225260D, .cvtF32Bf16 9 18 3 0 1 5),
      (0x9325280D, .cvtBf16F32 9 18 4 0 1 5), (0x9425260D, .cvtF32I32 9 18 3 0 1 5), (0x9525260D, .cvtF32N32 9 18 3 0 1 5),
      (0x9625260D, .cvtI32F32 9 18 3 0 1 5), (0x9725260D, .cvtN32F32 9 18 3 0 1 5), (0x9825280D, .cvtE2m3F32 9 18 4 0 1 5),
      (0x9925280D, .cvtE3m2F32 9 18 4 0 1 5), (0x9A25280D, .cvtE2m1F32 9 18 4 0 1 5), (0x9B25260D, .cvtF32E2m3 9 18 3 0 1 5),
      (0x9C25260D, .cvtF32E3m2 9 18 3 0 1 5), (0x9D25260D, .cvtF32E2m1 9 18 3 0 1 5),
      (0xA125290D, .cvtS8pnF32 1 9 18 4 1 1 5), (0xA725290D, .cvtS8pnF32 7 9 18 4 1 1 5),
      (0xA925290D, .cvtN8pnF32 1 9 18 4 1 1 5), (0xAF25290D, .cvtN8pnF32 7 9 18 4 1 1 5),
      (0xB125270D, .cvtF32S8pn 1 9 18 3 1 1 5), (0xB725270D, .cvtF32S8pn 7 9 18 3 1 1 5),
      (0xB925270D, .cvtF32N8pn 1 9 18 3 1 1 5), (0xBF25270D, .cvtF32N8pn 7 9 18 3 1 1 5), (0xC0252955, .shflIdx 9 18 37 2 5),
      (0xC125294D, .shflUp 9 18 37 1 5), (0xC225294D, .shflDown 9 18 37 1 5), (0xC325294D, .shflXor 9 18 37 1 5),
      (0xC4006945, .voteBallot 6 37 5), (0xC4046945, .voteAny 6 37 5), (0xC4086945, .voteAll 6 37 5),
      (0xC40C6945, .voteUni 6 37 5), (0xC801294D, .redaddI32 18 37 1 5), (0xC901294D, .redaddF32 18 37 1 5),
      (0xCA01294D, .redminI32 18 37 1 5), (0xCB01294D, .redmaxI32 18 37 1 5), (0xCC01294D, .redminF32 18 37 1 5),
      (0xCD01294D, .redmaxF32 18 37 1 5), (0xCE25294D, .bcast 9 18 37 1 5), (0xD025200F, .extN8 9 18 15),
      (0xD1252007, .extN16 9 18 7), (0xD2252003, .extW 9 18 3)] := by decide +kernel

theorem test_alu_words_decode_d :
    Decodes 0 [
      (0xD325200B, .insN8 9 18 11), (0xD4252006, .insN16 9 18 6), (0xD5252002, .insW 9 18 2),
      (0xD82529A5, .addiI32 9 18 2469), (0xD92529A5, .andi 9 18 2469), (0xDA252FFF, .ori 9 18 4095),
      (0xDB252801, .xori 9 18 2049), (0xDC25201F, .shliW 9 18 31), (0xDD252011, .shriN32 9 18 17),
      (0xDE252001, .shriI32 9 18 1), (0xDF2409A5, .moviI32 9 2469), (0xE0252940, .sadd 9 18 37), (0xE0252941, .ssub 9 18 37),
      (0xE0252942, .smul 9 18 37), (0xE0252943, .smulhiI 9 18 37), (0xE0252944, .smulhiN 9 18 37),
      (0xE0252945, .sand 9 18 37), (0xE0252946, .sor 9 18 37), (0xE0252947, .sxor 9 18 37), (0xE0252948, .sshl 9 18 37),
      (0xE0252949, .sshrN 9 18 37), (0xE025294A, .sshrI 9 18 37), (0xE025294B, .sminI 9 18 37), (0xE025294C, .smaxI 9 18 37),
      (0xE025294D, .sminN 9 18 37), (0xE025294E, .smaxN 9 18 37), (0xE025200F, .smov 9 18), (0xE0252950, .ssltI 9 18 37),
      (0xE0252951, .ssltN 9 18 37), (0xE0252952, .sseq 9 18 37), (0xE12529A5, .saddi 9 18 2469),
      (0xE22529A5, .slui 9 18 2469)] := by decide +kernel

theorem test_mem_words_decode_a :
    Decodes 1 [
      (0x01252735, .ldN8 9 18 3 38 5), (0x02252735, .ldI8 9 18 3 38 5), (0x03252735, .ldN16 9 18 3 38 5),
      (0x04252735, .ldI16 9 18 3 38 5), (0x05252735, .ldW 9 18 3 38 5), (0x06252735, .ldD 9 18 3 38 5),
      (0x07252735, .ldQ 9 18 3 38 5), (0x09252735, .stN8 9 18 3 38 5), (0x0A252735, .stN16 9 18 3 38 5),
      (0x0B252735, .stW 9 18 3 38 5), (0x0C252735, .stD 9 18 3 38 5), (0x0D252735, .stQ 9 18 3 38 5),
      (0x0E252735, .stnib 9 18 3 38 5), (0x0F252735, .stsix 9 18 3 38 5), (0x10252737, .lduD 9 18 3 38),
      (0x11252737, .stuD 9 18 3 38), (0x12252645, .ldacqW 9 18 3 1 5), (0x13252685, .ldacqD 9 18 3 2 5),
      (0x142526C5, .ldacqQ 9 18 3 3 5), (0x15252705, .strelW 9 18 3 4 5), (0x16252745, .strelD 9 18 3 5 5),
      (0x17252785, .strelQ 9 18 3 6 5), (0x20252735, .atomAddI32 9 18 3 38 5), (0x21252735, .atomAddI64 9 18 3 38 5),
      (0x22252735, .atomAddF32 9 18 3 38 5), (0x23252735, .atomMinI32 9 18 3 38 5), (0x24252735, .atomMinN32 9 18 3 38 5),
      (0x25252735, .atomMaxI32 9 18 3 38 5), (0x26252735, .atomMaxN32 9 18 3 38 5), (0x27252735, .atomAndW 9 18 3 38 5),
      (0x28252735, .atomOrW 9 18 3 38 5), (0x29252735, .atomXorW 9 18 3 38 5), (0x2A252735, .atomXchgW 9 18 3 38 5),
      (0x2B252735, .atomXchgD 9 18 3 38 5), (0x2C252735, .atomCasW 9 18 3 38 5), (0x2D252735, .atomCasD 9 18 3 38 5),
      (0x30252735, .mredAddI32 9 18 3 38 5), (0x31252735, .mredAddI64 9 18 3 38 5), (0x32252735, .mredAddF32 9 18 3 38 5),
      (0x33252735, .mredMinI32 9 18 3 38 5)] := by decide +kernel

theorem test_mem_words_decode_b :
    Decodes 1 [
      (0x34252735, .mredMinN32 9 18 3 38 5), (0x35252735, .mredMaxI32 9 18 3 38 5), (0x36252735, .mredMaxN32 9 18 3 38 5),
      (0x37252735, .mredAndW 9 18 3 38 5), (0x38252735, .mredOrW 9 18 3 38 5), (0x39252735, .mredXorW 9 18 3 38 5),
      (0x40000115, .fence 4 2 5), (0x41012735, .cclean 18 3 38 5), (0x42012735, .cflush 18 3 38 5),
      (0x43012735, .pfetch 18 3 38 5), (0x48252977, .cpin 9 18 37 6), (0x49252977, .cpout 9 18 37 6),
      (0x4A252037, .cpwait 9 18 6), (0x50012017, .bankmode 18 2)] := by decide +kernel

theorem test_mtx_words_decode :
    Decodes 2 [
      (0x01901900, .tresv 9 6 256), (0x02900000, .tfree 9), (0x039002BC, .tset 9 700), (0x039006BC, .tsetRows 9 700),
      (0x040143FF, .ksetArm 5 1023), (0x04014400, .ksetSign 5), (0x04014800, .ksetOff 5), (0x08900000, .wload 9),
      (0x09000000, .wswap), (0x10974B21, .mstream 9 3 5 1 0 6 33), (0x10974721, .mstream 9 3 5 0 1 6 33),
      (0x11914421, .mbatch 9 5 0 1 33), (0x189752C6, .aread 9 3 5 4 44 0 6), (0x189746CE, .aread 9 3 5 1 44 1 6),
      (0x19960321, .astore 9 3 6 33), (0x1A060321, .azero 3 6 33)] := by decide +kernel

theorem test_ctl_words_decode :
    Decodes 3 [
      (0x01D2D2DD, .br 1727067 5), (0x02D2D2DD, .bra 1727067 5), (0x03D2D2DD, .call 1727067 5), (0x04000005, .ret 5),
      (0x10000005, .exit 5), (0x11000005, .nop 5), (0x12000005, .yield 5), (0x13D2D2DD, .brk 1727067 5),
      (0x0501200D, .jmpi 18 1 5), (0x0601200D, .calli 18 1 5), (0x08960000, .join 9 6), (0x09900000, .leave 9),
      (0x0A9659A5, .waitm 9 6 5 2469), (0x0B9609A5, .bar 9 6 2469), (0x18000135, .donate 9 21), (0x19000135, .accept 9 21)] := by decide +kernel

theorem test_que_words_decode :
    Decodes 4 [
      (0x01012947, .qinit 18 37), (0x0224094D, .qpush 9 37 1 5), (0x0324094D, .qpop 9 37 1 5), (0x08012947, .sarr 18 37),
      (0x0901294F, .swt 18 37 1), (0x10A80005, .tspawn 21 5), (0x11A80005, .ttake 21 5), (0x12A80005, .tsteal 21 5),
      (0x18252945, .llock 9 18 37 5), (0x19252005, .ltry 9 18 5), (0x1A012005, .lunlock 18 5),
      (0x1A25200D, .lunlockW 9 18 5), (0x1A25201D, .lunlockD 9 18 5), (0x1A25202D, .lunlockQ 9 18 5),
      (0x1B252005, .lstat 9 18 5), (0x1B24094D, .lstatList 9 37 5), (0x20252947, .unfold 9 18 37), (0x21240005, .spawnf 9 5),
      (0x22240007, .fret 9), (0x23240005, .cres 9 5)] := by decide +kernel

theorem test_nmc_words_decode :
    Decodes 5 [
      (0x01012947, .secopen 18 37), (0x02012007, .secabort 18), (0x03252007, .secstat 9 18), (0x08012947, .pumpgo 18 37),
      (0x09252007, .pumpwait 9 18), (0x0A252947, .mvsplit 9 18 37), (0x10012007, .boardShadow 18),
      (0x1001234F, .boardTile 18 13), (0x11012007, .unboard 18), (0x12252007, .boardstat 9 18)] := by decide +kernel

theorem test_sys_words_decode :
    Decodes 6 [
      (0x01241C40, .mfsr 9 113), (0x02240840, .mtsr 9 33), (0x03026940, .trap 2469), (0x04000000, .tret),
      (0x05000000, .fencei)] := by decide +kernel

theorem test_header_words_decode :
    Decodes 7 [
      (0xACA402BD, .clauseHeader 1 9 4 0x805 3 13)] := by decide +kernel

theorem test_moves_decode :
    ([
      (0x00039A5B, .pumpMove, ⟨0, 0, 0, 0, 1, 105051⟩), (0x90680000, .pumpMove, ⟨1, 0, 16, 26, 0, 0⟩),
      (0x517C0000, .aluadd, ⟨0, 1, 17, 31, 0, 0⟩), (0xD2039A5B, .alusub, ⟨1, 1, 18, 0, 1, 105051⟩),
      (0x139C0000, .aluand, ⟨0, 0, 19, 39, 0, 0⟩), (0x94B80000, .aluor, ⟨1, 0, 20, 46, 0, 0⟩),
      (0x55039A5B, .aluxor, ⟨0, 1, 21, 0, 1, 105051⟩), (0xD6D80000, .alushl, ⟨1, 1, 22, 54, 0, 0⟩),
      (0x17E00000, .alushr, ⟨0, 0, 23, 56, 0, 0⟩), (0x98039A5B, .alusra, ⟨1, 0, 24, 0, 1, 105051⟩),
      (0x59680000, .alumul, ⟨0, 1, 25, 26, 0, 0⟩), (0xDB7C0000, .pumpMove, ⟨1, 1, 27, 31, 0, 0⟩),
      (0x1C039A5B, .cmpeq, ⟨0, 0, 28, 0, 1, 105051⟩), (0x9D9C0000, .cmplt, ⟨1, 0, 29, 39, 0, 0⟩),
      (0x5EB80000, .cmpltu, ⟨0, 1, 30, 46, 0, 0⟩), (0xE1039A5B, .pumpMove, ⟨1, 1, 33, 0, 1, 105051⟩),
      (0x22D80000, .sfufma, ⟨0, 0, 34, 54, 0, 0⟩), (0xA3E00000, .sfucvt, ⟨1, 0, 35, 56, 0, 0⟩),
      (0x65039A5B, .ldg, ⟨0, 1, 37, 0, 1, 105051⟩), (0xE6680000, .lds, ⟨1, 1, 38, 26, 0, 0⟩),
      (0x287C0000, .pumpMove, ⟨0, 0, 40, 31, 0, 0⟩), (0xA9039A5B, .stg, ⟨1, 0, 41, 0, 1, 105051⟩),
      (0x6A9C0000, .sts, ⟨0, 1, 42, 39, 0, 0⟩), (0xEBB80000, .pumpMove, ⟨1, 1, 43, 46, 0, 0⟩),
      (0x2C039A5B, .pumpMove, ⟨0, 0, 44, 0, 1, 105051⟩), (0xADD80000, .bkc, ⟨1, 0, 45, 54, 0, 0⟩),
      (0x6FE00000, .sluice, ⟨0, 1, 47, 56, 0, 0⟩), (0xF0039A5B, .pumpDone, ⟨1, 1, 48, 0, 1, 105051⟩),
      (0x31680000, .jump, ⟨0, 0, 49, 26, 0, 0⟩), (0xB27C0000, .jrel, ⟨1, 0, 50, 31, 0, 0⟩),
      (0x77039A5B, .drain, ⟨0, 1, 55, 0, 1, 105051⟩), (0xF89C0000, .pumpMove, ⟨1, 1, 56, 39, 0, 0⟩)] : List (Nat × Instr × Move)).all
      (fun e => match decodeMove e.1 with | .ok r => r == e.2 | .error _ => false) = true := by decide +kernel

theorem test_microcommands_decode :
    ([
      (0x038, .microAct, ⟨0, 1, 3, 0, 0⟩), (0x061, .microMac, ⟨1, 0, 2, 1, 0⟩), (0x2D2, .microWb, ⟨2, 0, 1, 3, 2⟩), (0x012, .microWb, ⟨2, 0, 1, 0, 0⟩), (0x033, .microPre, ⟨3, 0, 3, 0, 0⟩), (0x024, .microClr, ⟨4, 0, 2, 0, 0⟩)] : List (Nat × Instr × Micro)).all
      (fun e => match decodeMicro e.1 with | .ok r => r == e.2 | .error _ => false) = true := by decide +kernel

/-- Words that are no instruction of their class (03 R46, R52, R54, R56, R58, R65 to R73; 19 R294; 21 R324). -/
theorem test_words_refused :
    ([
      (0, 0x00000000), (0, 0xF0000000), (0, 0x63252947), (0, 0x48252047), (0, 0x58252017), (0, 0x50792947), (0, 0x547D2947),
      (0, 0x57781047), (0, 0xD0252010), (0, 0xE00420D3), (0, 0xE00420CF), (0, 0x90000807), (0, 0x90000107), (0, 0x91000047),
      (1, 0x08042E07), (1, 0x10042E06), (1, 0x12042E07), (1, 0x12042E8F), (1, 0x4000009F), (1, 0x41042E07), (1, 0x5001201F),
      (2, 0x04014C00), (2, 0x01901A00), (3, 0x0400000F), (3, 0x09910000), (3, 0x0A968000), (3, 0x18000200), (4, 0x10240007),
      (4, 0x1A25203F), (4, 0x20252946), (5, 0x01012946), (5, 0x1001240F), (6, 0x01260000), (6, 0x012401C0), (6, 0x02240800),
      (6, 0x04040000), (7, 0xA0000000), (7, 0xA0000071), (7, 0xB0000001), (7, 0x80000001)] : List (Nat × Nat)).all
      (fun e => decode? e.1 e.2 == none) = true := by decide +kernel
/-! ### Well-formedness: one term that each check refuses (03 R54 to R58, R65 to R73). -/

/-- Every term of the list is ill formed. -/
abbrev IllFormed (l : List Instr) : Prop := l.all (fun i => !i.wf) = true


theorem test_ill_formed_terms_a : IllFormed [
      .clauseHeader 2 9 4 2053 3 13, .clauseHeader 1 16 4 2053 3 13, .clauseHeader 1 9 16 2053 3 13,
      .clauseHeader 1 9 4 4096 3 13, .clauseHeader 1 9 4 2053 7 13, .clauseHeader 1 9 4 2053 3 0,
      .clauseHeader 1 9 4 2053 3 16, .add 4 9 18 37 2 5, .add 1 64 18 37 2 5, .add 1 9 64 37 2 5, .add 1 9 18 64 2 5,
      .add 1 9 18 37 4 5, .add 1 9 18 37 2 8, .and 64 18 37 1 5, .and 9 64 37 1 5, .and 9 18 64 1 5, .and 9 18 37 4 5,
      .and 9 18 37 1 8, .popcW 64 18 1 5, .popcW 9 64 1 5, .popcW 9 18 2 5, .popcW 9 18 1 8, .bfiW 64 18 37 4 5,
      .bfiW 9 64 37 4 5, .bfiW 9 18 64 4 5, .bfiW 9 18 37 8 5, .bfiW 9 18 37 4 8, .cmpI32 8 5 18 37 2 5,
      .cmpI32 3 6 18 37 2 5, .cmpI32 3 5 64 37 2 5, .cmpI32 3 5 18 64 2 5, .cmpI32 3 5 18 37 4 5, .cmpI32 3 5 18 37 2 8,
      .cmpF32 8 6 18 37 2 5, .cmpF32 3 7 18 37 2 5, .cmpF32 3 6 64 37 2 5, .cmpF32 3 6 18 64 2 5, .cmpF32 3 6 18 37 4 5,
      .cmpF32 3 6 18 37 2 8, .pand 8 4 6 5, .pand 3 8 6 5, .pand 3 4 8 5, .pand 3 4 6 8, .pmov 8 4 5, .pmov 3 8 5,
      .pmov 3 4 8, .mvs 64 37 5, .mvs 9 64 5, .mvs 9 37 8, .mfv 64 37 1 5, .mfv 18 64 1 5, .mfv 18 37 2 5, .mfv 18 37 1 8,
      .fadd 3 9 18 37 2 5, .fadd 0 64 18 37 2 5, .fadd 0 9 64 37 2 5, .fadd 0 9 18 64 2 5, .fadd 0 9 18 37 4 5,
      .fadd 0 9 18 37 2 8, .fma 3 9 18 37 4 5, .fma 0 64 18 37 4 5, .fma 0 9 64 37 4 5, .fma 0 9 18 64 4 5,
      .fma 0 9 18 37 8 5, .fma 0 9 18 37 4 8, .fabs 3 9 18 1 5, .fabs 0 64 18 1 5, .fabs 0 9 64 1 5, .fabs 0 9 18 2 5,
      .fabs 0 9 18 1 8, .cvtF32F16 64 18 3 0 1 5, .cvtF32F16 9 64 3 0 1 5] := by decide +kernel

theorem test_ill_formed_terms_b : IllFormed [
      .cvtF32F16 9 18 3 0 2 5, .cvtF32F16 9 18 3 0 1 8, .cvtF32F16 9 18 6 0 1 5, .cvtF32F16 9 18 4 0 1 5,
      .cvtF32F16 9 18 3 1 1 5, .cvtF32F16 9 18 3 2 1 5, .cvtF16F32 64 18 4 0 1 5, .cvtF16F32 9 64 4 0 1 5,
      .cvtF16F32 9 18 4 0 8 5, .cvtF16F32 9 18 4 0 2 5, .cvtF16F32 9 18 4 0 1 8, .cvtF16F32 9 18 6 0 1 5,
      .cvtF16F32 9 18 4 1 1 5, .cvtF16F32 9 18 4 2 1 5, .cvtS8pnF32 0 9 18 4 1 1 5, .cvtS8pnF32 8 9 18 4 1 1 5,
      .cvtS8pnF32 1 64 18 4 1 1 5, .cvtS8pnF32 1 9 64 4 1 1 5, .cvtS8pnF32 1 9 18 4 1 8 5, .cvtS8pnF32 1 9 18 4 1 2 5,
      .cvtS8pnF32 1 9 18 4 1 1 8, .cvtS8pnF32 1 9 18 6 1 1 5, .cvtS8pnF32 1 9 18 4 2 1 5, .cvtF32S8pn 0 9 18 3 1 1 5,
      .cvtF32S8pn 8 9 18 3 1 1 5, .cvtF32S8pn 1 64 18 3 1 1 5, .cvtF32S8pn 1 9 64 3 1 1 5, .cvtF32S8pn 1 9 18 3 1 2 5,
      .cvtF32S8pn 1 9 18 3 1 1 8, .cvtF32S8pn 1 9 18 6 1 1 5, .cvtF32S8pn 1 9 18 4 1 1 5, .cvtF32S8pn 1 9 18 3 2 1 5,
      .shflUp 64 18 37 1 5, .shflUp 9 64 37 1 5, .shflUp 9 18 64 1 5, .shflUp 9 18 37 2 5, .shflUp 9 18 37 1 8,
      .voteBallot 8 37 5, .voteBallot 6 64 5, .voteBallot 6 37 8, .extN8 64 18 15, .extN8 9 64 15, .extN8 9 18 16,
      .extN16 64 18 7, .extN16 9 64 7, .extN16 9 18 8, .extW 64 18 3, .extW 9 64 3, .extW 9 18 4, .addiI32 64 18 2469,
      .addiI32 9 64 2469, .addiI32 9 18 4096, .shliW 64 18 31, .shliW 9 64 31, .shliW 9 18 32, .moviI32 64 2469,
      .moviI32 9 4096, .sadd 64 18 37, .sadd 9 64 37, .sadd 9 18 64, .smov 64 18, .smov 9 64, .ldN8 64 18 3 38 5,
      .ldN8 9 64 3 38 5, .ldN8 9 18 8 38 5, .ldN8 9 18 3 64 5, .ldN8 9 18 3 38 8, .stN8 64 18 3 38 5, .stN8 9 64 3 38 5,
      .stN8 9 18 8 38 5, .stN8 9 18 3 64 5, .stN8 9 18 3 38 8] := by decide +kernel

theorem test_ill_formed_terms_c : IllFormed [
      .lduD 64 18 3 38, .lduD 9 64 3 38, .lduD 9 18 8 38, .lduD 9 18 3 64, .stuD 64 18 3 38, .stuD 9 64 3 38,
      .stuD 9 18 8 38, .stuD 9 18 3 64, .ldacqW 64 18 3 1 5, .ldacqW 9 64 3 1 5, .ldacqW 9 18 8 1 5, .ldacqW 9 18 3 0 5,
      .ldacqW 9 18 3 7 5, .ldacqW 9 18 3 1 8, .strelW 64 18 3 4 5, .strelW 9 64 3 4 5, .strelW 9 18 8 4 5,
      .strelW 9 18 3 0 5, .strelW 9 18 3 7 5, .strelW 9 18 3 4 8, .fence 0 2 5, .fence 7 2 5, .fence 4 3 5, .fence 4 2 8,
      .cclean 64 3 38 5, .cclean 18 8 38 5, .cclean 18 3 64 5, .cclean 18 3 38 8, .cpin 64 18 37 6, .cpin 9 64 37 6,
      .cpin 9 18 64 6, .cpin 9 18 37 8, .cpwait 64 18 6, .cpwait 9 64 6, .cpwait 9 18 8, .bankmode 64 2, .bankmode 18 3,
      .tresv 16 6 256, .tresv 9 10 256, .tresv 9 6 512, .tfree 16, .tset 16 700, .tset 9 1024, .tsetRows 16 700,
      .tsetRows 9 0, .tsetRows 9 1024, .ksetArm 8 1023, .ksetArm 5 1024, .ksetSign 8, .mstream 16 3 5 1 0 6 33,
      .mstream 9 8 5 1 0 6 33, .mstream 9 3 8 1 0 6 33, .mstream 9 3 5 2 0 6 33, .mstream 9 3 5 1 2 6 33,
      .mstream 9 3 5 1 0 8 33, .mstream 9 3 5 1 0 6 128, .mbatch 16 5 0 1 33, .mbatch 9 8 0 1 33, .mbatch 9 5 2 1 33,
      .mbatch 9 5 0 2 33, .mbatch 9 5 0 1 128, .aread 16 3 5 4 44 0 6, .aread 9 8 5 4 44 0 6, .aread 9 3 8 4 44 0 6,
      .aread 9 3 5 8 44 0 6, .aread 9 3 5 4 64 0 6, .aread 9 3 5 4 44 2 6, .aread 9 3 5 4 44 0 8, .astore 16 3 6 33,
      .astore 9 8 6 33, .astore 9 3 8 33, .astore 9 3 6 128] := by decide +kernel

theorem test_ill_formed_terms_d : IllFormed [
      .azero 8 6 33, .azero 3 8 33, .azero 3 6 128, .br 2097152 5, .br 1727067 8, .ret 8, .jmpi 64 1 5, .jmpi 18 2 5,
      .jmpi 18 1 8, .join 16 6, .join 9 16, .leave 16, .waitm 16 6 5 2469, .waitm 9 16 5 2469, .waitm 9 6 8 2469,
      .waitm 9 6 5 4096, .bar 16 6 2469, .bar 9 16 2469, .bar 9 6 4096, .brk 2097152 5, .brk 1727067 8, .donate 16 21,
      .donate 9 32, .qinit 64 37, .qinit 18 64, .qpush 64 37 1 5, .qpush 9 64 1 5, .qpush 9 37 2 5, .qpush 9 37 1 8,
      .qpop 64 37 1 5, .qpop 9 64 1 5, .qpop 9 37 2 5, .qpop 9 37 1 8, .swt 64 37 1, .swt 18 64 1, .swt 18 37 2,
      .tspawn 32 5, .tspawn 21 8, .ttake 32 5, .ttake 21 8, .llock 64 18 37 5, .llock 9 64 37 5, .llock 9 18 64 5,
      .llock 9 18 37 8, .ltry 64 18 5, .ltry 9 64 5, .ltry 9 18 8, .lunlock 64 5, .lunlock 18 8, .lunlockW 64 18 5,
      .lunlockW 9 64 5, .lunlockW 9 18 8, .lstatList 64 37 5, .lstatList 9 64 5, .lstatList 9 37 8, .spawnf 64 5,
      .spawnf 9 8, .fret 64, .cres 64 5, .cres 9 8, .secabort 64, .boardTile 64 13, .boardTile 18 16, .mfsr 64 113,
      .mtsr 64 33, .trap 4096, .aread 9 3 5 2 44 1 6, .mfsr 9 7, .mfsr 9 2048, .mtsr 9 32, .mtsr 9 7] := by decide +kernel

/-- 15 R231: G and GS are bits; no read-only, reserved or unreadable port; SRC zero with I = 1, IMM17 zero with I = 0. -/
theorem test_ill_formed_moves :
    ([⟨2, 0, 0, 0, 1, 5⟩, ⟨0, 2, 0, 0, 1, 5⟩, ⟨0, 0, 26, 0, 1, 5⟩, ⟨0, 0, 57, 0, 1, 5⟩, ⟨0, 0, 0, 1, 1, 5⟩,
      ⟨0, 0, 0, 0, 1, 131072⟩, ⟨0, 0, 0, 0, 0, 5⟩, ⟨0, 0, 0, 16, 0, 0⟩, ⟨0, 0, 0, 57, 0, 0⟩, ⟨0, 0, 0, 0, 2, 0⟩] :
      List Move).all (fun x => !x.wf) = true := by decide +kernel

/-- 15 R226, R227: reserved OP, WR outside ACT, FMT and H outside their operations. -/
theorem test_ill_formed_microcommands :
    ([⟨5, 0, 0, 0, 0⟩, ⟨0, 2, 0, 0, 0⟩, ⟨0, 0, 4, 0, 0⟩, ⟨2, 0, 0, 4, 0⟩, ⟨2, 0, 0, 2, 4⟩, ⟨1, 1, 0, 0, 0⟩, ⟨3, 0, 0, 1, 0⟩,
      ⟨1, 0, 0, 2, 0⟩, ⟨1, 0, 0, 0, 1⟩, ⟨2, 0, 0, 0, 1⟩] : List Micro).all (fun x => !x.wf) = true := by decide +kernel

/-! ### Hypotheses are met. A small world: slice 0 and core 0 of polder 0, function 0 with all rights, one team of one vector
cohort with 8 granules, whose lanes 0 and 1 stand at the second word of a clause of three. -/

open Sys2Proof.Machine Sys2Proof.Claims

/-- The translation of function 0: the first 64 GiB, one to one, with all rights. -/
def leaf0 : Tlb := ⟨0, 0, 36, 0, 0, true, true, true, 0x10000⟩

/-- v2 names 0x2000 and 0x2004, v3 the queue word of the team's run, v4 is data, v5 a private word. -/
def core0 : Core :=
  { tlb := [leaf0]
    rf := [(64, 0x2000), (65, 0x2004), (96, 0x2000000000001000), (97, 0x2000000000001000), (128, 7), (129, 9),
      (160, 0x1000000000000010), (161, 0x1000000000000010)] }

/-- s1 names a descriptor, s2 a queue word, s3 holds 16, s4 a command's operand-buffer side. -/
def coh0 : Cohort :=
  { pc := [(0, 0x1000000000000004), (1, 0x1000000000000004)]
    s := [(1, 0x1000), (2, 0x2000000000001000), (3, 16), (4, 0x3000000000000000)]
    m := [(0, 0xFFFFFFFF), (1, 1)], valloc := 8, gmap := [(1, 1), (2, 2), (3, 3), (4, 4), (5, 5), (6, 6), (7, 7)]
    stkcur := 64, mvratio := 128 }

def launch0 : Launch :=
  { addr := 0x3000, entry := 0x100, nlev := 1, regs := 64, nvec := 6, nmtx := 1, acc := true, scratch := 4096, queue := 4096,
    opbuf := 131072, privw := 128, stklim := 64, privbase := 0x200000, levels := [224] }

def team0 : Team :=
  { launch := launch0, place := .resident, scrBanks := [4], cohs := [(0, coh0), (1, { coh0 with valloc := 4 }), (4, coh0), (5, coh0)] }

/-- DRAM byte 0 of the line 0x10000, the level-1 table of function 0, holds a leaf with the rights R, W and X. The memory-side cache of
stack 0 holds the lines 0x1000, 0x2000, 0x2080, 0x4000, 0x4080, 0x8000, the table's line and the team's private words 0, 1, 4 to 7, 62 and 63. -/
def world : State :=
  { State.reset with
    mstate := 2
    cores := [(0, core0)]
    teams := [(1, team0)]
    polders := [(0, { x1 := 1, valid := true, vfmask := 1 })]
    troot := [(0, 0x10000)]
    dram := [(1073741824, 0x1F)]
    msc := [(0, [536870912, 2415919104, 268435456, 2281701376, 134217728, 1024, 6442485632, 4295001984, 6442483840, 4295000192,
      2147516544, 32896, 2147516416, 32768, 1073741824])]
    cur := { tid := 1, lanes := 3, addr := 4, idx := 1, count := 3, seta := 0, setb := 1 } }

theorem wit_registers_in : RegsIn world [0, 63] ∧ RegsIn world [] ∧ world.active 7 = 3 := by
  unfold RegsIn; decide +kernel

/-- Tests of the world itself: the leaf translates at core 0. -/
theorem test_world_translates : world.translate 0 0 0x2004 3 = .ok 0x2004 0 0x10000 := by decide +kernel

theorem wit_IntegerElementResults : (3 : Nat) < 4 ∧ (0 : Nat) < 4 ∧ RegsIn world [63, 0, 63] := by unfold RegsIn; decide +kernel

theorem wit_BitwiseResults : RegsIn world [63, 0, 63] := by unfold RegsIn; decide +kernel

theorem wit_BitFieldMoveAndSelectResults :
    RegsIn world [63, 0, 63] ∧ world.active 7 ≠ 0 ∧ world.active 0 = 0 := by unfold RegsIn; decide +kernel

theorem wit_PredicateResults : RegsIn world [0, 63] := by unfold RegsIn; decide +kernel

theorem wit_FloatAndConversionResults : RegsIn world [63, 0, 63] ∧ RegsIn world [63, 0] ∧ (5 : Nat) ≠ 4 ∧ (4 : Nat) = 4 := by
  unfold RegsIn; decide +kernel

theorem wit_CrossLaneElementAndImmediateResults : RegsIn world [63, 0, 63] ∧ RegsIn world [63, 0] := by
  unfold RegsIn; decide +kernel

theorem wit_ConstantsFromSaddiAndSlui : (0xFFA : Nat) < 4096 ∧ 0xFFA % 16 = fld (0xA000000000000001 : BitVec 64) 60 4 := by
  decide +kernel

theorem wit_AluWordFrames :
    (∃ f, vectorForm (.fma 0 63 0 63 0 7) = some f ∧ RegsIn world f.regs) ∧
    (∃ f, vectorForm (.moviI32 63 5) = some f ∧ RegsIn world f.regs) ∧
    scalarForm (.mfv 63 63 0 7) = some ([63], 63) ∧ RegsIn world [63] ∧
    predicateForm (.cmpI32 7 0 63 0 0 7) = some ([63, 0], 7, 7) ∧ RegsIn world [63, 0] ∧
    (6 : Nat) ≠ 7 ∧ (world.active 7).getLsbD 1 = true ∧ (62 : Nat) ≠ 63 := by
  refine ⟨⟨_, rfl, ?_⟩, ⟨_, rfl, ?_⟩, ?_⟩ <;> unfold RegsIn <;> decide +kernel

theorem wit_VectorResultReadsBack : (world.active 7).getLsbD 1 = true ∧ world.G.getLsbD 0 = true := by decide +kernel

/-- The last register of the allocation is in, the next one is the one named. -/
theorem wit_RegisterRangeFaults :
    let s := { world with cur := { world.cur with coh := 1 } }
    aluRegs (.add 0 31 32 63 0 7) = some [31, 32, 63] ∧ s.me.alloc = 4 ∧
    [31, 32, 63].find? (fun r => decide (8 * s.me.alloc ≤ r)) = some 32 := by decide +kernel

/-- The number of the first register that fails, of a word beyond the alu class that comes to its register checks. -/
def rangeOf (s : State) (i : Instr) : Option Nat :=
  match otherRegs s i with
  | some (rs, true) => (rs.find? (fun c => !c.1)).map (·.2)
  | _ => none

/-- Of every class, the first register beyond the allocation of four granules; m12; a1 of a team without the accumulators. -/
theorem wit_RegisterRangeFaults_others :
    let s := { world with cur := { world.cur with coh := 1 } }
    let t := world.modTeam 1 (fun t => { t with launch := { t.launch with acc := false } })
    [(s, Instr.ldW 1 32 7 0 7, 32), (s, .cclean 63 7 0 7, 63), (s, .qpush 32 2 0 7, 32), (s, .qpop 33 2 0 7, 33), (s, .tspawn 16 7, 32),
      (s, .llock 31 40 0 7, 40), (s, .ltry 32 33 7, 32), (s, .spawnf 32 7, 32), (s, .cres 34 7, 34), (s, .secstat 32 1, 32),
      (s, .boardstat 32 1, 32), (s, .jmpi 32 0 7, 32), (s, .aread 0 1 0 0 32 0 0, 32), (t, .mstream 0 1 1 0 0 7 16, 1),
      (t, .mbatch 0 1 0 0 64, 0), (t, .aread 0 1 0 0 63 0 0, 1), (t, .azero 1 7 16, 1), (t, .wswap, 0), (world, .join 3 12, 12),
      (world, .waitm 12 13 0 0, 12), (world, .leave 15, 15)].all (fun e => rangeOf e.1 e.2.1 == some e.2.2) = true := by
  decide +kernel

theorem wit_MemoryWordsPerform :
    let m := loadForm world 1 2 7 0 7 4
    memForm world (.ldW 1 2 7 0 7) = some m ∧
    m.Performs world (world.transAll 1 (m.accs.map (fun a => (a.lane, world.pieces a.lane 4 a.ptr)))).good := by
  refine ⟨rfl, ?_⟩
  constructor <;> (try unfold RegsIn) <;> decide +kernel

theorem wit_MemoryWordsPerform_store :
    let m := storeForm world 4 5 7 0 7 16
    memForm world (.stQ 4 5 7 0 7) = some m ∧
    m.Performs world (world.transAll 2 (m.accs.map (fun a => (a.lane, world.pieces a.lane 16 a.ptr)))).good := by
  refine ⟨rfl, ?_⟩
  constructor <;> (try unfold RegsIn) <;> decide +kernel

/-- The world with the issuing cohort changed. -/
def withMe (f : Cohort → Cohort) : State := world.modMe f

/-- The world with an operation of the issuing cohort in flight: 9, a load. -/
def opened (kind : Nat) : State :=
  { world with ops := [(9, some { tid := 1, coh := 0, flag := 0, lanes := 3, kind := kind, left := 1 })] }

/-- A full acquire fence of the group's lanes holds it until operation 9 ends. -/
def fencedWorld : State := (opened 0).modMe (fun c => { c with holds := [⟨3, 0, [9], 6⟩] })

/-- Lane 1 of a `cas` of the group has yet to go. -/
def casLane1 : CasLane := { lane := 1, v := 0, w := 0, op := 12, size := 4, space := 0, addr := 0x2000 }

def casWorld : State :=
  { world with ops := [(9, some { tid := 1, coh := 0, lanes := 3, kind := 2, left := 1, rest := [casLane1] })] }

/-- A dirty private line of the cohort stands in the L1. -/
def dirtyWorld : State := world.modCore 0 (fun c => { c with l1 := [(0x200000, { dirty := true, priv := true, owner := 32 })] })

theorem wit_MemoryWordsWaitOrPass :
    (∃ m, memForm fencedWorld (.ldW 1 2 7 0 7) = some m ∧ m.lanes ≠ 0 ∧ fencedWorld.fenced m.lanes m.isLoad = true) ∧
    (∃ m, memForm casWorld (.ldW 1 2 7 0 7) = some m ∧ m.lanes ≠ 0 ∧ casWorld.casPending m.lanes = true) ∧
    (∃ m, memForm (withMe (fun c => { c with f := [(0, 63)] })) (.ldW 1 2 7 0 7) = some m ∧ m.lanes ≠ 0 ∧
      (withMe (fun c => { c with f := [(0, 63)] })).flagFree m.flag = false) ∧
    (∃ m, memForm dirtyWorld (.strelW 1 2 7 2 7) = some m ∧ m.lanes ≠ 0 ∧ dirtyWorld.fenced m.lanes m.isLoad = false ∧
      dirtyWorld.casPending m.lanes = false ∧ dirtyWorld.flagFree m.flag = true ∧ RegsIn dirtyWorld m.regs ∧
      dirtyWorld.unflushed m.rel = true) ∧
    (∃ m, memForm world (.ldW 1 2 7 0 0) = some m ∧ RegsIn world m.regs ∧ m.accs = []) := by
  refine ⟨?_, ?_, ?_, ?_, ?_⟩ <;> refine ⟨_, rfl, ?_⟩ <;> (try unfold RegsIn) <;> decide +kernel

/-- What `MemoryWordsFaultAtStageTwo` asks of a word. -/
def FailsAtStageTwo (s : State) (i : Instr) (m : MemForm) (f : FaultInfo) : Prop :=
  memForm s i = some m ∧ stage2Fault m.access (m.accs.map (fun a => (a.lane, s.stage2 m.access m.n m.align a.ptr))) = some f ∧
    s.fenced m.lanes m.isLoad = false ∧ s.casPending m.lanes = false ∧ s.flagFree m.flag = true ∧
    s.unflushed m.rel = false ∧ (∀ r ∈ m.regs, r < 8 * s.me.alloc) ∧ m.accs ≠ []

/-- A lane's misaligned acquire (0x2004 is no multiple of 8), a private word at the stack limit, a uniform form of no memory. -/
theorem wit_MemoryWordsFaultAtStageTwo :
    (∃ m f, FailsAtStageTwo world (.ldacqD 1 2 7 1 7) m f ∧ f.cause = 0x1D ∧ f.lanes = 2) ∧
    (∃ m f, FailsAtStageTwo (withMe (fun c => { c with stkcur := 4 })) (.ldW 1 5 7 0 7) m f ∧ f.cause = 0x14) ∧
    (∃ m f, FailsAtStageTwo (withMe (fun c => { c with s := [(10, 0xF000000000000000)] })) (.lduD 1 10 7 0) m f ∧ m.uni = true) := by
  refine ⟨?_, ?_, ?_⟩ <;> refine ⟨_, _, ⟨rfl, rfl, ?_⟩, ?_⟩ <;> decide +kernel

theorem wit_FenceHoldsLaterWords : world.active 0 = 0 ∧ world.active 7 ≠ 0 := by decide +kernel

theorem wit_CacheOperationsPerform :
    let as := world.laneAccs 7 2 0 128
    let good := (world.transAll 1 (as.map (fun x => (x.lane, world.pieces x.lane 1 x.ptr)))).good
    world.fenced (world.active 7) true = false ∧ world.casPending (world.active 7) = false ∧
    world.flagFree world.cur.setb = true ∧ RegsIn world [2] ∧ as ≠ [] ∧ good ≠ [] ∧
    stage2Fault 0 (as.map (fun x => (x.lane, (world.stage2 0 1 0 x.ptr).filter (fun e => e.1 != 0x15)))) = none ∧
    world.transAll 1 (as.map (fun x => (x.lane, world.pieces x.lane 1 x.ptr))) = { misses := [], bads := [], good := good } ∧
    (let s := world.modCore 0 (fun c => { c with rf := [(64, 0x7000000000000000)] })
     (stage2Fault 0 ((s.laneAccs 7 2 0 128).map (fun x => (x.lane, (s.stage2 0 1 0 x.ptr).filter (fun e => e.1 != 0x15))))).map
       (fun f => f.cause) = some 0x1D) := by
  unfold RegsIn; decide +kernel

theorem wit_CopiesAreAccepted :
    let s := withMe (fun c => { c with s := [(1, 0x3000000000000000), (2, 0x2000), (3, 16), (5, 0)] })
    s.copySide false (s.sget 1) 16 = true ∧ s.copySide true (s.sget 2) 16 = true ∧ (s.sget 3).toNat = 16 ∧
    s.copySide false (s.sget 1) 0 = true ∧ s.copySide true (s.sget 2) 0 = true ∧ (s.sget 5).toNat = 0 ∧
    s.heldChan (s.myCore.chan 7) = false ∧ s.flagFree s.cur.setb = true ∧
    (∃ c, s.myCore.takeCopy { op := (s.newOp { tid := 1, coh := 0, flag := 1, kind := 3 }).2, tid := 1, coh := 0, vf := 0,
                              isIn := true, dst := s.sget 1, src := s.sget 2, len := 16, ch := 7, pc := s.herePc } = some c) := by
  iterate 8 refine ⟨by decide +kernel, ?_⟩
  exact ⟨_, rfl⟩

/-- A destination that is no operand-buffer address, a source that is no memory, and a length that is no multiple of 16. -/
theorem wit_WrongCopiesFault :
    let s := withMe (fun c => { c with s := [(1, 0x3000000000000000), (2, 0x2000), (3, 16), (5, 0x18)] })
    s.copySide false (s.sget 2) 16 = false ∧ s.copySide false (s.sget 1) 16 = true ∧ s.copySide true (s.sget 1) 16 = false ∧
    s.copySide false (s.sget 1) 24 = true ∧ s.copySide true (s.sget 2) 24 = true ∧ (s.sget 5).toNat % 16 ≠ 0 := by decide +kernel

theorem wit_CopyWaitReadsTheChannel :
    let w (s : State) (a : Nat) := if (s.sget a).toNat ≤ (s.myCore.chan 7).chis.toNat then s.sget a else (s.myCore.chan 7).chis
    let s := world.modCore 0 (fun c => { c with chans := [(7, { chis := 16 })] })
    let held := world.modCore 0 (fun c => { c with chans := [(7, { hold := some (1, 4, 0, 0x1000000000000004) })] })
    (w world 3).toNat ≤ (world.myCore.chan 7).chwp.toNat ∧ (3 : Nat) ≠ 63 ∧ (w world 63).toNat ≤ (world.myCore.chan 7).chwp.toNat ∧
    world.heldChan (world.myCore.chan 7) = false ∧ (s.myCore.chan 7).chwp.toNat < (w s 3).toNat ∧
    held.heldChan (held.myCore.chan 7) = true := by decide +kernel

/-- Bank 4 keeps a team's run, 15 does not; 15 is a scratchpad, 0 a cache. -/
theorem wit_BankModeDrains :
    let s := withMe (fun c => { c with s := [(1, 15), (2, 0)] })
    (2 : Nat) < 3 ∧ (s.sget 1).toNat = fld (s.sget 1) 0 4 ∧ s.flagFree s.cur.setb = true ∧
    (∀ t ∈ tvals s.teams, t.on s.myTeam.core = false ∨ 15 ∉ t.banksOf) ∧ s.myCore.modeThen 0 ≠ 1 ∧
    (∀ d ∈ s.myCore.drains, d.bank ≠ 15) ∧ tget 0 s.myCore.modes 15 = 1 ∧ tget 0 s.myCore.modes 15 ≠ 2 := by decide +kernel

theorem wit_ClauseHeaderPassesOrWaits :
    let s := { world with cur := { world.cur with coh := 0 } }
    let v := { world with cur := { world.cur with coh := 1 } }
    let w := withMe (fun c => { c with f := [(3, 1)] })
    s.me.tiles = [] ∧ v.me.tiles = [] ∧ v.myTeam.launch.mayRun v.cur.coh 2 = false ∧ s.myTeam.launch.mayRun 0 2 = true ∧
    w.myTeam.launch.mayRun 0 0 = true ∧ w.me.flagsClear 8 = false ∧ w.me.flagsClear 4 = true ∧
    (∃ x t, ({ world with cores := [(0, core0)] } : State).modMe (fun c => { c with words := [(8, 0x09000000)] }) = t ∧
      t.fetch ((t.cur.addr + 4) % 2 ^ 52) = .word x t) := by
  iterate 7 refine ⟨by decide +kernel, ?_⟩
  exact ⟨_, _, rfl, rfl⟩

/-- The world with a pre-call PC in each lane. -/
def atDepth (d : Nat) : State :=
  let pc : BitVec 64 := BitVec.ofNat 64 (2 ^ 60 + d * 2 ^ 52 + 4)
  withMe (fun c => { c with pc := [(0, pc), (1, pc)] })

theorem wit_BranchesMoveThreads : RegsIn world [63] := by unfold RegsIn; decide +kernel

/-- A call at DEPTH 0 and 31 (its frame is the lowest that 64 words hold), at DEPTH 32 (no frame is left) and 255; a return at DEPTH 1 and
0. -/
theorem wit_CallsPushAndReturnsPop :
    world.active 7 ≠ 0 ∧
    (∃ good, (∀ l ∈ lanesOf (world.active 7), fld (tget 0 world.me.pc l) 52 8 ≠ 255 ∧ 0 ≤ pushWord world l) ∧
      FramesAt world 7 (pushWord world) good) ∧
    (∃ good, (∀ l ∈ lanesOf ((atDepth 31).active 7), fld (tget 0 (atDepth 31).me.pc l) 52 8 ≠ 255 ∧ 0 ≤ pushWord (atDepth 31) l) ∧
      FramesAt (atDepth 31) 7 (pushWord (atDepth 31)) good) ∧
    (∃ good, (∀ l ∈ lanesOf ((atDepth 1).active 7), fld (tget 0 (atDepth 1).me.pc l) 52 8 ≠ 0 ∧ 0 ≤ popWord (atDepth 1) l) ∧
      FramesAt (atDepth 1) 7 (popWord (atDepth 1)) good) ∧
    (∃ l ∈ lanesOf ((atDepth 32).active 7), pushWord (atDepth 32) l < 0) ∧
    (∃ l ∈ lanesOf ((atDepth 255).active 7), fld (tget 0 (atDepth 255).me.pc l) 52 8 = 255) ∧
    (∃ l ∈ lanesOf (world.active 7), fld (tget 0 world.me.pc l) 52 8 = 0) := by
  refine ⟨by decide +kernel, ⟨(world.transAll 3 ((lanesOf (world.active 7)).map (fun l => (l, world.framePieces l
      (pushWord world l).toNat)))).good, by decide +kernel, ?_⟩,
    ⟨((atDepth 31).transAll 3 ((lanesOf ((atDepth 31).active 7)).map (fun l => (l, (atDepth 31).framePieces l
      (pushWord (atDepth 31) l).toNat)))).good, by decide +kernel, ?_⟩,
    ⟨((atDepth 1).transAll 3 ((lanesOf ((atDepth 1).active 7)).map (fun l => (l, (atDepth 1).framePieces l
      (popWord (atDepth 1) l).toNat)))).good, by decide +kernel, ?_⟩,
    by decide +kernel, by decide +kernel, by decide +kernel⟩ <;> constructor <;> decide +kernel

/-- All six wait records of the cohort are in use. -/
def sixWaits : State := withMe (fun c => { c with hw := (List.range 6).map (fun k => (k, { kind := 1, ma := k, remain := 9 })) })

/-- The team barrier stands open on m3. -/
def barred : State := world.modTeam 1 (fun t => { t with bar := { isOpen := true, mreg := 3 } })

theorem wit_ReconvergenceWordsUpdateMasks :
    (11 : Nat) < 12 ∧ (0 : Nat) < 12 ∧
    world.me.hwPlace { kind := 1, lanes := world.G, ma := 11, mb := 0, ps := 3, remain := 25601 } = some 0 ∧
    sixWaits.me.hwPlace { kind := 1, lanes := sixWaits.G, ma := 11, mb := 0, ps := 3, remain := 25601 } = none ∧
    barred.myTeam.bar.isOpen = true ∧ barred.myTeam.bar.mreg ≠ 4 ∧ barred.myTeam.bar.mreg = 3 ∧ world.myTeam.bar.isOpen = false ∧
    world.me.hwPlace { kind := 2, lanes := world.G, ma := 11, mb := 0, imm := lowest world.G } = some 0 ∧
    barred.me.hwPlace { kind := 2, lanes := barred.G, ma := 3, mb := 0, imm := lowest barred.G } = some 0 := by decide +kernel

theorem wit_ThreadWordsEndOrPass :
    world.active 0 = 0 ∧ world.active 7 ≠ 0 ∧ world.me.unf = none ∧ (withMe (fun c => { c with unf := some {} })).me.unf ≠ none ∧
    (withMe (fun c => { c with unf := some {} })).active 7 ≠ 0 ∧ tget false world.brk world.myTeam.vf = false ∧
    tget false ({ world with brk := [(0, true)] } : State).brk 0 = true := by decide +kernel

/-- Cohort 0 may name cohort 4 of its quad, not 0, 1 or 8; it may give 1 to 7 of its 8 granules, cohort 1 with 4 may take 1 to 4. -/
theorem wit_DonationWordsWait :
    let o : State := withMe (fun c => { c with hw := [(0, { kind := 3, lanes := 1, imm := 7 * 32 + 4 })] })
    let r : State := { world with cur := { world.cur with coh := 1 } }
    (∃ h, o.me.part = some h ∧ h.kind = 3 ∧ h.imm = 7 * 32 + 4) ∧ (3 : Nat) ≠ 4 ∧ 7 * 32 + 4 ≠ 6 * 32 + 4 ∧
    ¬((0 : Nat) ≠ world.cur.coh ∧ 0 < world.myTeam.launch.n ∧ 0 % 4 = world.cur.coh % 4) ∧
    (4 ≠ world.cur.coh ∧ 4 < world.myTeam.launch.n ∧ 4 % 4 = world.cur.coh % 4) ∧
    (∀ h, o.me.part = some h → h.kind = 3 ∧ h.imm = 7 * 32 + 4) ∧ 0 < 7 ∧ 7 < world.me.alloc ∧ world.me.part = none ∧
    (5 ≠ r.cur.coh ∧ 5 < r.myTeam.launch.n ∧ 5 % 4 = r.cur.coh % 4) ∧ r.me.alloc + 4 ≤ 8 ∧
    (world.coh 1 4).retired = false ∧ (r.coh 1 5).retired = false ∧
    world.me.hwPlace { kind := 3, lanes := world.G, imm := 7 * 32 + 4 } = some 0 ∧
    r.me.hwPlace { kind := 4, lanes := r.G, imm := 4 * 32 + 5 } = some 0 := by
  refine ⟨⟨_, rfl, rfl, rfl⟩, ?_, ?_, ?_, ?_, fun h e => ?_, ?_⟩
  case refine_5 => cases e; decide +kernel
  all_goals decide +kernel

/-- A record of 64 rows of 256 bytes, in .s8p1, of the first 64 KiB of the run. -/
def tile0 : Tile := BitVec.ofNat 512 (0x101 + 65536 * 2 ^ 96 + 64 * 2 ^ 128 + 256 * 2 ^ 144 + 256 * 2 ^ 160)

/-- The world with this record as t0, an image of it in the run, and a gate of k1 that has its signatures. -/
def tiled : State :=
  (world.modTeam 1 (fun t => { t with t := [(0, tile0)], k := [(1, 0x20002)] })).modCore 0 (fun c => { c with
    opbuf := [(1, 1), (16, 64), (19, 1), (21, 1)] })

def fresh1 : Tile := BitVec.ofNat 512 (1 + 4096 * 16 * 2 ^ 64 + 4096 * 2 ^ 4 * 2 ^ 96)

/-- A range at the end of t0's, a misaligned one, one beyond the run; t0 valid, t1 not; an image at 0. -/
theorem wit_TileAndConvergenceWords :
    let t := tiled.myTeam
    let img : Tile := BitVec.ofNat 512 (ofLeBytes (tiled.runRead t 3 0 64))
    (16 % 2 ^ 4 = 0 ∧ 16 + 2 ^ 4 ≤ t.launch.opbuf / 4096 ∧ (t.tile 1).valid = false ∧
      ∀ y ∈ tvals t.t, y.valid = true → fresh1.meets y = false) ∧
    ¬(17 % 2 ^ 4 = 0) ∧ ¬(32 + 2 ^ 0 ≤ t.launch.opbuf / 4096) ∧ (t.tile 0).valid = true ∧ (t.tile 1).valid = false ∧
    (∀ e ∈ tiled.myCore.mq, e.tid = tiled.cur.tid → e.mop.names 0 = false) ∧
    (∀ e ∈ tiled.myCore.boards, e.2.toTile tiled.cur.tid 0 = false) ∧ 64 * 0 + 64 ≤ t.launch.opbuf ∧ img &&& ~~~tileBits = 0 ∧
    Tile.ok (setFld (setFld (Tile.setPl (setFld img 0 1 1) 0) 64 21 (t.tile 0).base) 96 22 (t.tile 0).len) = true ∧
    Tile.ok (Tile.setPl (setFld (t.tile 0) 128 11 256) 0) = true := by
  refine ⟨⟨?_, ?_, ?_, fun y hy _ => ?_⟩, ?_⟩
  any_goals decide +kernel
  have l : tvals tiled.myTeam.t = [tile0] := by decide +kernel
  have e : y = tile0 := List.mem_singleton.mp (by rw [← l]; exact hy)
  rw [e]
  decide +kernel

/-- An operation that names t0 stands in the matrix queue. -/
def queuedTile : State := tiled.modCore 0 (fun c => { c with mq := [{ op := 9, tid := 1, coh := 0, mop := .wload 0 tile0 }] })

/-- A boarding request of the team into t0 is armed. -/
def boardedTile : State := tiled.modCore 0 (fun c => { c with boards := [(1, { state := 1, dest := 1, t := 0, tid := 1 })] })

/-- A tfree of a record that the queue names; of one that a request names, which it disarms; an image beyond the run, and one with a reserved bit. -/
theorem wit_TileAndConvergenceWords_waits :
    ((queuedTile.myTeam.tile 0).valid = true ∧ ∃ e ∈ queuedTile.myCore.mq, e.tid = queuedTile.cur.tid ∧ e.mop.names 0 = true) ∧
    ((boardedTile.myTeam.tile 0).valid = true ∧ (∀ e ∈ boardedTile.myCore.mq, e.tid = boardedTile.cur.tid → e.mop.names 0 = false) ∧
      let w := boardedTile.disarm boardedTile.myTeam.core (fun b => b.toTile boardedTile.cur.tid 0)
      ((w.core boardedTile.myTeam.core).boardsOf (fun b => b.toTile boardedTile.cur.tid 0)).isEmpty = false) ∧
    (let w := tiled.disarm tiled.myTeam.core (fun b => b.toTile tiled.cur.tid 0)
     ((w.core tiled.myTeam.core).boardsOf (fun b => b.toTile tiled.cur.tid 0)).isEmpty = true) ∧
    tiled.myTeam.launch.opbuf < 64 * 2048 + 64 ∧ 64 * 2047 + 64 ≤ tiled.myTeam.launch.opbuf ∧
    (∃ u, tiled.senseRun tiled.myTeam 3 0 64 = (u, none)) ∧
    (let s := tiled.modCore 0 (fun c => { c with opbuf := [(63, 128)] })
     (∃ u, s.senseRun s.myTeam 3 0 64 = (u, none)) ∧ (BitVec.ofNat 512 (ofLeBytes (s.runRead s.myTeam 3 0 64)) : Tile) &&& ~~~tileBits ≠ 0) := by
  refine ⟨by decide +kernel, by decide +kernel, by decide +kernel, by decide +kernel, by decide +kernel, ⟨_, rfl⟩, ⟨_, rfl⟩, by decide +kernel⟩

theorem wit_MatrixWordsAreAccepted :
    let x := tiled.myTeam.tile 0
    tiled.myTeam.launch.acc = true ∧ x.valid = true ∧ rowsOf 64 = 64 ∧ rowsOf 64 ≤ x.rows ∧ 16 * 4 + rowsOf 64 ≤ 128 ∧
    (0 : Nat) < 64 ∧ 64 ≤ x.rows ∧ tiled.cur.idx = 1 ∧ gateOpen (tiled.myTeam.kreg 1) = true ∧ gateOpen (tiled.myTeam.kreg 0) = true ∧
    RegsIn tiled [63] ∧
    QueueTakes tiled tiled.cur.setb (tiled.tileLocks x 0 0).length [0] ∧ QueueTakes tiled tiled.cur.setb (tiled.tileLocks x 1 0).length [0] ∧
    QueueTakes tiled 12 0 [] ∧ QueueTakes tiled tiled.cur.seta 0 [] := by
  iterate 10 refine ⟨by decide +kernel, ?_⟩
  refine ⟨?_, ?_, ?_, ?_, ?_⟩
  all_goals first | decide +kernel | (constructor <;> decide +kernel) | (unfold RegsIn; decide +kernel)

/-- The matrix queue is full; the gate of k2 is closed. -/
def fullTiled : State :=
  (tiled.modTeam 1 (fun t => { t with k := [(1, 0x20002), (2, 2)] })).modCore 0 (fun c => { c with
    mq := List.replicate 64 { op := 9, tid := 1, coh := 0, mop := .wswap } })

/-- A row beyond 128; no rows, and too many; a second word with a gate, a record that is not valid (t1), one of fewer rows; a full queue, a full
flag and a full table; a closed gate. -/
theorem wit_MatrixWordsAreIllegalOrWait :
    (128 < 16 * 4 + rowsOf 65 ∧ 16 * 4 + rowsOf 64 ≤ 128 ∧ ((0 : Nat) = 0 ∨ 64 < 0) ∧ 64 < 65) ∧
    tiled.myTeam.launch.acc = true ∧ (({ tiled with cur := { tiled.cur with idx := 2 } } : State).cur.idx ≠ 1) ∧
    (tiled.myTeam.tile 1).valid = false ∧ (tiled.myTeam.tile 0).rows < rowsOf 65 ∧ 16 * 0 + rowsOf 65 ≤ 128 ∧
    (let x := fullTiled.myTeam.tile 0
     fullTiled.myTeam.launch.acc = true ∧ x.valid = true ∧ rowsOf 64 ≤ x.rows ∧ 64 ≤ fullTiled.myCore.mq.length ∧ RegsIn fullTiled [63] ∧
     gateOpen (fullTiled.myTeam.kreg 1) = true ∧ gateOpen (fullTiled.myTeam.kreg 2) = false ∧ fullTiled.cur.idx = 1) ∧
    (tiled.modMe (fun c => { c with f := [(0, 63)] })).flagFree 0 = false ∧
    (let s := tiled.modCore 0 (fun c => { c with rlocks := (List.range 32).map (·, { valid := true }) })
     s.myCore.freeLocks (s.tileLocks (s.myTeam.tile 0) 2 0).length = none) := by unfold RegsIn; decide +kernel

/-- A team whose queue word, at 0x1000 of its run, is w. -/
def queued (w : BitVec 64) (more : Tab Byte := []) : State :=
  let word : Tab Byte := (List.range 8).map (fun i => (2097152 + 4096 + i, BitVec.ofNat 8 (fld w (8 * i) 8)))
  (world.modCore 0 (fun c => { c with sram := word.filter (fun e => e.2 != 0) ++ more })).modMe (fun c => { c with
    s := [(1, w), (2, 0x2000000000001000), (3, 5)] })

/-- A queue of 4 elements of 8 bytes from 0x1100 on, with 2 and with 3 elements; a stage ring of 4 slots; a deque of 4 tasks. -/
def inlineQueue : State := queued 0x0005000301001100 [(2101504, 7), (2101505, 9)]
def fullQueue : State := queued 0x0006000301001100
def stageRing : State := queued 0x0000000041001100
def taskQueue : State := queued 0x0000000091001100

/-- A queue word's pointer of the world that is s2 names the world's own run, and its arbiter reads it. -/
theorem test_queue_at_of (s : State) (p : BitVec 64) (x : Nat) (h : s.qTeam p = some x) (own : (s.team x).core = s.myTeam.core)
    (free : s.queReq = none) (clear : s.upsets = []) : QueueAt s p x s :=
  ⟨h, own, free, by simp [State.senseRun, clear]⟩

theorem wit_QueueWordsPerform :
    (∀ s ∈ [inlineQueue, fullQueue, stageRing, taskQueue], QueueAt s (s.sget 2) 1 s) ∧
    QueueOpen stageRing stageRing.G 15 0 ∧ QueueOpen taskQueue taskQueue.G 15 0 ∧
    (∀ s ∈ [inlineQueue, stageRing, taskQueue], let w := s.sget 1
      qKind w < 3 ∧ qBase w % qElem w = 0 ∧ (s.team 1).launch.scratch ≤ qBase w ∧ qBase w + qBytes w ≤ (s.team 1).runLen ∧
      (qKind w = 2 → offOf (s.sget 2) = (s.team 1).launch.scratch ∧ fld w 27 3 = 2)) ∧
    [inlineQueue, stageRing, taskQueue].map (fun s => qKind (s.sget 1)) = [0, 1, 2] ∧
    QueueOpen inlineQueue (inlineQueue.active 7) inlineQueue.cur.setb 2 ∧ RegsIn inlineQueue [63] ∧
    (let w := inlineQueue.qWord (inlineQueue.team 1) 4096
     let vals := inlineQueue.queVals (inlineQueue.active 7) 4
     (inlineQueue.team 1).qBad w vals false = 0 ∧ inlineQueue.refFault (inlineQueue.team 1) [] (qElem w) false = none ∧
     (inlineQueue.refSense (inlineQueue.team 1) [] (qElem w)).2 = none ∧ qCount w = 2 ∧ qCount w + vals.length ≤ qDepth w) ∧
    (let w := fullQueue.qWord (fullQueue.team 1) 4096
     let vals := fullQueue.queVals (fullQueue.active 7) 4
     (fullQueue.team 1).qBad w vals false = 0 ∧ qDepth w < qCount w + vals.length) ∧
    QueueOpen stageRing stageRing.G stageRing.cur.setb 2 ∧ qKind (stageRing.qWord (stageRing.team 1) 4096) = 1 ∧
    stageRing.phaseIs 1 4096 5 0 = true ∧ stageRing.phaseIs 1 4096 5 1 = false ∧ stageRing.swtMet 1 (stageRing.sget 2) 5 1 = false := by
  have h : ∀ s ∈ [inlineQueue, fullQueue, stageRing, taskQueue],
      s.qTeam (s.sget 2) = some 1 ∧ (s.team 1).core = s.myTeam.core ∧ s.queReq = none ∧ s.upsets = [] := by decide +kernel
  refine ⟨fun s m => test_queue_at_of s _ _ (h s m).1 (h s m).2.1 (h s m).2.2.1 (h s m).2.2.2, ?_, ?_, ?_, ?_, ?_, ?_, ?_, ?_, ?_, ?_⟩
  all_goals first | decide +kernel | (constructor <;> decide +kernel) | (unfold RegsIn; decide +kernel)

/-- The queue pointer that s1 holds names a place of memory space 0. -/
theorem wit_QueueWordsCheckTheirPointer :
    world.queReq = none ∧ world.qTeam (world.sget 1) = none ∧ world.G ≠ 0 ∧ world.active 7 ≠ 0 ∧ RegsIn world [63] ∧ world.active 0 = 0 := by
  unfold RegsIn; decide +kernel

theorem wit_QpopTakesInLaneOrder :
    QueueAt inlineQueue (inlineQueue.sget 2) 1 inlineQueue ∧ QueueOpen inlineQueue (inlineQueue.active 7) inlineQueue.cur.seta 0 ∧
    RegsIn inlineQueue [63] ∧
    (let vals := inlineQueue.queVals (inlineQueue.active 7) 63
     (inlineQueue.team 1).qBad (inlineQueue.qWord (inlineQueue.team 1) 4096) vals false = 0 ∧
     inlineQueue.refFault (inlineQueue.team 1) [] 8 true = none) ∧
    ((inlineQueue.newOp { tid := 1, coh := 0, flag := 0, lanes := 3, dest := .regs 63 1, kind := 3 }).1.op 1).isSome = true := by
  refine ⟨test_queue_at_of _ _ _ ?_ ?_ ?_ ?_, ?_, ?_, ?_, ?_⟩
  all_goals first | decide +kernel | (constructor <;> decide +kernel) | (unfold RegsIn; decide +kernel)

/-- The queue word stands on core 1, in the run of a second team of the node; the answers that the group gets. -/
def farQueue : State :=
  let s := inlineQueue.modMe (fun c => { c with s := [(1, 5), (2, 0x4010000000001000)] })
  { s with teams := s.teams ++ [(2, { team0 with core := 1 })], polders := [(0, { x1 := 3, valid := true, vfmask := 1 })] }

def answered (a : QueAns) (held : Bool) : State :=
  { farQueue with reqs := [(9, some { op := 0, master := 1, vf := 0, tid := 1, coh := 0, lanes := 3, line := 0
                                      kind := .answer (.arr 5) (farQueue.sget 2) a, held := held })] }

/-- The five words; a queue of another core; an answer that has yet to come, an error, a fault and a good answer. -/
theorem wit_QueueWordsAskOtherCores :
    (∀ i ∈ [Instr.qinit 1 2, .qpush 4 2 0 7, .qpop 63 2 0 7, .sarr 1 2, .swt 1 2 0], (queForm farQueue i).isSome = true) ∧
    RegsIn farQueue [4] ∧ RegsIn farQueue [63] ∧ farQueue.G ≠ 0 ∧ farQueue.active 7 ≠ 0 ∧
    farQueue.queReq = none ∧ farQueue.qTeam (farQueue.sget 2) = some 2 ∧ (farQueue.team 2).core ≠ farQueue.myTeam.core ∧
    QueueOpen farQueue (farQueue.active 7) farQueue.cur.setb 2 ∧ QueueOpen farQueue farQueue.G 15 0 ∧
    (answered {} false).queReq.isSome = true ∧ (answered { bad := some (1, 2, 3) } true).queReq.isSome = true ∧
    (answered { fault := some (0x1B, 0, 0, 3) } true).queReq.isSome = true ∧ (answered { met := true } true).queReq.isSome = true := by
  refine ⟨?_, ?_, ?_, ?_, ?_, ?_, ?_, ?_, ?_, ?_, ?_, ?_, ?_, ?_⟩
  all_goals first | decide +kernel | (constructor <;> decide +kernel) | (unfold RegsIn; decide +kernel)

/-- A deque of 4 with room for the lanes' two tasks, a deque with three tasks, and a second team of the node. -/
def dequeWorld (n : Nat) : State :=
  (taskQueue.modTeam 1 (fun t => { t with deque := List.replicate n (BitVec.ofNat 256 (2 ^ 224)) })).modCore 0 (fun c => { c with
    rf := [(64 * 7 + 32, 0x1000000000000000000000000), (64 * 7 + 33, 0x2000000000000000000000000)] })

def twoTeams : State :=
  let s := dequeWorld 0
  { s with teams := s.teams ++ [(2, { team0 with slot := 1 })], polders := [(0, { x1 := 1, valid := true, vfmask := 1 })] }

theorem wit_TaskWordsPerform :
    let s := dequeWorld 2
    let ts := ((lanesOf (s.active 7)).map (fun l => s.task l (2 * 7))).filter (fun x => taskKey x != 0)
    2 * 31 + 1 < 8 * s.me.alloc ∧ ts.length = 2 ∧ s.taskDepth s.myTeam = some 4 ∧ s.myTeam.deque.length + ts.length ≤ 4 ∧
    QueueOpen s (s.active 7) s.cur.setb 4 ∧ s.active 7 ≠ 0 ∧
    ((dequeWorld 3).taskDepth (dequeWorld 3).myTeam = some 4 ∧ 4 < (dequeWorld 3).myTeam.deque.length + ts.length) ∧
    world.taskDepth world.myTeam = none ∧ QueueOpen s (s.active 7) s.cur.seta 0 ∧ s.victims = [] ∧
    QueueOpen twoTeams (twoTeams.active 7) twoTeams.cur.seta 0 ∧ twoTeams.victims = [2] := by
  refine ⟨?_, ?_, ?_, ?_, ?_, ?_, ?_, ?_, ?_, ?_, ?_, ?_⟩
  all_goals first | decide +kernel | (constructor <;> decide +kernel)

/-- The world whose lanes' v6 names the lines 0x4000 and 0x4080. -/
def lockWorld : State := world.modCore 0 (fun c => { c with rf := [(64, 0x4000), (65, 0x4004), (192, 0x4000), (193, 0x4080)] })

/-- The cohort's lock list holds the line 0x4000, or both lines. -/
def holding (n : Nat) : State :=
  lockWorld.modMe (fun c => { c with locks := (List.range n).map (fun i => (i, { line := 0x4000 + 128 * i, holds := true })) })

/-- The lanes' parts of a lock word's accesses. -/
def lockParts (s : State) (a need size : Nat) : List (Nat × Piece) :=
  (s.transAll need ((lanesOf (s.active 7)).map (fun l => (l, [{ va := offOf (s.ptr l a), at_ := 0, len := size : Piece }])))).good.map
    (fun e => (e.1, e.2.headD default))

theorem wit_LockWordsRequest :
    RegsIn lockWorld [63, 6] ∧ LocksAt lockWorld 6 7 3 128 128 (lockParts lockWorld 6 3 128) ∧
    lockWorld.lockFault 6 (lockParts lockWorld 6 3 128) = none ∧ lockWorld.flagFree lockWorld.cur.seta = true ∧
    RegsIn (holding 1) [63, 6] ∧ LocksAt (holding 1) 6 7 3 128 128 (lockParts (holding 1) 6 3 128) ∧
    (∃ x, (holding 1).lockFault 6 (lockParts (holding 1) 6 3 128) = some x ∧ x.cause = 0x17) ∧
    (holding 1).flagFree (holding 1).cur.seta = true := by
  refine ⟨?_, ?_, ?_, ?_, ?_, ?_, ⟨_, rfl, ?_⟩, ?_⟩
  all_goals first | decide +kernel | (constructor <;> decide +kernel) | (unfold RegsIn; decide +kernel)

theorem wit_UnlockWordsRelease :
    unlockForm (.lunlock 6 7) = some (none, 6, 7, 0) ∧ unlockForm (.lunlockW 63 2 7) = some (some 63, 2, 7, 4) ∧
    (holding 2).flagFree (holding 2).cur.setb = true ∧ RegsIn (holding 2) [63, 6] ∧
    LocksAt (holding 2) 6 7 3 128 128 (lockParts (holding 2) 6 3 128) ∧
    (holding 2).unlockHit 6 7 0 = none ∧ (holding 2).unflushed 5 = false ∧
    (∀ e ∈ lockParts (holding 2) 6 3 128, ∃ r ∈ (holding 2).me.locks, r.2.line = lineAt e.2.pa ∧ r.2.holds = true) ∧
    LocksAt (holding 1) 6 7 3 128 128 (lockParts (holding 1) 6 3 128) ∧
    (∃ e ∈ lockParts (holding 1) 6 3 128, ¬∃ r ∈ (holding 1).me.locks, r.2.line = lineAt e.2.pa ∧ r.2.holds = true) ∧
    LocksAt (holding 1) 2 7 3 4 4 (lockParts (holding 1) 2 3 4) ∧
    (∀ e ∈ lockParts (holding 1) 2 3 4, ∃ r ∈ (holding 1).me.locks, r.2.line = lineAt e.2.pa ∧ r.2.holds = true) := by
  refine ⟨rfl, rfl, ?_, ?_, ?_, ?_, ?_, ?_, ?_, ?_, ?_, ?_⟩
  all_goals first | decide +kernel | (constructor <;> decide +kernel) | (unfold RegsIn; decide +kernel)

/-- With a dirty private line it goes first; data in bytes of space 0 that an operation has range-locked is a fault. -/
theorem wit_UnlockWordsRelease_before :
    (let s := (holding 2).modCore 0 (fun c => { c with l1 := [(0x200000, { dirty := true, priv := true, owner := 32 })] })
     s.unlockHit 6 7 0 = none ∧ s.unflushed 5 = true) ∧
    (let s := (holding 1).modCore 0 (fun c => { c with
       rlocks := [(0, { valid := true, kind := 1, base := 0x4000, fin := 0x4080, op := 9 })] })
     (s.unlockHit 2 7 4).isSome = true) := by decide +kernel

theorem wit_LockStatusWords :
    lockWorld.flagFree lockWorld.cur.seta = true ∧ RegsIn lockWorld [63, 6] ∧
    LocksAt lockWorld 6 7 1 128 128 (lockParts lockWorld 6 1 128) ∧ RegsIn lockWorld [63] ∧ lockWorld.active 7 ≠ 0 := by
  refine ⟨by decide +kernel, ?_, ?_, ?_, by decide +kernel⟩
  case refine_2 => constructor <;> decide +kernel
  all_goals unfold RegsIn; decide +kernel

/-- A lock request of lane 0 for the line 0x4000, at its slice. -/
def lockReq (isTry : Bool) : Req :=
  { op := 0, master := 0, vf := 0, tid := 1, coh := 0, lanes := 1, kind := .lock 0x4000 1 9 isTry, line := 0x4000, here := true }

/-- The world with that request, and lock states. -/
def requested (isTry : Bool) (locks : Tab LockSt) : State := { lockWorld with reqs := [(5, some (lockReq isTry))], locks := locks }

def heldLine : LockSt := { chain := [{ tid := 1, coh := 4, vf := 0, core := 0, slot := 0, holds := true }], locked := true }

/-- Twelve other lines of the request's set have chains: no entry is left. -/
def fullSet : Tab LockSt := (List.range 12).map (fun i => (0x4000 + 262144 * (i + 1), heldLine))

/-- A request that is at its slice may be taken as it stands. -/
theorem test_comes_of (s : State) (id : Nat) (r : Req) (h : s.req id = some r) (ready : s.ready id r = true) (here : r.here = true) :
    ComesIn s id s r :=
  ⟨⟨r, h, ready, by simp [State.comeIn, here]⟩, h, by
    unfold State.ready at ready
    simp only [here, if_true, Bool.and_eq_true, Bool.not_eq_true'] at ready
    exact ready.2⟩

/-- What `LockRequestsAreTaken` asks of every request that is served. -/
def Requested (s : State) (isTry : Bool) : Prop :=
  s.req 5 = some (lockReq isTry) ∧ s.ready 5 (lockReq isTry) = true ∧ s.refusalAt 0 0x4000 0 2 false = none ∧
    s.heldWindow 0x4000 128 = false ∧ s.missRefusal 0 0x4000 = none ∧ (s.isHere 0x4000 = true ∨ (s.lock 0x4000).holder ≠ none) ∧
    (s.team 1).terminated = false ∧ (s.setReq 5 none).turnedAway (lockReq isTry) 2 false = none

theorem wit_LockRequestsAreTaken :
    Requested (asked (requested true [(0x4000, heldLine)]) [5]) true ∧ heldLine.holder ≠ none ∧
    Requested (asked (requested false [(0x4000, heldLine)]) [5]) false ∧
    ((asked (requested false [(0x4000, heldLine)]) [5]).setReq 5 none).lockFull 0x4000 = false ∧
    Requested (asked (requested false fullSet) [5]) false ∧ ((asked (requested false fullSet) [5]).setReq 5 none).lockFull 0x4000 = true ∧
    Requested (asked (requested false []) [5]) false ∧ ((requested false []).lock 0x4000).holder = none ∧
    ((asked (requested false []) [5]).setReq 5 none).lockFull 0x4000 = false ∧
    Requested (asked (requested true []) [5]) true ∧ ((asked (requested true []) [5]).setReq 5 none).lockFull 0x4000 = false := by
  unfold Requested; decide +kernel

/-- The cohort has retired meanwhile. -/
theorem wit_LockRequestsAreTaken_retired :
    let s := asked ((requested true []).modMe (fun c => { c with retired := true })) [5]
    Requested s true ∧ ((s.setReq 5 none).lock 0x4000).holder = none ∧ (((s.setReq 5 none).fill 0x4000 0).coh 1 0).retired = true := by
  unfold Requested; decide +kernel

/-- The request comes to a line that its channel has yet to deliver, and to a window that a section holds. -/
theorem wit_LockRequestsAreTaken_wait :
    let s := asked { requested false [] with msc := [] } [5]
    let w : Section := { base := 0x4000, len := 128, runs := [(0x4000, 128, 0)] }
    let h := asked (({ requested false [] with pumps := [(5, { run := some {}, sect := some w })] } : State).setSlice
      ((requested false []).homeSlice 0x4000) { secs := [{ pc := 5, hold := true }] }) [5]
    (ComesIn s 5 s (lockReq false) ∧ s.heldWindow 0x4000 128 = false ∧ s.missRefusal 0 0x4000 = none ∧ s.isHere 0x4000 = false ∧
      (s.lock 0x4000).holder = none) ∧
    ComesIn h 5 h (lockReq false) ∧ h.heldWindow 0x4000 128 = true := by
  refine ⟨⟨test_comes_of _ _ _ (by decide +kernel) (by decide +kernel) rfl, by decide +kernel⟩,
    test_comes_of _ _ _ (by decide +kernel) (by decide +kernel) rfl, by decide +kernel⟩

def unlockReq (ws : List WByte) : Req :=
  { op := 0, master := 0, vf := 0, tid := 1, coh := 0, lanes := 1, kind := .unlock ws, line := 0x4000, here := true }

/-- The cohort holds the line 0x4000 and its unlock is at the slice. -/
def unlocking (ws : List WByte) : State :=
  asked { world with
    reqs := [(5, some (unlockReq ws))]
    locks := [(0x4000, { chain := [{ tid := 1, coh := 0, vf := 0, core := 0, slot := 0, holds := true }], locked := true })] } [5]

theorem wit_LockStepsHandOn :
    (∀ p ∈ [Place.resident, .stopped],
      let s := (world.modTeam 1 (fun t => { t with place := p })).sendGrant { tid := 1, coh := 0, line := 0x4000, lanes := 1, status := 0, vd := 6, op := 3 }
      (tget none s.grants world.nextId).any (fun g => (asked s [world.nextId]).isNext world.nextId && !(s.team g.tid).terminated && g.op != 0) = true ∧
      (s.team 1).place = p) ∧
    (∀ ws ∈ [[], [{ addr := 0x4001, data := 7 : WByte }]],
      let s := unlocking ws
      let w := s.setReq 5 none
      ComesIn s 5 s (unlockReq ws) ∧ s.heldWindow 0x4000 128 = false ∧ (∃ k relay, w.wayOf (unlockReq ws) = .arrives k relay) ∧
      w.turnedAway (unlockReq ws) 1 true = none ∧ (w.lock 0x4000).mine 1 0 = true) ∧
    (let e : ChainEntry := { tid := 1, coh := 0, vf := 0, core := 0, slot := 0, lanes := 1, tleft := 1, sub := 256 }
     let s : State := { world with locks := [(0x4000, { heldLine with chain := heldLine.chain ++ [e] })] }
     tsome (asked s [0x4000, 1, 0]).reqs = [] ∧ ((asked s [0x4000, 1, 0]).lock 0x4000).chain.find? (fun (e : ChainEntry) =>
       e.tid = 1 && e.coh = 0 && e.tleft = 1 && 256 ≤ e.sub && !e.absent) = some e) := by
  refine ⟨by decide +kernel, ?_, by decide +kernel⟩
  have h : ∀ ws ∈ [[], [{ addr := 0x4001, data := 7 : WByte }]], let s := unlocking ws; let w := s.setReq 5 none
      s.req 5 = some (unlockReq ws) ∧ s.ready 5 (unlockReq ws) = true ∧ s.heldWindow 0x4000 128 = false ∧
      w.wayOf (unlockReq ws) = .arrives 3 none ∧ w.turnedAway (unlockReq ws) 1 true = none ∧ (w.lock 0x4000).mine 1 0 = true := by
    decide +kernel
  exact fun ws m => ⟨test_comes_of _ _ _ (h ws m).1 (h ws m).2.1 rfl, (h ws m).2.2.1, ⟨_, _, (h ws m).2.2.2.1⟩, (h ws m).2.2.2.2⟩

/-- A line of eight words and more in slice 0. -/
def withLine (s : State) (pa : Nat) (ws : List Nat) : State :=
  s.setSlice 0 { s.slice 0 with lines := [(pa, { data := BitVec.ofNat 1024 (ws.foldr (fun w a => w + a * 2 ^ 64) 0) })] }

/-- A recursion object at 0x1000, which s1 names: routines at 0x100 to 0x300, frames of 64 bytes from 0x8000 on, one child, depth 1. -/
def unfoldWorld : State := withLine world 0x1000 [0x100, 0x200, 0x300, 0x8000, 0x100000, 64 * 2 ^ 25 + 2 ^ 19 + 2 ^ 12 + 2 ^ 8 + 9]

/-- The parts of the first lane of a translation. -/
def firstParts (s : State) (need : Nat) (ls : List (Nat × List Piece)) : List Piece := ((s.transAll need ls).good.headD default).2

/-- An object that is not legal, and one whose line cannot be read right. -/
theorem wit_UnfoldOpens_refused :
    ∀ x ∈ [(world, false), ({ world with upsets := [(upKey 2 0 1024, 2)] }, true)],
      let s := x.1
      let ps := firstParts s 1 [(0, linePieces 0x1000 64)]
      let r := s.getParts 1 0 ps
      RegsIn s [63, 0] ∧ spaceOf (s.sget 1) = 0 ∧ rankOf (s.sget 1) = 0 ∧ offOf (s.sget 1) % 64 = 0 ∧ Translates s 1 [(lowest s.G, linePieces (offOf (s.sget 1)) 64)] [(lowest s.G, ps)] ∧ r.2.2.isSome = x.2 ∧
      (x.2 = false → recOk (words8 r.2.1) = false) := by
  unfold RegsIn Translates; decide +kernel

theorem wit_UnfoldOpens :
    let s := unfoldWorld
    let ps := firstParts s 1 [(0, linePieces 0x1000 64)]
    let r := s.getParts 1 0 ps
    let o := recObj (words8 r.2.1)
    let acc := [(0, linePieces (o.frame 0) (32 + 16 * o.argq))]
    RegsIn s [63, 0] ∧ Translates s 1 [(lowest s.G, linePieces (offOf (s.sget 1)) 64)] [(lowest s.G, ps)] ∧ 
    r.2.2 = none ∧ recOk (words8 r.2.1) = true ∧ r.1.me.unf = none ∧ o.w = 1 ∧ r.1.G.getLsbD 0 = true ∧
    RegsIn r.1 (run 63 o.resq ++ run 0 o.argq ++ run 1 (1 + o.argq)) ∧
    Translates r.1 3 [(lowest s.G, linePieces (o.frame 0) (32 + 16 * o.argq))] [(lowest s.G, firstParts r.1 3 acc)] := by
  unfold RegsIn Translates; decide +kernel

/-- An object whose result takes four registers, which do not all lie in the allocation from v63 on. -/
theorem wit_UnfoldOpens_range :
    let s := withLine world 0x1000 [0x100, 0x200, 0x300, 0x8000, 0x100000, 128 * 2 ^ 25 + 2 ^ 19 + 2 ^ 12 + 2 ^ 8 + 4 * 8 + 1]
    let ps := firstParts s 1 [(0, linePieces 0x1000 64)]
    let r := s.getParts 1 0 ps
    let o := recObj (words8 r.2.1)
    Translates s 1 [(lowest s.G, linePieces (offOf (s.sget 1)) 64)] [(lowest s.G, ps)] ∧ RegsIn s [63, 0] ∧
    r.2.2 = none ∧ recOk (words8 r.2.1) = true ∧ r.1.me.unf = none ∧ o.w = 1 ∧ r.1.G.getLsbD 0 = true ∧
    ((r.1.vrun 63 o.resq ++ r.1.vrun 0 o.argq ++ r.1.vrun 1 (1 + o.argq)).find? (fun c => !c.1)).isSome = true := by
  unfold RegsIn Translates; decide +kernel

/-- Two lanes' routines over frames of 64 bytes, kinds k and l. -/
def unf0 (k l : Nat) : Unf :=
  { obj := { farea := 0x8000, falen := 0x100000, maxch := 2, dlim := 2, w := 2, frsz := 64 }
    lane := [(0, { kind := k, frame := 0 }), (1, { kind := l, frame := 1 })]
    info := [(0, { nch := 1, first := 2 }), (1, { depth := 1 })] }

def inRoutine (k l : Nat) : State := withMe (fun c => { c with unf := some (unf0 k l) })

theorem wit_RoutineWordsPerform_spawnf :
    let s := inRoutine 0 0
    let u := unf0 0 0
    let child (l : Nat) : Nat := u.obj.slot l (0 + (u.cur l).spawned)
    let as := (lanesOf (s.active 7)).map (fun l => (l, linePieces (u.obj.frame (child l)) 48 ++
      after 48 (linePieces (u.obj.frame (u.cur l).frame) 16)))
    s.me.unf = some u ∧ u.phase = 0 ∧ RegsIn s (run 63 u.obj.argq) ∧ s.active 7 ≠ 0 ∧ s.flagFree s.cur.setb = true ∧
    s.casPending (s.active 7) = false ∧
    (∀ l ∈ lanesOf (s.active 7), (u.cur l).kind = 0 ∧ (u.cur l).spawned < u.obj.maxch ∧ (u.frameInfo (u.cur l).frame).depth ≠ u.obj.dlim) ∧
    Translates s 3 as (s.transAll 3 as).good := by
  unfold RegsIn Translates; decide +kernel

theorem wit_RoutineWordsPerform_fret :
    let s := inRoutine 0 1
    let u := unf0 0 1
    let as := (lanesOf s.G).map (fun l =>
      (l, if (u.cur l).kind != 0 then linePieces (u.obj.frame (u.cur l).frame + 32 + 16 * u.obj.argq) 16 ++
        after 16 (linePieces (u.obj.frame (u.cur l).frame) 16) else []))
    s.me.unf = some u ∧ RegsIn s (run 63 u.obj.resq) ∧ s.flagFree s.cur.setb = true ∧
    s.casPending s.G = false ∧ s.relOps s.G 1 = [] ∧ (∀ l ∈ lanesOf s.G, (u.cur l).kind ≠ 3) ∧
    Translates s 3 as (s.transAll 3 as).good ∧ lanesFrom ((s.transAll 3 as).good.map (·.1)) ≠ 0 := by
  unfold RegsIn Translates; decide +kernel

theorem wit_RoutineWordsPerform_cres :
    let s := inRoutine 2 2
    let u := unf0 2 2
    let as := (lanesOf (s.active 7)).map (fun l =>
      let i := u.frameInfo (u.cur l).frame
      (l, if (u.cur l).next < i.nch then linePieces (u.obj.frame (i.first + (u.cur l).next) + 32 + 16 * u.obj.argq) 16 else []))
    s.me.unf = some u ∧ RegsIn s (run 63 u.obj.resq) ∧ s.active 7 ≠ 0 ∧ s.flagFree s.cur.seta = true ∧
    s.casPending (s.active 7) = false ∧ (∀ l ∈ lanesOf (s.active 7), (u.cur l).kind = 2) ∧
    Translates s 1 as (s.transAll 1 as).good := by
  unfold RegsIn Translates; decide +kernel

/-- Outside an unfolding; a divide routine at MAXCH; one at the depth limit; lanes without a routine; a divide routine's `cres`. -/
theorem wit_RoutineWordsCheckTheirRoutine :
    world.me.unf = none ∧ RegsIn world [63] ∧ world.active 7 ≠ 0 ∧ world.active 0 = 0 ∧
    (∀ x ∈ [(0, 2, 0), (0, 0, 2), (3, 0, 0)],
      let u : Unf := { unf0 x.1 0 with lane := [(0, { kind := x.1, spawned := x.2.1 }), (1, { kind := x.1 })], info := [(0, { depth := x.2.2 })] }
      let s := withMe (fun c => { c with unf := some u })
      let ls := s.active 7
      s.me.unf = some u ∧ RegsIn s (run 63 u.obj.argq) ∧ RegsIn s (run 63 u.obj.resq) ∧
      (x.2.1 = 2 → (lanesOf ls).head? = some 0 ∧ u.obj.maxch ≤ (u.cur 0).spawned) ∧
      (x.2.2 = 2 → (∀ l ∈ lanesOf ls, (u.cur l).kind = 0 ∧ (u.cur l).spawned < u.obj.maxch) ∧
        ∃ l ∈ lanesOf ls, (u.frameInfo (u.cur l).frame).depth = u.obj.dlim) ∧
      (x.1 = 3 → ∃ l ∈ lanesOf s.G, (u.cur l).kind = 3) ∧ (∃ l ∈ lanesOf ls, (u.cur l).kind ≠ 2)) := by
  unfold RegsIn; decide +kernel

/-- An unfolding whose first lane has a routine to do; one whose lanes are idle, in each phase; one that is over. -/
def todo0 : Unf := { unf0 3 3 with lane := [(0, { kind := 3, todo := [(0, 0)] })] }
def idle0 (phase : Nat) : Unf := { unf0 3 3 with phase := phase, lane := [], frames := [0] }
def over0 : Unf := { unf0 3 3 with isOver := true, lanes := 3 }

/-- A step of the engine of cohort 0 of team 1. -/
def engine (u : Unf) (args : List Nat) : State := asked (withMe (fun c => { c with unf := some u })) args

theorem wit_UnfoldingSteps :
    (let s := engine todo0 [1, 0, 0]
     (s.coh 1 0).unf = some todo0 ∧ (todo0.cur 0).todo = (0, 0) :: [] ∧ (todo0.cur 0).kind = 3 ∧
     (s.getParts 1 0 (engParts s 1 (todo0.obj.frame 0) 48)).2.2 = none ∧
     EngineActs s 1 0 todo0 (lane1 0) (lane1 0) [(todo0.obj.frame 0, 48), (todo0.obj.farea, 512)]) ∧
    (let u := { todo0 with due := 1 }
     (engine u [1, 0, 0]).engOn 1 u (lane1 0) = true ∧ u.due ≠ 0) ∧
    (let s := engine (idle0 0) [1, 0]
     s.engOn 1 (idle0 0) (BitVec.allOnes 32) = true ∧ (idle0 0).due = 0 ∧ (idle0 0).isOver = false ∧ (idle0 0).idle = true ∧ (idle0 0).phase = 0) ∧
    (let s := engine (idle0 1) [1, 0]
     s.engOn 1 (idle0 1) (BitVec.allOnes 32) = true ∧ (idle0 1).due = 0 ∧ (idle0 1).isOver = false ∧ (idle0 1).idle = true ∧ (idle0 1).phase ≠ 0 ∧
     EngineActs s 1 0 (idle0 1) (BitVec.allOnes 32) (lanesBy (fun l => l < (idle0 1).obj.w)) [((idle0 1).obj.farea, 512)]) ∧
    (let s := engine over0 [1, 0]
     over0.isOver = true ∧ EngineActs s 1 0 over0 (BitVec.allOnes 32) over0.lanes [(over0.obj.frame 0 + 48, 16)] ∧
     (s.getParts 1 0 (engParts s 1 (over0.obj.frame 0 + 48) 16)).2.2 = none) := by
  refine ⟨⟨?_, ?_, ?_, ?_, ?_⟩, ?_, ?_,
    ⟨?_, ?_, ?_, ?_, ?_, ?_⟩, ?_, ?_,
    ?_⟩
  all_goals first | decide +kernel | (constructor <;> decide +kernel)

/-- The parts of the descriptor at 0x1000, and of the second one at 0x2000 that its first word names. -/
def descPiece (s : State) (va need : Nat) : Piece :=
  (firstParts s need [(lowest s.G, [{ va := va, at_ := 0, len := 64 : Piece }])]).headD default

def descWorld : State := withLine world 0x1000 [0x2000]

/-- What is read of a descriptor, and the state then. -/
def lineRead (s : State) (pa : Nat) : State × BitVec 1024 × Option (Nat × Nat × Nat) :=
  s.readLine s.myTeam.vf (lineAt pa) s.myTeam.core s.cur.tid s.cur.coh

theorem test_desc_read_of (s : State) (pa : Nat) (clear : (lineRead s pa).2.2 = none)
    (allowed : (s.readRefusal s.myTeam.vf (lineAt pa) s.myTeam.core).any (fun x => x.tgt != 6) = false) :
    DescRead s pa (lineRead s pa).1 (words64 8 (lineBytes (lineRead s pa).2.1 (pa % 128) 64)) :=
  ⟨⟨(lineRead s pa).2.1, Prod.ext rfl (Prod.ext rfl clear), rfl⟩, allowed⟩

/-- A pointer to space 2; SB of 0, of 16 + 1, of 16, 8192 and 8208; a core whose reads the table of accesses refuses; 16 launches in flight. -/
theorem wit_LaunchWordsSend :
    (∃ f, world.descFault (world.sget 2) = some f) ∧
    (withMe (fun c => { c with s := [(3, 17)] })).sget 3 = 17 ∧ 17 % 16 ≠ 0 ∧ (world.sget 9).toNat = 0 ∧ (8192 : Nat) < 8208 ∧
    (let s := descWorld
     let q := descPiece s 0x1000 3
     let t := (lineRead s q.pa).1
     let w := words64 8 (lineBytes (lineRead s q.pa).2.1 (q.pa % 128) 64)
     let q' := descPiece t 0x2000 3
     DescAt s (s.sget 1) 3 true q ∧ s.launchFree = true ∧ DescRead s q.pa t w ∧ (s.sget 3).toNat = 16 ∧
     fld (w.getD 0 0) 6 46 * 64 = 0x2000 ∧ PlacedAt t (fld (w.getD 0 0) 6 46 * 64) 3 true q' ∧
     (∃ u w', DescRead t q'.pa u w')) := by
  refine ⟨⟨_, rfl⟩, ?_, ?_, ?_, ?_,
    ⟨?_, ?_, ?_, ?_⟩, ?_,
    test_desc_read_of _ _ ?_ ?_, ?_, ?_, ?_,
    _, _, test_desc_read_of _ _ ?_ ?_⟩
  all_goals first | decide +kernel | (constructor <;> decide +kernel)

theorem wit_LaunchWordsSend_stops :
    (let s : State := { descWorld with access := (List.range 160).map (fun t => (64 * t, some 0)) }
     let q := descPiece s 0x1000 3
     DescAt s (s.sget 1) 3 true q ∧ s.launchFree = true ∧ (lineRead s q.pa).2.2 = none ∧
     (s.readRefusal s.myTeam.vf (lineAt q.pa) s.myTeam.core).any (fun x => x.tgt != 6) = true) ∧
    (let s : State := { descWorld with ops := (List.range 16).map (fun i => (i, some { tid := 1, coh := 0, kind := 4, pump := some 0 })) }
     DescAt s (s.sget 1) 3 true (descPiece s 0x1000 3) ∧ s.launchFree = false) := by
  refine ⟨⟨⟨?_, ?_, ?_, ?_⟩, ?_⟩,
    ⟨?_, ?_, ?_, ?_⟩, ?_⟩
  all_goals first | decide +kernel | (constructor <;> decide +kernel)

/-- STATUS at 0x1030 says that the launch has ended, or not. -/
theorem wit_LaunchStatusWords :
    (let s := withLine world 0x1000 [0, 0, 0, 0, 0, 0, 256]
     let q := descPiece s 0x1000 1
     DescAt s (s.sget 1) 1 false q ∧
     ((s.pollDone 1 0 s.G (.pumpwait (q.pa + 0x30) 63)).map (fun u => u.myTeam.terminated)) = some false) ∧
    (let s := descWorld
     let q := descPiece s 0x1000 1
     DescAt s (s.sget 1) 1 true q ∧ s.pollDone 1 0 s.G (.pumpwait (q.pa + 0x30) 63) = none ∧
     (∃ t w, DescRead s q.pa t w) ∧ s.flagFree s.cur.setb = true ∧ s.flagFree s.cur.seta = true ∧ RegsIn s [63]) := by
  refine ⟨⟨⟨?_, ?_, ?_, ?_⟩, ?_⟩,
    ⟨?_, ?_, ?_, ?_⟩, ?_,
    ⟨_, _, test_desc_read_of _ _ ?_ ?_⟩, ?_, ?_, ?_⟩
  all_goals first | decide +kernel | (constructor <;> decide +kernel) | (unfold RegsIn; decide +kernel)

/-- s5 names key 5 of schedule 1, s6 a pointer with a bit above; slot 0 has been taken for the key. -/
def boardWorld (taken : Bool) : State :=
  (tiled.modMe (fun c => { c with s := [(5, 0x1000000005), (6, 0x4000000005)] })).modCore 0 (fun c => { c with
    boards := if taken then [(0, { state := 1, key := 5, sched := 1, tid := 1 })] else [] })

theorem wit_BoardingWordsAct :
    let taken (s : State) : Prop :=
      ∃ e ∈ s.myCore.boards, e.1 < 4 ∧ (e.2.state = 1 ∨ e.2.state = 2) ∧ e.2.quit = 0 ∧ e.2.names s.cur.tid (boardKey (s.sget 5)) = true
    fld ((boardWorld false).sget 6) 38 26 ≠ 0 ∧ fld ((boardWorld true).sget 5) 38 26 = 0 ∧ taken (boardWorld true) ∧
    ¬taken (boardWorld false) ∧ (boardWorld true).myTeam.launch.acc = true ∧ ((boardWorld true).myTeam.tile 0).valid = true ∧
    65536 ≤ ((boardWorld true).myTeam.tile 0).len ∧ (boardWorld false).flagFree (boardWorld false).cur.setb = true ∧
    (boardWorld false).myCore.freeSlot = some 0 ∧ (boardWorld false).flagFree (boardWorld false).cur.seta = true ∧
    RegsIn (boardWorld false) [63] := by
  unfold RegsIn; decide +kernel

/-- The world with a handler at 0x400, in it or not. -/
def handled (on : Bool) : State :=
  (world.modTeam 1 (fun t => { t with launch := { t.launch with trapvec := 0x400 } })).modMe (fun c => { c with trapstat := on })

theorem wit_FaultsEnterOrTerminate :
    (handled false).myTeam.launch.trapvec ≠ 0 ∧ (handled false).me.trapstat = false ∧ (0x1D : Nat) ≠ 0x15 ∧
    world.myTeam.launch.trapvec = 0 ∧ world.myTeam.terminated = false ∧ (handled true).me.trapstat = true ∧
    (handled true).myTeam.terminated = false := by decide +kernel

theorem wit_SystemRegisterWords :
    (∃ v, world.sysRead 0x04F = some v) ∧ isCounter 0x04F = true ∧ isCounter 0x071 = false ∧ (∃ v, world.sysRead 0x071 = some v) ∧
    world.fenced world.G true = false ∧ world.acqPending world.G = false ∧ (∃ v, fencedWorld.sysRead 0x020 = some v) ∧
    isCounter 0x020 = true ∧ fencedWorld.fenced fencedWorld.G true = true ∧ world.sysRead 0x007 = none ∧ world.sysRead 0x800 = none ∧
    (∀ n ∈ [0x000, 0x007, 0x020, 0x071, 0x800], n ≠ 0x008 ∧ n ≠ 0x009 ∧ n ≠ 0x00A ∧ n ≠ 0x021 ∧ n ≠ 0x070) := by
  refine ⟨Option.isSome_iff_exists.mp (by decide +kernel), by decide +kernel, by decide +kernel,
    Option.isSome_iff_exists.mp (by decide +kernel), by decide +kernel, by decide +kernel,
    Option.isSome_iff_exists.mp (by decide +kernel), by decide +kernel⟩

theorem wit_TretAndFencei :
    world.me.now.trapstat = false ∧ (handled true).me.now.trapstat = true ∧
    world.opsOf (BitVec.allOnes 32) (fun o => o.kind = 1) = [] ∧ (opened 1).opsOf (BitVec.allOnes 32) (fun o => o.kind = 1) = [9] := by
  decide +kernel

/-- Pumphouse core 5 runs a program, and the step has latched a move of it. -/
def running (m : Move) (f : Pump → Pump) : State :=
  { world with pumps := [(5, f { run := some {} })], mv := (5, m) }

theorem wit_UnitAndControlMoves :
    MoveRuns (running ⟨0, 0, 17, 0, 1, 131071⟩ id) 5 ⟨0, 0, 17, 0, 1, 131071⟩ {} (BitVec.allOnes 64) ∧
    MoveRuns (running ⟨1, 0, 56, 53, 0, 0⟩ id) 5 ⟨1, 0, 56, 53, 0, 0⟩ {} 5 ∧
    (Instr.drain ∈ pumpMoves ∧ (running ⟨1, 1, 55, 0, 1, 0⟩ id).mv = (5, ⟨1, 1, 55, 0, 1, 0⟩) ∧
      ((running ⟨1, 1, 55, 0, 1, 0⟩ id).pump 5).run = some {} ∧ nbit (({} : Run).old.c) ≠ 1) := by
  refine ⟨?_, ?_, by decide +kernel⟩ <;> constructor <;> decide +kernel

/-- A move whose value is v, with STA and BKA. -/
def moving (v : BitVec 64) (p : Ports) (f : Pump → Pump := id) : State :=
  running ⟨0, 0, 0, 1, 0, 0⟩ (fun q => f { q with ports := p, run := some { old := { g := [(1, v)] } } })

theorem wit_moves_run (v : BitVec 64) (p : Ports) :
    MoveRuns (moving v p) 5 ⟨0, 0, 0, 1, 0, 0⟩ { old := { g := [(1, v)] } } v :=
  ⟨rfl, rfl, fun h => absurd h (by decide), rfl⟩

theorem wit_MemoryMovesAccess :
    sramOk 0xFFF8 = true ∧ sramOk 0x10000 = false ∧ sramOk 4 = false ∧ globalOk 0x10000000000000 = false ∧ globalOk 0x1004 = false ∧
    globalOk 0xFFFFFFFFFFFF8 = true ∧
    (globalOk 0x2000 = true ∧ ((moving 0x2000 { sta := 0x2000 }).transFor 0 0x2000 1 0x116).2.isSome = true ∧
      (((moving 0x2000 { sta := 0x2000 }).transFor 0 0x2000 1 0x116).1.pump 5).sect = none ∧
      ((moving 0x2000 { sta := 0x2000 }).transFor 0 0x2000 2 0x116).2.isSome = true) ∧
    ((moving 0x1000000000 {}).transFor 0 0x1000000000 1 0x116).2 = none ∧
    (∃ i x, decodeMicro 0x08 = .ok (i, x) ∧ bkaOk 5 x.op 0x7000000000000000 = true) ∧
    ((moving 8 { bka := 0x7000000000000000 }).bank 0).queue.length < 16 ∧ (∃ e, decodeMicro 5 = .error e) := by
  iterate 8 refine ⟨by decide +kernel, ?_⟩
  exact ⟨⟨_, _, rfl, by decide +kernel⟩, by decide +kernel, ⟨_, rfl⟩⟩

/-- A section whose window is the line 0x2000, in its optimistic run or in the spillway. -/
def section0 (spill : Bool) : Section := { base := 0x2000, len := 128, runs := [(0x2000, 128, 0)], phase := 1, spill := spill }

/-- A word of the data SRAM with two wrong bits; pages that do not translate; a place of another stack; a full queue. -/
theorem wit_MemoryMovesAccess_stops :
    (({ moving 8 {} with upsets := [(upKey 4 5 1, 2)] } : State).sense 0 4 5 1 0).2.isSome = true ∧
    ((moving 8 {}).sense 0 4 5 1 0).2 = none ∧ globalOk 0x1000000000 = true ∧
    ((moving 0 { sta := 0x1000000000 }).transFor 0 0x1000000000 2 0x116).2 = none ∧ bkaOk 5 0 0x7000001000000000 = false ∧
    (let s : State := { moving 8 { bka := 0x7000000000000000 } with banks := [(0, { queue := List.replicate 16 { pc := 5, x := ⟨0, 0, 0, 0, 0⟩, row := 0, col := 0, sc := 0 } })] }
     16 ≤ (s.bank 0).queue.length) := by decide +kernel

/-- The freeboard is full, of other lines and of the line. -/
theorem wit_SectionMovesUseTheFreeboard_full :
    ∀ a ∈ [0x4000, 0x2000],
      let x : Section := { section0 false with board := (List.range 512).map (fun i => (a + 128 * i, some 1)) }
      let s := moving 0x2008 { sta := 0x2008 } (fun p => { p with sect := some x })
      let t := (s.transFor 0 0x2008 2 0x116).1
      let lines := dedup ((tsome ((t.memFold 5 0x2008).sectOf 5).board).map (fun b => lineAt b.1))
      lines.length = 512 ∧ (0x2000 ∈ lines ↔ a = 0x2000) ∧ ((t.memFold 5 0x2008).sectOf 5).abort = false := by decide +kernel

theorem wit_SectionMovesUseTheFreeboard :
    ∀ spill ∈ [true, false],
      let s := moving 0x2008 { sta := 0x2008 } (fun p => { p with sect := some (section0 spill) })
      s.mv = (5, ⟨0, 0, 0, 1, 0, 0⟩) ∧ (s.pump 5).run = some { old := { g := [(1, 0x2008)] } } ∧
      (s.transFor 0 0x2008 1 0x116).2 = some (0x2008, 0) ∧ (s.transFor 0 0x2008 2 0x116).2 = some (0x2008, 0) ∧
      ((s.transFor 0 0x2008 1 0x116).1.pump 5).sect = some (section0 spill) ∧
      ((s.transFor 0 0x2008 2 0x116).1.pump 5).sect = some (section0 spill) ∧ (section0 spill).has 0x2008 = true ∧
      (section0 spill).has 0x4008 = false ∧ globalOk 0x2008 = true ∧
      (let t := (s.transFor 0 0x2008 1 0x116).1
       let d := (t.dramLine 0x2000).getD 0
       t.permits (128 + stackOf d) 0 0x85 0 = true ∧ t.permits (128 + stackOf d) 0 0x85 1 = true ∧ t.keyless 0 = false ∧ t.mscHas d = true ∧
       (t.sense 0 2 (stackOf d) d 0x2000).2 = none) := by decide +kernel

/-- Bank 0 with one microcommand of pumphouse core 5, its row and more. -/
def cmd0 (op wr : Nat) : MicroCmd := { pc := 5, x := ⟨op, wr, 0, 0, 0⟩, row := 7, col := 0, sc := 0 }
def row0 (wr : Bool) : Row := { row := 7, pc := 5, wr := wr, act := 0 }
def banked (op wr : Nat) (f : Bank → Bank) : State :=
  asked { world with clk := 1080, pumps := [(5, { run := some {} })], banks := [(0, f { queue := [cmd0 op wr] })] } [0]

theorem wit_MicrocommandsAct_act :
    let c : MicroCmd := { cmd0 0 0 with recalled := true }
    let back : NReq := { bank := 0, row := 7, line := 0x4000, rq := 9, ws := some [], back := true }
    let s := banked 0 1 id
    let t (f : Bank → Bank) : State := banked 0 0 (fun b => f { b with queue := [c] })
    let u : State := { s with domains := [(1, some 0)] }
    (∃ x ∈ (s.bank 0).queue, s.mayRecall 0 x = true) ∧
    (∀ x ∈ [t (fun b => { b with row := some (row0 false) }), t id, { t id with chans := [(0, [back])] }],
      x.bankHead 0 0 = some c ∧ (∀ y ∈ (x.bank 0).queue, x.mayRecall 0 y = false) ∧ (x.bank 0).susp = none ∧
      x.mayActivate (x.runVf 5) 0 7 false = true) ∧
    ((t (fun b => { b with row := some (row0 false) })).bank 0).open? ≠ none ∧ ((t id).bank 0).open? = none ∧
    u.bankHead 0 0 = some (cmd0 0 1) ∧ (∀ y ∈ (u.bank 0).queue, u.mayRecall 0 y = false) ∧ (u.bank 0).open? = none ∧
    u.mayActivate (u.runVf 5) 0 7 true = false ∧
    ({ t id with chans := [(0, [back])] } : State).recalling 0 7 = true ∧ (t id).recalling 0 7 = false ∧ (t id).canIssue 0 0 = true := by
  decide +kernel

theorem wit_MicrocommandsAct :
    HeadIssues (banked 1 0 (fun b => { b with row := some (row0 false) })) 0 1 (cmd0 1 0) ∧
    RowReady ((banked 1 0 (fun b => { b with row := some (row0 false) })).bank 0) (cmd0 1 0) ∧
    HeadIssues (banked 2 0 (fun b => { b with row := some (row0 true) })) 0 2 (cmd0 2 0) ∧
    RowReady ((banked 2 0 (fun b => { b with row := some (row0 true) })).bank 0) (cmd0 2 0) ∧
    ((banked 1 0 (fun b => { b with row := some (row0 false) })).senseColumn 0 0 7 0).2 = none ∧
    (banked 2 0 (fun b => { b with row := some (row0 true) })).keyless 0 = false ∧
    HeadIssues (banked 4 0 id) 0 4 (cmd0 4 0) ∧
    (let s := banked 3 0 (fun b => { b with susp := some (row0 false) })
     s.bankHead 0 3 = some (cmd0 3 0) ∧ (s.bank 0).susp.any (fun r => r.pc = 5) = true) ∧
    (let s := banked 3 0 (fun b => { b with row := some (row0 false) })
     s.bankHead 0 3 = some (cmd0 3 0) ∧ (s.bank 0).susp.any (fun r => r.pc = 5) = false ∧
     (s.bank 0).open?.any (fun r => r.pc = 5) = true ∧ s.canIssue 0 3 = true) ∧
    (let s := banked 3 0 id
     s.bankHead 0 3 = some (cmd0 3 0) ∧ (s.bank 0).susp.any (fun r => r.pc = 5) = false ∧
     (s.bank 0).open?.any (fun r => r.pc = 5) = false) := by
  refine ⟨⟨?_, ?_⟩, ⟨?_, ?_, ?_⟩,
    ⟨?_, ?_⟩, ⟨?_, ?_, ?_⟩, ?_, ?_,
    ⟨?_, ?_⟩, ?_, ?_, ?_⟩ <;> decide +kernel

/-- A read of the line 0x4000 that waits for bank 0 of channel 0, for row 7. -/
def nreq0 (admitted : Bool) : NReq := { bank := 0, row := 7, line := 0x4000, rq := 9, admitted := admitted }

def channel (ns : List NReq) (b : Bank) : State :=
  asked { world with clk := 1080, pumps := [(5, { run := some {} })], banks := [(0, b)], chans := [(0, ns)] } [0]

/-- Row 7 of bank 0 has the line 917504, which is a section's window; and function 0's keys are destroyed. -/
theorem wit_MicrocommandsAct_refused :
    (let x : Section := { base := 917504, len := 128, runs := [(917504, 128, 0)] }
     let c : MicroCmd := cmd0 0 1
     let p (s : State) : State := ({ s with pumps := [(5, { run := some {}, sect := some x })] } : State).setSlice (s.homeSlice 917504)
       { secs := [{ pc := 5 }] }
     let s := p (banked 0 1 id)
     let t := p (channel [] { susp := some (row0 true) })
     s.bankHead 0 0 = some c ∧ (∀ y ∈ (s.bank 0).queue, s.mayRecall 0 y = false) ∧ (s.bank 0).open? = none ∧ (s.bank 0).susp = none ∧
     s.mayActivate (s.runVf 5) 0 7 true = true ∧ c.recalled = false ∧
     t.mayActivate (t.runVf 5) 0 7 true = true ∧ t.rowInWindow 0 7 = true) ∧
    (let s : State := { banked 2 0 (fun b => { b with row := some (row0 true) }) with keys := [(0, { kstate := 2 })] }
     s.bankHead 0 2 = some (cmd0 2 0) ∧ s.canIssue 0 2 = true ∧ s.keyless (s.runVf 5) = true) := by decide +kernel

/-- A normal row, and a compute row, that stand open. -/
def normal0 : Row := { row0 false with pc := 128, normal := true }

theorem wit_BankEventsInterleave :
    (let s := channel [nreq0 false] { row := some (row0 false) }
     (s.bank 0).open? = some (row0 false) ∧ s.waitingAt 0 ≠ [] ∧ s.bankHeld 0 = false ∧ max (s.bank 0).busy ((row0 false).act + 32) ≤ s.dclk) ∧
    (∀ recalled ∈ [true, false],
      let s := channel [] { susp := some (row0 true), recalled := recalled }
      (s.bank 0).susp = some (row0 true) ∧ s.normalAt 0 = [] ∧ (s.bank 0).row = none ∧
      (s.bankHead 0 3).any (fun c => c.pc = 5) = false ∧ max (s.bank 0).busy (s.bank 0).pre ≤ s.dclk ∧
      s.mayActivate (s.runVf 5) 0 7 true = true ∧ s.rowInWindow 0 7 = false ∧ s.recalling 0 7 = false ∧ s.dclk % 16 < s.bd) ∧
    (let s := { channel [] { susp := some (row0 true) } with domains := [(1, some 0)] }
     s.mayActivate (s.runVf 5) 0 7 true = false) ∧
    (channel [nreq0 false] {}).nextNormal 0 = some (.inr (nreq0 false)) ∧ (channel [nreq0 false] {}).mayNormal (nreq0 false) = true ∧
    (channel [nreq0 true] { row := some normal0 }).nextNormal 0 = some (.inr (nreq0 true)) ∧
    (channel [] { row := some normal0 }).nextNormal 0 = some (.inl 0) := by decide +kernel

theorem wit_LineCommandsMoveLines : world.dramLine 0x4000 = some 268435456 := by decide +kernel

/-- A launch of a program of one bundle at 0x1000 (a DONE and a move to ZERO), for pumphouse core 5. -/
def launch1 (kind : Nat) (abort : Bool) (ok : Bool) : PumpLaunch :=
  { kind := kind, tid := 1, core := 0, desc := 0x3000, sdesc := 0x3040, abort := abort
    words := if kind = 1 then [0x7000000000000000, if ok then 64 else 0, 0, 0x100, 0, 0, 0, 0]
      else [0x1000, if ok then 0x50001 else 0, 0, 0, 0, 0, 0, 0]
    swords := [0x3000, 0x2000, 128, 0x13, 0, 0, 0, 0] }

/-- The bundle: DONE with 0, then a move of 0 to ZERO. -/
def queuedLaunch (kind : Nat) (abort : Bool := false) (ok : Bool := true) (bundle : Nat := 0x3802000030020000) : State :=
  withLine (asked { world with pumps := [(5, { queue := [launch1 kind abort ok] })] } [5]) 0x1000 [bundle]

/-- What `LaunchesStart` asks of every launch. -/
def Queued (s : State) (l : PumpLaunch) : Prop := (s.pump 5).queue.head? = some l ∧ (s.pump 5).run = none

theorem wit_LaunchesStart :
    (∀ k ∈ [0, 2], Queued (queuedLaunch k true) (launch1 k true true) ∧ (launch1 k true true).abort = true) ∧
    (let l := { launch1 0 false true with mute := true }
     Queued { world with pumps := [(5, { queue := [l] })] } l ∧ l.abort = false ∧ l.mute = true) ∧
    (∀ k ∈ [0, 2], let s := { queuedLaunch k with access := [(128 * 64, some 0)] }
      Queued s (launch1 k false true) ∧ s.mayCompute 5 (launch1 k false true) = false) ∧
    (Queued (queuedLaunch 1) (launch1 1 false true) ∧ (queuedLaunch 1).mayCompute 5 (launch1 1 false true) = true ∧
      splitDescOk (launch1 1 false true).words 5 = true ∧ Queued (queuedLaunch 1 false false) (launch1 1 false false) ∧
      splitDescOk (launch1 1 false false).words 5 = false) ∧
    (∀ k ∈ [0, 2], Queued (queuedLaunch k false false) (launch1 k false false) ∧
      (queuedLaunch k false false).mayCompute 5 (launch1 k false false) = true ∧ pumpDescOk (launch1 k false false).words = false) ∧
    (Queued (queuedLaunch 0) (launch1 0 false true) ∧ (queuedLaunch 0).mayCompute 5 (launch1 0 false true) = true ∧
      pumpDescOk (launch1 0 false true).words = true ∧ ((queuedLaunch 0).loadProgram 5 (launch1 0 false true)).2.toOption.isSome = true) ∧
    ((queuedLaunch 0 false true 0x39).loadProgram 5 (launch1 0 false true)).2.toOption.isNone = true ∧
    (let s := queuedLaunch 2
     let l := launch1 2 false true
     let r := s.windowRuns 5 0 (l.sword 1).toNat (fld (l.sword 2) 0 36)
     Queued s l ∧ s.mayCompute 5 l = true ∧ sectDescOk l.swords = true ∧ pumpDescOk l.words = true ∧ r.2 = some [(0x2000, 128, 0)] ∧
     (r.1.loadProgram 5 l).2.toOption.isSome = true ∧ (s.windowRuns 5 0 0xFFFFFFFFFFF80 256).2 = none) := by
  unfold Queued; decide +kernel

/-- A run of that launch, in a section or not, that has ended or not. -/
def run0 (kind limit : Nat) (ended : Option Nat) : Run :=
  { launch := { launch1 kind false true with words := [0x1000, 0x50001 + limit * 2 ^ 24, 0, 0, 0, 0, 0, 0] }, ended := ended }
def pumping (r : Run) (x : Option Section) : State :=
  asked { world with clk := 18, pumps := [(5, { run := some r, sect := x })] } [5]

theorem wit_LaunchesEnd :
    (let s := pumping (run0 0 3 none) none
     (s.pump 5).run = some (run0 0 3 none) ∧ fld ((run0 0 3 none).launch.word 1) 24 5 ≠ 0 ∧
     (run0 0 3 none).start + 2 ^ fld ((run0 0 3 none).launch.word 1) 24 5 ≤ s.pclk) ∧
    (let s := pumping (run0 2 3 none) (some (section0 false))
     (s.pump 5).run = some (run0 2 3 none) ∧ (s.sectOf 5).phase < 2) ∧
    (∀ k ∈ [0, 1, 2],
      let s := pumping (run0 k 3 (some 0x0A)) (if k = 2 then some (section0 false) else none)
      (s.pump 5).nodes.find? (fun e => s.ended [e.1]) = none ∧
      (s.pump 5).run = some (run0 k 3 (some 0x0A)) ∧ (tsome s.ops = []) ∧ (s.closeRows 5).openRows 5 = [] ∧ (s.closeRows 5).bkq 5 = 0) ∧
    (let s := asked { world with pumps := [(5, { nodes := [(9, 0, 0, 0)] })] } [5]
     (s.pump 5).nodes.find? (fun e => s.ended [e.1]) = some (9, 0, 0, 0)) := by
  decide +kernel

/-- A section of slice 0 in a phase, with slice 0 still to act or not. -/
def sectioned (phase : Nat) (todo : List Nat) (outcome : Nat) (entries : Nat := 1) (c1 : BitVec 1024 := 0) : State :=
  let s := asked { world with
    pumps := [(5, { run := some (run0 2 0 none)
                    sect := some { section0 false with phase := phase, todo := todo, outcome := outcome, m1 := 1, c1 := c1 } })] } [5, 0]
  s.setSlice 0 { s.slice 0 with secs := List.replicate entries { pc := 5 } }

theorem wit_SectionEvents :
    (∀ s ∈ [sectioned 0 [0] 0 3, sectioned 2 [0] 0, sectioned 4 [0] 0, sectioned 2 [] 0, sectioned 2 [] 0 1 1, sectioned 3 [0] 0,
      sectioned 3 [0] 1, sectioned 3 [] 0, sectioned 3 [] 1, sectioned 3 [] 2], (s.pump 5).sect.isSome = true ∧ (s.pump 5).run = some (run0 2 0 none)) ∧
    (let s := sectioned 0 [0] 0 3
     (s.sectOf 5).phase = 0 ∧ (s.sectOf 5).todo.head? = some 0 ∧ (s.slice 0).secs.length < 4 ∧ (run0 2 0 none).ended = none) ∧
    ((sectioned 2 [0] 0).sectOf 5).phase = 2 ∧ 0 ∈ ((sectioned 2 [0] 0).sectOf 5).todo ∧
    ((sectioned 4 [0] 0).sectOf 5).phase = 4 ∧ 0 ∈ ((sectioned 4 [0] 0).sectOf 5).todo ∧
    ((sectioned 2 [] 0).sectOf 5).todo = [] ∧
    ((sectioned 3 [0] 0).sectOf 5).phase = 3 ∧ 0 ∈ ((sectioned 3 [0] 0).sectOf 5).todo ∧ ((sectioned 3 [0] 0).sectOf 5).outcome = 0 ∧
    ((sectioned 3 [0] 1).sectOf 5).outcome ≠ 0 ∧
    ((sectioned 3 [] 0).sectOf 5).todo = [] ∧ (sectioned 3 [] 0).ended (run0 2 0 none).ops = true ∧
    ((sectioned 3 [] 0).sectOf 5).lifts = [] ∧ ((sectioned 3 [] 1).sectOf 5).outcome = 1 ∧ ((sectioned 3 [] 2).sectOf 5).outcome = 2 ∧
    (let s := asked { world with pumps := [(5, { run := some (run0 2 0 none), sect := some { section0 false with phase := 3, lifts := [0], invs := [7] } })] } [5, 0]
     (s.sectOf 5).phase = 3 ∧ (s.sectOf 5).todo = [] ∧ 0 ∈ (s.sectOf 5).lifts ∧ ∀ i ∈ (s.sectOf 5).invs, tget none s.invs i = none) := by
  decide +kernel

/-- A request of cohort 0 for the line 0x4000, at its slice. -/
def req0 (k : ReqKind) : Req :=
  { op := 3, master := 0, vf := 0, tid := 1, coh := 0, lanes := 1, kind := k, line := 0x4000, here := true }

/-- The world with that request as 9; its line in the slice, or not; its line locked by another cohort, or not; slice 0 closed to it, or
not; its window held by a section, or not. -/
def requesting (k : ReqKind) (isIn lockedOut closed : Bool) (window : Bool := false) : State :=
  let s := asked { world with
    reqs := [(9, some (req0 k))]
    ops := [(3, some { tid := 1, coh := 0, flag := 0, lanes := 1, left := 1 })]
    locks := if lockedOut then [(0x4000, heldLine)] else []
    access := if closed then [(0, some 0)] else []
    pumps := if window then [(5, { run := some {}, sect := some { base := 0x4000, len := 128, runs := [(0x4000, 128, 0)] } })] else [] } [9]
  let s := if isIn then withLine s 0x4000 [7] else s
  if window then s.setSlice 0 { s.slice 0 with secs := [{ pc := 5, hold := true }] } else s

def readKind : ReqKind := .read [(0, 0x4000, 4)] none
def writeKind : ReqKind := .write [{ addr := 0x4000, data := 5 }]
def atomKind : ReqKind := .atomic 0 4 0x4000 [⟨0, 1, 0⟩]

theorem test_arrives_of (s : State) (id : Nat) (r : Req) (right : Nat) (wr : Bool)
    (h : s.req id = some r ∧ s.ready id r = true ∧ r.slice = true ∧ s.turnedAway r right wr = none) (here : r.here = true) :
    Arrives s id s r right wr := ⟨test_comes_of s id r h.1 h.2.1 here, h.2.2.1, h.2.2.2⟩

/-- A line in its slice, one in the memory-side cache, one that has yet to be read, one that its domain keeps from the function, and one in a held
window. -/
theorem wit_SlicesServeReads :
    (∀ k ∈ [readKind, .fill false 0, .lstat 1],
      let s := requesting k true false false
      Arrives s 9 s (req0 k) 0 false ∧ Served s (req0 k) 128 ∧ (s.sline 0x4000).isSome = true) ∧
    (let s := requesting readKind false false false
     Arrives s 9 s (req0 readKind) 0 false ∧ Served s (req0 readKind) 128 ∧ s.sline 0x4000 = none) ∧
    (let s := { requesting readKind false false false with msc := [] }
     Arrives s 9 s (req0 readKind) 0 false ∧ s.heldWindow 0x4000 128 = false ∧ s.missRefusal 0 0x4000 = none ∧ s.isHere 0x4000 = false) ∧
    (let s := { requesting readKind false false false with msc := [], domains := [(1, some 0)] }
     Arrives s 9 s (req0 readKind) 0 false ∧ s.heldWindow 0x4000 128 = false ∧ (s.missRefusal 0 0x4000).isSome = true) ∧
    (let s := requesting readKind true false false true
     Arrives s 9 s (req0 readKind) 0 false ∧ s.heldWindow 0x4000 128 = true) := by
  have h : ∀ k ∈ [readKind, .fill false 0, .lstat 1], let s := requesting k true false false
      (s.req 9 = some (req0 k) ∧ s.ready 9 (req0 k) = true ∧ (req0 k).slice = true ∧ s.turnedAway (req0 k) 0 false = none) ∧
      (s.heldWindow 0x4000 128 = false ∧ s.missRefusal 0 0x4000 = none ∧ s.isHere 0x4000 = true) ∧ (s.sline 0x4000).isSome = true := by
    decide +kernel
  exact ⟨fun k m => ⟨test_arrives_of _ _ _ _ _ (h k m).1 rfl, ⟨(h k m).2.1.1, (h k m).2.1.2.1, (h k m).2.1.2.2⟩, (h k m).2.2⟩,
    ⟨test_arrives_of _ _ _ _ _ (by decide +kernel) rfl, ⟨by decide +kernel, by decide +kernel, by decide +kernel⟩, by decide +kernel⟩,
    ⟨test_arrives_of _ _ _ _ _ (by decide +kernel) rfl, by decide +kernel⟩,
    ⟨test_arrives_of _ _ _ _ _ (by decide +kernel) rfl, by decide +kernel⟩,
    ⟨test_arrives_of _ _ _ _ _ (by decide +kernel) rfl, by decide +kernel⟩⟩

/-- The same of writes and atomics; with the line locked by another cohort; and a released line of a section. -/
theorem wit_SlicesServeRequests :
    (∀ x ∈ [(writeKind, 1), (atomKind, 2)],
      (let s := requesting x.1 true false false
       Arrives s 9 s (req0 x.1) x.2 true ∧ s.heldWindow 0x4000 128 = false ∧ s.lockedOut (req0 x.1) = false ∧
       s.missRefusal 0 0x4000 = none ∧ s.isHere 0x4000 = true ∧ s.noWay 0x4000 = false) ∧
      (let s := requesting x.1 true true false
       Arrives s 9 s (req0 x.1) x.2 true ∧ s.heldWindow 0x4000 128 = false ∧ s.lockedOut (req0 x.1) = true) ∧
      (let s := { requesting x.1 false false false with msc := [] }
       Arrives s 9 s (req0 x.1) x.2 true ∧ s.missRefusal 0 0x4000 = none ∧ s.isHere 0x4000 = false) ∧
      (let s := { requesting x.1 false false false with msc := [], domains := [(1, some 0)] }
       Arrives s 9 s (req0 x.1) x.2 true ∧ (s.missRefusal 0 0x4000).isSome = true) ∧
      (let s := requesting x.1 true false false true
       Arrives s 9 s (req0 x.1) x.2 true ∧ s.heldWindow 0x4000 128 = true)) := by
  have h : ∀ x ∈ [(writeKind, 1), (atomKind, 2)],
      (let s := requesting x.1 true false false
       (s.req 9 = some (req0 x.1) ∧ s.ready 9 (req0 x.1) = true ∧ (req0 x.1).slice = true ∧ s.turnedAway (req0 x.1) x.2 true = none) ∧
       s.heldWindow 0x4000 128 = false ∧ s.lockedOut (req0 x.1) = false ∧
       s.missRefusal 0 0x4000 = none ∧ s.isHere 0x4000 = true ∧ s.noWay 0x4000 = false) ∧
      (let s := requesting x.1 true true false
       (s.req 9 = some (req0 x.1) ∧ s.ready 9 (req0 x.1) = true ∧ (req0 x.1).slice = true ∧ s.turnedAway (req0 x.1) x.2 true = none) ∧
       s.heldWindow 0x4000 128 = false ∧ s.lockedOut (req0 x.1) = true) ∧
      (let s := { requesting x.1 false false false with msc := [] }
       (s.req 9 = some (req0 x.1) ∧ s.ready 9 (req0 x.1) = true ∧ (req0 x.1).slice = true ∧ s.turnedAway (req0 x.1) x.2 true = none) ∧
       s.missRefusal 0 0x4000 = none ∧ s.isHere 0x4000 = false) ∧
      (let s := { requesting x.1 false false false with msc := [], domains := [(1, some 0)] }
       (s.req 9 = some (req0 x.1) ∧ s.ready 9 (req0 x.1) = true ∧ (req0 x.1).slice = true ∧ s.turnedAway (req0 x.1) x.2 true = none) ∧
       (s.missRefusal 0 0x4000).isSome = true) ∧
      (let s := requesting x.1 true false false true
       (s.req 9 = some (req0 x.1) ∧ s.ready 9 (req0 x.1) = true ∧ (req0 x.1).slice = true ∧ s.turnedAway (req0 x.1) x.2 true = none) ∧
       s.heldWindow 0x4000 128 = true) := by decide +kernel
  intro x m
  have y := h x m
  exact ⟨⟨test_arrives_of _ _ _ _ _ y.1.1 rfl, y.1.2⟩, ⟨test_arrives_of _ _ _ _ _ y.2.1.1 rfl, y.2.1.2⟩,
    ⟨test_arrives_of _ _ _ _ _ y.2.2.1.1 rfl, y.2.2.1.2⟩, ⟨test_arrives_of _ _ _ _ _ y.2.2.2.1.1 rfl, y.2.2.2.1.2⟩,
    ⟨test_arrives_of _ _ _ _ _ y.2.2.2.2.1 rfl, y.2.2.2.2.2⟩⟩

/-- A line that a section releases; a write that finds every way of its set pinned. -/
theorem wit_SlicesServeRequests_ways :
    (let r := { req0 writeKind with sect := 5 }
     let s : State := { requesting writeKind true false false with reqs := [(9, some r)] }
     Arrives s 9 s r 1 true ∧ s.heldWindow 0x4000 5 = false ∧ s.lockedOut r = false ∧ r.sect < 128) ∧
    (let s := requesting writeKind false false false
     let set := (List.range 16).map (fun i => 0x4000 + 262144 * (i + 1))
     let t := { s.setSlice 0 { s.slice 0 with lines := set.map (·, { }) } with locks := set.map (·, heldLine) }
     Arrives t 9 t (req0 writeKind) 1 true ∧ t.heldWindow 0x4000 128 = false ∧ t.lockedOut (req0 writeKind) = false ∧ t.noWay 0x4000 = true) :=
  ⟨⟨test_arrives_of _ _ _ _ _ (by decide +kernel) rfl, by decide +kernel⟩,
    ⟨test_arrives_of _ _ _ _ _ (by decide +kernel) rfl, by decide +kernel⟩⟩

/-- Slice 0's table refuses the core: a read, and a write. -/
theorem wit_SlicesServe_refused :
    (ComesIn (requesting readKind true false true) 9 (requesting readKind true false true) (req0 readKind) ∧
      ∃ t, (requesting readKind true false true).turnedAway (req0 readKind) 0 false = some t) ∧
    (ComesIn (requesting writeKind true false true) 9 (requesting writeKind true false true) (req0 writeKind) ∧
      ∃ t, (requesting writeKind true false true).turnedAway (req0 writeKind) 1 true = some t) :=
  ⟨⟨test_comes_of _ _ _ (by decide +kernel) (by decide +kernel) rfl, Option.isSome_iff_exists.mp (by decide +kernel)⟩,
    ⟨test_comes_of _ _ _ (by decide +kernel) (by decide +kernel) rfl, Option.isSome_iff_exists.mp (by decide +kernel)⟩⟩

/-- A request to the team's own core, over the mesh. -/
def meshReq (k : ReqKind) : Req :=
  { op := 3, master := 0, vf := 0, tid := 1, coh := 0, lanes := 1, kind := k, line := 0, slice := false, page := 1, here := true }

def meshKinds : List ReqKind :=
  [readKind, writeKind, atomKind, .steal [0] [1], .que (.arr 5) 0x4000000000001000, .reply [(0, 5)], .answer (.arr 5) 0x4000000000001000 {}]

theorem wit_MeshOperationsArrive :
    ∀ k ∈ meshKinds,
      let s := asked { world with reqs := [(9, some (meshReq k))] } [9]
      ComesIn s 9 s (meshReq k) ∧ (meshReq k).slice = false ∧ s.wayOf (meshReq k) = .arrives 0 none ∧ (s.team 1).placed 0 = true ∧
      (s.team 1).terminated = false ∧ s.upsets = [] := by
  have h : ∀ k ∈ meshKinds,
      let s := asked { world with reqs := [(9, some (meshReq k))] } [9]
      s.req 9 = some (meshReq k) ∧ s.ready 9 (meshReq k) = true ∧ (meshReq k).slice = false ∧ s.wayOf (meshReq k) = .arrives 0 none ∧
      (s.team 1).placed 0 = true ∧ (s.team 1).terminated = false ∧ s.upsets = [] := by decide +kernel
  exact fun k m => ⟨test_comes_of _ _ _ (h k m).1 (h k m).2.1 rfl, (h k m).2.2⟩

/-- Core 2's router has no route to core 0's site. -/
theorem wit_MeshOperationsArrive_dropped :
    let r := { meshReq readKind with master := 2 }
    let s := asked { world with reqs := [(9, some r)], routes := [(siteOf (coreXY 2), some (BitVec.allOnes 1024))] } [9]
    ComesIn s 9 s r ∧ (∃ x, s.wayOf r = .drops x) :=
  ⟨test_comes_of _ _ _ (by decide +kernel) (by decide +kernel) rfl, ⟨siteOf (coreXY 2), by decide +kernel⟩⟩

theorem wit_CopiesAndResultsSettle :
    (∀ x ∈ [0, 128],
      let s : State := asked { world with invs := [(9, some ⟨x, 0x4000⟩)] } [9]
      tget none s.invs 9 = some ⟨x, 0x4000⟩ ∧ s.isNext 9 = true ∧ (x < 128 ∨ s.usesLeaf (x - 128) 0x4000 9 = false)) ∧
    (let s : State := { world with acks := [(9, some { op := 3, tag := 0, invs := [8] })] }
     tget none s.acks 9 = some { op := 3, tag := 0, invs := [8] } ∧ s.isNext 9 = true ∧ (∀ i ∈ [8], tget none s.invs i = none) ∧ s.op 3 = none) ∧
    (let s := world.modCore 0 (fun c => { c with l1 := [(0x4000, {})] })
     l1Victim ((s.core 0).l1Set 0x4000) = some 0x4000) ∧
    (∀ k ∈ [0, 2, 3], ∀ bad ∈ [none, some (3, 0, 0x4000)],
      let o : Op := { tid := 1, coh := 0, flag := 0, lanes := 3, dest := .load 1 4 false, kind := k, bad := bad }
      let s : State := State.takeParts { world with ops := [(9, some o)], inbox := [(0, 0, 9)] } 9
      s.op 9 = some o ∧ (∀ e ∈ s.inbox, e.2.2 ≠ 9) ∧ o.due ≤ s.clk ∧ o.left = 0 ∧ (o.kind = 0 ∨ o.kind = 2 ∨ (o.kind = 3 ∧ o.dest ≠ .none)) ∧ o.pump = none ∧ o.rest = [] ∧
      s.canLand o = true ∧ (s.team o.tid).terminated = false ∧ o.bad = bad) := by decide +kernel

/-- A copy command that has been translated, or not yet; from an address that no leaf maps. -/
def copy0 (ok : Bool) (src : BitVec 64) : CopyCmd := { op := 3, tid := 1, isIn := true, dst := 0x3000000000000000, src := src, len := 16, ch := 2, ok := ok }
def copying (c : CopyCmd) : State := asked (world.modCore 0 (fun k => { k with chans := [(2, { queue := [c] })] })) [0, 2]

theorem wit_WalksRecordsAndPiecesArrive :
    (let s := asked { world with walks := [(9, some ⟨0, 0, 0, [0]⟩)] } [9]
     tget none s.walks 9 = some ⟨0, 0, 0, [0]⟩ ∧ (s.inFlight 0).any (fun e => e.1 = 9) = true ∧
     s.walk 0 (0 * 65536) (0x116 + 0) = .leaf leaf0) ∧
    (let s := asked { world with fns := [(0, { fqlgd := 4, fqbase := 0x8000 })], frecs := [{ vf := 0, data := 1 }] } [0]
     s.frecs.find? (fun r => r.vf = 0 && s.canRecord r) = some { vf := 0, data := 1 }) ∧
    (((copying (copy0 true 0x2000)).core 0).chan 2).queue = [copy0 true 0x2000] ∧ (copy0 true 0x2000).wait = none ∧
    (let s := copying (copy0 false 0x1000000000)
     ((s.core 0).chan 2).queue = [copy0 false 0x1000000000] ∧ (copy0 false 0x1000000000).out = 0 ∧
     (copy0 false 0x1000000000).global = some (0x1000000000, 1) ∧
     (match s.copyPages 0 0 1 (offOf (0x1000000000 : BitVec 64)) 16 with
      | .bad _ _ _ => true
      | _ => false) = true) ∧
    (∀ x ∈ [(15, 2, false), (0, 1, true), (0, 1, false)],
      let d : Drain := { bank := x.1, mode := x.2.1, op := 3 }
      let s := asked (world.modCore 0 (fun c => { c with drains := [d], l1 := if x.2.2 then [(0x200000, { dirty := true, priv := true })] else [] }))
        [0, x.1]
      (s.core 0).drains.find? (fun d => d.bank = x.1) = some d ∧ s.drained 0 d = true ∧
      ((tget 0 (s.core 0).modes x.1 = 0 ∧ x.2.1 ≠ 0) ∧ (∃ e ∈ (s.core 0).l1, e.2.dirty = true) ↔ x.2.2 = true) ∧ s.op 3 = none) := by
  decide +kernel

theorem wit_StoresChangeTheirBytesOnly :
    (∃ l, (withLine world 0x4000 [7]).sline 0x4000 = some l) ∧ (127 : Nat) < 128 ∧
    (∀ w ∈ [{ addr := 0x4000, data := 5 : WByte }], w.addr % 128 ≠ 127) ∧ ({ addr := 0x4000, data := 5 } : WByte).mask = 255 ∧
    (0x4080 : Nat) ≠ 0x4000 ∧ (∀ w ∈ [{ addr := 8, data := 5 : WByte }], team0.scrKey w.addr ≠ team0.scrKey 9) ∧
    (∀ w ∈ [{ addr := 8, data := 5 : WByte }], team0.opOff + w.addr ≠ team0.opOff + 9) ∧ (1 : Nat) ≠ team0.core := by
  refine ⟨Option.isSome_iff_exists.mp (by decide +kernel), by decide +kernel⟩

/-- Of the scratchpad, a load of a word; at the slice, a read of a word; in an operation whose part is in, and of which none is missing. -/
theorem wit_LoadsDeliverTheirBytes :
    (∃ m good, memForm world (.ldI16 1 3 7 0 7) = some m ∧ m.access = 0 ∧ m.Performs world good ∧ world.upsets = [] ∧
      ∀ a ∈ m.own world, spaceOf a.ptr = 2 ∨ spaceOf a.ptr = 3) ∧
    (let s := requesting readKind true false false
     Arrives s 9 s (req0 readKind) 0 false ∧ Served s (req0 readKind) 128 ∧ (s.sline 0x4000).isSome = true ∧
     (s.touch 0x4000).senseLine 0 0x4000 = (s.touch 0x4000, none) ∧ (tsome s.invs).any (fun e => e.2 = ⟨0, 0x4000⟩) = false) ∧
    (∃ o, (requesting readKind true false false).op 3 = some o ∧ o.kind = 0) ∧
    (∀ d ∈ [Dest.load 63 16 false, .load 0 1 true, .sload 62],
      let o : Op := { tid := 1, coh := 0, flag := 0, lanes := 3, dest := d, got := [(0, 0x80)] }
      let t := (asked { world with ops := [(9, some o)] } [9]).takeParts 9
      t.op 9 = some o ∧ (∀ e ∈ t.inbox, e.2.2 ≠ 9) ∧ o.due ≤ t.clk ∧ o.left = 0 ∧ o.rest = [] ∧ o.kind = 0 ∧ o.pump = none ∧ o.bad = none ∧
      t.canLand o = true ∧ (t.team o.tid).terminated = false ∧ (t.team o.tid).area = none) := by
  refine ⟨⟨_, (world.transAll 1 (((signedForm world 1 3 7 0 7 2).own world).map (fun a => (a.lane, world.pieces a.lane 2 a.ptr)))).good, rfl, rfl, ?_, rfl,
    by decide +kernel⟩, ?_, ⟨_, rfl, rfl⟩, by decide +kernel⟩
  · constructor <;> (try unfold RegsIn) <;> decide +kernel
  · exact ⟨test_arrives_of _ _ _ _ _ (by decide +kernel) rfl, ⟨by decide +kernel, by decide +kernel, by decide +kernel⟩,
      by decide +kernel, rfl, by decide +kernel⟩

/-- v2 of lane 1 names a page that has no leaf, while lane 0's translates; or its walk has yet to be made. -/
def halfMapped : State := world.modCore 0 (fun c => { c with rf := [(64, 0x2000), (65, 0x1000000000)] })

/-- Lane 1 parks with lane 0 performing; the whole group with a uniform form (s5 names such a page); a translation that is missing. -/
theorem wit_LanesThatDoNotTranslatePark :
    (∀ x ∈ [(Instr.ldW 1 2 7 0 7, halfMapped), (.stW 1 2 7 0 7, halfMapped), (.atomAddI32 1 2 7 0 7, halfMapped),
        (.lduD 1 5 7 0, halfMapped.modMe (fun c => { c with s := [(5, 0x1000000000)] })),
        (.ldW 1 2 7 0 7, halfMapped.modCore 0 (fun c => { c with tlb := [] }))],
      (match memForm x.2 x.1 with
        | some m =>
          let r := x.2.transAll (needOf m.access) ((m.own x.2).map (fun a => (a.lane, x.2.pieces a.lane m.n a.ptr)))
          decide (x.2.fenced m.lanes m.isLoad = false ∧ x.2.casPending m.lanes = false ∧ x.2.flagFree m.flag = true ∧
            x.2.unflushed m.rel = false ∧ (∀ r ∈ m.regs, r < 8 * x.2.me.alloc) ∧ m.lanes ≠ 0 ∧
            stage2Fault m.access (m.accs.map (fun a => (a.lane, x.2.stage2 m.access m.n m.align a.ptr))) = none) &&
          ((!r.misses.isEmpty) == (x.2.core 0).tlb.isEmpty) &&
          (!r.misses.isEmpty || (!r.bads.isEmpty && (x.2.orderHold m.x (m.own x.2) r.good).isNone && (r.good.isEmpty == m.uni)))
        | none => false) = true) := by decide +kernel

/-- The matrix queue of core 0 with one operation at its head. -/
def entry0 (m : MOp) (filling : Bool := false) : MEntry := { op := 9, tid := 1, coh := 0, mop := m, filling := filling }
def heading (m : MOp) (filling : Bool := false) : State :=
  asked (tiled.modCore 0 (fun c => { c with mq := [entry0 m filling] })) [0]

/-- Where nothing is upset, an operation reads its bytes right. -/
theorem test_sensed_of (s : State) (e : MEntry) (rs : List (Nat × Nat)) (h : s.upsets = []) : Sensed s e rs s := by
  induction rs with
  | nil => rfl
  | cons x xs ih => simpa [Sensed, State.senseRun, h] using ih

theorem wit_PlaneOperationsExecute :
    (∀ filling ∈ [true, false],
      let s := heading (.wload 0 tile0) filling
      s.mhead 0 = some (entry0 (.wload 0 tile0) filling) ∧ s.landing 0 (fun b => b.into 0) = false ∧
      (entry0 (.wload 0 tile0) filling).filling = filling ∧
      RowsAt (s.core 0) (entry0 (.wload 0 tile0) filling) tile0 (min tile0.rows (groupDepth (fmtGroup tile0.fmt))) ∧
      (∃ v, Sensed s (entry0 (.wload 0 tile0) filling) [(0, 256), (256, 256)] v)) ∧
    (heading .wswap).mhead 0 = some (entry0 .wswap) ∧ (heading .wswap).landing 0 (fun b => b.into 0) = false := by
  refine ⟨fun f m => ?_, by decide +kernel, by decide +kernel⟩
  have h : ∀ f ∈ [true, false], (heading (.wload 0 tile0) f).mhead 0 = some (entry0 (.wload 0 tile0) f) ∧
      (heading (.wload 0 tile0) f).landing 0 (fun b => b.into 0) = false ∧ (heading (.wload 0 tile0) f).upsets = [] ∧
      RowsAt ((heading (.wload 0 tile0) f).core 0) (entry0 (.wload 0 tile0) f) tile0 (min tile0.rows (groupDepth (fmtGroup tile0.fmt))) := by
    unfold RowsAt; decide +kernel
  exact ⟨(h f m).1, (h f m).2.1, rfl, (h f m).2.2.2, _, test_sensed_of _ _ _ (h f m).2.2.1⟩

/-- A watched tile, of whose rows none has been delivered to the channel, is not ready. -/
theorem test_rows_wait :
    let e : MEntry := { entry0 (.mbatch 0 tile0 1 false) with chis := some 64 }
    rowsReady { chans := [(0, { chis := 64 })] } (setFld tile0 7 1 1) 1 e = false ∧
    rowsReady { chans := [(0, { chis := 64, chwp := 64 })] } (setFld tile0 7 1 1) 1 e = true := by decide +kernel

/-- t0 with WPG = 1, watching channel 0, of whose rows none has been delivered. -/
def watched0 : Tile := setFld tile0 7 1 1

/-- A stream at its first row, at the last one, and with all of them taken; a watched row that is not there, and one that is. -/
theorem wit_StreamsExecute :
    (∀ m ∈ [MOp.mstream 0 0 tile0 64 0 true, .mbatch 0 tile0 64 false], ∀ row ∈ [0, 63, 64],
      let e := { entry0 m with row := row }
      let s := asked (tiled.modCore 0 (fun c => { c with mq := [e] })) [0]
      s.mhead 0 = some e ∧ s.refilling 0 = false ∧ s.clk % 16 < s.md ∧ tile0.wpg = false ∧ (64 ≤ row ↔ row = 64) ∧
      Sensed s e (rowRanges tile0 64) s ∧ s.sensePlane (s.team e.tid).core (s.team e.tid).vf = (s, none)) ∧
    (∀ there ∈ [true, false],
      let e := { entry0 (.mbatch 0 watched0 64 false) with chis := some 256 }
      let s := asked (tiled.modCore 0 (fun c => { c with mq := [e], chans := [(0, { chis := 256, chwp := if there then 256 else 0 })] })) [0]
      s.mhead 0 = some e ∧ s.refilling 0 = false ∧ s.clk % 16 < s.md ∧ watched0.wpg = true ∧ e.row < 64 ∧
      rowReady (s.core 0) watched0 e.row 256 = there) := by
  refine ⟨?_, by decide +kernel⟩
  have h : ∀ m ∈ [MOp.mstream 0 0 tile0 64 0 true, .mbatch 0 tile0 64 false], ∀ row ∈ [0, 63, 64],
      let e := { entry0 m with row := row }
      let s := asked (tiled.modCore 0 (fun c => { c with mq := [e] })) [0]
      s.mhead 0 = some e ∧ s.refilling 0 = false ∧ s.clk % 16 < s.md ∧ tile0.wpg = false ∧ (64 ≤ row ↔ row = 64) ∧ s.upsets = [] := by
    decide +kernel
  refine fun m l row n => ⟨(h m l row n).1, (h m l row n).2.1, (h m l row n).2.2.1, (h m l row n).2.2.2.1, (h m l row n).2.2.2.2.1,
    test_sensed_of _ _ _ (h m l row n).2.2.2.2.2, ?_⟩
  simp [State.sensePlane, State.sensePlaces, State.wrongIn, (h m l row n).2.2.2.2.2]

/-- The last rows of an accumulator, and one beyond. -/
theorem wit_AccumulatorOperationsExecute :
    (∀ m ∈ [MOp.aread 0 127 0 0 0 5 3, .astore 0 0 tile0 64 64, .azero 3 16 112], ∀ row ∈ [0, 1],
      (asked (tiled.modCore 0 (fun c => { c with mq := [{ entry0 m with row := row }] })) [0]).mhead 0 = some { entry0 m with row := row }) ∧
    (112 : Nat) + 16 ≤ 128 ∧ (127 : Nat) < 128 ∧ (255 : Nat) < 256 ∧ (3 : Nat) = 3 ∧ (112 : Nat) ≤ 127 ∧ (127 : Nat) < 112 + 16 ∧
    ¬((112 : Nat) ≤ 111) := by decide +kernel

/-- Core 0's group of cohort 0 stands at the header of a clause of two, whose first word is i. -/
def gated (i : Instr) : State :=
  asked ((tiled.modMe (fun c => { c with pc := [], words := [(0, 0xA10800A2), (4, BitVec.ofNat 32 (encode i))] })).modCore 0 (fun c =>
    { c with stage := [(0, 1, 0, BitVec.allOnes 32)] })) [1, 0, 0]

/-- The state in which an issue runs, and the state after a fetch. -/
def issueState (o : Issue) : State :=
  match o with
  | .run _ t => t
  | .done t => t
def issueInstr (o : Issue) : Option Instr :=
  match o with
  | .run i _ => some i
  | .done _ => none

theorem test_run_of (o : Issue) (i : Instr) (h : issueInstr o = some i) : o = .run i (issueState o) := by
  cases o with
  | run j t => cases h; rfl
  | done t => cases h

def fetchState (o : Fetched) : State :=
  match o with
  | .word _ t => t
  | .none t => t
def fetchWord (o : Fetched) : Option Nat :=
  match o with
  | .word w _ => some w
  | .none _ => none

theorem test_word_of (o : Fetched) (w : Nat) (h : fetchWord o = some w) : o = .word w (fetchState o) := by
  cases o with
  | word x t => cases h; rfl
  | none t => cases h

/-- What `GatedStreamsAreAccepted` asks of the group. -/
structure Gates (s : State) (i : Instr) (f : MOp) (n : Nat) : Prop where
  port : tget 0 (s.core (s.team 1).core).ports (s.coh 1 0).quad = 0
  header : s.issue 0 1 0 0 = .run (.clauseHeader 0 2 1 1 2 2) (issueState (s.issue 0 1 0 0))
  may : (issueState (s.issue 0 1 0 0)).myTeam.launch.mayRun (issueState (s.issue 0 1 0 0)).cur.coh 2 = true
  clear : (issueState (s.issue 0 1 0 0)).me.flagsClear 1 = true ∧ (issueState (s.issue 0 1 0 0)).me.tiles = []
  word : let t := issueState (s.issue 0 1 0 0)
    t.fetch ((t.cur.addr + 4) % 2 ^ 52) = .word (encode i) (fetchState (t.fetch ((t.cur.addr + 4) % 2 ^ 52)))
  decodes : decode 2 (encode i) = .ok i
  takes : let t := issueState (s.issue 0 1 0 0)
    let u := fetchState (t.fetch ((t.cur.addr + 4) % 2 ^ 52))
    let z : State := { u.passHeader with cur := { u.passHeader.cur with addr := (t.cur.addr + 4) % 2 ^ 52, idx := 1, word := encode i } }
    let x := z.myTeam.tile 0
    gateOpen (u.myTeam.kreg 1) = true ∧ z.myTeam.launch.acc = true ∧ x.valid = true ∧ n ≤ x.rows ∧
    QueueTakes z z.cur.setb (z.tileLocks x 0 0).length [0] ∧
    ((((accepted z z.cur.setb .none f (z.tileLocks x 0) [0]).modK 1 passGate).done).coh 1 0).stands (u.passHeader.coh 1 0) = false

theorem wit_GatedStreamsAreAccepted_mstream :
    Gates (gated (.mstream 0 0 1 0 1 4 64)) (.mstream 0 0 1 0 1 4 64) (.mstream 0 0 tile0 64 64 false) 64 ∧ 16 * 4 + rowsOf 64 ≤ 128 := by
  refine ⟨⟨?_, test_run_of _ _ ?_, ?_, ?_, test_word_of _ _ ?_,
    by rfl, ⟨?_, ?_, ?_, ?_, ?_, ?_⟩⟩,
    ?_⟩
  all_goals first | decide +kernel | (constructor <;> decide +kernel)

theorem wit_GatedStreamsAreAccepted_mbatch :
    Gates (gated (.mbatch 0 1 1 1 64)) (.mbatch 0 1 1 1 64) (.mbatch 0 tile0 64 true) 64 := by
  refine ⟨?_, test_run_of _ _ ?_, ?_, ?_, test_word_of _ _ ?_,
    by rfl, ⟨?_, ?_, ?_, ?_, ?_, ?_⟩⟩
  all_goals first | decide +kernel | (constructor <;> decide +kernel)

/-- Cohort 0 gives two granules to cohort 4. -/
def donating : State :=
  let s := withMe (fun c => { c with waiting := 1, hw := [(0, { kind := 3, lanes := 1, imm := 2 * 32 + 4 })] })
  asked (s.modCoh 1 4 (fun c => { c with waiting := 1, hw := [(0, { kind := 4, lanes := 1, imm := 2 * 32 + 0 })] })) [1, 0, 4]

theorem wit_CohortWaitsEnd :
    (let s := donating
     let hd : HwRec := { kind := 3, lanes := 1, imm := 2 * 32 + 4 }
     let he : HwRec := { kind := 4, lanes := 1, imm := 2 * 32 + 0 }
     (s.team 1).place = .resident ∧ (s.coh 1 0).part = some hd ∧ (s.coh 1 4).part = some he ∧ paired 0 4 hd he = true ∧
     he.imm / 32 = hd.imm / 32 ∧ s.regBusy 1 0 (8 * ((s.coh 1 0).valloc - 2)) (8 * (s.coh 1 0).valloc) = false ∧
     hd.imm / 32 ≤ (s.coh 1 0).valloc ∧ (0 : Nat) ≠ 4) ∧
    (let h : HwRec := { kind := 1, lanes := 1, remain := 1, ps := 2 }
     let s := asked (withMe (fun c => { c with waiting := 1, hw := [(3, h)] })) [1, 0, 3]
     ((s.settle 1).coh 1 0).hw.find? (fun e => e.1 = 3) = some (3, h)) ∧
    (let h : HwRec := { kind := 1, lanes := 1, ma := 5, remain := 1, ps := 2 }
     let s := asked (withMe (fun c => { c with waiting := 1, hw := [(3, h)] })) [1, 0, 3]
     ((s.settle 1).coh 1 0).hw.find? (fun e => e.1 = 3) = none) ∧
    (let bar : Barrier := { isOpen := true, mreg := 0, bounded := true, remain := 1 }
     let s := asked (world.modTeam 1 (fun t => { t with bar := bar })) [1]
     ((s.settle 1).team 1).bar = bar) ∧
    (let s := asked (world.modTeam 1 (fun t => { t with bar := { isOpen := true, mreg := 5, bounded := true, remain := 1 } })) [1]
     ((s.settle 1).team 1).bar.isOpen = false) ∧
    (let s := asked (withMe (fun c => { c with retired := true, returned := [0] })) [1, 0, 7]
     (s.coh 1 0).retired = true ∧ 7 < (s.coh 1 0).valloc ∧ 7 ∉ (s.coh 1 0).returned ∧
     s.regBusy 1 0 (8 * 7) (8 * 7 + 8) = false) := by decide +kernel

theorem wit_HangsAndTilesAreReported :
    (let s := asked (withMe (fun c => { c with hangcnt := 1048576 })) [1, 0, 2]
     (s.team 1).place = .resident ∧ (s.coh 1 0).hangrep = false ∧ 2 ^ fld (s.coh 1 0).hangctl 0 6 ≤ (s.coh 1 0).hangcnt.toNat) ∧
    (let s := asked (withMe (fun c => { c with tiles := [(5, 1)] })) [1, 0, 2]
     (s.coh 1 0).tiles = (5, 1) :: [] ∧ (s.coh 1 0).runnable.getLsbD 2 = true ∧ fld (tget 0 (s.coh 1 0).pc 2) 60 4 = 0) := by
  decide +kernel

/-- Team 1 with every thread at a header, asked to stop in an earlier clock, with a save pool or without. -/
def asking (pool : Bool) (f : Team → Team) : State :=
  asked { world.modTeam 1 (fun t => f { t with asks := [.host 3 false], cohs := t.cohs.map (fun e => (e.1, { e.2 with pc := [] })) }) with
    clk := 9
    fns := if pool then [(0, { savebase := 0x100000, savecnt := 2, savesz := 1024 })] else [] } [1]

/-- A recursion engine of it waits for lanes' routines: it owes its control block a write, or has made it. -/
def unfolding (due : Nat) (t : Team) : Team :=
  { t with cohs := t.cohs.map (fun e => (e.1, if e.1 = 0 then { e.2 with waiting := 3, unf := some { unf0 3 3 with due := due } } else e.2)) }

theorem wit_TeamsStopAndSave :
    (∀ pool ∈ [true, false], ∀ due ∈ [0, 1],
      let q := (asking pool (unfolding due)).closeTeam 1
      let t := q.team 1
      t.place = .resident ∧ t.terminated = false ∧ t.asks ≠ [] ∧ t.askClk < q.clk ∧ t.standing = true ∧
      (∀ e ∈ t.unfs, q.ended e.2.ops = true) ∧ t.unfs.map (fun e => e.2.due) = [due] ∧
      q.freeArea t.vf t.areaLen = if pool then some 0x100000 else none) ∧
    (∀ k ∈ List.range 12,
      let s := asking true (fun t => { t with place := .stopped, area := some 0x100000, saved := k })
      let u := s.stopCopies 1
      (s.team 1).place = .stopped ∧ (u.team 1).area = some 0x100000 ∧ (u.team 1).place = .stopped ∧ (u.team 1).terminated = false ∧
      u.maySave 1 (u.team 1).saved = true ∧ (u.team 1).saved = k) := by decide +kernel

/-- Team 1 saved in the area 0x4000, which holds header h; a copy and a boarding request were kept with it. -/
def savedTeam (h : Nat) : State :=
  withLine (asked (world.modTeam 1 (fun t => { t with launch := { launch0 with nvec := 1, opbuf := 4096, acc := false }, place := .saved,
                                                      area := some 0x4000, due := true, resumes := [5],
                                                      boards := [{ key := 5, sched := 1 }], copies := [{ op := 3, tid := 1, len := 16 }] })) [1])
    0x4000 [h]

/-- What `TeamsRestoreAndRelease` asks of a restore. -/
def mayRestore (h : Nat) : Bool :=
  let s := savedTeam h
  let t := s.team 1
  let r := s.fetchBytes t.vf 0x4000 8
  t.area == some 0x4000 && t.place == .saved && t.due && !t.terminated && !(s.areaLost t 0x4000) && ofLeBytes r.2 == h &&
    (((r.1.core t.core).rearm 1 t.boards).bind (Core.retake t.copies)).isSome

theorem wit_TeamsRestoreAndRelease_restore : [1 + 2 ^ 23, 1, 2 + 2 ^ 23].all mayRestore = true := by decide +kernel

/-- Of the three headers, the first alone is valid and DONE. -/
theorem test_headers : [1 + 2 ^ 23, 1, 2 + 2 ^ 23].map (fun h => decide (h % 65536 = 1 ∧ h / 2 ^ 23 % 2 = 1)) = [true, false, false] := by
  decide +kernel

theorem wit_TeamsRestoreAndRelease :
    (asked (world.modTeam 1 (fun t => { t with terminated := true, asks := [.host 3 false] })) [1]).mayRelease 1 = true ∧
    (∀ dirty ∈ [true, false],
      let s := asked ((world.modTeam 1 (fun t => { t with cohs := (List.range 7).map (fun i => (i, { coh0 with retired := true })) })).modCore 0
        (fun c => { c with l1 := [(0x200000, { dirty := dirty, priv := true, owner := 32 + 6 })] })) [1]
      s.mayRelease 1 = true ∧ (s.team 1).place ≠ .saved ∧
      ((∃ i ∈ List.range (s.team 1).launch.n, s.dirtyPriv 1 i ≠ []) ↔ dirty = true)) := by
  decide +kernel

/-- A ready node 0 of graph 3, whose launch has been read; core 0 is empty. -/
def ready0 (started : Bool) : State :=
  asked { world with
    teams := []
    graphs := [(3, { n := 1, nodes := [(0, { lrec := some launch0, total := 1, started := started })] })]
    pool := [{ graph := 3, node := 0, prio := 0, age := 0, skip := 63 }] } [0]

theorem wit_DispatchDecides :
    ∀ started ∈ [true, false],
      let s := ready0 started
      let x := s.node 3 0
      s.order = [{ graph := 3, node := 0, prio := 0, age := 0, skip := 63 }] ∧ (∀ e ∈ s.pool, e.skip < 64) ∧ tsome s.reserves = [] ∧
      tsome s.pumpRes = [] ∧ x.pump = false ∧ s.waitingTeams 3 0 = [] ∧ s.allPlaced 3 0 = false ∧ x.lrec = some launch0 ∧
      x.started = started ∧ s.conflicts 3 0 = false ∧
      (s.placeNew 3 0 launch0 (s.openCores x.polder 0)).any (fun t =>
        (t.afterPlace 3 0).pool.all (fun e => e.skip < 64) && (tsome (t.afterPlace 3 0).reserves).isEmpty) = true := by decide +kernel

/-- The queue of function fn has one slot, of the words w; more host memory at 0x200000. -/
def commanding (fn : Nat) (w : List Nat) (more : List Byte := []) (f : State → State := id) : State :=
  let bytes (l : List Nat) : List Byte := (l.map (fun x => bytesOf 8 (BitVec.ofNat 64 x))).flatten
  asked (f { world with
    nvf := 2
    fns := [(fn, { cqbase := 0x100000, cqlgd := 4, cqtail := 1 })]
    hostMem := memWrite [] 0x100000 (bytes w) ++
      (more.zipIdx.map (fun e => (0x200000 + e.2, e.1))).filter (fun e => e.2 != 0) }) [fn]

/-- What `Taken` asks, of the command in the slot. -/
def takes (s : State) (fn kind : Nat) : Bool :=
  decide (s.mstate = 2 ∧ s.nextFn = some fn ∧ (s.slotCmd fn).kind = kind) && s.cmds.isEmpty && !(s.badSlot (s.slotCmd fn))

theorem test_taken_of (s : State) (fn kind : Nat) (h : takes s fn kind = true) : Taken s fn kind (s.slotCmd fn) := by
  simp only [takes, Bool.and_eq_true, decide_eq_true_eq, List.isEmpty_iff, Bool.not_eq_true'] at h
  obtain ⟨⟨⟨h1, h2, h3⟩, h4⟩, h5⟩ := h
  exact ⟨h1, h2, rfl, h3, by simp [h4], h5⟩

/-- The first argument that a slot gives, and the state after it has been taken. -/
def arg0 (s : State) (fn i : Nat) : BitVec 64 := (s.slotCmd fn).arg i
def after0 (s : State) (fn : Nat) : State := taken s fn (s.slotCmd fn)

/-- SUBMIT-GRAPH of two nodes at 0x20000 that memory holds as zeros, a bad one; RESUME; PREEMPTs of team 1, resident or saved and held, and of
none. -/
theorem wit_GraphAndTeamCommands :
    (let s := commanding 0 [1, 0x20000, 2]
     takes s 0 4 = true ∧ (arg0 s 0 0).toNat % 128 = 0 ∧ (arg0 s 0 0).toNat < 2 ^ 52 ∧ fld (arg0 s 0 1) 17 47 = 0 ∧
     1 ≤ fld (arg0 s 0 1) 0 17 ∧ fld (arg0 s 0 1) 0 17 ≤ 65536 ∧
     (State.readNodes (s.slotCmd 0).tvf 0x20000 2 2 (after0 s 0) (some [])).2.isSome = true) ∧
    (let s := commanding 1 [1, 0x20001, 2]
     takes s 1 4 = true ∧ (arg0 s 1 0).toNat % 128 ≠ 0) ∧
    (takes (commanding 0 [2, 65535]) 0 8 = true ∧ fld (arg0 (commanding 0 [2, 65535]) 0 0) 16 48 = 0 ∧
     takes (commanding 0 [2, 65536]) 0 8 = true ∧ fld (arg0 (commanding 0 [2, 65536]) 0 0) 16 48 ≠ 0) ∧
    (∀ op ∈ [0, 1],
      let on (s : State) := (after0 s 0).named (s.slotCmd 0) (fun t => t.place = .resident || t.place = .stopped)
      let s := commanding 0 [3, 0, op * 2 ^ 32]
      let t := commanding 0 [3, 0, 5 + op * 2 ^ 32]
      let u := commanding 0 [3, 0, 2 ^ 34 + op * 2 ^ 32]
      takes s 0 (12 + op) = true ∧ fld (arg0 s 0 1) 34 30 = 0 ∧ on s = some (1, team0) ∧
      takes t 0 (12 + op) = true ∧ fld (arg0 t 0 1) 34 30 = 0 ∧ on t = none ∧ takes u 0 (12 + op) = true ∧ fld (arg0 u 0 1) 34 30 ≠ 0) ∧
    (let held (t : Team) : Team := { t with place := .saved, held := true }
     let on (s : State) := (after0 s 0).named (s.slotCmd 0) (fun t => t.place = .saved && t.held)
     let s := commanding 0 [3, 0, 2 * 2 ^ 32] [] (fun s => s.modTeam 1 held)
     let t := commanding 0 [3, 0, 2 * 2 ^ 32]
     takes s 0 14 = true ∧ on s = some (1, held team0) ∧ takes t 0 14 = true ∧ on t = none) := by
  decide +kernel

/-- A polder's image (x0 and x1), and two tables of its routers, all of code k. -/
def polderBytes (x : Nat) (k : Nat) : List Byte :=
  bytesOf 8 (BitVec.ofNat 64 x) ++ bytesOf 8 (BitVec.ofNat 64 (2 ^ 33)) ++ List.replicate 16 0 ++
    List.replicate 256 (BitVec.ofNat 8 (k * 17))

/-- What `TableCommands` asks of a POLDER-SET SUB 0: the image keeps its reserved bits, the target is busy, the entry is valid, is bad, and
its routes are bad. -/
def entryFacts (s : State) : List Bool :=
  let u := after0 s 0
  let i := fld (arg0 s 0 0) 0 4
  let a := (arg0 s 0 1).toNat
  let p := polderOfImage (u.hostWords a 4)
  let images (k : Nat) : BitVec 1024 := lineOf (u.hostBytes (a + 32 + 128 * k) 128)
  let sites := p.1.sites
  let tables := (List.range sites.length).foldl (fun t k => tset none t (sites.getD k 0) (some (images k))) []
  [takes s 0 16 && fld (arg0 s 0 0) 6 58 = 0, p.2, u.busyPolder i, p.1.valid, u.badPolder i p.1, badRoutes sites tables]

/-- Of polder 1 (idle) and 0 (team 1 is in it): an entry that is not valid; an odd width; routes that leave; a good one. -/
theorem wit_TableCommands_entry :
    (entryFacts (commanding 0 [4, 1, 0x200000] (polderBytes 0 0))).take 4 = [true, true, false, false] ∧
    (entryFacts (commanding 0 [4, 1, 0x200000] (polderBytes 0x10202 0))).take 5 = [true, true, false, true, true] ∧
    entryFacts (commanding 0 [4, 1, 0x200000] (polderBytes 0x10302 0)) = [true, true, false, true, false, true] ∧
    entryFacts (commanding 0 [4, 1, 0x200000] (polderBytes 0x10302 15)) = [true, true, false, true, false, false] ∧
    (entryFacts (commanding 0 [4, 0, 0x200000] (polderBytes 0x10302 0))).take 3 = [true, true, true] := by decide +kernel

theorem wit_TableCommands_rest :
    (∀ e ∈ [(1, 1), (0, 1), (1, 0)],
      let s := commanding 0 [4 + 256 * e.2, e.1 + 16, 0x200000]
      let u := after0 s 0
      let row := BitVec.ofNat 512 (ofLeBytes (u.hostBytes (arg0 s 0 1).toNat 64))
      takes s 0 17 = true ∧ fld (arg0 s 0 0) 6 58 = 0 ∧ fld row 282 38 = 0 ∧ fld row 329 183 = 0 ∧
      u.busyPolder (fld (arg0 s 0 0) 0 4) = decide (e.1 = 0) ∧ u.busyVf (s.slotCmd 0).tvf = decide (e.2 = 0)) ∧
    (∀ vf ∈ [1, 0],
      let s := commanding 0 [4 + 256 * vf, 32, 0x200000]
      takes s 0 18 = true ∧ fld (arg0 s 0 0) 6 58 = 0 ∧ (after0 s 0).busyVf (s.slotCmd 0).tvf = decide (vf = 0)) ∧
    (∀ i ∈ [1, 0],
      let s := commanding 0 [4, i + 48, 0x200000] (List.replicate 30 (1 : Byte) ++ bytesOf 8 (BitVec.ofNat 64 (25165823 * 16 + 2 ^ 30)))
      let u := after0 s 0
      let bs := u.hostBytes (arg0 s 0 1).toNat 38
      let dom (i : Nat) : BitVec 16 := BitVec.ofNat 16 (ofLeBytes ((bs.drop (2 * (i - 1))).take 2))
      let x := BitVec.ofNat 64 (ofLeBytes (bs.drop 30))
      (takes s 0 19 = true ∧ fld (arg0 s 0 0) 6 58 = 0 ∧ fld x 60 4 = 0 ∧ fld x 4 26 + fld x 30 26 ≤ 25165824 ∧
        u.busyPolder i = decide (i = 0)) ∧ ∀ i ∈ List.range 16, 1 ≤ i → fld (dom i) 9 7 = 0) ∧
    (∀ e ∈ [(1, 0), (1, 1), (0, 0)],
      let s := commanding 0 [6 + 256 * e.1, 0x200000] [] (fun s => { s with keys := [(1, { kstate := e.2 })] })
      let u := after0 s 0
      takes s 0 24 = true ∧ u.busyVf (s.slotCmd 0).tvf = decide (e.1 = 0) ∧ ((u.key (s.slotCmd 0).tvf).kstate = 1 ↔ e.2 = 1)) ∧
    (∀ vf ∈ [1, 0], takes (commanding 0 [7 + 256 * vf]) 0 28 = true ∧
      (after0 (commanding 0 [7 + 256 * vf]) 0).busyVf ((commanding 0 [7 + 256 * vf]).slotCmd 0).tvf = decide (vf = 0)) ∧
    (∀ e ∈ [(16, 4, 0), (17, 4, 16), (18, 4, 32), (19, 4, 48), (32, 8, 0)], takes (commanding 1 [e.2.1, e.2.2]) 1 e.1 = true ∧ (1 : Nat) ≠ 0) := by
  decide +kernel

/-- RING-LOAD of no list and of one record of .s8p1 at 0x4000, and of one of zeros; schedule 1 not loaded, the function's own, another's. -/
theorem wit_RingLoadAndResetVf :
    (∀ e ∈ [(0, 0, 0), (1, 0x1000000000, 0), (1, 0x1000000000, 1), (1, 0, 1), (1, 0x1000000000, 2)],
      let s := commanding 0 [5, 1 + 16 * 4 + 16 * 128, 0x4000, e.1] [] (fun s => withLine { s with
        scheds := if e.2.2 = 0 then [] else [(1, { loaded := true, owner := e.2.2 - 1 })] } 0x4000 [e.2.1])
      let c := s.slotCmd 0
      let u := after0 s 0
      let share := fld (c.arg 0) 2 5
      let speed := fld (c.arg 0) 7 5
      let list := (c.arg 1).toNat
      let n := fld (c.arg 2) 0 21
      let r := (List.range n).foldl (fun (r : State × List SlotRec) k =>
        let y := r.1.readFor c.tvf (lineAt (list + 32 * k)) 0x111 0 64
        (y.1, r.2 ++ [words64 4 (lineBytes y.2 ((list + 32 * k) % 128) 32)])) (u, [])
      takes s 0 20 = true ∧ fld (c.arg 0) 12 52 = 0 ∧ fld (c.arg 2) 21 43 = 0 ∧ list < 2 ^ 52 ∧ n ≤ 1048576 ∧ speed ≤ 16 ∧
      (n = 0 ∨ (1 ≤ share ∧ share ≤ 16)) ∧
      ((u.sched (fld (c.arg 0) 0 2)).loaded = decide (e.2.2 ≠ 0)) ∧ ((u.sched (fld (c.arg 0) 0 2)).owner = c.tvf ↔ e.2.2 ≤ 1) ∧
      ((n = 0 ∨ (list % 32 = 0 ∧ r.2.all (fun l => slotOk l && r.1.mapped c.tvf (slotSrc l)) = true ∧
        ((r.2.map slotKey).zip ((r.2.map slotKey).drop 1)).all (fun e => e.1 < e.2) = true)) ↔ (e.1 = 0 ∨ e.2.1 ≠ 0))) ∧
    takes (commanding 0 [8]) 0 32 = true ∧
    (let c : Cmd := { typ := 8, tvf := 3 }
     let s : State := { world with cmds := [c] }
     s.cmds.find? (fun c => c.typ = 8) = some c ∧ s.busyVf c.tvf = false ∧ s.writesEnd c.tvf = false) := by
  decide +kernel

/-- The PF serves in MSTATE 2, a virtual function up to NVF; no write is served in MSTATE 3. -/
theorem wit_HostRegisterWrites :
    (∀ fn ∈ [0, 2], ({ world with nvf := 2 } : State).serves fn = true) ∧ ({ world with nvf := 2 } : State).serves 3 = false ∧
    ({ world with mstate := 3 } : State).serves 0 = false ∧ (127 : Nat) < 128 ∧ (15 : Nat) < 16 := by decide +kernel

/-- Lengths at the ends of the range, and beside them; a first and a second chunk, of the other object too; a chunk while one is being taken. -/
theorem wit_BringUpLoadsAndResets :
    (∀ obj ∈ [0, 1], ∀ len ∈ [8, 524288],
      ({ State.reset with mstate := obj } : State).mstate = obj ∧ 8 ≤ len ∧ len ≤ 524288 ∧ len % 8 = 0 ∧
      (∀ s ∈ [({ State.reset with mstate := obj, ldstate := 2, objKind := obj } : State), { State.reset with mstate := obj }],
        s.ldstate ≠ 1 ∧ (s.ldstate = 2 → s.objKind = obj))) ∧
    (∀ len ∈ [0, 7, 12, 524296], ¬(8 ≤ len ∧ len ≤ 524288 ∧ len % 8 = 0)) ∧
    ({ State.reset with ldstate := 2, objKind := 1 } : State).objKind ≠ 0 ∧ ¬(({ State.reset with ldstate := 1 } : State).ldstate ≠ 1) ∧
    State.reset.mstate ≠ 3 ∧ State.reset.mstate ≠ 1 ∧ ({ State.reset with mstate := 3 } : State).mstate = 3 := by decide +kernel

/-- The staging window holds n bytes, of which the first 0x18 are those of b and the others zeros, as the last chunk of an object, or not. -/
def staged (obj n : Nat) (last : Bool) (b : Nat) : State :=
  { State.reset with ldstate := 1, objKind := obj, ldchunk := (n, last), stage := memWrite [] 0 (bytesOf 0x18 (BitVec.ofNat 192 b)) }

/-- A header of 25 R354: the magic, VERSION 1 and the length; of a blob with the fields f. -/
def header0 (magic n f : Nat) : Nat := magic + 2 ^ 32 + n * 2 ^ 64 + f * 2 ^ 128

/-- A chunk that is not the last; an image whose header is right, one whose magic and one whose length is not; a blob with fields at the ends of
their ranges, with a PCAP that is too low, and one of the wrong length. -/
theorem wit_BringUpLoadsAndResets_checks :
    (let s := staged 0 8 false 0
     s.ldstate = 1 ∧ s.ldchunk.2 = false) ∧
    (∀ x ∈ [(header0 0x56465A4F 112 0, 112, 0), (header0 0x42465A4F 112 0, 112, 1), (header0 0x56465A4F 120 0, 112, 2)],
      let s := staged 0 x.2.1 true x.1
      s.ldstate = 1 ∧ s.ldchunk.2 = true ∧ s.objKind = 0 ∧ headerErr (memBytes (memWrite s.object s.objLen (memBytes s.stage 0 x.2.1)) 0 x.2.1) 0x56465A4F none = x.2.2) ∧
    (∀ x ∈ [(header0 0x42465A4F 0x178 (1000 + 2 ^ 16 + 110 * 2 ^ 24 + 32 * 2 ^ 32), 0x178, 0, true),
        (header0 0x42465A4F 0x178 (999 + 2 ^ 16 + 110 * 2 ^ 24 + 32 * 2 ^ 32), 0x178, 0, false), (header0 0x42465A4F 0x170 0, 0x170, 2, false)],
      let s := staged 1 x.2.1 true x.1
      let bs := memBytes (memWrite s.object s.objLen (memBytes s.stage 0 x.2.1)) 0 x.2.1
      s.ldstate = 1 ∧ s.ldchunk.2 = true ∧ s.objKind = 1 ∧ headerErr bs 0x42465A4F (some 0x178) = x.2.2.1 ∧ blobOk bs = x.2.2.2) := by decide +kernel

theorem wit_GovernorAndTrip :
    (let s : State := { world with clk := 100000000, tjmax := 90, pcap := 3000, mfloor := 4 }
     s.govTime < s.timebase.toNat / 10000 * 10000 ∧ s.mstate = 2 ∧ s.tjmax + 15 ≤ 105 ∧ s.stopped = false) ∧
    world.timebase.toNat / 10000 * 10000 ≤ world.govTime := by decide +kernel

/-- A schedule of one record at 0x4000 with key 5, of the payload at 0x10000, at its first slot or after its first lap. -/
def scheduled (fresh : Bool) (pend : Option (Nat × Nat × Nat × Nat)) : State :=
  withLine (asked { world with
    scheds := [(1, { list := 0x4000, nslot := 1, share := 4, loaded := true, fresh := fresh, pend := pend })] } [0, 2])
    0x4000 [0x1000000000 + 5 * 65536, 0x10000]

theorem wit_SlotsIssuePassAndLand_issue :
    ∀ e ∈ [(true, none), (false, none), (false, some (0x4000, 1, 4, 0))],
      let s := scheduled e.1 e.2
      (s.pick.any (fun p => p.1 = 1 && (p.2.putSlot 1).isSome &&
        (({ p.2 with ringlap := tmod 0 p.2.ringlap 1 (· + 1) } : State).putSlot 1).isSome) = true) ∧
      (s.sched 1).next = 0 ∧ (s.sched 1).fresh = e.1 ∧ (s.sched 1).pend = e.2 := by decide +kernel

/-- Slot 2 of core 0 has a request for key 5 of schedule 1, or another key; a stop closed to the function. -/
def boarding (key : Nat) (closed : Bool) : State :=
  ({ scheduled true none with access := if closed then [(144 * 64, some 0)] else [] } : State).modCore 0 (fun c => { c with
    boards := [(2, { state := 1, pending := true, key := key, sched := 1, tid := 1 })] })

/-- A slot of key 5 that passed core 0's stop, or has not; its payload is zeros. -/
def onRing (state : Nat) (seen : List Nat) : State :=
  asked { (boarding 5 false).modCore 0 (fun c => { c with boards := [(2, { state := state, key := 5, sched := 1, tid := 1, sn := 2 })] }) with
    clk := 4096
    ring := [(2, some { sched := 1, idx := 0, lap := 0, key := 5, fmt := 1, inf := false, x := 0, crc := 0, pos := 0, clk := 0
                        payload := [], bad := false, seen := seen })] } [0, 2]

theorem wit_SlotsIssuePassAndLand :
    (∀ e ∈ [(5, false), (6, false), (5, true)],
      let q := (boarding e.1 e.2).takeQuits 0
      let b := (q.core 0).boardAt 2
      b.state = 1 ∧ b.pending = true ∧ b.ask ≤ q.rclk ∧
      (q.permits (144 + 0) (q.team b.tid).vf 0 4 && q.permits (144 + 0) (q.team b.tid).vf 0 (5 + b.sched)) = !e.2 ∧
      ((q.sched b.sched).loaded && (q.listKeys (q.sched b.sched).list (q.sched b.sched).nslot).contains b.key) = decide (e.1 = 5)) ∧
    (let q := ((boarding 5 false).modCore 0 (fun c => { c with boards := [(2, { state := 1, pending := true, key := 5, sched := 1, tid := 1, ask := 9 })] })).takeQuits 0
     ((q.core 0).boardAt 2).state = 1 ∧ ((q.core 0).boardAt 2).pending = true ∧ q.rclk < ((q.core 0).boardAt 2).ask) ∧
    (tget none ((onRing 1 []).stopWords 0).ring 2).any (fun r =>
      (0 : Nat) < 128 && r.at_ 0 ≤ ((onRing 1 []).stopWords 0).rclk && !(r.seen.contains 0)) = true ∧
    (let v := ((onRing 2 [0]).arrivals 0).landBeats 0 2
     (tget none v.ring ((v.core 0).boardAt 2).sn).any (fun r => ((v.core 0).boardAt 2).state = 2 && r.at_ 0 + 16 ≤ v.rclk) = true) := by
  decide +kernel

/-- The highest operands of each class. -/
theorem wit_DecodeBack :
    (∀ i ∈ [Instr.fma 0 63 63 63 4 7, .addiI32 63 63 4095], i.wf = true ∧ i.cls = 0) ∧
    (∀ i ∈ [Instr.stW 5 3 7 0 7, .mstream 5 2 1 0 1 0 64, .br 0x1FFFFA 1, .llock 6 2 40 7, .pumpgo 1 63, .mfsr 63 0x20,
      .clauseHeader 1 8 14 14 6 15], i.wf = true ∧ 1 ≤ i.cls ∧ i.cls ≤ 7) ∧
    (⟨1, 1, 55, 0, 1, 131071⟩ : Move).wf = true ∧ (⟨0, 1, 3, 0, 0⟩ : Micro).wf = true := by decide +kernel

theorem wit_AcceptedWords : ∃ i, decode 7 0xA1080092 = .ok i := ⟨_, rfl⟩

/-- A lane's group that may issue at address a, whose quad holds the words ws. -/
def issuing (a : BitVec 64) (ws : Tab (BitVec 32)) : State :=
  { (withMe (fun c => { c with pc := (List.range 32).map (fun l => (l, a)), words := ws })).modCore 0 (fun c =>
      { c with groups := [(1, 0, BitVec.allOnes 32)] }) with agenda := [.issue true 0 1 0 0] }

/-- What `StepIssuesTheDecodedWord` asks of the step, for the header hw. -/
structure Issues (s : State) (hw : Nat) : Prop where
  agenda : s.agenda = [.issue true 0 1 0 0]
  runs : s.stopped = false
  offer : s.nextOffer = none
  may : (({ s with agenda := [] } : State).nextClock).mayIssue 0 1 0 0 = true
  aligned : (chosen ({ s with agenda := [] } : State).nextClock 0 1 0 0).cur.addr % 4 = 0
  header : let k := chosen ({ s with agenda := [] } : State).nextClock 0 1 0 0
    k.fetch ((k.cur.addr + 2 ^ 52 - 4 * k.cur.idx) % 2 ^ 52) =
      .word hw (fetchState (k.fetch ((k.cur.addr + 2 ^ 52 - 4 * k.cur.idx) % 2 ^ 52)))

/-- These, each by evaluation. -/
theorem issues_of (s : State) (hw : Nat)
    (known : s.agenda = [.issue true 0 1 0 0] ∧ s.stopped = false ∧ s.nextOffer = none ∧
      (({ s with agenda := [] } : State).nextClock).mayIssue 0 1 0 0 = true ∧
      (chosen ({ s with agenda := [] } : State).nextClock 0 1 0 0).cur.addr % 4 = 0)
    (header : let k := chosen ({ s with agenda := [] } : State).nextClock 0 1 0 0
      fetchWord (k.fetch ((k.cur.addr + 2 ^ 52 - 4 * k.cur.idx) % 2 ^ 52)) = some hw) : Issues s hw :=
  { agenda := known.1, runs := known.2.1, offer := known.2.2.1, may := known.2.2.2.1, aligned := known.2.2.2.2
    header := test_word_of _ _ header }

/-- The place of the group, and the word that it fetches there. -/
def issuePlace (s : State) : Nat × Option Nat :=
  let k := chosen ({ s with agenda := [] } : State).nextClock 0 1 0 0
  let u := fetchState (k.fetch ((k.cur.addr + 2 ^ 52 - 4 * k.cur.idx) % 2 ^ 52))
  (k.cur.idx, fetchWord (u.fetch k.cur.addr))

/-- A header of a role that the cohort does not have: inside its clause. -/
theorem wit_StepIssuesTheDecodedWord_role :
    let s := issuing 0x1000000000000104 [(0x100, 0xA1080092)]
    Issues s 0xA1080092 ∧ (issuePlace s).1 = 1 ∧ decode 7 0xA1080092 = .ok (.clauseHeader 0 2 1 1 1 2) ∧
    launch0.mayRun 0 1 = false := by
  refine ⟨issues_of _ _ ?_ ?_, ?_, by rfl, ?_⟩ <;> decide +kernel

/-- The next state that an outcome gives. -/
def nextState (o : Out) : State :=
  match o with
  | .next t => t
  | _ => world
def goesOn (o : Out) : Bool :=
  match o with
  | .next _ => true
  | _ => false

theorem test_next_of (o : Out) (h : goesOn o = true) : o = .next (nextState o) := by
  cases o with
  | next t => rfl
  | _ => cases h

/-- A header of a matrix clause, whose first word is a gated stream: the group stands there, and the gate's acceptance is tried. -/
theorem wit_StepIssuesTheDecodedWord_gated :
    let s := issuing 0x100 [(0x100, 0xA10800A2), (0x104, BitVec.ofNat 32 (encode (.mstream 0 0 1 0 1 4 64)))]
    let k := chosen ({ s with agenda := [] } : State).nextClock 0 1 0 0
    let f := (2, 2, 1, 1)
    Issues s 0xA10800A2 ∧ (issuePlace s).1 = 0 ∧ decode 7 0xA10800A2 = .ok (.clauseHeader 0 2 1 1 2 2) ∧
    ∃ z, exec (.clauseHeader 0 2 1 1 2 2) (noted (fetchState (k.fetch 0x100)) f 0xA10800A2 false) = .next z ∧
      (k.coh 1 0).stands (z.coh 1 0) = true := by
  refine ⟨issues_of _ _ ?_ ?_, ?_, by rfl, _, test_next_of _ ?_, ?_⟩ <;> decide +kernel

/-- The header itself; the first and the last word of its clause of two; a word that does not decode; what is no header. -/
theorem wit_StepIssuesTheDecodedWord :
    (Issues (issuing 0x100 [(0x100, 0xA1080082)]) 0xA1080082 ∧ (issuePlace (issuing 0x100 [(0x100, 0xA1080082)])).1 = 0) ∧
    (∀ e ∈ [(1, 0x58000007), (2, 0x58000007), (1, 0xFF000000)],
      let s := issuing (BitVec.ofNat 64 (0x100 + 4 * e.1 + e.1 * 2 ^ 60)) [(0x100, 0xA1080082), (0x100 + 4 * e.1, BitVec.ofNat 32 e.2)]
      Issues s 0xA1080082 ∧ issuePlace s = (e.1, some e.2)) ∧
    decode 7 0xA1080082 = .ok (.clauseHeader 0 2 1 1 0 2) ∧ (∃ i, decode 0 0x58000007 = .ok i) ∧
    (∃ e, decode 0 0xFF000000 = .error e) ∧ (∃ e, decode 7 0x58000007 = .error e) ∧
    Issues (issuing 0x100 [(0x100, 0x58000007)]) 0x58000007 := by
  have inside : ∀ e ∈ [(1, 0x58000007), (2, 0x58000007), (1, 0xFF000000)],
      let s := issuing (BitVec.ofNat 64 (0x100 + 4 * e.1 + e.1 * 2 ^ 60)) [(0x100, 0xA1080082), (0x100 + 4 * e.1, BitVec.ofNat 32 e.2)]
      let k := chosen ({ s with agenda := [] } : State).nextClock 0 1 0 0
      (s.agenda = [.issue true 0 1 0 0] ∧ s.stopped = false ∧ s.nextOffer = none ∧
        (({ s with agenda := [] } : State).nextClock).mayIssue 0 1 0 0 = true ∧ k.cur.addr % 4 = 0) ∧
      fetchWord (k.fetch ((k.cur.addr + 2 ^ 52 - 4 * k.cur.idx) % 2 ^ 52)) = some 0xA1080082 ∧ issuePlace s = (e.1, some e.2) := by
    decide +kernel
  and_intros
  · exact issues_of _ _ (by decide +kernel) (by decide +kernel)
  · decide +kernel
  · exact fun e h => ⟨issues_of _ _ (inside e h).1 (inside e h).2.1, (inside e h).2.2⟩
  · rfl
  · exact ⟨_, rfl⟩
  · exact ⟨_, rfl⟩
  · exact ⟨_, rfl⟩
  · exact issues_of _ _ (by decide +kernel) (by decide +kernel)

/-- Whether the word x of the alu class, inside the clause, waits for an interlock. -/
def waitsAt (s : State) (x : Nat) : Bool :=
  let t := ({ s with agenda := [] } : State).nextClock
  let k := chosen t 0 1 0 0
  let v := fetchState ((fetchState (k.fetch 0x100)).fetch k.cur.addr)
  (noted v (2, 0, 1, 1) x false).interlocked 0 1 0 (t.offered 1 0 0) 0 x

/-- fadd v4 = v5 + v6: nothing is under way; v6 is, in lane 0; v5 is, of lane 1, which the group has not. -/
theorem wit_StepIssuesTheDecodedWord_interlock :
    [([], false), ([⟨6, 1, 0, 9⟩], true), ([⟨5, 0, 0, 9⟩], false)].all (fun (e : List Pending × Bool) =>
      waitsAt ((issuing 0x1000000000000104 [(0x100, 0xA1080082), (0x104, 0x6010518A)]).modCoh 1 0 (fun c => { c with pend := e.1 })) 0x6010518A == e.2) =
      true := by decide +kernel

/-- A held word; a page that needs a walk; one that has no leaf; a line that is not at its slice; one that is; one with an error. -/
theorem wit_FetchReadsTheWord :
    (withMe (fun c => { c with words := [(0x100, 7)] })).me.words.find? (fun e => e.1 = 0x100) = some (0x100, 7) ∧
    world.me.words = [] ∧ (world.modCore 0 (fun c => { c with tlb := [] })).translate 0 0 0x2000 4 = .miss ∧
    world.translate 0 0 0x1000000000 4 = .bad 1 none ∧
    (∀ a ∈ [0x2000, 0x6000], world.translate world.myTeam.core world.myTeam.vf a 4 = .ok a 0 0x10000) ∧
    world.awaits 0 0x6000 0 ≠ none ∧ world.awaits 0 0x2000 0 = none ∧
    (world.readLine 0 0x2000 0 1 0).2.2 = none ∧
    (let s : State := { world with upsets := [(upKey 2 0 134217728, 2)] }
     s.awaits 0 0x2000 0 = none ∧ (s.readLine 0 0x2000 0 1 0).2.2 ≠ none) := by decide +kernel

/-- The module does next: a. -/
def next0 (a : Action) (s : State) : State := { s with agenda := [a] }

theorem wit_StepRunsMovesCommandsAndEvents :
    (let s := next0 (.bundle 5) { world with pumps := [(5, { run := some {}, prog := [(0, 0x3802000030020000)] })] }
     s.stopped = false ∧ ∃ i u, ({ s with agenda := [] } : State).nextMove 5 = .run i u) ∧
    (∃ c, (({ next0 (.bank 0) (banked 4 0 id) with agenda := [] } : State).bank 0).queue.head? = some c) ∧
    (({ next0 .command (commanding 0 [2, 5]) with agenda := [] } : State).nextFn = some 0 ∧
      commandInstr (({ next0 .command (commanding 0 [2, 5]) with agenda := [] } : State).slotCmd 0).kind = some .resume) ∧
    (({ next0 .command (commanding 0 [9, 5]) with agenda := [] } : State).nextFn = some 0 ∧
      commandInstr (({ next0 .command (commanding 0 [9, 5]) with agenda := [] } : State).slotCmd 0).kind = none) ∧
    Instr.linkLevelReplay.cls = 10 ∧ (next0 .idle world).agenda = [.idle] ∧
    ({ next0 (.bundle 5) world with stopped := true } : State).stopped = true ∧ world.agenda = [] := by
  refine ⟨⟨by decide +kernel, _, _, rfl⟩, ⟨_, rfl⟩, by decide +kernel⟩

/-- What a grouping stage owes; a gated stream, an input, and no offer. -/
theorem wit_StepRunsMovesCommandsAndEvents_owed :
    ((next0 .idle (world.modCore 0 (fun c => { c with stage := [(0, 1, 0, 3)] }))).owed .idle = some (.issue false 0 1 0 0)) ∧
    (next0 .idle world).nextOffer = none ∧ Instr.linkLevelReplay ≠ .gateAccept ∧
    (next0 (.event .gateAccept [1, 0, 0]) world).agenda = [.event .gateAccept [1, 0, 0]] ∧
    (next0 (.input (.read 0 8)) world).agenda = [.input (.read 0 8)] := by decide +kernel

/-- AES-256 by the example of FIPS 197, C.3, and the first bytes of the XTS example 10 of IEEE 1619, by which a line's ciphertext is made. -/
theorem test_aes_256_xts :
    Aes.number (Aes.encBlock (Aes.roundKeys (List.range 32)) ((List.range 16).map (17 * ·))) = 0x8960494B9049FCEABF456751CAB7A28E ∧
    (Aes.xts true 0x92459474098205513799931697418802952783336462842393975853265941312776966649575999699370245777496226357174286053234590452818281827#512
      0xFF (BitVec.ofNat 1024 (Aes.number (List.range 128)))).toNat % 2 ^ 128 = 0x9BCF70E3996C83E48603772F103A3B1C ∧
    Aes.xts false 5 9 (Aes.xts true 5 9 0x77) = 0x77 := by decide +kernel

/-- DRAM in form, and a step from there. -/
theorem wit_DramKeepsItsForm : Memory.wf world.dram = true ∧ ∃ t, step (next0 .idle world) = .next t :=
  ⟨by decide +kernel, _, rfl⟩

end Sys2Proof
end

section
/-!
SUPPORT. What the issue of a lane's group executes (02 R22, R25, R36; 03 R45 to R47, R58): the issue by what the header and the word at the
group's place decode to, what its outcome makes of the step, and the statement that they settle.
-/
namespace Sys2Proof.Claims
open Sys2Proof.Machine

-- decoding ---------------------------------------------------------------------------------------------------------------------

theorem shape_of_decode {cls x : Nat} {i : Instr} (dec : decode cls x = .ok i) : shape cls x = some i := by
  unfold decode at dec
  split at dec
  next => cases dec
  next j shaped =>
    split at dec
    · cases dec
      exact shaped
    · split at dec <;> cases dec

theorem cls_of_shapeMtx {x : Nat} {i : Instr} (shaped : shapeMtx x = some i) : i.cls = 2 := by
  unfold shapeMtx at shaped
  split at shaped
  case h_3 => split at shaped <;> cases shaped <;> rfl
  case h_4 => split at shaped <;> cases shaped <;> rfl
  all_goals cases shaped <;> rfl

/-- No word of a matrix clause is a header, so the gate is never asked for one (08 R149). -/
theorem no_header_in_mtx {cls x : Nat} {i : Instr} (dec : decode cls x = .ok i) : i.cls ≠ 7 ∨ cls ≠ 2 := by
  by_cases mtx : cls = 2
  · subst mtx
    exact .inl (by rw [cls_of_shapeMtx (shape_of_decode dec)]; decide)
  · exact .inr mtx

-- the issue, from the header of the clause on ------------------------------------------------------------------------------------

/-- The address of the header of the clause that a place stands in (03 R46). -/
def headerAddr (p : Cur) : Nat := (p.addr + 2 ^ 52 - 4 * p.idx) % 2 ^ 52

/-- The issue of the word x under class e, in the state n that has noted its clause: with YLD, its last word moves the
round-robin pointer (03 R45, R58; 06 R104; log entry 40). -/
def wordIssue (p : Cur) (e x : Nat) (n : State) : Issue :=
  match decode e x with
  | .ok i =>
    if n.interlocked p.port p.tid p.coh p.lanes e x then .done n else .run i (if n.cur.yld then n.passCohort p.tid p.coh else n)
  | .error _ => .done n.illegal

/-- The issue at a place whose clause has the word hw for its header (02 R25; 03 R46). -/
def clauseIssue (p : Cur) (hw : Nat) (u : State) : Issue :=
  match decode 7 hw with
  | .ok (.clauseHeader y b a w e c) =>
    if p.idx = 0 then .run (.clauseHeader y b a w e c) (noted u (c, e, a, b) hw u.cur.yld)
    else if !(u.myTeam.launch.mayRun p.coh e) then .done (u.badRole (headerAddr p) e)
    else if c < p.idx then .done (u.badClause (headerAddr p) hw)
    else
      match u.fetch p.addr with
      | .none v => .done v
      | .word x v => wordIssue p e x (noted v (c, e, a, b) x (y = 1 && p.idx = c))
  | _ => .done (u.badClause (headerAddr p) hw)

theorem modCoh_teamCore (s : State) (tid coh k : Nat) (f : Cohort → Cohort) : ((s.modCoh tid coh f).team k).core = (s.team k).core :=
  State.setCoh_teamCore s tid coh k _

/-- Where a group stands when its issue has been taken (02 R22; 07 R129). -/
theorem chosen_cur (t : State) (port tid coh lane : Nat) :
    (chosen t port tid coh lane).cur =
      { tid := tid, coh := coh, lanes := t.offered tid coh lane, addr := fld (tget 0 (t.coh tid coh).pc lane) 0 52
        idx := fld (tget 0 (t.coh tid coh).pc lane) 60 4, port := port } := by
  unfold chosen
  split <;> rfl

theorem issue_eq_fetch {t : State} {port tid coh lane : Nat} (may : t.mayIssue port tid coh lane = true)
    (aligned : (chosen t port tid coh lane).cur.addr % 4 = 0) :
    t.issue port tid coh lane =
      match (chosen t port tid coh lane).fetch (headerAddr (chosen t port tid coh lane).cur) with
      | .none v => .done v
      | .word hw u => clauseIssue (chosen t port tid coh lane).cur hw u := by
  rw [chosen_cur] at aligned ⊢
  refine (if_neg (by simp [may])).trans ((if_neg (fun h => absurd aligned (bne_iff_ne.mp h))).trans ?_)
  rw [modCoh_teamCore]
  rfl

section Clause
variable {p : Cur} {u v : State} {hw x y b a w e c : Nat} {i : Instr} {bad : DecodeError}

theorem clauseIssue_of_error (dec : decode 7 hw = .error bad) : clauseIssue p hw u = .done (u.badClause (headerAddr p) hw) := by
  simp only [clauseIssue, dec]

theorem clauseIssue_header (dec : decode 7 hw = .ok (.clauseHeader y b a w e c)) (first : p.idx = 0) :
    clauseIssue p hw u = .run (.clauseHeader y b a w e c) (noted u (c, e, a, b) hw u.cur.yld) := by
  simp only [clauseIssue, dec, first, if_true]

theorem clauseIssue_badRole (dec : decode 7 hw = .ok (.clauseHeader y b a w e c)) (inside : 1 ≤ p.idx)
    (role : u.myTeam.launch.mayRun p.coh e = false) : clauseIssue p hw u = .done (u.badRole (headerAddr p) e) := by
  simp only [clauseIssue, dec, Nat.ne_of_gt inside, role, if_false, Bool.not_false, if_true]

theorem clauseIssue_word (dec : decode 7 hw = .ok (.clauseHeader y b a w e c)) (inside : 1 ≤ p.idx) (within : p.idx ≤ c)
    (role : u.myTeam.launch.mayRun p.coh e = true) (fetched : u.fetch p.addr = .word x v) :
    clauseIssue p hw u = wordIssue p e x (noted v (c, e, a, b) x (y = 1 && p.idx = c)) := by
  simp only [clauseIssue, dec, Nat.ne_of_gt inside, Nat.not_lt.mpr within, role, fetched, if_false, Bool.not_true, Bool.false_eq_true]

theorem wordIssue_run (dec : decode e x = .ok i) (free : u.interlocked p.port p.tid p.coh p.lanes e x = false) :
    wordIssue p e x u = .run i (if u.cur.yld then u.passCohort p.tid p.coh else u) := by
  simp [wordIssue, dec, free]

theorem wordIssue_interlocked (dec : decode e x = .ok i) (held : u.interlocked p.port p.tid p.coh p.lanes e x = true) :
    wordIssue p e x u = .done u := by
  simp [wordIssue, dec, held]

theorem wordIssue_illegal (dec : decode e x = .error bad) : wordIssue p e x u = .done u.illegal := by
  simp [wordIssue, dec]

end Clause

-- what the issue makes of the step -----------------------------------------------------------------------------------------------

section Step
variable {t n z : State} {port tid coh lane : Nat} {i : Instr}

theorem issueWord_done (h : t.issue port tid coh lane = .done n) :
    t.issueWord port tid coh lane = t.issuedOut (.next (t.orWait n)) port tid coh lane := by
  simp only [State.issueWord, h, State.issuedOut]

/-- A group that its word moves on, or whose word is of no matrix clause, has issued. -/
theorem issueWord_passes (h : t.issue port tid coh lane = .run i n) (hz : n.waitOut (exec i n) = .next z)
    (passes : (t.coh tid coh).stands (z.coh tid coh) = false ∨ n.cur.cls ≠ 2) :
    t.issueWord port tid coh lane = t.issuedOut (.next z) port tid coh lane := by
  simp only [State.issueWord, h, hz]
  exact if_neg (by rcases passes with moved | other <;> simp [*])

/-- Where a group stands at a matrix clause's header, the gate decides whether it has issued (08 R149). -/
theorem issueWord_gated (h : t.issue port tid coh lane = .run i n) (hz : n.waitOut (exec i n) = .next z) (header : i.cls = 7)
    (mtx : n.cur.cls = 2) (stands : (t.coh tid coh).stands (z.coh tid coh) = true) :
    t.issueWord port tid coh lane = t.issuedOut (exec .gateAccept { z with args := [tid, coh, lane] }) port tid coh lane := by
  simp only [State.issueWord, h, hz]
  exact if_pos (by simp [header, mtx, stands])

theorem issueWord_run (h : t.issue port tid coh lane = .run i n) (word : i.cls ≠ 7 ∨ n.cur.cls ≠ 2) :
    t.issueWord port tid coh lane = t.issuedOut (n.waitOut (exec i n)) port tid coh lane := by
  cases hz : n.waitOut (exec i n) with
  | next z =>
    simp only [State.issueWord, h, hz]
    exact if_neg (by rcases word with word | other <;> simp [*])
  | fault f => simp only [State.issueWord, h, hz, State.issuedOut]
  | refused r => simp only [State.issueWord, h, hz, State.issuedOut]

/-- The step of an issue that nothing must precede, in the clock that it begins or goes on with (02 R36). -/
theorem step_issue {s : State} {as : List Action} {clock : Bool} (agenda : s.agenda = .issue clock port tid coh lane :: as)
    (runs : s.stopped = false) (offers : clock = true → s.nextOffer = none) :
    step s = ended { s with agenda := as }
      ((if clock then ({ s with agenda := as } : State).nextClock else { s with agenda := as }).issueWord port tid coh lane) := by
  have free : s.owed (.issue clock port tid coh lane) = none := by
    cases clock with
    | false => rfl
    | true => exact offers rfl
  have act : ({ s with agenda := as } : State).act (.issue clock port tid coh lane) =
      (if clock then ({ s with agenda := as } : State).nextClock else { s with agenda := as }).issueWord port tid coh lane :=
    if_neg (by rw [runs]; exact Bool.false_ne_true)
  simp only [step, agenda, free, State.perform, act]
  rfl

end Step

end Sys2Proof.Claims

open Sys2Proof Sys2Proof.Machine Sys2Proof.Claims

/-- Settles O54: each clause by the issue at the group's place (`issue_eq_fetch`), and by what its outcome makes of the step. -/
theorem stepIssuesTheDecodedWord : Obligations.StepIssuesTheDecodedWord := by
  unfold Obligations.StepIssuesTheDecodedWord
  intro s t u v as clock port tid coh lane hw x y b a w e c i bad s0 agenda runs offers ht may k h f issues aligned fetched
  have performs : step s = ended s0 (t.issueWord port tid coh lane) := ht ▸ step_issue agenda runs offers
  have issue : t.issue port tid coh lane = clauseIssue k.cur hw u := by
    rw [issue_eq_fetch may aligned, show (chosen t port tid coh lane).fetch (headerAddr (chosen t port tid coh lane).cur) = _ from fetched]
  have cur : k.cur.port = port ∧ k.cur.tid = tid ∧ k.cur.coh = coh ∧ k.cur.lanes = t.offered tid coh lane := by
    simp only [k, chosen_cur, and_self]
  obtain ⟨hport, htid, hcoh, hlanes⟩ := cur
  refine ⟨fun header => ⟨fun z first hz => ?_, fun inside role => ?_, fun inside within role word => ?_⟩, fun dec => ?_⟩
  · have run := issue.trans (clauseIssue_header header first)
    refine ⟨fun passes => ?_, fun stands mtx => ?_⟩
    · rw [performs, issueWord_passes run hz passes]
    · rw [performs, issueWord_gated run hz rfl mtx stands]
  · rw [performs, issueWord_done (issue.trans (clauseIssue_badRole header inside (hcoh ▸ role)))]
    rfl
  · rw [clauseIssue_word header inside within (hcoh ▸ role) word] at issue
    intro n m
    have hm : m.cur.cls = e := by
      simp only [m]
      split <;> rfl
    refine ⟨fun dec free => ?_, fun dec held => ?_, fun dec => ?_⟩
    · have word : i.cls ≠ 7 ∨ m.cur.cls ≠ 2 := by
        rw [hm]
        exact no_header_in_mtx dec
      have run : t.issue port tid coh lane = .run i m := by
        rw [issue, wordIssue_run dec (by rwa [hport, htid, hcoh, hlanes]), htid, hcoh]
        rfl
      rw [performs, issueWord_run run word]
    · rw [performs, issueWord_done (issue.trans (wordIssue_interlocked dec (by rwa [hport, htid, hcoh, hlanes])))]
    · rw [performs, issueWord_done (issue.trans (wordIssue_illegal dec))]
  · rw [performs, issueWord_done (issue.trans (clauseIssue_of_error dec))]
    rfl
end

section
/-!
SUPPORT. Words laid out in fields (03 R51): a word is the sum of its row's opcode and of its operands at their places, and each operand
reads back from its place when the places are apart and every operand fits.
-/
namespace Sys2Proof.Layout

/-- A part of an instruction word (03 R51), by the weight of its lowest bit and the number of its values: a field that holds an operand's
value, or a place that the row fixes. -/
inductive Part where
  | field (value weight values : Nat)
  | fixed (weight values : Nat)

/-- The word of a row's base value and its parts, from the highest place down. -/
def laid (x : Nat) : List Part → Nat
  | [] => x
  | .field v 1 _ :: ps => laid (x + v) ps
  | .field v p _ :: ps => laid (x + v * p) ps
  | .fixed _ _ :: ps => laid x ps

/-- The parts lie below the weight q and each below the one before it; a field's place is zero in the base and can hold its value. -/
def Fits (base q : Nat) : List Part → Prop
  | [] => True
  | .field v p m :: ps => q % (p * m) = 0 ∧ base / p % m = 0 ∧ v < m ∧ Fits base p ps
  | .fixed p m :: ps => q % (p * m) = 0 ∧ Fits base p ps

/-- What a word holds at the places of the parts. -/
def Reads (base w : Nat) : List Part → Prop
  | [] => True
  | .field v 1 m :: ps => w % m = v ∧ Reads base w ps
  | .field v p m :: ps => w / p % m = v ∧ Reads base w ps
  | .fixed 1 m :: ps => w % m = base % m ∧ Reads base w ps
  | .fixed p m :: ps => w / p % m = base / p % m ∧ Reads base w ps

theorem laid_field (x v p m : Nat) (ps : List Part) : laid x (.field v p m :: ps) = laid (x + v * p) ps := by
  by_cases unit : p = 1
  · rw [unit, laid, Nat.mul_one]
  · rw [laid]
    exact unit

theorem reads_field {base w v p m : Nat} {ps : List Part} : Reads base w (.field v p m :: ps) ↔ w / p % m = v ∧ Reads base w ps := by
  by_cases unit : p = 1
  · rw [unit, Reads, Nat.div_one]
  · rw [Reads]
    exact unit

theorem reads_fixed {base w p m : Nat} {ps : List Part} :
    Reads base w (.fixed p m :: ps) ↔ w / p % m = base / p % m ∧ Reads base w ps := by
  by_cases unit : p = 1
  · rw [unit, Reads, Nat.div_one, Nat.div_one]
  · rw [Reads]
    exact unit

/-- Values that agree below q hold the same at every place below q. -/
theorem place_congr {x y q p m : Nat} (agree : x % q = y % q) (below : p * m ∣ q) : x / p % m = y / p % m := by
  rw [← Nat.mod_mul_right_div_self, ← Nat.mod_mul_right_div_self, ← Nat.mod_mod_of_dvd x below, agree, Nat.mod_mod_of_dvd y below]

theorem mod_congr_of_dvd {x y p q : Nat} (agree : x % q = y % q) (d : p ∣ q) : x % p = y % p := by
  rw [← Nat.mod_mod_of_dvd x d, agree, Nat.mod_mod_of_dvd y d]

theorem div_congr_of_dvd {x y p q : Nat} (agree : x / p = y / p) (d : p ∣ q) : x / q = y / q := by
  obtain ⟨k, rfl⟩ := d
  rw [← Nat.div_div_eq_div_mul, ← Nat.div_div_eq_div_mul, agree]

/-- A value put in a place that was zero does not carry. -/
theorem add_field_div {x v p m : Nat} (hp : 0 < p) (zero : x / p % m = 0) (small : v < m) : (x + v * p) / (p * m) = x / (p * m) := by
  obtain ⟨k, hk⟩ := Nat.dvd_of_mod_eq_zero zero
  rw [← Nat.div_div_eq_div_mul, ← Nat.div_div_eq_div_mul, Nat.add_mul_div_right _ _ hp, hk, Nat.mul_add_div (Nat.zero_lt_of_lt small),
    Nat.div_eq_of_lt small, Nat.mul_div_cancel_left _ (Nat.zero_lt_of_lt small), Nat.add_zero]

/-- A word keeps what stands above its parts, and its parts read back. -/
theorem laid_reads {base : Nat} (ps : List Part) {x q : Nat} (hq : 0 < q) (agree : x % q = base % q) (fits : Fits base q ps) :
    laid x ps / q = x / q ∧ Reads base (laid x ps) ps := by
  induction ps generalizing x q with
  | nil => exact ⟨rfl, trivial⟩
  | cons part ps ih =>
    cases part with
    | field v p m =>
      obtain ⟨below, zero, small, fits⟩ := fits
      have below : p * m ∣ q := Nat.dvd_of_mod_eq_zero below
      have weight : p ∣ q := Nat.dvd_trans (Nat.dvd_mul_right p m) below
      have hp : 0 < p := Nat.pos_of_dvd_of_pos weight hq
      have zero : x / p % m = 0 := (place_congr agree below).trans zero
      have agree : (x + v * p) % p = base % p := by
        rw [Nat.add_mul_mod_self_right, mod_congr_of_dvd agree weight]
      obtain ⟨above, rest⟩ := ih hp agree fits
      rw [laid_field, reads_field]
      refine ⟨?_, ?_, rest⟩
      · exact div_congr_of_dvd ((div_congr_of_dvd above (Nat.dvd_mul_right p m)).trans (add_field_div hp zero small)) below
      · rw [above, Nat.add_mul_div_right _ _ hp, Nat.add_mod, zero, Nat.zero_add, Nat.mod_mod, Nat.mod_eq_of_lt small]
    | fixed p m =>
      obtain ⟨below, fits⟩ := fits
      have below : p * m ∣ q := Nat.dvd_of_mod_eq_zero below
      have weight : p ∣ q := Nat.dvd_trans (Nat.dvd_mul_right p m) below
      have hp : 0 < p := Nat.pos_of_dvd_of_pos weight hq
      obtain ⟨above, rest⟩ := ih hp (mod_congr_of_dvd agree weight) fits
      rw [laid, reads_fixed]
      exact ⟨div_congr_of_dvd above weight, (congrArg (· % m) above).trans (place_congr agree below), rest⟩

/-- A word's shape is the instruction when the shape function gives it for the row's opcode and the operands as they read back. That the
operands fit their fields is what the instruction's well-formedness says (03 R58). -/
theorem shape_of_parts {S : Nat → Option Instr} {i : Instr} {base : Nat} (wf : i.wf = true) (q : Nat) (ps : List Part)
    (reads : ∀ w, w / q = base / q → Reads base w ps → S w = some i)
    (fits : i.wf = true → Fits base q ps := by
      simp only [Instr.wf, cvtControl, sysregAssigned, sysregWritable, Bool.and_eq_true, Bool.or_eq_true, decide_eq_true_eq, beq_iff_eq,
        Fits, Nat.reduceMul, Nat.reduceDiv, Nat.reduceMod, true_and, and_true]
      omega)
    (hq : 0 < q := by decide) : S (laid base ps) = some i :=
  have h := laid_reads ps hq rfl (fits wf)
  reads _ h.1 h.2

end Sys2Proof.Layout
end

section
/-!
SUPPORT. Each class's shape function picks the instruction from its own word (03 R45, R51, R65 to R73), and the statements that words
decode back.
-/
namespace Sys2Proof.Layout
open Sys2Proof.Claims

/-- The quotients by which the alu rows with operands in their opcode are found (03 R65), from the opcode's. -/
theorem opcode_quarter (w : Nat) : w / 67108864 = w / 16777216 / 4 := (Nat.div_div_eq_div_mul w 16777216 4).symm
theorem opcode_eighth (w : Nat) : w / 134217728 = w / 16777216 / 8 := (Nat.div_div_eq_div_mul w 16777216 8).symm
theorem quarter_of_eighth (w : Nat) : w / 67108864 = w / 134217728 * 2 ∨ w / 67108864 = w / 134217728 * 2 + 1 := by omega

theorem shapeAlu_encode_of_vectorForm {i : Instr} (wf : i.wf = true) (form : (vectorForm i).isSome = true) :
    shapeAlu (encode i) = some i := by
  cases i
  -- A3, the low opcode bits are the element width (R65)
  case add w d a b h g | sub w d a b h g | mul w d a b h g | mulhiI w d a b h g | mulhiN w d a b h g | minI w d a b h g |
      minN w d a b h g | maxI w d a b h g | maxN w d a b h g | shl w d a b h g | shrN w d a b h g | shrI w d a b h g | addsI w d a b h g |
      addsN w d a b h g | subsI w d a b h g | subsN w d a b h g =>
    exact shape_of_parts wf 0x4000000
      [.field w 0x1000000 4, .field d 0x40000 64, .field a 0x1000 64, .field b 64 64, .field h 8 4, .field g 1 8]
      fun w op ⟨hw, hd, ha, hb, hh, hg, _⟩ => by
      rw [← hw, ← hd, ← ha, ← hb, ← hh, ← hg, shapeAlu, op]; rfl
  -- A3
  case and d a b h g | or d a b h g | xor d a b h g | andn d a b h g | bfxN32 d a b h g | bfxI32 d a b h g | lea d a b h g |
      sel d a b h g | shflIdx d a b h g =>
    exact shape_of_parts wf 0x1000000 [.field d 0x40000 64, .field a 0x1000 64, .field b 64 64, .field h 8 4, .field g 1 8]
      fun w op ⟨hd, ha, hb, hh, hg, _⟩ => by
      rw [← hd, ← ha, ← hb, ← hh, ← hg, shapeAlu, opcode_quarter, opcode_eighth, op]; rfl
  -- A3 with VB zero
  case popcW d a h g | clzW d a h g | brevW d a h g | mov d a h g | frcpF32 d a h g | frsqF32 d a h g | fex2F32 d a h g |
      flg2F32 d a h g =>
    exact shape_of_parts wf 0x1000000 [.field d 0x40000 64, .field a 0x1000 64, .field h 8 2, .field g 1 8]
      fun w op ⟨hd, ha, hh, hg, _⟩ => by
      rw [← hd, ← ha, ← hh, ← hg, shapeAlu, opcode_quarter, opcode_eighth, op]; rfl
  -- A3 with three sources, HOLD has three bits
  case bfiW d a b h g =>
    exact shape_of_parts wf 0x1000000 [.field d 0x40000 64, .field a 0x1000 64, .field b 64 64, .field h 8 8, .field g 1 8]
      fun w op ⟨hd, ha, hb, hh, hg, _⟩ => by
      rw [← hd, ← ha, ← hb, ← hh, ← hg, shapeAlu, opcode_quarter, opcode_eighth, op]; rfl
  -- AS with VA zero
  case mvs d s g =>
    exact shape_of_parts wf 0x1000000 [.field d 0x40000 64, .field s 64 64, .field g 1 8] fun w op ⟨hd, hs, hg, _⟩ => by
      rw [← hd, ← hs, ← hg, shapeAlu, opcode_quarter, opcode_eighth, op]; rfl
  -- A3, the low opcode bits are the type
  case fadd t d a b h g | fsub t d a b h g | fmul t d a b h g | fmin t d a b h g | fmax t d a b h g =>
    exact shape_of_parts wf 0x4000000
      [.field t 0x1000000 4, .field d 0x40000 64, .field a 0x1000 64, .field b 64 64, .field h 8 4, .field g 1 8]
      fun w op ⟨ht, hd, ha, hb, hh, hg, _⟩ => by
      rw [← ht, ← hd, ← ha, ← hb, ← hh, ← hg, shapeAlu, op]; rfl
  case fma t d a b h g =>
    exact shape_of_parts wf 0x4000000
      [.field t 0x1000000 4, .field d 0x40000 64, .field a 0x1000 64, .field b 64 64, .field h 8 8, .field g 1 8]
      fun w op ⟨ht, hd, ha, hb, hh, hg, _⟩ => by
      rw [← ht, ← hd, ← ha, ← hb, ← hh, ← hg, shapeAlu, op]; rfl
  case fabs t d a h g | fneg t d a h g =>
    exact shape_of_parts wf 0x4000000 [.field t 0x1000000 4, .field d 0x40000 64, .field a 0x1000 64, .field h 8 2, .field g 1 8]
      fun w op ⟨ht, hd, ha, hh, hg, _⟩ => by
      rw [← ht, ← hd, ← ha, ← hh, ← hg, shapeAlu, op]; rfl
  -- A3, VB is the control field (R67)
  case cvtF32F16 d a r i h g | cvtF32Bf16 d a r i h g | cvtF32I32 d a r i h g | cvtF32N32 d a r i h g | cvtI32F32 d a r i h g |
      cvtN32F32 d a r i h g | cvtF32E2m3 d a r i h g | cvtF32E3m2 d a r i h g | cvtF32E2m1 d a r i h g =>
    exact shape_of_parts wf 0x1000000 [.field d 0x40000 64, .field a 0x1000 64, .field r 512 8, .field i 256 2, .field h 8 2, .field g 1 8]
      fun w op ⟨hd, ha, hr, hi, hh, hg, _⟩ => by
      rw [← hd, ← ha, ← hr, ← hi, ← hh, ← hg, shapeAlu, opcode_quarter, opcode_eighth, op]; rfl
  case cvtF16F32 d a r i h g | cvtBf16F32 d a r i h g | cvtE2m3F32 d a r i h g | cvtE3m2F32 d a r i h g | cvtE2m1F32 d a r i h g =>
    exact shape_of_parts wf 0x1000000 [.field d 0x40000 64, .field a 0x1000 64, .field r 512 8, .field i 256 2, .field h 8 8, .field g 1 8]
      fun w op ⟨hd, ha, hr, hi, hh, hg, _⟩ => by
      rw [← hd, ← ha, ← hr, ← hi, ← hh, ← hg, shapeAlu, opcode_quarter, opcode_eighth, op]; rfl
  -- A3 with a control field, the low opcode bits are N
  case cvtS8pnF32 n d a r i h g | cvtN8pnF32 n d a r i h g =>
    exact shape_of_parts wf 0x8000000
      [.field n 0x1000000 8, .field d 0x40000 64, .field a 0x1000 64, .field r 512 8, .field i 256 2, .field h 8 8, .field g 1 8]
      fun w op ⟨hn, hd, ha, hr, hi, hh, hg, _⟩ => by
      obtain low | high := quarter_of_eighth w
      · rw [← hn, ← hd, ← ha, ← hr, ← hi, ← hh, ← hg, shapeAlu, low, op]; rfl
      · rw [← hn, ← hd, ← ha, ← hr, ← hi, ← hh, ← hg, shapeAlu, high, op]; rfl
  case cvtF32S8pn n d a r i h g | cvtF32N8pn n d a r i h g =>
    exact shape_of_parts wf 0x8000000
      [.field n 0x1000000 8, .field d 0x40000 64, .field a 0x1000 64, .field r 512 8, .field i 256 2, .field h 8 2, .field g 1 8]
      fun w op ⟨hn, hd, ha, hr, hi, hh, hg, _⟩ => by
      obtain low | high := quarter_of_eighth w
      · rw [← hn, ← hd, ← ha, ← hr, ← hi, ← hh, ← hg, shapeAlu, low, op]; rfl
      · rw [← hn, ← hd, ← ha, ← hr, ← hi, ← hh, ← hg, shapeAlu, high, op]; rfl
  -- AS
  case shflUp d a s h g | shflDown d a s h g | shflXor d a s h g | bcast d a s h g =>
    exact shape_of_parts wf 0x1000000 [.field d 0x40000 64, .field a 0x1000 64, .field s 64 64, .field h 8 2, .field g 1 8]
      fun w op ⟨hd, ha, hs, hh, hg, _⟩ => by
      rw [← hd, ← ha, ← hs, ← hh, ← hg, shapeAlu, opcode_quarter, opcode_eighth, op]; rfl
  -- AI
  case extN8 d a x | extN16 d a x | extW d a x | insN8 d a x | insN16 d a x | insW d a x =>
    exact shape_of_parts wf 0x1000000 [.field d 0x40000 64, .field a 0x1000 64, .field x 1 16] fun w op ⟨hd, ha, hx, _⟩ => by
      rw [← hd, ← ha, ← hx, shapeAlu, opcode_quarter, opcode_eighth, op]; rfl
  case addiI32 d a i | andi d a i | ori d a i | xori d a i =>
    exact shape_of_parts wf 0x1000000 [.field d 0x40000 64, .field a 0x1000 64, .field i 1 0x1000] fun w op ⟨hd, ha, hi, _⟩ => by
      rw [← hd, ← ha, ← hi, shapeAlu, opcode_quarter, opcode_eighth, op]; rfl
  case shliW d a i | shriN32 d a i | shriI32 d a i =>
    exact shape_of_parts wf 0x1000000 [.field d 0x40000 64, .field a 0x1000 64, .field i 1 32] fun w op ⟨hd, ha, hi, _⟩ => by
      rw [← hd, ← ha, ← hi, shapeAlu, opcode_quarter, opcode_eighth, op]; rfl
  -- AI with VA zero
  case moviI32 d i =>
    exact shape_of_parts wf 0x1000000 [.field d 0x40000 64, .field i 1 0x1000] fun w op ⟨hd, hi, _⟩ => by
      rw [← hd, ← hi, shapeAlu, opcode_quarter, opcode_eighth, op]; rfl
  all_goals cases form

theorem shapeAlu_encode_of_scalarForm {i : Instr} (wf : i.wf = true) (form : (scalarForm i).isSome = true) :
    shapeAlu (encode i) = some i := by
  cases i
  -- AS with VD zero
  case mfv a s h g | redaddI32 a s h g | redaddF32 a s h g | redminI32 a s h g | redmaxI32 a s h g | redminF32 a s h g |
      redmaxF32 a s h g =>
    exact shape_of_parts wf 0x1000000 [.field a 0x1000 64, .field s 64 64, .field h 8 2, .field g 1 8] fun w op ⟨ha, hs, hh, hg, _⟩ => by
      rw [← ha, ← hs, ← hh, ← hg, shapeAlu, opcode_quarter, opcode_eighth, op]; rfl
  -- AS, VD is the operation and VA a predicate register
  case voteBallot p s g | voteAny p s g | voteAll p s g | voteUni p s g =>
    exact shape_of_parts wf 0x1000000 [.fixed 0x40000 4, .field p 0x1000 8, .field s 64 64, .field g 1 8]
      fun w op ⟨sub, hp, hs, hg, _⟩ => by
      rw [← hp, ← hs, ← hg, shapeAlu, opcode_quarter, opcode_eighth, op, sub]; rfl
  -- UU, SUB is the operation (R66)
  case sadd d a b | ssub d a b | smul d a b | smulhiI d a b | smulhiN d a b | sand d a b | sor d a b | sxor d a b | sshl d a b |
      sshrN d a b | sshrI d a b | sminI d a b | smaxI d a b | sminN d a b | smaxN d a b | ssltI d a b | ssltN d a b | sseq d a b =>
    exact shape_of_parts wf 0x1000000 [.field d 0x40000 64, .field a 0x1000 64, .field b 64 64, .fixed 1 32]
      fun w op ⟨hd, ha, hb, sub, _⟩ => by
      rw [← hd, ← ha, ← hb, shapeAlu, opcode_quarter, opcode_eighth, op, sub]; rfl
  case smov d a =>
    exact shape_of_parts wf 0x1000000 [.field d 0x40000 64, .field a 0x1000 64, .fixed 1 32] fun w op ⟨hd, ha, sub, _⟩ => by
      rw [← hd, ← ha, shapeAlu, opcode_quarter, opcode_eighth, op, sub]; rfl
  case saddi d a i | slui d a i =>
    exact shape_of_parts wf 0x1000000 [.field d 0x40000 64, .field a 0x1000 64, .field i 1 0x1000] fun w op ⟨hd, ha, hi, _⟩ => by
      rw [← hd, ← ha, ← hi, shapeAlu, opcode_quarter, opcode_eighth, op]; rfl
  all_goals cases form

theorem shapeAlu_encode_of_predicateForm {i : Instr} (wf : i.wf = true) (form : (predicateForm i).isSome = true) :
    shapeAlu (encode i) = some i := by
  cases i
  -- PC
  case cmpI32 d c a b h g | cmpN32 d c a b h g | cmpI64 d c a b h g | cmpN64 d c a b h g | cmpF32 d c a b h g | cmpF16 d c a b h g |
      cmpBf16 d c a b h g =>
    exact shape_of_parts wf 0x1000000
      [.field d 0x200000 8, .field c 0x40000 8, .field a 0x1000 64, .field b 64 64, .field h 8 4, .field g 1 8]
      fun w op ⟨hd, hc, ha, hb, hh, hg, _⟩ => by
      rw [← hd, ← hc, ← ha, ← hb, ← hh, ← hg, shapeAlu, opcode_quarter, opcode_eighth, op]; rfl
  -- predicate registers in PC: COND is the operation
  case pand d a b g | por d a b g | pxor d a b g | pandn d a b g =>
    exact shape_of_parts wf 0x1000000 [.field d 0x200000 8, .fixed 0x40000 8, .field a 0x1000 8, .field b 64 8, .field g 1 8]
      fun w op ⟨hd, sub, ha, hb, hg, _⟩ => by
      rw [← hd, ← ha, ← hb, ← hg, shapeAlu, opcode_quarter, opcode_eighth, op, sub]; rfl
  case pmov d a g | pnot d a g =>
    exact shape_of_parts wf 0x1000000 [.field d 0x200000 8, .fixed 0x40000 8, .field a 0x1000 8, .field g 1 8]
      fun w op ⟨hd, sub, ha, hg, _⟩ => by
      rw [← hd, ← ha, ← hg, shapeAlu, opcode_quarter, opcode_eighth, op, sub]; rfl
  all_goals cases form

/-- The words of class alu are those that write a v register, an s register or a predicate register (06 R103). -/
theorem alu_iff_form (i : Instr) : (i.cls == 0) = ((vectorForm i).isSome || (scalarForm i).isSome || (predicateForm i).isSome) := by
  cases i <;> rfl

theorem shapeAlu_encode {i : Instr} (wf : i.wf = true) (cls : i.cls = 0) : shapeAlu (encode i) = some i := by
  have form := alu_iff_form i
  simp only [cls, beq_self_eq_true, Bool.true_eq, Bool.or_eq_true] at form
  obtain (vector | scalar) | predicate := form
  · exact shapeAlu_encode_of_vectorForm wf vector
  · exact shapeAlu_encode_of_scalarForm wf scalar
  · exact shapeAlu_encode_of_predicateForm wf predicate

theorem shapeMem_encode {i : Instr} (wf : i.wf = true) (cls : i.cls = 1) : shapeMem (encode i) = some i := by
  cases i
  -- ME
  case ldN8 d a p o g | ldI8 d a p o g | ldN16 d a p o g | ldI16 d a p o g | ldW d a p o g | ldD d a p o g | ldQ d a p o g |
      atomAddI32 d a p o g | atomAddI64 d a p o g | atomAddF32 d a p o g | atomMinI32 d a p o g | atomMinN32 d a p o g |
      atomMaxI32 d a p o g | atomMaxN32 d a p o g | atomAndW d a p o g | atomOrW d a p o g | atomXorW d a p o g | atomXchgW d a p o g |
      atomXchgD d a p o g | atomCasW d a p o g | atomCasD d a p o g =>
    exact shape_of_parts wf 0x1000000 [.field d 0x40000 64, .field a 0x1000 64, .field p 512 8, .field o 8 64, .field g 1 8]
      fun w op ⟨hd, ha, hp, ho, hg, _⟩ => by
      simp only [shapeMem, op, hd, ha, hp, ho, hg]
  case stN8 s a p o g | stN16 s a p o g | stW s a p o g | stD s a p o g | stQ s a p o g | stnib s a p o g | stsix s a p o g |
      mredAddI32 s a p o g | mredAddI64 s a p o g | mredAddF32 s a p o g | mredMinI32 s a p o g | mredMinN32 s a p o g |
      mredMaxI32 s a p o g | mredMaxN32 s a p o g | mredAndW s a p o g | mredOrW s a p o g | mredXorW s a p o g =>
    exact shape_of_parts wf 0x1000000 [.field s 0x40000 64, .field a 0x1000 64, .field p 512 8, .field o 8 64, .field g 1 8]
      fun w op ⟨hs, ha, hp, ho, hg, _⟩ => by
      simp only [shapeMem, op, hs, ha, hp, ho, hg]
  case lduD d a p o =>
    exact shape_of_parts wf 0x1000000 [.field d 0x40000 64, .field a 0x1000 64, .field p 512 8, .field o 8 64]
      fun w op ⟨hd, ha, hp, ho, _⟩ => by
      simp only [shapeMem, op, hd, ha, hp, ho]
  case stuD s a p o =>
    exact shape_of_parts wf 0x1000000 [.field s 0x40000 64, .field a 0x1000 64, .field p 512 8, .field o 8 64]
      fun w op ⟨hs, ha, hp, ho, _⟩ => by
      simp only [shapeMem, op, hs, ha, hp, ho]
  -- ME, OFF6 holds the scope
  case ldacqW d a p s g | ldacqD d a p s g | ldacqQ d a p s g =>
    exact shape_of_parts wf 0x1000000 [.field d 0x40000 64, .field a 0x1000 64, .field p 512 8, .field s 64 8, .field g 1 8]
      fun w op ⟨hd, ha, hp, hs, hg, _⟩ => by
      simp only [shapeMem, op, hd, ha, hp, hs, hg]
  case strelW s a p sc g | strelD s a p sc g | strelQ s a p sc g =>
    exact shape_of_parts wf 0x1000000 [.field s 0x40000 64, .field a 0x1000 64, .field p 512 8, .field sc 64 8, .field g 1 8]
      fun w op ⟨hs, ha, hp, hsc, hg, _⟩ => by
      simp only [shapeMem, op, hs, ha, hp, hsc, hg]
  case fence s k g =>
    exact shape_of_parts wf 0x1000000 [.field s 64 8, .field k 8 8, .field g 1 8] fun w op ⟨hs, hk, hg, _⟩ => by
      simp only [shapeMem, op, hs, hk, hg]
  -- ME without VD
  case cclean a p o g | cflush a p o g | pfetch a p o g =>
    exact shape_of_parts wf 0x1000000 [.field a 0x1000 64, .field p 512 8, .field o 8 64, .field g 1 8] fun w op ⟨ha, hp, ho, hg, _⟩ => by
      simp only [shapeMem, op, ha, hp, ho, hg]
  case cpin d a b c | cpout d a b c =>
    exact shape_of_parts wf 0x1000000 [.field d 0x40000 64, .field a 0x1000 64, .field b 64 64, .field c 8 8]
      fun w op ⟨hd, ha, hb, hc, _⟩ => by
      simp only [shapeMem, op, hd, ha, hb, hc]
  case cpwait d a c =>
    exact shape_of_parts wf 0x1000000 [.field d 0x40000 64, .field a 0x1000 64, .field c 8 8] fun w op ⟨hd, ha, hc, _⟩ => by
      simp only [shapeMem, op, hd, ha, hc]
  case bankmode a m =>
    exact shape_of_parts wf 0x1000000 [.field a 0x1000 64, .field m 8 8] fun w op ⟨ha, hm, _⟩ => by
      simp only [shapeMem, op, ha, hm]
  all_goals cases cls

theorem shapeMtx_encode {i : Instr} (wf : i.wf = true) (cls : i.cls = 2) : shapeMtx (encode i) = some i := by
  cases i
  case tresv t l o =>
    exact shape_of_parts wf 0x1000000 [.field t 0x100000 16, .field l 1024 16, .field o 1 512] fun w op ⟨ht, hl, ho, _⟩ => by
      simp only [shapeMtx, op, ht, hl, ho]
  case tfree t | wload t =>
    exact shape_of_parts wf 0x1000000 [.field t 0x100000 16] fun w op ⟨ht, _⟩ => by
      simp only [shapeMtx, op, ht]
  case tset t i =>
    exact shape_of_parts wf 0x1000000 [.field t 0x100000 16, .fixed 1024 2, .field i 1 1024] fun w op ⟨ht, sub, hi, _⟩ => by
      simp only [shapeMtx, op, ht, sub, hi]
  case tsetRows t n =>
    exact shape_of_parts wf 0x1000000 [.field t 0x100000 16, .fixed 1024 2, .field n 1 1024] fun w op ⟨ht, sub, hn, _⟩ => by
      simp only [shapeMtx, op, ht, sub, hn]
  case ksetArm k n =>
    exact shape_of_parts wf 0x1000000 [.field k 0x4000 8, .fixed 1024 4, .field n 1 1024] fun w op ⟨hk, sub, hn, _⟩ => by
      simp only [shapeMtx, op, hk, sub, hn]
  case ksetSign k | ksetOff k =>
    exact shape_of_parts wf 0x1000000 [.field k 0x4000 8, .fixed 1024 4] fun w op ⟨hk, sub, _⟩ => by
      simp only [shapeMtx, op, hk, sub]
  case wswap =>
    exact shape_of_parts wf 0x1000000 [] (fits := fun _ => trivial) fun w op _ => by
      simp only [shapeMtx, op]
  case mstream t a k v g o m =>
    exact shape_of_parts wf 0x1000000
      [.field t 0x100000 16, .field a 0x20000 8, .field k 0x4000 8, .field v 2048 2, .field g 1024 2, .field o 128 8, .field m 1 128]
      fun w op ⟨ht, ha, hk, hv, hg, ho, hm, _⟩ => by
      simp only [shapeMtx, op, ht, ha, hk, hv, hg, ho, hm]
  case mbatch t k v g m =>
    exact shape_of_parts wf 0x1000000 [.field t 0x100000 16, .field k 0x4000 8, .field v 2048 2, .field g 1024 2, .field m 1 128]
      fun w op ⟨ht, hk, hv, hg, hm, _⟩ => by
      simp only [shapeMtx, op, ht, hk, hv, hg, hm]
  case aread r a q c d h e =>
    exact shape_of_parts wf 0x1000000
      [.field r 0x100000 16, .field a 0x20000 8, .field q 0x4000 8, .field c 1024 16, .field d 16 64, .field h 8 2, .field e 1 8]
      fun w op ⟨hr, ha, hq, hc, hd, hh, he, _⟩ => by
      simp only [shapeMtx, op, hr, ha, hq, hc, hd, hh, he]
  case astore t a o m =>
    exact shape_of_parts wf 0x1000000 [.field t 0x100000 16, .field a 0x20000 8, .field o 128 8, .field m 1 128]
      fun w op ⟨ht, ha, ho, hm, _⟩ => by
      simp only [shapeMtx, op, ht, ha, ho, hm]
  case azero a o m =>
    exact shape_of_parts wf 0x1000000 [.field a 0x20000 8, .field o 128 8, .field m 1 128] fun w op ⟨ha, ho, hm, _⟩ => by
      simp only [shapeMtx, op, ha, ho, hm]
  all_goals cases cls

theorem shapeCtl_encode {i : Instr} (wf : i.wf = true) (cls : i.cls = 3) : shapeCtl (encode i) = some i := by
  cases i
  case br o g | bra o g | call o g =>
    exact shape_of_parts wf 0x1000000 [.field o 8 0x200000, .field g 1 8] fun w op ⟨ho, hg, _⟩ => by
      simp only [shapeCtl, op, ho, hg]
  case ret g | exit g | nop g | yield g =>
    exact shape_of_parts wf 0x1000000 [.field g 1 8] fun w op ⟨hg, _⟩ => by
      simp only [shapeCtl, op, hg]
  case jmpi a h g | calli a h g =>
    exact shape_of_parts wf 0x1000000 [.field a 0x1000 64, .field h 8 2, .field g 1 8] fun w op ⟨ha, hh, hg, _⟩ => by
      simp only [shapeCtl, op, ha, hh, hg]
  case join a b =>
    exact shape_of_parts wf 0x1000000 [.field a 0x100000 16, .field b 0x10000 16] fun w op ⟨ha, hb, _⟩ => by
      simp only [shapeCtl, op, ha, hb]
  case leave a =>
    exact shape_of_parts wf 0x1000000 [.field a 0x100000 16] fun w op ⟨ha, _⟩ => by
      simp only [shapeCtl, op, ha]
  case waitm a b p n =>
    exact shape_of_parts wf 0x1000000 [.field a 0x100000 16, .field b 0x10000 16, .field p 0x1000 8, .field n 1 0x1000]
      fun w op ⟨ha, hb, hp, hn, _⟩ => by
      simp only [shapeCtl, op, ha, hb, hp, hn]
  case bar a b n =>
    exact shape_of_parts wf 0x1000000 [.field a 0x100000 16, .field b 0x10000 16, .field n 1 0x1000] fun w op ⟨ha, hb, hn, _⟩ => by
      simp only [shapeCtl, op, ha, hb, hn]
  case brk c g =>
    exact shape_of_parts wf 0x1000000 [.field c 8 0x200000, .field g 1 8] fun w op ⟨hc, hg, _⟩ => by
      simp only [shapeCtl, op, hc, hg]
  case donate g c | accept g c =>
    exact shape_of_parts wf 0x1000000 [.field g 32 16, .field c 1 32] fun w op ⟨hg, hc, _⟩ => by
      simp only [shapeCtl, op, hg, hc]
  all_goals cases cls

theorem shapeQue_encode {i : Instr} (wf : i.wf = true) (cls : i.cls = 4) : shapeQue (encode i) = some i := by
  cases i
  case qinit a b | sarr a b =>
    exact shape_of_parts wf 0x1000000 [.field a 0x1000 64, .field b 64 64] fun w op ⟨ha, hb, _⟩ => by
      simp only [shapeQue, op, ha, hb]
  case qpush s b r g =>
    exact shape_of_parts wf 0x1000000 [.field s 0x40000 64, .field b 64 64, .field r 8 2, .field g 1 8] fun w op ⟨hs, hb, hr, hg, _⟩ => by
      simp only [shapeQue, op, hs, hb, hr, hg]
  case qpop d b r g =>
    exact shape_of_parts wf 0x1000000 [.field d 0x40000 64, .field b 64 64, .field r 8 2, .field g 1 8] fun w op ⟨hd, hb, hr, hg, _⟩ => by
      simp only [shapeQue, op, hd, hb, hr, hg]
  case swt a b p =>
    exact shape_of_parts wf 0x1000000 [.field a 0x1000 64, .field b 64 64, .field p 8 2] fun w op ⟨ha, hb, hp, _⟩ => by
      simp only [shapeQue, op, ha, hb, hp]
  case tspawn s g =>
    exact shape_of_parts wf 0x1000000 [.field s 0x80000 32, .field g 1 8] fun w op ⟨hs, hg, _⟩ => by
      simp only [shapeQue, op, hs, hg]
  case ttake d g | tsteal d g =>
    exact shape_of_parts wf 0x1000000 [.field d 0x80000 32, .field g 1 8] fun w op ⟨hd, hg, _⟩ => by
      simp only [shapeQue, op, hd, hg]
  case llock d a b g =>
    exact shape_of_parts wf 0x1000000 [.field d 0x40000 64, .field a 0x1000 64, .field b 64 64, .field g 1 8]
      fun w op ⟨hd, ha, hb, hg, _⟩ => by
      simp only [shapeQue, op, hd, ha, hb, hg]
  case ltry d a g =>
    exact shape_of_parts wf 0x1000000 [.field d 0x40000 64, .field a 0x1000 64, .field g 1 8] fun w op ⟨hd, ha, hg, _⟩ => by
      simp only [shapeQue, op, hd, ha, hg]
  case lunlock a g =>
    exact shape_of_parts wf 0x1000000 [.field a 0x1000 64, .fixed 8 8, .field g 1 8] fun w op ⟨ha, sub, hg, _⟩ => by
      simp only [shapeQue, op, ha, sub, hg]
  case lunlockW s a g | lunlockD s a g | lunlockQ s a g =>
    exact shape_of_parts wf 0x1000000 [.field s 0x40000 64, .field a 0x1000 64, .fixed 8 8, .field g 1 8]
      fun w op ⟨hs, ha, sub, hg, _⟩ => by
      simp only [shapeQue, op, hs, ha, sub, hg]
  case lstat d a g =>
    exact shape_of_parts wf 0x1000000 [.field d 0x40000 64, .field a 0x1000 64, .fixed 8 2, .field g 1 8]
      fun w op ⟨hd, ha, sub, hg, _⟩ => by
      simp only [shapeQue, op, hd, ha, sub, hg]
  case lstatList d b g =>
    exact shape_of_parts wf 0x1000000 [.field d 0x40000 64, .field b 64 64, .fixed 8 2, .field g 1 8] fun w op ⟨hd, hb, sub, hg, _⟩ => by
      simp only [shapeQue, op, hd, hb, sub, hg]
  case unfold d a b =>
    exact shape_of_parts wf 0x1000000 [.field d 0x40000 64, .field a 0x1000 64, .field b 64 64] fun w op ⟨hd, ha, hb, _⟩ => by
      simp only [shapeQue, op, hd, ha, hb]
  case spawnf s g =>
    exact shape_of_parts wf 0x1000000 [.field s 0x40000 64, .field g 1 8] fun w op ⟨hs, hg, _⟩ => by
      simp only [shapeQue, op, hs, hg]
  case fret s =>
    exact shape_of_parts wf 0x1000000 [.field s 0x40000 64] fun w op ⟨hs, _⟩ => by
      simp only [shapeQue, op, hs]
  case cres d g =>
    exact shape_of_parts wf 0x1000000 [.field d 0x40000 64, .field g 1 8] fun w op ⟨hd, hg, _⟩ => by
      simp only [shapeQue, op, hd, hg]
  all_goals cases cls

theorem shapeNmc_encode {i : Instr} (wf : i.wf = true) (cls : i.cls = 5) : shapeNmc (encode i) = some i := by
  cases i
  case secopen a b | pumpgo a b =>
    exact shape_of_parts wf 0x1000000 [.field a 0x1000 64, .field b 64 64] fun w op ⟨ha, hb, _⟩ => by
      simp only [shapeNmc, op, ha, hb]
  case secabort a | unboard a =>
    exact shape_of_parts wf 0x1000000 [.field a 0x1000 64] fun w op ⟨ha, _⟩ => by
      simp only [shapeNmc, op, ha]
  case secstat d a | pumpwait d a | boardstat d a =>
    exact shape_of_parts wf 0x1000000 [.field d 0x40000 64, .field a 0x1000 64] fun w op ⟨hd, ha, _⟩ => by
      simp only [shapeNmc, op, hd, ha]
  case mvsplit d a b =>
    exact shape_of_parts wf 0x1000000 [.field d 0x40000 64, .field a 0x1000 64, .field b 64 64] fun w op ⟨hd, ha, hb, _⟩ => by
      simp only [shapeNmc, op, hd, ha, hb]
  case boardShadow a =>
    exact shape_of_parts wf 0x1000000 [.field a 0x1000 64, .fixed 8 2] fun w op ⟨ha, sub, _⟩ => by
      simp only [shapeNmc, op, ha, sub]
  case boardTile a t =>
    exact shape_of_parts wf 0x1000000 [.field a 0x1000 64, .field t 64 16, .fixed 8 2] fun w op ⟨ha, ht, sub, _⟩ => by
      simp only [shapeNmc, op, ha, ht, sub]
  all_goals cases cls

theorem shapeSys_encode {i : Instr} (wf : i.wf = true) (cls : i.cls = 6) : shapeSys (encode i) = some i := by
  cases i
  case mfsr r s | mtsr r s =>
    exact shape_of_parts wf 0x1000000 [.field r 0x40000 64, .field s 64 0x1000] fun w op ⟨hr, hs, _⟩ => by
      simp only [shapeSys, op, hr, hs]
  case trap c =>
    exact shape_of_parts wf 0x1000000 [.field c 64 0x1000] fun w op ⟨hc, _⟩ => by
      simp only [shapeSys, op, hc]
  case tret | fencei =>
    exact shape_of_parts wf 0x1000000 [] (fits := fun _ => trivial) fun w op _ => by
      simp only [shapeSys, op]
  all_goals cases cls

theorem shapeHeader_encode {i : Instr} (wf : i.wf = true) (cls : i.cls = 7) : shapeHeader (encode i) = some i := by
  cases i
  case clauseHeader y b a w e c =>
    exact shape_of_parts wf 0x10000000
      [.field y 0x8000000 2, .field b 0x800000 16, .field a 0x80000 16, .field w 128 0x1000, .field e 16 8, .field c 1 16]
      fun w _ ⟨hy, hb, ha, hw, he, hc, _⟩ => by
      simp only [shapeHeader, hy, hb, ha, hw, he, hc]
  all_goals cases cls

/-- A well-formed instruction whose word has it as its shape is accepted: the word is its encoding (03 R58). -/
theorem decode_of_shape {cls : Nat} {i : Instr} (wf : i.wf = true) (shaped : shape cls (encode i) = some i) :
    decode cls (encode i) = .ok i := by
  simp only [decode, shaped, wf, beq_self_eq_true, Bool.and_self, if_true]

end Sys2Proof.Layout

open Sys2Proof Sys2Proof.Layout

/-- Settles O50, format by format: the opcode picks the row, and each field reads back (`laid_reads`). -/
theorem aluWordsDecodeBack : Obligations.AluWordsDecodeBack := by
  intro i wf cls
  exact decode_of_shape wf (shapeAlu_encode wf cls)

/-- Settles O51, class by class and format by format. -/
theorem otherWordsDecodeBack : Obligations.OtherWordsDecodeBack := by
  intro i wf least most
  refine decode_of_shape wf ?_
  obtain cls | cls | cls | cls | cls | cls | cls : i.cls = 1 ∨ i.cls = 2 ∨ i.cls = 3 ∨ i.cls = 4 ∨ i.cls = 5 ∨ i.cls = 6 ∨ i.cls = 7 := by
    omega
  all_goals rw [cls]
  · exact shapeMem_encode wf cls
  · exact shapeMtx_encode wf cls
  · exact shapeCtl_encode wf cls
  · exact shapeQue_encode wf cls
  · exact shapeNmc_encode wf cls
  · exact shapeSys_encode wf cls
  · exact shapeHeader_encode wf cls
end

section
/-!
SUPPORT. The register checks of every class (03 R57, R58; 09 R161), what a header and a fetch come to (03 R46, R48, R59), and the
statements that they settle.
-/
namespace Sys2Proof.Claims
open Sys2Proof.Machine

theorem checked_of_bad {s : State} {rs : List RegCheck} {r : RegCheck} (k : State) (bad : rs.find? (fun c => !c.1) = some r) :
    s.checked rs k = .next (s.raise { cause := 0x12, detail := r.2 }) := by
  simp only [State.checked, bad, State.badReg]

/-- The first v register beyond the allocation is the first check that fails (03 R57). -/
theorem find_vr (s : State) (rs : List Nat) :
    (rs.map s.vr).find? (fun c => !c.1) = (rs.find? (fun r => decide (8 * s.me.alloc ≤ r))).map s.vr := by
  simp only [List.find?_map, State.vr, Function.comp_def, ← decide_not, Nat.not_lt]

/-- An alu word checks its registers before any effect (03 R58). -/
theorem exec_eq_checked_of_aluRegs {i : Instr} {rs : List Nat} (s : State) (regs : aluRegs i = some rs) :
    ∃ k, exec i s = s.checked (rs.map s.vr) k := by
  cases i <;> cases regs <;> exact ⟨_, rfl⟩

/-- 03 R57, R58: the alu words. -/
theorem aluRangeFaults : AluRangeFaults := by
  intro i s rs r regs bad
  obtain ⟨k, word⟩ := exec_eq_checked_of_aluRegs s regs
  rw [word, checked_of_bad k (r := s.vr r) (by rw [find_vr, bad, Option.map_some])]
  rfl

/-- Whether a word of the mem class comes to its register checks (11 R193, R196; 03 R49). -/
def issuesNow (s : State) (lanes : Lanes) (flag : Nat) (load : Bool) : Bool :=
  lanes = 0 || (!(s.fenced lanes load) && !(s.casPending lanes) && s.flagFree flag)

theorem memIssue_of_bad {s : State} {lanes : Lanes} {flag rel : Nat} {load : Bool} {rs : List RegCheck} {r : RegCheck} (k : State)
    (comes : issuesNow s lanes flag load = true) (bad : rs.find? (fun c => !c.1) = some r) :
    s.memIssue lanes flag load rs k rel = .next (s.raise { cause := 0x12, detail := r.2 }) := by
  unfold State.memIssue
  by_cases idle : lanes = 0
  · rw [if_pos idle, checked_of_bad k bad]
  · have free : (s.fenced lanes load || s.casPending lanes || !(s.flagFree flag)) = false := by
      rw [issuesNow, decide_eq_false idle, Bool.false_or] at comes
      simpa [and_assoc] using comes
    rw [if_neg idle, if_neg (by rw [free]; exact Bool.false_ne_true), checked_of_bad _ bad]

theorem exec_eq_memIssue_of_memForm {s : State} {i : Instr} {m : MemForm} (form : memForm s i = some m) :
    ∃ k, exec i s = s.memIssue m.lanes m.flag m.isLoad (m.regs.map s.vr) k m.rel := by
  cases i <;> cases form <;> exact ⟨_, rfl⟩

theorem memWord_of_bad {s : State} {i : Instr} {m : MemForm} {rs : List RegCheck} {r : RegCheck} (form : memForm s i = some m)
    (checks : (m.regs.map s.vr, issuesNow s m.lanes m.flag m.isLoad) = (rs, true)) (bad : rs.find? (fun c => !c.1) = some r) :
    exec i s = .next (s.raise { cause := 0x12, detail := r.2 }) := by
  obtain ⟨rfl, comes⟩ := Prod.mk.inj checks
  obtain ⟨k, word⟩ := exec_eq_memIssue_of_memForm form
  rw [word, memIssue_of_bad k comes bad]

theorem lockIssue_of_bad {s : State} {g flag : Nat} {rs : List RegCheck} {r : RegCheck} (k : State)
    (comes : (decide (s.active g = 0) || s.flagFree flag) = true) (bad : rs.find? (fun c => !c.1) = some r) :
    s.lockIssue g flag rs k = .next (s.raise { cause := 0x12, detail := r.2 }) := by
  have free : (s.active g != 0 && !(s.flagFree flag)) = false := by
    simpa [Decidable.or_iff_not_imp_left] using comes
  unfold State.lockIssue
  rw [if_neg (by rw [free]; exact Bool.false_ne_true), checked_of_bad k bad]

/-- A pair of m registers that fails its check is not a pair of m0 to m11. -/
theorem not_both_of_bad {a b : Nat} {r : RegCheck} (bad : [mr a, mr b].find? (fun c => !c.1) = some r) :
    (decide (a ≤ 11) && decide (b ≤ 11)) = false := by
  refine Bool.eq_false_iff.mpr fun both => ?_
  simp only [Bool.and_eq_true] at both
  simp [mr, both] at bad

/-- 03 R57, R58; 08 R141: the words of the other classes, by what stands before their register checks: nothing, the conditions of the mem and
lock words, or an illegal instruction. -/
theorem operandRangeFaults : OperandRangeFaults := by
  intro i s rs r regs bad
  cases i
  case wload | wswap | aread | qpush | qpop | tspawn | ttake | tsteal | llock | unfold | spawnf | fret | cres | secstat | boardstat | jmpi |
      calli | join | leave =>
    cases regs
    exact checked_of_bad _ bad
  case cclean | cflush | pfetch =>
    obtain ⟨rfl, comes⟩ := Prod.mk.inj (Option.some.inj regs)
    exact memIssue_of_bad _ comes bad
  case ltry | lunlock | lunlockW | lunlockD | lunlockQ | lstat | lstatList =>
    obtain ⟨rfl, comes⟩ := Prod.mk.inj (Option.some.inj regs)
    exact lockIssue_of_bad _ comes bad
  case mstream | astore | azero =>
    obtain ⟨rfl, fits⟩ := Prod.mk.inj (Option.some.inj regs)
    exact (if_neg (Nat.not_lt.mpr (of_decide_eq_true fits))).trans (checked_of_bad _ bad)
  case mbatch t k v g m =>
    obtain ⟨rfl, fits⟩ := Prod.mk.inj (Option.some.inj regs)
    exact (if_neg (by simpa [Nat.pos_iff_ne_zero] using fits)).trans (checked_of_bad _ bad)
  case waitm =>
    cases regs
    simp only [exec, execWaitm]
    split <;> exact checked_of_bad _ bad
  case bar =>
    cases regs
    simp only [exec, execBar, not_both_of_bad bad, Bool.false_and, Bool.false_eq_true, if_false]
    split <;> exact checked_of_bad _ bad
  case ldN8 | ldI8 | ldN16 | ldI16 | ldW | ldD | ldQ | stN8 | stN16 | stW | stD | stQ | stnib | stsix | lduD | stuD | ldacqW | ldacqD |
      ldacqQ | strelW | strelD | strelQ | atomAddI32 | atomAddI64 | atomAddF32 | atomMinI32 | atomMinN32 | atomMaxI32 | atomMaxN32 | atomAndW |
      atomOrW | atomXorW | atomXchgW | atomXchgD | atomCasW | atomCasD | mredAddI32 | mredAddI64 | mredAddF32 | mredMinI32 | mredMinN32 | mredMaxI32 |
      mredMaxN32 | mredAndW | mredOrW | mredXorW =>
    exact memWord_of_bad rfl (Option.some.inj regs) bad
  all_goals cases regs

end Sys2Proof.Claims

open Sys2Proof Sys2Proof.Machine Sys2Proof.Claims

/-- Settles O11: every word checks its registers before any effect, the alu words all alike (`exec_eq_checked_of_aluRegs`). -/
theorem registerRangeFaults : Obligations.RegisterRangeFaults :=
  ⟨aluRangeFaults, operandRangeFaults⟩

/-- Settles O16, by the header's checks in their order: role, flags, gate. -/
theorem clauseHeaderPassesOrWaits : Obligations.ClauseHeaderPassesOrWaits := by
  intro s y b a w e c tiles
  have noTile : (!s.me.tiles.isEmpty) = false := by rw [tiles]; rfl
  refine ⟨fun role => ?_, fun role waits => ?_, fun role clear other => ?_, fun role clear mtx x t word => ?_⟩ <;>
    simp only [exec, execClauseHeader, noTile, role, Bool.not_true, Bool.not_false, Bool.false_eq_true, if_true, if_false]
  · rfl
  · simp only [waits, Bool.not_false, if_true]
  · simp only [clear, other, Bool.not_true, Bool.false_eq_true, if_false]
    rfl
  · simp only [clear, mtx, word, Bool.not_true, Bool.false_eq_true, if_true, if_false]
    split <;> rfl

/-- Settles O53, by evaluation of the decoder at each word. -/
theorem wordsOfTheSpecDecode : Obligations.WordsOfTheSpecDecode :=
  ⟨rfl, rfl, rfl, rfl, rfl, rfl, rfl, rfl, rfl, rfl, rfl, rfl, rfl⟩

/-- Settles O55, by where the word is found: held by the quad, at an address that does not translate, in a line that has to come, or read. -/
theorem fetchReadsTheWord : Obligations.FetchReadsTheWord := by
  intro s addr pa lg kind t
  refine ⟨fun k w held => ?_, fun absent => ⟨fun miss => ?_, fun c r bad => ?_, fun ok => ⟨fun u waits => ?_, fun there => ?_⟩⟩⟩
  · simp only [State.fetch, held]
  · simp only [State.fetch, absent, t, miss]
  · simp only [State.fetch, absent, t, bad]
  · simp only [State.fetch, absent, t, ok, waits]
  · simp only [State.fetch, absent, t, ok, there]
    refine ⟨fun sound => ?_, fun e wrong => ?_⟩
    · simp only [sound]
    · simp only [wrong]
end

section
/-!
SUPPORT. What a donation does to its two cohorts (05 R96), the cases of the timeouts, of the reports and of the sys class's words (09 R166,
R171), and the statements that they settle.
-/
namespace Sys2Proof.Machine

-- tables and waits -------------------------------------------------------------------------------------------------------------

/-- Writes at n keys from b on. -/
theorem tget_foldl_tset_range {α : Type} [DecidableEq α] (d : α) (f : Nat → α) (b n : Nat) (t : Tab α) (k : Nat) :
    tget d ((List.range n).foldl (fun t i => tset d t (b + i) (f i)) t) k = if b ≤ k ∧ k < b + n then f (k - b) else tget d t k := by
  induction n with
  | zero => rw [if_neg (by omega)]; rfl
  | succ n ih =>
    rw [List.range_succ, List.foldl_append, List.foldl_cons, List.foldl_nil, tget_tset, ih]
    by_cases last : k = b + n
    · subst last
      rw [if_pos rfl, if_pos (by omega), Nat.add_sub_cancel_left]
    · have before : (b ≤ k ∧ k < b + (n + 1)) ↔ b ≤ k ∧ k < b + n := by omega
      simp only [if_neg last, before]

@[simp] theorem Cohort.note_valloc (c : Cohort) (spin : Bool) : (c.note spin).valloc = c.valloc := by cases spin <;> rfl
@[simp] theorem Cohort.note_gmap (c : Cohort) (spin : Bool) : (c.note spin).gmap = c.gmap := by cases spin <;> rfl

@[simp] theorem Cohort.release_valloc (c : Cohort) (ls : Lanes) : (c.release ls).valloc = c.valloc := c.note_valloc _
@[simp] theorem Cohort.release_gmap (c : Cohort) (ls : Lanes) : (c.release ls).gmap = c.gmap := c.note_gmap _

/-- Released lanes wait no more, whether or not they all waited. -/
@[simp] theorem Cohort.release_waiting (c : Cohort) (ls : Lanes) : (c.release ls).waiting = c.waiting &&& ~~~ls := by
  change c.waiting &&& ~~~(ls &&& c.waiting) = c.waiting &&& ~~~ls
  rw [BitVec.not_and, BitVec.and_or_distrib_left, BitVec.and_not_self]
  exact BitVec.or_zero

-- donations (05 R96; 07 R140) ---------------------------------------------------------------------------------------------------

/-- A cohort without its open part of a donation, whose lanes go on. -/
def Cohort.endPart (c : Cohort) (ls : Lanes) : Cohort := (c.freeHw (fun h => h.kind = 3 || h.kind = 4)).release ls

@[simp] theorem Cohort.endPart_valloc (c : Cohort) (ls : Lanes) : (c.endPart ls).valloc = c.valloc := Cohort.release_valloc ..
@[simp] theorem Cohort.endPart_gmap (c : Cohort) (ls : Lanes) : (c.endPart ls).gmap = c.gmap := Cohort.release_gmap ..
@[simp] theorem Cohort.endPart_waiting (c : Cohort) (ls : Lanes) : (c.endPart ls).waiting = c.waiting &&& ~~~ls :=
  Cohort.release_waiting ..

/-- A donor without its top g granules. -/
def Cohort.gives (d : Cohort) (g : Nat) : Cohort :=
  { d with
    valloc := d.valloc - g
    gmap := (List.range g).foldl (fun m i => Machine.tset 0 m (d.valloc - g + i) 0) d.gmap }

/-- A recipient with a donor's top g granules after its own. -/
def Cohort.takes (e d : Cohort) (g : Nat) : Cohort :=
  { e with
    gmap := (List.range g).foldl (fun m i => Machine.tset 0 m (e.valloc + i) (tget 0 d.gmap (d.valloc - g + i))) e.gmap
    valloc := e.valloc + g }

theorem Cohort.gives_gmap (d : Cohort) (g : Nat) {j : Nat} (kept : j < d.valloc - g) : tget 0 (d.gives g).gmap j = tget 0 d.gmap j :=
  (tget_foldl_tset_range ..).trans (if_neg (by omega))

theorem Cohort.takes_gmap_own (e d : Cohort) (g : Nat) {j : Nat} (own : j < e.valloc) : tget 0 (e.takes d g).gmap j = tget 0 e.gmap j :=
  (tget_foldl_tset_range ..).trans (if_neg (by omega))

theorem Cohort.takes_gmap_new (e d : Cohort) (g : Nat) {j : Nat} (new : j < g) :
    tget 0 (e.takes d g).gmap (e.valloc + j) = tget 0 d.gmap (d.valloc - g + j) := by
  refine (tget_foldl_tset_range ..).trans ((if_pos (by omega)).trans ?_)
  rw [Nat.add_sub_cancel_left]

/-- 05 R96: the two cohorts of a donation after it. -/
theorem State.coh_tryDonation {s : State} {tid x y : Nat} {hd he : HwRec} (resident : (s.team tid).place = .resident)
    (donor : (s.coh tid x).part = some hd) (recipient : (s.coh tid y).part = some he) (pair : paired x y hd he = true)
    (same : he.imm / 32 = hd.imm / 32) (landed : s.regBusy tid x (8 * ((s.coh tid x).valloc - hd.imm / 32)) (8 * (s.coh tid x).valloc) = false)
    (two : x ≠ y) :
    (s.tryDonation tid x y).coh tid x = ((s.coh tid x).gives (hd.imm / 32)).endPart hd.lanes ∧
    (s.tryDonation tid x y).coh tid y = ((s.coh tid y).takes (s.coh tid x) (hd.imm / 32)).endPart he.lanes := by
  have moved : s.tryDonation tid x y =
      (((s.setCoh tid y ((s.coh tid y).takes (s.coh tid x) (hd.imm / 32))).setCoh tid x ((s.coh tid x).gives (hd.imm / 32))).modCoh tid x
        (fun c => c.endPart hd.lanes)).modCoh tid y (fun c => c.endPart he.lanes) := by
    simp only [State.tryDonation, donor, recipient, pair, same, resident, landed, bne_self_eq_false, Bool.not_true, Bool.or_self,
      Bool.false_eq_true, if_false]
    rfl
  rw [moved]
  simp [State.modCoh_eq, State.coh_setCoh, two, two.symm]

-- timeouts (07 R134, R138; 09 R171) ----------------------------------------------------------------------------------------------

/-- A cohort whose `waitm` record k has expired: its lanes are expected again and go on, its predicate is false. -/
def Cohort.timesOut (c : Cohort) (k : Nat) (h : HwRec) : Cohort :=
  let c := c.mset h.ma (c.mget h.ma ||| h.lanes)
  let c := if h.ps = 0 then c else c.pset (h.ps - 1) h.lanes 0
  { c with hw := tdel k c.hw }.release h.lanes

theorem State.expire_of_expired {s : State} {tid coh k : Nat} {h : HwRec}
    (stands : (s.coh tid coh).hw.find? (fun e => e.1 = k) = some (k, h)) (waits : h.kind = 1) (expired : h.remain = 1) :
    s.expire tid coh k = s.modCoh tid coh (fun c => c.timesOut k h) := by
  simp only [State.expire, stands, waits, expired, decide_true, Bool.and_self, if_true]
  rfl

theorem State.expire_of_ended {s : State} {tid coh k : Nat} (ended : (s.coh tid coh).hw.find? (fun e => e.1 = k) = none) :
    s.expire tid coh k = s := by
  simp only [State.expire, ended]

theorem State.expireBar_of_expired {s : State} {tid : Nat} (isOpen : (s.team tid).bar.isOpen = true)
    (bounded : (s.team tid).bar.bounded = true) (expired : (s.team tid).bar.remain = 1) :
    s.expireBar tid = (List.range (s.team tid).launch.n).foldl (fun u c => u.barFault tid c (s.team tid).bar.mreg)
      (s.modTeam tid (fun t => { t with bar := t.bar.ended })) :=
  if_pos (by simp only [isOpen, bounded, expired, decide_true, Bool.and_self])

theorem State.expireBar_of_ended {s : State} {tid : Nat} (ended : (s.team tid).bar.isOpen = false) : s.expireBar tid = s :=
  if_neg (by simp only [ended, Bool.false_and, Bool.false_eq_true, not_false_eq_true])

section Events
variable {s : State} (resident : (s.team (s.arg 0)).place = .resident)
include resident

/-- 09 R171: what the clock completes comes before a `waitm`'s timeout. -/
theorem exec_waitmTimeout : exec .waitmTimeout s = .next ((s.settle (s.arg 0)).expire (s.arg 0) (s.arg 1) (s.arg 2)) :=
  congrArg _ (if_pos resident)

/-- 09 R171: what the clock completes comes before the barrier's timeout. -/
theorem exec_barrierTimeout : exec .barrierTimeout s = .next ((s.settle (s.arg 0)).expireBar (s.arg 0)) := congrArg _ (if_pos resident)

theorem exec_granuleReturn (retired : (s.coh (s.arg 0) (s.arg 1)).retired = true) (held : s.arg 2 < (s.coh (s.arg 0) (s.arg 1)).valloc)
    (new : s.arg 2 ∉ (s.coh (s.arg 0) (s.arg 1)).returned)
    (landed : s.regBusy (s.arg 0) (s.arg 1) (8 * s.arg 2) (8 * s.arg 2 + 8) = false) :
    exec .granuleReturn s = .next (s.modCoh (s.arg 0) (s.arg 1) (fun c => { c with returned := s.arg 2 :: c.returned })) :=
  congrArg _ (if_pos (by simp [resident, retired, held, new, landed]))

theorem exec_corruptedTileFault {x : Nat × Nat} {xs : List (Nat × Nat)} (tiles : (s.coh (s.arg 0) (s.arg 1)).tiles = x :: xs)
    (runnable : (s.coh (s.arg 0) (s.arg 1)).runnable.getLsbD (s.arg 2) = true)
    (header : fld (tget 0 (s.coh (s.arg 0) (s.arg 1)).pc (s.arg 2)) 60 4 = 0) :
    exec .corruptedTileFault s =
      let pc := tget 0 (s.coh (s.arg 0) (s.arg 1)).pc (s.arg 2)
      .next ((s.modCoh (s.arg 0) (s.arg 1) (fun c => { c with tiles := xs })).programFault (s.arg 0) (s.arg 1)
        ((s.coh (s.arg 0) (s.arg 1)).group (s.arg 2)) pc pc (tileFault x)) := by
  change execCorruptedTileFault s = _
  simp only [execCorruptedTileFault, tiles, runnable, header, resident, decide_true, Bool.and_self, if_true]

end Events

-- the words of the sys class (05 R92; 09 R166) -----------------------------------------------------------------------------------

theorem exec_mfsr_of_some {s : State} {r n : Nat} {v : BitVec 64} (read : s.sysRead n = some v) :
    exec (.mfsr r n) s = if isCounter n && (s.fenced s.G true || s.acqPending s.G) then .next s else .next ((s.sset r v).done true) := by
  change execMfsr r n s = _
  simp only [execMfsr, read]

theorem exec_mfsr_of_none {s : State} {r n : Nat} (unassigned : s.sysRead n = none) : exec (.mfsr r n) s = .next s.illegal := by
  change execMfsr r n s = _
  simp only [execMfsr, unassigned]

/-- 05 R92: `mtsr` writes FPFLAGS, SRSEED, MVRATIO, HANGCTL and TRAPPC alone. -/
theorem State.sysWrite_eq_none {s : State} {n : Nat} {v : BitVec 64} (flags : n ≠ 0x008) (seed : n ≠ 0x009) (ratio : n ≠ 0x00A)
    (hang : n ≠ 0x021) (trap : n ≠ 0x070) : s.sysWrite n v = none := by
  rw [State.sysWrite, if_neg flags, if_neg seed, if_neg ratio, if_neg hang, if_neg trap]

theorem exec_mtsr_of_some {s t : State} {r n : Nat} (write : s.sysWrite n (s.sget r) = some t) : exec (.mtsr r n) s = .next t.done := by
  change execMtsr r n s = _
  simp only [execMtsr, write]

theorem exec_mtsr_of_none {s : State} {r n : Nat} (unwritable : s.sysWrite n (s.sget r) = none) :
    exec (.mtsr r n) s = .next s.illegal := by
  change execMtsr r n s = _
  simp only [execMtsr, unwritable]

/-- A cohort that returns from its handler: some lanes go to an address. -/
def Cohort.leavesHandler (c : Cohort) (g : Lanes) (back : BitVec 64) (stklim : Nat) : Cohort :=
  { (c.note false) with
    trapstat := false
    stkcur := stklim
    pc := (lanesOf g).foldl (fun t l => Machine.tset 0 t l back) c.pc }

theorem Cohort.leavesHandler_pc (c : Cohort) (g : Lanes) (back : BitVec 64) (stklim l : Nat) :
    tget 0 (c.leavesHandler g back stklim).pc l = if l < 32 && g.getLsbD l then back else tget 0 c.pc l := by
  refine (foldl_tmod_get 0 (fun _ => back) (lanesOf g) (nodup_lanesOf g) c.pc l).trans ?_
  simp only [mem_lanesOf, Bool.and_eq_true, decide_eq_true_eq]

theorem exec_tret_of_handler {s : State} (handler : s.me.now.trapstat = true) :
    exec .tret s = .next (s.modMe (fun c => c.leavesHandler s.G s.me.now.trappc s.myTeam.launch.stklim)) :=
  if_neg (by simp only [handler, Bool.not_true, Bool.false_eq_true, not_false_eq_true])

theorem exec_tret_of_outside {s : State} (outside : s.me.now.trapstat = false) : exec .tret s = .next s.illegal :=
  if_pos (by simp only [outside, Bool.not_false])

@[simp] theorem me_modMe (s : State) (f : Cohort → Cohort) : (s.modMe f).me = f s.me := coh_modCoh_self ..

end Sys2Proof.Machine

namespace Sys2Proof.Claims
open Sys2Proof.Machine

/-- 05 R95, R96; 07 R134, R138; 09 R171. -/
theorem cohortWaitsEnd : CohortWaitsEnd := by
  intro s tid x y here s c q d b
  have resident : (s.team (s.arg 0)).place = .resident := here
  refine ⟨?_, fun h stands waits expired => ?_, fun ended => ?_, fun isOpen bounded expired => ?_, fun ended => ?_,
    fun retired held new landed => exec_granuleReturn resident retired held new landed⟩
  · intro hd he donor recipient pair same g e landed _ two
    obtain ⟨gave, took⟩ := State.coh_tryDonation (tid := tid) resident donor recipient pair same landed two
    refine ⟨s.tryDonation tid x y, rfl, ?_⟩
    rw [gave, took]
    simp only [Cohort.endPart_valloc, Cohort.endPart_waiting, Cohort.endPart_gmap]
    exact ⟨rfl, rfl, rfl, rfl, fun _ => c.gives_gmap g, fun _ => e.takes_gmap_own c g, fun _ => e.takes_gmap_new c g⟩
  · exact (exec_waitmTimeout resident).trans (congrArg _ (State.expire_of_expired stands waits expired))
  · exact (exec_waitmTimeout resident).trans (congrArg _ (State.expire_of_ended ended))
  · exact (exec_barrierTimeout resident).trans (congrArg _ (State.expireBar_of_expired isOpen bounded expired))
  · exact (exec_barrierTimeout resident).trans (congrArg _ (State.expireBar_of_ended ended))

/-- 02 R40, R42; 20 R305. -/
theorem hangsAndTilesAreReported : HangsAndTilesAreReported := by
  intro s tid coh l x xs s t c pc gs pcs resident
  refine ⟨fun once stood => ?_, fun tiles runnable header => exec_corruptedTileFault resident tiles runnable header⟩
  have due : (decide (t.place = .resident) && !c.hangrep && decide (2 ^ fld c.hangctl 0 6 ≤ c.hangcnt.toNat)) = true := by
    simp only [resident, once, stood, decide_true, Bool.not_false, Bool.and_self]
  exact congrArg _ ((if_pos due).trans rfl)

/-- 09 R166; 05 R92 to R94; 24 R343, R345. -/
theorem systemRegisterWords : SystemRegisterWords := by
  intro s r n x set
  refine ⟨fun v read ordered => ?_, fun v read counter waits => ?_, fun unassigned => exec_mfsr_of_none unassigned,
    rfl, rfl, rfl, rfl, rfl, rfl, rfl, rfl, ?_, exec_mtsr_of_some rfl, exec_mtsr_of_some rfl, exec_mtsr_of_some rfl,
    exec_mtsr_of_some rfl, exec_mtsr_of_some rfl,
    fun flags seed ratio hang trap => exec_mtsr_of_none (State.sysWrite_eq_none flags seed ratio hang trap)⟩
  · refine (exec_mfsr_of_some read).trans (if_neg fun held => ?_)
    obtain ⟨counter, waits⟩ := Bool.and_eq_true_iff.mp held
    obtain ⟨unfenced, acquired⟩ := ordered counter
    rw [unfenced, acquired] at waits
    cases waits
  · refine (exec_mfsr_of_some read).trans (if_pos ?_)
    rw [counter, Bool.true_and, Bool.or_eq_true]
    exact waits
  · change some (BitVec.ofNat 64 (nbit s.me.now.trapstat)) = _
    cases s.me.now.trapstat <;> rfl

/-- 09 R166; 03 R59. -/
theorem tretAndFencei : TretAndFencei := by
  intro s stores
  refine ⟨fun outside => exec_tret_of_outside outside, fun handler => ?_, fun landed => ?_, fun unfinished => ?_⟩
  · refine ⟨_, exec_tret_of_handler handler, stays_modCoh .., fun _ => rfl, ?_⟩
    rw [me_modMe]
    exact ⟨rfl, rfl, Cohort.leavesHandler_pc _ _ _ _, rfl, rfl, rfl, rfl, rfl⟩
  · exact if_pos (List.isEmpty_iff.mpr landed)
  · exact if_neg (mt List.isEmpty_iff.mp unfinished)

end Sys2Proof.Claims

open Sys2Proof Sys2Proof.Machine Sys2Proof.Claims

/-- Settles O40: what a donation leaves in its two cohorts (`State.coh_tryDonation`), and each other event by its condition. -/
theorem cohortEventsSettle : Obligations.CohortEventsSettle := ⟨cohortWaitsEnd, hangsAndTilesAreReported⟩

/-- Settles O29, by what `sysRead` and `sysWrite` name, and by whether the group is in a handler or has stores open. -/
theorem systemWords : Obligations.SystemWords := ⟨systemRegisterWords, tretAndFencei⟩
end

section
/-!
SUPPORT. The alu class (06 R103 to R127): what the end of a word leaves alone, what words with flags can do, and the state after each word
whose registers are in the allocation; the frames of the words and their results.
-/
namespace Sys2Proof.Machine

-- the end of a word --------------------------------------------------------------------------------------------------------------

@[simp] theorem core_done (s : State) (spin : Bool) (n : Nat) : (s.done spin).core n = s.core n := rfl

theorem stays_modMe (s : State) (g : Cohort → Cohort) : Stays s.cur.tid s.cur.coh s (s.modMe g) := stays_modCoh ..

/-- The core that holds a group's registers is not changed by what its own cohort does. -/
theorem Stays.myTeam_core {s t : State} (h : Stays s.cur.tid s.cur.coh s t) : t.myTeam.core = s.myTeam.core := by
  rw [State.myTeam, h.cur]
  exact h.teamCore _

/-- A v register reads alike where the group, its granule map and the register files are alike. -/
theorem Stays.v_eq {s t : State} (h : Stays s.cur.tid s.cur.coh s t) (rf : ∀ n, t.core n = s.core n) {l r : Nat}
    (key : t.me.rfKey l r = s.me.rfKey l r) : t.v l r = s.v l r := by
  change tget 0 (t.core t.myTeam.core).rf (t.me.rfKey l r) = tget 0 (s.core s.myTeam.core).rf (s.me.rfKey l r)
  rw [key, h.myTeam_core, rf]

/-- The end of a word changes no v register. -/
@[simp] theorem v_done (s : State) (spin : Bool) (l r : Nat) : (s.done spin).v l r = s.v l r := by
  obtain ⟨stays, coh, _, _⟩ := done_spec s spin
  exact stays.v_eq (core_done s spin) (by rw [← rfKey_butPc _ s.me, coh])

theorem butPc_s (c d : Cohort) : (c.butPc d).s = c.s := rfl
theorem butPc_p (c d : Cohort) : (c.butPc d).p = c.p := rfl
theorem butPc_fpflags (c d : Cohort) : (c.butPc d).fpflags = c.fpflags := rfl

@[simp] theorem me_done_s (s : State) (spin : Bool) : (s.done spin).me.s = s.me.s := by
  rw [← butPc_s _ s.me, (done_spec s spin).2.1]
@[simp] theorem me_done_p (s : State) (spin : Bool) : (s.done spin).me.p = s.me.p := by
  rw [← butPc_p _ s.me, (done_spec s spin).2.1]
@[simp] theorem me_done_fpflags (s : State) (spin : Bool) : (s.done spin).me.fpflags = s.me.fpflags := by
  rw [← butPc_fpflags _ s.me, (done_spec s spin).2.1]

@[simp] theorem me_done_pget (s : State) (spin : Bool) (r : Nat) : (s.done spin).me.pget r = s.me.pget r := by
  simp only [Cohort.pget, me_done_p]

-- floating words (04 R88) ----------------------------------------------------------------------------------------------------------

/-- From s to t the issuing cohort's FPFLAGS and stochastic states may change, and nothing else. -/
structure ChangesFloat (s t : State) : Prop where
  stays : Stays s.cur.tid s.cur.coh s t
  rf : ∀ n, t.core n = s.core n
  coh : t.me.butFloat s.me = s.me

theorem ChangesFloat.modMe {s t : State} (h : ChangesFloat s t) {g : Cohort → Cohort} (float : ∀ c d, (g c).butFloat d = c.butFloat d) :
    ChangesFloat s (t.modMe g) where
  stays := h.stays.trans (h.stays.cur ▸ stays_modMe t g)
  rf := h.rf
  coh := by rw [me_modMe, float, h.coh]

theorem changesFloat_orFlags (s : State) (x : BitVec 32) : ChangesFloat s (s.orFlags x) :=
  ChangesFloat.modMe ⟨Stays.refl .., fun _ => rfl, rfl⟩ (fun _ _ => rfl)

theorem ChangesFloat.pc {s t : State} (h : ChangesFloat s t) : t.me.pc = s.me.pc := (congrArg Cohort.pc h.coh :)

theorem ChangesFloat.v {s t : State} (h : ChangesFloat s t) (l r : Nat) : t.v l r = s.v l r :=
  h.stays.v_eq h.rf (congrArg (fun c => Cohort.rfKey c l r) h.coh :)

/-- A cohort's fields after a write, a change of FPFLAGS and the end of the word, one after the other. -/
theorem butPc_butFloat_of_steps {c written flagged ended : Cohort} (hended : ended.butPc flagged = flagged)
    (hflagged : flagged.butFloat written = written) (hwritten : written.putPre c.pre = c) : (ended.butPc c).butFloat c = c :=
  calc (ended.butPc c).butFloat c
    _ = ((((ended.butPc flagged).butFloat written).putPre c.pre).butPc c).butFloat c := rfl
    _ = c := by rw [hended, hflagged, hwritten]; rfl

/-- From s to t register d of the lanes ls has got the values of f, and FPFLAGS their flags. -/
structure FloatWrites (s t : State) (d : Nat) (ls : Lanes) (f : Nat → BitVec 128 × BitVec 32) : Prop where
  change : ChangesFloat (s.eachV ls d (fun l => (f l).1)) t
  flags : t.me.fpflags = s.me.fpflags ||| (lanesOf ls).foldl (fun a l => a ||| (f l).2) 0

theorem floatWrites_eachVF (s : State) (d : Nat) (ls : Lanes) (f : Nat → BitVec 128 × BitVec 32) :
    FloatWrites s (s.eachVF ls d f) d ls f where
  change := changesFloat_orFlags ..
  flags := by
    have kept : (s.eachV ls d (fun l => (f l).1)).me.fpflags = s.me.fpflags :=
      (congrArg Cohort.fpflags (eachV_writes s ls d (fun l => (f l).1)).me :)
    rw [State.eachVF, State.orFlags, me_modMe, kept]

section FloatWrites
variable {s t : State} {d : Nat} {ls : Lanes} {f : Nat → BitVec 128 × BitVec 32}

/-- The stochastic states are neither v registers nor flags. -/
theorem FloatWrites.modMe (h : FloatWrites s t d ls f)
    {g : Cohort → Cohort} (float : ∀ c d, (g c).butFloat d = c.butFloat d) (flags : ∀ c, (g c).fpflags = c.fpflags) :
    FloatWrites s (t.modMe g) d ls f where
  change := h.change.modMe float
  flags := by rw [me_modMe, flags, h.flags]

/-- A floating word that has written and ends: everything it can do. -/
theorem FloatWrites.done (h : FloatWrites s t d ls f)
    (spin : Bool) : WritesVF s (t.done spin) d ls f := by
  have plain := vword_spec s d ls (fun l => (f l).1) spin
  have written := eachV_writes s ls d (fun l => (f l).1)
  have mid : Stays s.cur.tid s.cur.coh s t := written.stays.trans (written.stays.cur ▸ h.change.stays)
  obtain ⟨stays, coh, _, next⟩ := done_spec t spin
  refine ⟨mid.trans (mid.cur ▸ stays), fun l => ?_, butPc_butFloat_of_steps coh h.change.coh written.me,
    (me_done_fpflags t spin).trans h.flags, fun n k away => ?_, fun l low on => ?_⟩
  · rw [next l, State.G, mid.cur, h.change.pc, eachV_pc written, State.G]
  · rw [core_done, h.change.rf]
    exact plain.other n k away
  · rw [v_done, h.change.v, ← plain.lane l low on, v_done]

end FloatWrites

/-- What a fold ORs in, and what it starts from, is contained in its result. -/
theorem foldl_or_contains (f : Nat → BitVec 32) (ls : List Nat) (x : BitVec 32) :
    (ls.foldl (fun a l => a ||| f l) x &&& x = x) ∧ ∀ l ∈ ls, ls.foldl (fun a l => a ||| f l) x &&& f l = f l := by
  induction ls generalizing x with
  | nil => exact ⟨BitVec.and_self, fun l h => absurd h List.not_mem_nil⟩
  | cons m ls ih =>
    obtain ⟨start, rest⟩ := ih (x ||| f m)
    have keeps (y : BitVec 32) (below : (x ||| f m) &&& y = y) : ls.foldl (fun a l => a ||| f l) (x ||| f m) &&& y = y := by
      rw [← below, ← BitVec.and_assoc, start]
    refine ⟨keeps x (by ext; simp +contextual), fun l h => ?_⟩
    obtain rfl | h := List.mem_cons.mp h
    · exact keeps _ (by ext; simp +contextual)
    · exact rest l h

theorem or_and_contains {x y z : BitVec 32} (h : y &&& z = z) : (x ||| y) &&& z = z := by
  rw [← h]; ext; simp +contextual

-- s and predicate registers (05 R91; 03 R56) -----------------------------------------------------------------------------------------

theorem Cohort.sget_s63 (c : Cohort) : c.sget 63 = 0 := if_pos rfl

theorem Cohort.sset_s (c : Cohort) (d : Nat) (x : BitVec 64) (r : Nat) :
    tget 0 (c.sset d x).s r = if r = d ∧ d ≠ 63 then x else tget 0 c.s r := by
  unfold Cohort.sset
  split
  next h => simp [h]
  next h => simp [h, tget_tset]

theorem Cohort.sset_pc (c : Cohort) (d : Nat) (x : BitVec 64) : (c.sset d x).pc = c.pc := by
  unfold Cohort.sset; split <;> rfl

/-- A write of an s register changes no other field. -/
theorem Cohort.sset_butPc_butS (c : Cohort) (d : Nat) (x : BitVec 64) : ((c.sset d x).butPc c).butS c = c := by
  unfold Cohort.sset; split <;> rfl

theorem Cohort.pset_pget (c : Cohort) (d : Nat) (ls v : Lanes) (r l : Nat) :
    ((c.pset d ls v).pget r).getLsbD l = if r = d ∧ d ≠ 7 ∧ ls.getLsbD l = true then v.getLsbD l else (c.pget r).getLsbD l := by
  by_cases p7 : r = 7
  · subst p7; rw [Cohort.pget, if_pos rfl, Cohort.pget, if_pos rfl, if_neg fun ⟨same, named, _⟩ => named same.symm]
  · by_cases d7 : d = 7
    · rw [Cohort.pset, if_pos d7, if_neg fun ⟨_, named, _⟩ => named d7]
    · simp only [Cohort.pset, Cohort.pget, if_neg d7, if_neg p7, tget_tset]
      by_cases same : r = d
      · subst same
        by_cases on : ls.getLsbD l = true
        · simp [on, d7]
        · simpa [on, d7] using BitVec.lt_of_getLsbD
      · simp [same]

theorem Cohort.pset_pc (c : Cohort) (d : Nat) (ls v : Lanes) : (c.pset d ls v).pc = c.pc := by
  unfold Cohort.pset; split <;> rfl

theorem Cohort.pset_butPc_butP (c : Cohort) (d : Nat) (ls v : Lanes) : ((c.pset d ls v).butPc c).butP c = c := by
  unfold Cohort.pset; split <;> rfl

end Sys2Proof.Machine

namespace Sys2Proof.Claims
open Sys2Proof.Machine

-- the register checks of the alu words (03 R57) --------------------------------------------------------------------------------------

theorem checked_of_regsIn {s : State} {rs : List Nat} (k : State) (regs : RegsIn s rs) : s.checked (rs.map s.vr) k = .next k := by
  have pass : (rs.map s.vr).find? (fun c => !c.1) = none := by
    simpa [State.vr, RegsIn] using regs
  simp only [State.checked, pass]

theorem RegsIn.mono {s : State} {rs qs : List Nat} (regs : RegsIn s rs) (sub : qs ⊆ rs) : RegsIn s qs := fun r h => regs r (sub h)

/-- The state after a word whose v registers are in the allocation. -/
theorem exec_of_regsIn {i : Instr} {s k : State} {rs : List Nat} (word : exec i s = s.checked (rs.map s.vr) k) (regs : RegsIn s rs) :
    exec i s = .next k := word.trans (checked_of_regsIn k regs)

-- the alu words by the register that they write (06 R103) ------------------------------------------------------------------------------

/-- A conversion from FP32 of a fixed mode shifts its codes into VD (06 R119). -/
theorem opCvtNarrow_of_ne (s : State) {r : Nat} (d a g b : Nat) (fm : Fmt) (fixed : r ≠ 4) :
    s.opCvtNarrow d a r g b fm = s.checked ([d, a].map s.vr) (fResult s d g (fun l =>
      let codes := (four 32 (s.v l a)).map (fun c => fm.round (s.cvtMode r) (f32.decode c))
      (shiftIn b (codes.map (·.1)) (s.v l d), codes.foldl (fun x y => x ||| y.2) 0))) := by
  simp only [State.opCvtNarrow, if_neg fixed]
  rfl

/-- A stochastic one also advances the state of each thread (04 R85). -/
theorem opCvtNarrow_stochastic (s : State) (d a g b : Nat) (fm : Fmt) :
    s.opCvtNarrow d a 4 g b fm = s.checked ([d, a].map s.vr)
      (let res (l : Nat) := cvtStoch (fun m c => fm.round m (f32.decode c)) (four 32 (s.v l a)) (tget 0 s.me.sr l)
      let t := s.eachVF (s.active g) d (fun l =>
        (shiftIn b ((res l).1.map (·.1)) (s.v l d), (res l).1.foldl (fun x y => x ||| y.2) 0))
      s.guarded g (t.modMe (fun c => { c with
        sr := (lanesOf (s.active g)).foldl (fun m l => tset 0 m l (res l).2) c.sr }))) := rfl

theorem opCvtNarrow_writes (s : State) (d a r g b : Nat) (fm : Fmt) :
    ∃ t, s.opCvtNarrow d a r g b fm = s.checked ([d, a].map s.vr) t ∧ ∃ x, WritesVF s t d (s.active g) x := by
  by_cases stochastic : r = 4
  · subst stochastic
    refine ⟨_, opCvtNarrow_stochastic .., _, FloatWrites.done (FloatWrites.modMe (floatWrites_eachVF ..) ?_ ?_) _⟩
    · exact fun _ _ => rfl
    · exact fun _ => rfl
  · exact ⟨_, opCvtNarrow_of_ne s d a g b fm stochastic, _, (floatWrites_eachVF ..).done _⟩

/-- A word that writes a v register does that and ends, with flags or without. -/
theorem exec_of_vectorForm {i : Instr} {f : VForm} (s : State) (form : vectorForm i = some f) :
    ∃ t, exec i s = s.checked (f.regs.map s.vr) t ∧
      if f.isFloat then ∃ x, WritesVF s t f.d (f.lanes s) x else ∃ x, WritesV s t f.d (f.lanes s) x := by
  cases i
  case cvtF16F32 | cvtBf16F32 | cvtE2m3F32 | cvtE3m2F32 | cvtE2m1F32 | cvtS8pnF32 | cvtN8pnF32 =>
    cases form
    exact opCvtNarrow_writes ..
  case fadd | fsub | fmul | fma | frcpF32 | frsqF32 | fex2F32 | flg2F32 | cvtF32F16 | cvtF32Bf16 | cvtF32I32 | cvtF32N32 | cvtI32F32 |
      cvtN32F32 | cvtF32E2m3 | cvtF32E3m2 | cvtF32E2m1 | cvtF32S8pn | cvtF32N8pn =>
    cases form
    exact ⟨_, rfl, _, (floatWrites_eachVF ..).done _⟩
  all_goals cases form
  all_goals exact ⟨_, rfl, _, vword_spec ..⟩

/-- A word that writes an s register writes it and ends; `mfv` of no active lane ends alone (06 R113). -/
theorem exec_of_scalarForm {i : Instr} {rs : List Nat} {d : Nat} (s : State) (form : scalarForm i = some (rs, d)) :
    ∃ k, exec i s = s.checked (rs.map s.vr) k ∧ ∃ spin, k = s.done spin ∨ ∃ x, k = (s.sset d x).done spin := by
  cases i
  case mfv a b h g =>
    cases form
    refine ⟨_, rfl, ?_⟩
    split
    · exact ⟨_, .inl rfl⟩
    · exact ⟨_, .inr ⟨_, rfl⟩⟩
  all_goals cases form
  all_goals exact ⟨_, rfl, _, .inr ⟨_, rfl⟩⟩

theorem exec_of_predicateForm {i : Instr} {rs : List Nat} {d g : Nat} (s : State) (form : predicateForm i = some (rs, d, g)) :
    ∃ v, exec i s = s.checked (rs.map s.vr) (pResult s d g v) := by
  cases i <;> cases form <;> exact ⟨_, rfl⟩

-- frames (06 R103 to R127) -----------------------------------------------------------------------------------------------------------

theorem vectorWordFrame : VectorWordFrame := by
  intro i s f form regs
  obtain ⟨t, word, result⟩ := exec_of_vectorForm s form
  refine ⟨t, exec_of_regsIn word regs, ?_⟩
  by_cases float : f.isFloat = true
  · rw [if_pos float] at result ⊢
    obtain ⟨x, spec⟩ := result
    exact ⟨⟨spec.stays, spec.next⟩, spec.other, spec.coh⟩
  · rw [if_neg float] at result ⊢
    obtain ⟨x, spec⟩ := result
    exact ⟨⟨spec.stays, spec.next⟩, spec.other, spec.coh⟩

/-- What an s register holds after a word that has written one. -/
theorem sset_done_s (s : State) (d : Nat) (x : BitVec 64) (spin : Bool) (r : Nat) :
    tget 0 ((s.sset d x).done spin).me.s r = if r = d ∧ d ≠ 63 then x else tget 0 s.me.s r := by
  rw [me_done_s, State.sset, me_modMe, Cohort.sset_s]

theorem scalarWordFrame : ScalarWordFrame := by
  refine ⟨fun i s rs d form regs => ?_, fun s d x named => (sset_done_s ..).trans (if_pos ⟨rfl, named⟩), fun s => s.me.sget_s63⟩
  obtain ⟨k, word, spin, rfl | ⟨x, rfl⟩⟩ := exec_of_scalarForm s form
  · obtain ⟨stays, coh, _, next⟩ := done_spec s spin
    exact ⟨_, exec_of_regsIn word regs, ⟨stays, next⟩, core_done s spin, fun r _ => by rw [me_done_s], by rw [coh]; rfl⟩
  · obtain ⟨stays, _, coh, next⟩ := done_modMe_spec s (fun c => c.sset d x) spin (fun c => c.sset_pc d x)
    refine ⟨_, exec_of_regsIn word regs, ⟨stays, next⟩, fun n => rfl, fun r kept => ?_, ?_⟩
    · exact (sset_done_s ..).trans (if_neg fun ⟨same, named⟩ => kept.elim (· same) named)
    · rw [State.sset, coh, Cohort.sset_butPc_butS]

/-- What a predicate register holds after a word that has written one. -/
theorem pResult_pget (s : State) (d g : Nat) (v : Lanes) (r l : Nat) :
    ((pResult s d g v).me.pget r).getLsbD l =
      if r = d ∧ d ≠ 7 ∧ (s.active g).getLsbD l = true then v.getLsbD l else (s.me.pget r).getLsbD l := by
  rw [pResult, State.guarded, me_done_pget, State.pset, me_modMe, Cohort.pset_pget]

theorem predicateWordFrame : PredicateWordFrame := by
  refine ⟨fun i s rs d g form regs => ?_, fun s d g l v named on => (pResult_pget ..).trans (if_pos ⟨rfl, named, on⟩)⟩
  obtain ⟨v, word⟩ := exec_of_predicateForm s form
  obtain ⟨stays, _, coh, next⟩ := done_modMe_spec s (fun c => c.pset d (s.active g) v) true (fun c => c.pset_pc d _ v)
  refine ⟨_, exec_of_regsIn word regs, ⟨stays, next⟩, fun n => rfl, fun r l kept => ?_, ?_⟩
  · refine (pResult_pget ..).trans (if_neg fun ⟨same, named, on⟩ => ?_)
    obtain ne | p7 | off := kept
    · exact ne same
    · exact named p7
    · exact Bool.false_ne_true (off.symm.trans on)
  · rw [pResult, State.guarded, State.pset, Bool.true_or, coh, Cohort.pset_butPc_butP]

-- constants (06 R127) ------------------------------------------------------------------------------------------------------------------

theorem testBit_fld {w : Nat} (c : BitVec w) (lo n b : Nat) : (fld c lo n).testBit b = (decide (b < n) && c.getLsbD (lo + b)) := by
  rw [fld, Nat.testBit_mod_two_pow, Nat.testBit_div_two_pow, BitVec.getLsbD, Nat.add_comm]

/-- x holds the bits of c from 12 n on, as far as there are any: what is left to build of c are its low n fields of twelve bits. -/
def BuiltAbove (c : BitVec 64) (n : Nat) (x : BitVec 64) : Prop := ∀ b, 12 * n + b < 64 → x.getLsbD b = c.getLsbD (12 * n + b)

/-- The first `saddi` brings the top four bits, whatever stands above them in its immediate. -/
theorem builtAbove_saddi {c : BitVec 64} {i : Nat} (top : i % 16 = fld c 60 4) :
    BuiltAbove c 5 ((BitVec.ofNat 12 i).signExtend 64) := by
  intro b below
  have low : i.testBit b = (i % 2 ^ 4).testBit b := by
    rw [Nat.testBit_mod_two_pow, decide_eq_true (by omega), Bool.true_and]
  rw [BitVec.getLsbD_signExtend, if_pos (by omega), BitVec.getLsbD_ofNat, low, show i % 2 ^ 4 = fld c 60 4 from top,
    testBit_fld, decide_eq_true (by omega), decide_eq_true (by omega), decide_eq_true (by omega)]
  rfl

/-- Each `slui` brings the next twelve. -/
theorem builtAbove_slui {c x : BitVec 64} {n : Nat} (built : BuiltAbove c (n + 1) x) :
    BuiltAbove c n ((x <<< 12) ||| BitVec.ofNat 64 (fld c (12 * n) 12)) := by
  intro b below
  rw [BitVec.getLsbD_or, BitVec.getLsbD_shiftLeft, BitVec.getLsbD_ofNat, testBit_fld]
  by_cases field : b < 12
  · simp [field, show b < 64 by omega]
  · rw [built (b - 12) (by omega), show 12 * (n + 1) + (b - 12) = 12 * n + b by omega]
    simp [field, show b < 64 by omega]

theorem eq_of_builtAbove_zero {c x : BitVec 64} (built : BuiltAbove c 0 x) : x = c :=
  BitVec.eq_of_getLsbD_eq fun b below => by rw [built b (by omega), Nat.mul_zero, Nat.zero_add]

-- results (06 R107 to R125) --------------------------------------------------------------------------------------------------------------

/-- The width of the elements is added to the opcode (03 R65). -/
theorem a3_add (op w d a b h g : Nat) :
    a3 (op + w) d a b h g = op * 2 ^ 24 + w * 2 ^ 24 + d * 2 ^ 18 + a * 2 ^ 12 + b * 2 ^ 6 + h * 8 + g := by
  rw [a3, Nat.add_mul]

theorem bitFieldResults : BitFieldResults := by
  intro s d a b h g regs
  have two : RegsIn s [d, a] := regs.mono (by simp)
  exact ⟨exec_of_regsIn rfl two, exec_of_regsIn rfl two, exec_of_regsIn rfl two, exec_of_regsIn rfl regs, exec_of_regsIn rfl regs,
    exec_of_regsIn rfl regs, exec_of_regsIn rfl regs⟩

theorem moveAndSelectResults : MoveAndSelectResults := by
  intro s d a b h g regs
  have va : RegsIn s [a] := regs.mono (by simp)
  refine ⟨exec_of_regsIn rfl regs, exec_of_regsIn rfl (regs.mono (by simp) : RegsIn s [d, a]),
    exec_of_regsIn rfl (regs.mono (by simp) : RegsIn s [d]), fun lanes => ?_, fun idle => ?_⟩
  · exact (exec_of_regsIn rfl va).trans (congrArg _ (if_neg lanes))
  · exact (exec_of_regsIn rfl va).trans (congrArg _ (if_pos idle))

theorem floatResults : FloatResults := by
  intro s t d a b h g regs
  have two : RegsIn s [d, a] := regs.mono (by simp)
  exact ⟨exec_of_regsIn rfl regs, exec_of_regsIn rfl regs, exec_of_regsIn rfl regs, exec_of_regsIn rfl regs, exec_of_regsIn rfl regs,
    exec_of_regsIn rfl regs, exec_of_regsIn rfl two, exec_of_regsIn rfl two, exec_of_regsIn rfl two, exec_of_regsIn rfl two,
    exec_of_regsIn rfl two, exec_of_regsIn rfl two⟩

theorem conversionResults : ConversionResults := by
  intro s n d a r i h g regs wide narrow stoch
  refine ⟨exec_of_regsIn rfl regs, exec_of_regsIn rfl regs, exec_of_regsIn rfl regs, exec_of_regsIn rfl regs, exec_of_regsIn rfl regs,
    exec_of_regsIn rfl regs, exec_of_regsIn rfl regs, exec_of_regsIn rfl regs, exec_of_regsIn rfl regs, exec_of_regsIn rfl regs,
    exec_of_regsIn rfl regs, fun fixed => ?_, fun stochastic => ?_⟩
  · have narrows : ∀ {j : Instr} {b fm}, exec j s = s.opCvtNarrow d a r g b fm → exec j s = narrow b fm :=
      fun word => exec_of_regsIn (word.trans (opCvtNarrow_of_ne s d a g _ _ fixed)) regs
    exact ⟨narrows rfl, narrows rfl, narrows rfl, narrows rfl, narrows rfl, narrows rfl, narrows rfl⟩
  · subst stochastic
    have narrows : ∀ {j : Instr} {b fm}, exec j s = s.opCvtNarrow d a 4 g b fm → exec j s = stoch b fm :=
      fun word => exec_of_regsIn (word.trans (opCvtNarrow_stochastic s d a g _ _)) regs
    exact ⟨narrows rfl, narrows rfl, narrows rfl, narrows rfl, narrows rfl, narrows rfl, narrows rfl⟩

theorem crossLaneResults : CrossLaneResults := by
  intro s d a b p h g regs
  have two : RegsIn s [d, a] := regs.mono (by simp)
  have va : RegsIn s [a] := regs.mono (by simp)
  exact ⟨exec_of_regsIn rfl regs, exec_of_regsIn rfl two, exec_of_regsIn rfl two, exec_of_regsIn rfl two, exec_of_regsIn rfl two,
    rfl, rfl, rfl, rfl, exec_of_regsIn rfl va, exec_of_regsIn rfl va, exec_of_regsIn rfl va, exec_of_regsIn rfl va,
    exec_of_regsIn rfl va, exec_of_regsIn rfl va⟩

theorem elementAndImmediateResults : ElementAndImmediateResults := by
  intro s d a i regs
  refine ⟨?_, ?_, ?_, ?_, ?_, ?_, ?_, ?_, ?_, ?_, ?_, ?_, ?_, exec_of_regsIn rfl (regs.mono (by simp) : RegsIn s [d])⟩ <;>
    exact exec_of_regsIn rfl regs

end Sys2Proof.Claims

open Sys2Proof Sys2Proof.Machine Sys2Proof.Claims

/-- Settles O1: each word by its registers being in the allocation; the encodings by `a3_add`, the examples by evaluation. -/
theorem integerElementResults : Obligations.IntegerElementResults := by
  refine ⟨fun s w d a b h g width regs => ?_, fun w d a b h g => ?_, rfl, rfl, rfl, rfl, by decide, by decide, by decide, by decide⟩
  · and_intros <;> exact exec_of_regsIn rfl regs
  · and_intros <;> (rw [a3_add]; rfl)

/-- Settles O2: each word by its registers being in the allocation (`exec_of_regsIn`). -/
theorem bitwiseResults : Obligations.BitwiseResults := by
  refine ⟨fun s d a b h g regs => ?_, fun d a b h g => ⟨rfl, rfl, rfl, rfl⟩, rfl⟩
  exact ⟨exec_of_regsIn rfl regs, exec_of_regsIn rfl regs, exec_of_regsIn rfl regs, exec_of_regsIn rfl regs⟩

/-- Settles O3, with the registers that each word names; `mfv` by whether a lane is active. -/
theorem bitFieldMoveAndSelectResults : Obligations.BitFieldMoveAndSelectResults := ⟨bitFieldResults, moveAndSelectResults⟩

/-- Settles O4: the compares by their two registers; predicate logic names no v register, and nothing is checked. -/
theorem predicateResults : Obligations.PredicateResults := by
  intro s d c a b h g regs
  exact ⟨exec_of_regsIn rfl regs, exec_of_regsIn rfl regs, exec_of_regsIn rfl regs, exec_of_regsIn rfl regs, exec_of_regsIn rfl regs,
    exec_of_regsIn rfl regs, exec_of_regsIn rfl regs, rfl, rfl, rfl, rfl, rfl, rfl⟩

/-- Settles O5: a narrowing conversion by its mode (`opCvtNarrow_of_ne`, `opCvtNarrow_stochastic`). -/
theorem floatAndConversionResults : Obligations.FloatAndConversionResults := ⟨floatResults, conversionResults⟩

/-- Settles O6, with the v registers that each word names; the votes name none. -/
theorem crossLaneElementAndImmediateResults : Obligations.CrossLaneElementAndImmediateResults :=
  ⟨crossLaneResults, elementAndImmediateResults⟩

/-- Settles O7: scalar words check no register, so each is its operation by definition. -/
theorem scalarResults : Obligations.ScalarResults := by
  intro s d a b i
  and_intros <;> rfl

/-- Settles O8: a constant stands from its top down, four bits by `saddi` and twelve by each `slui` (`BuiltAbove`). -/
theorem constantsFromSaddiAndSlui : Obligations.ConstantsFromSaddiAndSlui := by
  refine ⟨fun s d a i => ⟨rfl, rfl⟩, fun d a i => ⟨rfl, rfl⟩, rfl, rfl, fun s => s.me.sget_s63, fun c i _ top => ?_, by decide⟩
  rw [show (0 : BitVec 64) + (BitVec.ofNat 12 i).signExtend 64 = (BitVec.ofNat 12 i).signExtend 64 from BitVec.zero_add _]
  exact eq_of_builtAbove_zero (builtAbove_slui (builtAbove_slui (builtAbove_slui (builtAbove_slui (builtAbove_slui
    (builtAbove_saddi top))))))

/-- Settles O9, by which register a word writes (`exec_of_vectorForm`, `exec_of_scalarForm`, `exec_of_predicateForm`). -/
theorem aluWordFrames : Obligations.AluWordFrames := ⟨vectorWordFrame, scalarWordFrame, predicateWordFrame⟩

/-- Settles O10, by what a word that writes one v register can do (`vword_spec`, `FloatWrites.done`); flags are only ORed in. -/
theorem vectorResultReadsBack : Obligations.VectorResultReadsBack := by
  refine ⟨fun s d g l f low on => (vword_spec ..).lane l low on, fun s d l f low on => (vword_spec ..).lane l low on,
    fun s d g l f low on => ?_⟩
  have spec : WritesVF s (fResult s d g f) d (s.active g) f := (floatWrites_eachVF ..).done _
  refine ⟨spec.lane l low on, ?_, ?_⟩
  · rw [spec.flags]
    exact or_and_contains ((foldl_or_contains _ _ _).2 l (mem_lanesOf.mpr ⟨low, on⟩))
  · rw [spec.flags]
    ext; simp +contextual
end

section
/-!
SUPPORT. The ctl class (07 R129 to R140): where a transfer takes each thread, the frames of calls and returns, and the cases of the words
of reconvergence, of a thread's end and of donation.
-/
namespace Sys2Proof.Machine

theorem next_congr {x y : State} (same : x = y) : (.next x : Out) = .next y := congrArg _ same

-- transfers (07 R129) ------------------------------------------------------------------------------------------------------------

/-- Each key of a list changed by a function of its own. -/
theorem tget_foldl_tmod {α : Type} [DecidableEq α] (d : α) (f : Nat → α → α) {ls : List Nat} (nodup : ls.Nodup) (t : Tab α) (i : Nat) :
    tget d (ls.foldl (fun t l => tmod d t l (f l)) t) i = if i ∈ ls then f i (tget d t i) else tget d t i := by
  induction ls generalizing t with
  | nil => simp
  | cons l ls ih =>
    obtain ⟨fresh, rest⟩ := List.nodup_cons.mp nodup
    rw [List.foldl_cons, ih rest, tget_tmod]
    by_cases here : i = l
    · subst here; simp [fresh]
    · simp [here]

@[simp] theorem Cohort.note_pc (c : Cohort) (spin : Bool) : (c.note spin).pc = c.pc := by cases spin <;> rfl
theorem Cohort.note_butPc (c d : Cohort) (spin : Bool) : (c.note spin).butPc d = c.butPc d := by cases spin <;> rfl

theorem advance_butPc (s : State) (ls : Lanes) : (s.advance ls).me.butPc s.me = s.me := by
  rw [State.advance, me_modMe]; rfl

theorem doneIn_pc (s : State) (ls : Lanes) (spin : Bool) (l : Nat) :
    tget 0 (s.doneIn ls spin).me.pc l =
      if l < 32 ∧ ls.getLsbD l = true then nextPc (tget 0 s.me.pc l) (s.cur.idx = s.cur.count) else tget 0 s.me.pc l := by
  rw [State.doneIn, me_modMe, Cohort.note_pc, advance_pc]

theorem doneIn_butPc (s : State) (ls : Lanes) (spin : Bool) : (s.doneIn ls spin).me.butPc s.me = s.me := by
  rw [State.doneIn, me_modMe, Cohort.note_butPc, advance_butPc]

theorem transfer_pc (s : State) (ls : Lanes) (f d : Nat → Nat) (spin : Bool) (l : Nat) :
    let p := tget 0 (s.doneIn (s.G &&& ~~~ls &&& ~~~s.me.parked) spin).me.pc l
    tget 0 (s.transfer ls f d spin).me.pc l = if l < 32 ∧ ls.getLsbD l = true then jumpPc p (f l) (d (fld p 52 8)) else p := by
  rw [State.transfer, me_modMe]
  simp only [tget_foldl_tmod 0 (fun l p => jumpPc p (f l) (d (fld p 52 8))) (nodup_lanesOf ls), mem_lanesOf]

theorem transfer_butPc (s : State) (ls : Lanes) (f d : Nat → Nat) (spin : Bool) : (s.transfer ls f d spin).me.butPc s.me = s.me := by
  rw [State.transfer, me_modMe]
  exact (Cohort.note_butPc _ _ (spin || ls = 0)).trans (doneIn_butPc ..)

theorem transfer_stays (s : State) (ls : Lanes) (f d : Nat → Nat) (spin : Bool) :
    Stays s.cur.tid s.cur.coh s (s.transfer ls f d spin) :=
  (stays_modMe s _).trans ((stays_modMe (s.advance _) _).trans (stays_modMe (s.doneIn _ spin) _))

-- frames of calls and returns (07 R131) ------------------------------------------------------------------------------------------

section StackFault
variable {ls : Lanes} {bad : Nat → Bool} {w : Nat → Int}

theorem stackFault_eq_none (legal : stackFault ls bad w = none) : ∀ l ∈ lanesOf ls, bad l = false := by
  simpa [stackFault] using legal

theorem stackFault_eq_some {x : FaultInfo} (fault : stackFault ls bad w = some x) : x.cause = 0x14 ∧ ∃ l ∈ lanesOf ls, bad l = true := by
  simp only [stackFault] at fault
  split at fault
  next => cases fault
  next found =>
    cases fault
    exact ⟨rfl, by simpa using found⟩

end StackFault

/-- 09 R160, stage 3, for an access whose parts all translate and that has nothing to wait for. -/
theorem translated_of_good {s : State} {need access size : Nat} {ls good : List (Nat × List Piece)}
    {k : State → List (Nat × List Piece) → State} {hold : List (Nat × List Piece) → Option State}
    (mapped : s.transAll need ls = { misses := [], bads := [], good := good }) (free : hold good = none) :
    s.translated need access size ls k hold = k s good := by
  simp [State.translated, mapped, free]

end Sys2Proof.Machine

namespace Sys2Proof.Claims
open Sys2Proof.Machine

theorem goes_transfer (s : State) (ls : Lanes) (f d : Nat → Nat) (spin : Bool) : Goes s (s.transfer ls f d spin) ls f d where
  stays := transfer_stays ..
  cores := fun _ => rfl
  me := transfer_butPc ..
  pc := fun l => by
    simp only [transfer_pc, doneIn_pc, Bool.and_eq_true, decide_eq_true_eq]
    by_cases goes : l < 32 ∧ ls.getLsbD l = true
    · have leaves : ¬(l < 32 ∧ (s.G &&& ~~~ls &&& ~~~s.me.parked).getLsbD l = true) := by simp [goes.2]
      simp only [if_pos goes, if_neg leaves]
    · simp only [if_neg goes]

/-- 07 R129, R131. -/
theorem branchesMoveThreads : BranchesMoveThreads := fun _ _ _ _ _ =>
  ⟨⟨_, rfl, goes_transfer ..⟩, ⟨_, rfl, goes_transfer ..⟩, fun regs => ⟨_, exec_of_regsIn rfl regs, goes_transfer ..⟩⟩

/-- What a return does with the frames that it loads. -/
def returned (s : State) (good : List (Nat × List Piece)) : State :=
  let ls := lanesFrom (good.map (·.1))
  let r := popFrames s good
  let got := gather [] r.2.1
  match r.2.2 with
  | some e => r.1.machineCheck s.cur.tid s.cur.coh s.herePc ls 4 e
  | none => r.1.transfer ls (fun l => ofLeBytes ((List.range 8).map (fun i => tget 0 got (8 * l + i))) % 2 ^ 52) (· - 1) false

section Frames
variable {s : State} {g : Nat} {good : List (Nat × List Piece)} (live : s.active g ≠ 0)
include live

theorem callTo_of_framesAt {f : Nat → Nat}
    (inside : ∀ l ∈ lanesOf (s.active g), fld (tget 0 s.me.pc l) 52 8 ≠ 255 ∧ 0 ≤ pushWord s l) (frames : FramesAt s g (pushWord s) good) :
    s.callTo g f = (pushFrames s good).transfer (lanesFrom (good.map (·.1))) f (· + 1) false := by
  simp only [State.callTo, if_neg live]
  split
  next x fault =>
    obtain ⟨_, l, on, outside⟩ := stackFault_eq_some fault
    obtain ⟨shallow, above⟩ := inside l on
    obtain deep | below := Bool.or_eq_true_iff.mp outside
    · exact absurd (of_decide_eq_true deep) shallow
    · exact absurd (of_decide_eq_true below) (Int.not_lt.mpr above)
  next => exact translated_of_good frames.translated frames.there

theorem callTo_of_outside {f : Nat → Nat}
    (outside : ∃ l ∈ lanesOf (s.active g), fld (tget 0 s.me.pc l) 52 8 = 255 ∨ pushWord s l < 0) :
    ∃ x : FaultInfo, x.cause = 0x14 ∧ s.callTo g f = s.raise x := by
  simp only [State.callTo, if_neg live]
  split
  next x fault => exact ⟨x, (stackFault_eq_some fault).1, rfl⟩
  next legal =>
    obtain ⟨l, on, bad⟩ := outside
    obtain ⟨shallow, above⟩ := Bool.or_eq_false_iff.mp (stackFault_eq_none legal l on)
    exact absurd bad (not_or.mpr ⟨of_decide_eq_false shallow, of_decide_eq_false above⟩)

/-- 07 R131: a return at DEPTH 0 in any lane. -/
theorem exec_ret_of_top (top : ∃ l ∈ lanesOf (s.active g), fld (tget 0 s.me.pc l) 52 8 = 0) : exec (.ret g) s = .next s.illegal :=
  next_congr ((if_neg live).trans (if_pos (by simpa using top)))

section Called
variable (called : ∀ l ∈ lanesOf (s.active g), fld (tget 0 s.me.pc l) 52 8 ≠ 0)
include called

/-- A return of lanes that have all been called finds their frames, or one of them is out of bounds. -/
theorem exec_ret_of_called :
    exec (.ret g) s = .next (match stackFault (s.active g) (fun l => popWord s l < 0) (popWord s) with
      | some x => s.raise x
      | none => s.translated 3 4 4 ((lanesOf (s.active g)).map (fun l => (l, s.framePieces l (popWord s l).toNat))) returned s.frameHold) :=
  next_congr ((if_neg live).trans (if_neg (by simpa using called)))

theorem exec_ret_of_outside (outside : ∃ l ∈ lanesOf (s.active g), popWord s l < 0) :
    ∃ x : FaultInfo, x.cause = 0x14 ∧ exec (.ret g) s = .next (s.raise x) := by
  rw [exec_ret_of_called live called]
  split
  next x fault => exact ⟨x, (stackFault_eq_some fault).1, rfl⟩
  next legal =>
    obtain ⟨l, on, below⟩ := outside
    exact absurd below (of_decide_eq_false (stackFault_eq_none legal l on))

theorem exec_ret_of_framesAt (inside : ∀ l ∈ lanesOf (s.active g), 0 ≤ popWord s l) (frames : FramesAt s g (popWord s) good) :
    exec (.ret g) s = .next (returned s good) := by
  rw [exec_ret_of_called live called]
  split
  next x fault =>
    obtain ⟨_, l, on, below⟩ := stackFault_eq_some fault
    exact absurd (of_decide_eq_true below) (Int.not_lt.mpr (inside l on))
  next => exact next_congr (translated_of_good frames.translated frames.there)

end Called
end Frames

theorem callsPushAndReturnsPop : CallsPushAndReturnsPop := by
  intro s o a h g good depth ls live
  refine ⟨fun inside frames => ⟨?_, fun regs => ?_⟩, fun inside frames => ?_, fun outside => ?_, fun top => exec_ret_of_top live top,
    fun called outside => exec_ret_of_outside live called outside⟩
  · exact next_congr (callTo_of_framesAt live inside frames)
  · exact (exec_of_regsIn rfl regs).trans (next_congr (callTo_of_framesAt live inside frames))
  · have ends := exec_ret_of_framesAt live (fun l on => (inside l on).1) (fun l on => (inside l on).2) frames
    refine ⟨fun clean => ?_, fun e bad => ?_⟩
    · rw [ends, returned, clean]
    · rw [ends, returned, bad]
  · obtain ⟨x, cause, fault⟩ := callTo_of_outside (f := fun _ => s.target o) live outside
    exact ⟨x, cause, next_congr fault⟩

-- reconvergence (07 R134, R137) ---------------------------------------------------------------------------------------------------

theorem checked_of_pass {s : State} {rs : List RegCheck} (k : State) (pass : ∀ c ∈ rs, c.1 = true) : s.checked rs k = .next k := by
  have none_ : rs.find? (fun c => !c.1) = none := by simpa using pass
  simp only [State.checked, none_]

theorem checked_mask {s : State} {a : Nat} (k : State) (ha : a < 12) : s.checked [mr a] k = .next k :=
  checked_of_pass k (by simp [mr, Nat.le_of_lt_succ ha])

theorem checked_masks {s : State} {a b : Nat} (k : State) (ha : a < 12) (hb : b < 12) : s.checked [mr a, mr b] k = .next k :=
  checked_of_pass k (by simp [mr, Nat.le_of_lt_succ ha, Nat.le_of_lt_succ hb])

theorem reconvergenceWordsUpdateMasks : ReconvergenceWordsUpdateMasks := by
  intro s a b p n k ha hb left bound wait stop
  refine ⟨checked_masks _ ha hb, checked_mask _ ha, fun place => ?_, fun full => ?_, fun isOpen other => ?_, fun agrees place => ?_⟩
  · simp only [wait, bound] at place
    change execWaitm a b p n s = _
    simp only [execWaitm, place]
    exact checked_masks _ ha hb
  · simp only [wait, bound] at full
    change execWaitm a b p n s = _
    simp only [execWaitm, full]
    exact checked_masks _ ha hb
  · exact if_pos (by simp [isOpen, other, Nat.le_of_lt_succ ha, Nat.le_of_lt_succ hb])
  · have joins : (decide (a ≤ 11) && decide (b ≤ 11) && s.myTeam.bar.isOpen && s.myTeam.bar.mreg != a) = false := by
      cases isOpen : s.myTeam.bar.isOpen <;> simp [agrees, isOpen]
    simp only [stop] at place
    change execBar a b n s = _
    simp only [execBar, joins, place]
    exact checked_masks _ ha hb

-- a thread's end (07 R132) ---------------------------------------------------------------------------------------------------------

theorem threadWordsEndOrPass : ThreadWordsEndOrPass := by
  intro s c g
  refine ⟨rfl, fun idle => ⟨next_congr (if_pos idle), next_congr (if_pos idle), next_congr (if_pos idle)⟩,
    fun live => ⟨fun outside => ?_, fun unfolding => ?_, next_congr (if_neg live), fun unarmed => ?_, fun armed => ?_⟩⟩
  · exact next_congr ((if_neg live).trans (if_neg (by simp [outside])))
  · exact next_congr ((if_neg live).trans (if_pos (by simpa [Option.isSome_iff_ne_none] using unfolding)))
  · exact next_congr ((if_neg live).trans (if_neg (by simp [unarmed])))
  · exact next_congr ((if_neg live).trans (if_pos armed))

-- donation (07 R140; 05 R97) ---------------------------------------------------------------------------------------------------------

/-- Cohort c can be the partner: another of the same team and quad. -/
def Partner (s : State) (c : Nat) : Prop := c ≠ s.cur.coh ∧ c < s.myTeam.launch.n ∧ c % 4 = s.cur.coh % 4

/-- The cohort's part is not open, or open for the same kind, partner and count. -/
def PartAgrees (s : State) (kind imm : Nat) : Prop := ∀ o, s.me.part = some o → o.kind = kind ∧ o.imm = imm

section Donation
variable {s : State} {kind g c : Nat}

theorem donation_of_not_partner (bad : ¬Partner s c) : s.donation kind g c = .next s.illegal := by
  refine next_congr (if_pos ?_)
  simp only [Partner] at bad
  simp only [Bool.or_eq_true, decide_eq_true_eq, bne_iff_ne]
  omega

theorem donation_of_other {o : HwRec} (part : s.me.part = some o) (other : o.kind ≠ kind ∨ o.imm ≠ g * 32 + c) :
    s.donation kind g c = .next s.illegal := by
  refine next_congr (if_pos ?_)
  simp [part, other]

/-- A donation of a partner: its count decides, then whether the partner has retired, then whether a record is to be had. -/
theorem donation_of_partner (partner : Partner s c) (agrees : PartAgrees s kind (g * 32 + c)) :
    let h : HwRec := { kind := kind, lanes := s.G, imm := g * 32 + c }
    s.donation kind g c = .next (
      if (kind = 3 && (g = 0 || s.me.alloc ≤ g)) || (kind = 4 && 8 < s.me.alloc + g) then s.draw.1.badReg (fld s.draw.2 0 16)
      else if (s.coh s.cur.tid c).retired then s.illegal
      else match s.me.hwPlace h with
        | none => s
        | some k => s.arriveAt k h) := by
  refine next_congr (if_neg ?_)
  obtain ⟨other, present, quad⟩ := partner
  cases part : s.me.part with
  | none => simp [other, present, quad]
  | some o => simp [other, present, quad, agrees o part]

end Donation

theorem donationWordsWait : DonationWordsWait := by
  intro s isDonate g c k i h legal
  have word : exec i s = s.donation h.kind g c := by cases isDonate <;> rfl
  rw [word]
  refine ⟨fun ⟨o, part, other⟩ => donation_of_other part other, fun bad => donation_of_not_partner bad, fun partner agrees beyond => ?_,
    fun partner agrees within stands place => ?_⟩
  · refine (donation_of_partner partner agrees).trans (next_congr (if_pos ?_))
    cases isDonate <;> simpa [h] using beyond
  · refine (donation_of_partner partner agrees).trans (next_congr ((if_neg ?_).trans ((if_neg ?_).trans ?_)))
    · cases isDonate
      · simpa [h] using within
      · simpa [h, Nat.pos_iff_ne_zero] using within
    · simp [stands]
    · simp only [h] at place
      simp only [h, place]

end Sys2Proof.Claims

open Sys2Proof Sys2Proof.Machine Sys2Proof.Claims

/-- Settles O17: every transfer by `goes_transfer`; calls and returns by where their frames lie. -/
theorem branchesCallsAndReturns : Obligations.BranchesCallsAndReturns := ⟨branchesMoveThreads, callsPushAndReturnsPop⟩

/-- Settles O18: each word by its condition; a donation of a legal partner by its count, its partner and its record (`donation_of_partner`). -/
theorem reconvergenceAndThreadWords : Obligations.ReconvergenceAndThreadWords :=
  ⟨reconvergenceWordsUpdateMasks, threadWordsEndOrPass, donationWordsWait⟩
end

section
/-!
SUPPORT. The matrix queue's head (08 R145, R150 to R156): what its reads of the run and of the active plane come to when nothing is wrong in
them, the steps of a stream by its rows, what `azero` leaves, and the statements that they settle.
-/
namespace Sys2Proof.Machine

-- accumulators (08 R156) ------------------------------------------------------------------------------------------------------------------

/-- What a table reads when the entries at some keys have been removed. -/
theorem tget_filter_key {α : Type} (d : α) (keep : Nat → Bool) (t : Tab α) (i : Nat) :
    tget d (t.filter (fun e => keep e.1)) i = if keep i then tget d t i else d := by
  induction t with
  | nil => simp [tget]
  | cons e t ih =>
    obtain ⟨k, v⟩ := e
    by_cases here : k = i
    · subst here
      cases kept : keep k <;> simp [tget, kept, ih]
    · cases kept : keep k <;> simp [tget, kept, here, ih]

/-- Rows o to o + m - 1 of an accumulator are the places from its row o's first to before its row o + m's first. -/
theorem accKey_mem_rows {a b o m row col : Nat} (fits : o + m ≤ 128) (hr : row < 128) (hc : col < 256) :
    (accKey a o 0 ≤ accKey b row col ∧ accKey b row col < accKey a (o + m) 0) ↔ (b = a ∧ o ≤ row ∧ row < o + m) := by
  unfold accKey
  omega

/-- A core whose accumulator a has rows o to o + m - 1 made 0. -/
def Core.zeroRows (c : Core) (a o m : Nat) : Core :=
  { c with acc := c.acc.filter (fun x => !(accKey a o 0 ≤ x.1 && x.1 < accKey a (o + m) 0)) }

theorem Core.zeroRows_acc (c : Core) {a b o m row col : Nat} (fits : o + m ≤ 128) (hr : row < 128) (hc : col < 256) :
    tget 0 (c.zeroRows a o m).acc (accKey b row col) =
      if b = a ∧ o ≤ row ∧ row < o + m then 0 else tget 0 c.acc (accKey b row col) := by
  refine (tget_filter_key 0 (fun k => !(accKey a o 0 ≤ k && k < accKey a (o + m) 0)) c.acc _).trans ?_
  have kept : (!(accKey a o 0 ≤ accKey b row col && accKey b row col < accKey a (o + m) 0)) = true ↔
      ¬(b = a ∧ o ≤ row ∧ row < o + m) := by
    rw [← accKey_mem_rows fits hr hc]
    simp only [Bool.not_eq_true', ← Bool.not_eq_true, Bool.and_eq_true, decide_eq_true_eq]
  simp only [kept, ite_not]

end Sys2Proof.Machine

namespace Sys2Proof.Claims
open Sys2Proof.Machine

-- what the head waits for and reads (08 R145; 10 R182) ------------------------------------------------------------------------------

theorem onRows_of_rowsAt {s : State} {core : Nat} {e : MEntry} {x : Tile} {n : Nat} (k : State → State)
    (delivered : RowsAt (s.core core) e x n) : s.onRows core e x n k = k s := if_pos delivered

/-- An operation that is no stream reads the bytes of its run alone. -/
theorem sensed_of_run {s v : State} {e : MEntry} {rs : List (Nat × Nat)} (k : State → State) (runOnly : e.mop.streams = false)
    (clean : Sensed s e rs v) : s.sensed e rs k = k v := by
  unfold Sensed at clean
  simp only [State.sensed, runOnly, clean]
  rfl

/-- A stream also reads the active plane. -/
theorem sensed_of_stream {s u v : State} {e : MEntry} {rs : List (Nat × Nat)} (k : State → State) (stream : e.mop.streams = true)
    (clean : Sensed s e rs u) (plane : u.sensePlane (s.team e.tid).core (s.team e.tid).vf = (v, none)) : s.sensed e rs k = k v := by
  unfold Sensed at clean
  simp only [State.sensed, stream, clean, if_true, plane]
  rfl

-- streams by their rows (08 R145, R154; 25 R357) ---------------------------------------------------------------------------------------

section StreamOn
variable {s : State} {core m : Nat} {e : MEntry} {x : Tile} {k : State → State}

theorem streamOn_of_all (all : m ≤ e.row) : s.streamOn core e x m k = k s := if_pos all

/-- In a clock of the matrix duty a stream with rows to come takes its next row or begins to wait for it. -/
theorem streamOn_of_duty (more : e.row < m) (duty : s.clk % 16 < s.md) :
    let chis := e.chis.getD ((s.core core).chan x.wpch).chis
    s.streamOn core e x m k =
      if x.wpg && !(rowReady (s.core core) x e.row chis) then s.modCore core (fun c => c.setHead { e with chis := some chis })
      else
        ((s.modCore core (fun c => c.setHead { e with row := e.row + 1, chis := none })).count core 0x0B 4 1).headIn core
          (if e.row + 1 = m then 40 else if fmtGroup x.fmt = 4 || fmtGroup x.fmt = 5 then 2 else 1) :=
  (if_neg (Nat.not_le.mpr more)).trans (if_neg (Nat.not_le.mpr duty))

theorem takesRows_of_streamOn {i : Instr} (goes : exec i s = .next (s.streamOn core e x m k)) : TakesRows i s core e x m := by
  refine fun more duty => ⟨fun ready => ?_, fun waits absent => ?_⟩
  · have delivered : (x.wpg && !(rowReady (s.core core) x e.row (e.chis.getD ((s.core core).chan x.wpch).chis))) = false := by
      rcases ready with free | ready
      · rw [free, Bool.false_and]
      · rw [ready, Bool.not_true, Bool.and_false]
    rw [goes, streamOn_of_duty more duty, delivered]
    simp only [Bool.false_eq_true, if_false, Bool.or_eq_true, decide_eq_true_eq]
  · rw [goes, streamOn_of_duty more duty, waits, absent]
    rfl

/-- A stream that has all its rows, and meets nothing wrong in them and in the active plane, ends. -/
theorem ends_of_streamOn {i : Instr} {u v : State} {rs : List (Nat × Nat)} {k : State → State → State} (stream : e.mop.streams = true)
    (goes : exec i s = .next (s.streamOn core e x m (fun s => s.sensed e rs (k s)))) (all : m ≤ e.row) (clean : Sensed s e rs u)
    (plane : u.sensePlane (s.team e.tid).core (s.team e.tid).vf = (v, none)) : exec i s = .next (k s v) := by
  rw [goes, streamOn_of_all all, sensed_of_stream _ stream clean plane]

end StreamOn

-- the head, by its operation (08 R150 to R156) --------------------------------------------------------------------------------------------

section Head
variable {s : State} {core : Nat} {e : MEntry} (here : s.arg 0 = core) (head : s.mhead core = some e)
include here head

/-- A `wload` fills the shadow plane from its beginning on, unless a delivery lands there. -/
theorem exec_wloadFill {t : Nat} {x : Tile} (op : e.mop = .wload t x) (clear : s.landing core (fun b => b.into 0) = false) :
    let rows := min x.rows (groupDepth (fmtGroup x.fmt))
    let scales := if x.scl then (List.range ((rows + x.blk - 1) / x.blk)).map (fun q => (x.sbase + q * x.sstride, min x.cols 256)) else []
    exec .wloadFill s = .next (
      if !e.filling then
        s.onRows core e x rows (fun s =>
          ((s.endRefill core 0).modCore core (fun c => c.setHead { e with filling := true })).headIn core (fillClocks x))
      else
        s.sensed e ((List.range rows).map (fun i => (x.base + i * x.rstride, x.rowBytes)) ++ scales) (fun v =>
          let u := (v.modCore core (fun c => { c with shadow := v.loadPlane (v.team e.tid) x })).mendPlaces core (planePlace 0) (2 ^ 17)
          ((u.modPl e.tid (fun p => if p = 1 then 0 else p)).modTeam e.tid (fun u => u.setTile t ((u.tile t).setPl 1))).mdone core e)) := by
  subst here
  change execWloadFill s = _
  simp only [execWloadFill, head, op, clear, Bool.false_eq_true, if_false]

theorem exec_mstreamExecute {a t m o : Nat} {x : Tile} {ovr : Bool} (op : e.mop = .mstream a t x m o ovr) (free : s.refilling core = false) :
    exec .mstreamExecute s = .next (s.streamOn core e x m (fun s =>
      let p := (s.core core).active
      s.sensed e (rowRanges x m) (fun v =>
        (v.runStream core (v.team e.tid) x ovr (fmtGroup x.fmt != 0 && fmtGroup x.fmt = fmtGroup p.fmt)
          (streamRow a o (groupDepth (fmtGroup p.fmt))) m).mdone core e))) := by
  subst here
  change execMstreamExecute s = _
  simp only [execMstreamExecute, head, op, free, Bool.false_eq_true, if_false]

theorem exec_mbatchExecute {t m : Nat} {x : Tile} {ovr : Bool} (op : e.mop = .mbatch t x m ovr) (free : s.refilling core = false) :
    exec .mbatchExecute s = .next (s.streamOn core e x m (fun s =>
      let p := (s.core core).active
      let g := fmtGroup x.fmt
      s.sensed e (rowRanges x m) (fun v =>
        (v.runStream core (v.team e.tid) x ovr
          ((g = 1 || g = 2) && g = fmtGroup p.fmt && !(x.scl && x.blk = 32) && !(p.scl && p.blk) && x.cols = 256) batchRow m).mdone core e))) := by
  subst here
  change execMbatchExecute s = _
  simp only [execMbatchExecute, head, op, free, Bool.false_eq_true, if_false]

theorem exec_astoreExecute {a t m o : Nat} {x : Tile} (op : e.mop = .astore a t x m o) :
    exec .astoreExecute s = .next (s.takes core e m (fun s =>
      let rows := (List.range m).map (fun r => packRow (x.base + r * x.rstride) (if x.fmt = 0 then 32 else fmtBits x.fmt)
        ((List.range (min x.cols 256)).map (fun n => storeCode x (tget 0 (s.core core).acc (accKey a (o + r) n)))))
      (s.runWrite (s.team e.tid) 3 (rows.flatten.filter (fun w => w.addr < (s.team e.tid).launch.opbuf))).mdone core e)) := by
  subst here
  change execAstoreExecute s = _
  simp only [execAstoreExecute, head, op]

theorem exec_azeroExecute {a m o : Nat} (op : e.mop = .azero a m o) :
    exec .azeroExecute s = .next (s.takes core e ((m + 15) / 16) (fun s => (s.modCore core (fun c => c.zeroRows a o m)).mdone core e)) := by
  subst here
  change execAzeroExecute s = _
  simp only [execAzeroExecute, head, op]
  rfl

end Head

/-- 08 R150 to R152. -/
theorem planeOperationsExecute : PlaneOperationsExecute := by
  intro s core e here head clear
  have arg : here.arg 0 = core := rfl
  refine ⟨fun t x op => ⟨fun idle delivered => ?_, fun filling v clean => ?_⟩, fun op => ?_⟩
  · rw [exec_wloadFill arg head op clear, idle, Bool.not_false, if_pos rfl, onRows_of_rowsAt _ delivered]
  · rw [exec_wloadFill arg head op clear, filling, Bool.not_true, if_neg Bool.false_ne_true]
    exact congrArg _ (sensed_of_run _ (by rw [op]; rfl) clean)
  · change execWswapExecute here = _
    simp only [execWswapExecute, arg, head, op, clear, Bool.false_eq_true, if_false]

/-- 08 R145, R153 to R155; 24 R346; 25 R357. -/
theorem streamsExecute : StreamsExecute := by
  intro s core e u v here p head free
  have arg : here.arg 0 = core := rfl
  refine ⟨fun a t x m o ovr op => ?_, fun t x m ovr op => ?_⟩
  · have goes := exec_mstreamExecute arg head op free
    exact ⟨takesRows_of_streamOn goes, ends_of_streamOn (by rw [op]; rfl) goes⟩
  · have goes := exec_mbatchExecute arg head op free
    exact ⟨takesRows_of_streamOn goes, ends_of_streamOn (by rw [op]; rfl) goes⟩

/-- 08 R156. -/
theorem accumulatorOperationsExecute : AccumulatorOperationsExecute := by
  intro s core e here acc begins head
  have arg : here.arg 0 = core := rfl
  refine ⟨fun a row cv h sc vd lanes op => ?_, fun a t x m o op => ?_, fun a m o op => ?_⟩
  · change execAreadExecute here = _
    simp only [execAreadExecute, arg, head, op]
    rfl
  · have goes := exec_astoreExecute arg head op
    exact ⟨fun first => goes.trans (congrArg _ (if_pos first)), fun later => goes.trans (congrArg _ (if_neg later))⟩
  · have goes := exec_azeroExecute arg head op
    refine ⟨fun first => goes.trans (congrArg _ (if_pos first)), fun later =>
      ⟨here.modCore core (fun c => c.zeroRows a o m), goes.trans (congrArg _ (if_neg later)), ?_, fun b row col fits hr hc => ?_⟩⟩
    · simp only [State.modCore_eq, State.core_setCore_self]
      rfl
    · rw [State.modCore_eq, State.core_setCore_self, Core.zeroRows_acc _ fits hr hc]

end Sys2Proof.Claims

open Sys2Proof Sys2Proof.Machine Sys2Proof.Claims

/-- Settles O38: each operation by what its head waits for, and reads that meet nothing wrong (`sensed_of_run`, `sensed_of_stream`); the rows of
an `azero` by their places (`accKey_mem_rows`). -/
theorem matrixQueueExecutes : Obligations.MatrixQueueExecutes :=
  ⟨planeOperationsExecute, streamsExecute, accumulatorOperationsExecute⟩
end

section
/-!
SUPPORT. The words of the mtx class (08 R141 to R156): the conditions of tile records, the acceptance into the matrix queue, streams by
record and gate, the group that passes a gated stream's header, and the statements that they settle.
-/
namespace Sys2Proof.Machine

-- tile records (08 R144) ------------------------------------------------------------------------------------------------------------

theorem boardsOf_eq_nil {c : Core} {f : BoardSlot → Bool} (clear : ∀ e ∈ c.boards, f e.2 = false) : c.boardsOf f = [] := by
  refine List.filter_eq_nil_iff.mpr fun e mem => ?_
  rw [clear e mem, Bool.and_false]
  exact Bool.false_ne_true

theorem disarm_of_none {s : State} {core : Nat} {f : BoardSlot → Bool} (clear : ∀ e ∈ (s.core core).boards, f e.2 = false) :
    s.disarm core f = s := by
  have idle : (s.core core).boardsOf (fun b => f b && b.quit = 0) = [] :=
    boardsOf_eq_nil fun e mem => by rw [clear e mem, Bool.false_and]
  rw [State.disarm, idle]
  rfl

@[simp] theorem disarm_cur (s : State) (core : Nat) (f : BoardSlot → Bool) : (s.disarm core f).cur = s.cur :=
  foldl_keeps (fun u : State => u.cur = s.cur) _ _ _ rfl fun _ _ _ same => same

section TileWords
variable {s : State} {t : Nat}

/-- The range and the record that `tresv` takes: aligned, in the run, of a record that is not valid, and met by no valid record's. -/
def TresvLegal (s : State) (t l o : Nat) (fresh : Tile) : Prop :=
  o % 2 ^ l = 0 ∧ o + 2 ^ l ≤ s.myTeam.launch.opbuf / 4096 ∧ (s.myTeam.tile t).valid = false ∧
    ∀ y ∈ tvals s.myTeam.t, y.valid = true → fresh.meets y = false

theorem tresvLegal_iff {l o : Nat} {fresh : Tile} :
    TresvLegal s t l o fresh ↔ (o % 2 ^ l != 0 || s.myTeam.launch.opbuf / 4096 < o + 2 ^ l || (s.myTeam.tile t).valid ||
      (tvals s.myTeam.t).any (fun (y : Tile) => y.valid && fresh.meets y)) = false := by
  simp [TresvLegal, and_assoc]

/-- A `tfree` of a valid record that no queued operation names. -/
theorem exec_tfree_of_unnamed (valid : (s.myTeam.tile t).valid = true)
    (unnamed : ∀ e ∈ s.myCore.mq, e.tid = s.cur.tid → e.mop.names t = false) :
    let w := s.disarm s.myTeam.core (fun b => b.toTile s.cur.tid t)
    exec (.tfree t) s = .next
      (if ((w.core s.myTeam.core).boardsOf (fun b => b.toTile s.cur.tid t)).isEmpty then (w.setTile t 0).done else w) := by
  have idle : s.myCore.mq.any (fun e => e.tid = s.cur.tid && e.mop.names t) = false := by
    simpa using unnamed
  change execTfree t s = _
  simp only [execTfree, valid, idle, Bool.not_true, Bool.false_eq_true, if_false, disarm_cur]

/-- A `tfree` of a record that nothing names. -/
theorem exec_tfree_of_free (valid : (s.myTeam.tile t).valid = true)
    (unnamed : ∀ e ∈ s.myCore.mq, e.tid = s.cur.tid → e.mop.names t = false)
    (unboarded : ∀ e ∈ (s.core s.myTeam.core).boards, e.2.toTile s.cur.tid t = false) : exec (.tfree t) s = .next (s.setTile t 0).done := by
  rw [exec_tfree_of_unnamed valid unnamed, disarm_of_none (f := fun b => b.toTile s.cur.tid t) unboarded,
    boardsOf_eq_nil (f := fun b => b.toTile s.cur.tid t) unboarded]
  rfl

theorem exec_tfree_of_named (valid : (s.myTeam.tile t).valid = true)
    (named : ∃ e ∈ s.myCore.mq, e.tid = s.cur.tid ∧ e.mop.names t = true) : exec (.tfree t) s = .next s := by
  have busy : s.myCore.mq.any (fun e => e.tid = s.cur.tid && e.mop.names t) = true := by
    simpa using named
  change execTfree t s = _
  simp only [execTfree, valid, busy, Bool.not_true, Bool.false_eq_true, if_false, if_true]

/-- A `tset` of a valid record from an image in the run, whose bytes it reads with nothing wrong among them. -/
theorem exec_tset_of_read {i : Nat} {u : State} (valid : (s.myTeam.tile t).valid = true) (inside : 64 * i + 64 ≤ s.myTeam.launch.opbuf)
    (clean : s.senseRun s.myTeam 3 (64 * i) 64 = (u, none)) :
    let img : Tile := BitVec.ofNat 512 (ofLeBytes (s.runRead s.myTeam 3 (64 * i) 64))
    let x : Tile := setFld (setFld (Tile.setPl (setFld img 0 1 1) 0) 64 21 (s.myTeam.tile t).base) 96 22 (s.myTeam.tile t).len
    exec (.tset t i) s = .next (if img &&& ~~~tileBits != 0 || !(Tile.ok x) then u.illegal else (u.setTile t x).done) := by
  have fits : (!(s.myTeam.tile t).valid || decide (s.myTeam.launch.opbuf < 64 * i + 64)) = false := by
    rw [valid, decide_eq_false (Nat.not_lt.mpr inside)]
    rfl
  change execTset t i s = _
  simp only [execTset, fits, clean, Bool.false_eq_true, if_false]

end TileWords

-- acceptance into the matrix queue (08 R141, R146) -----------------------------------------------------------------------------------

/-- How many ranges an operation locks does not depend on its number. -/
theorem tileLocks_length (s : State) (t : Tile) (kind op : Nat) : (s.tileLocks t kind op).length = (s.tileLocks t kind 0).length := by
  simp only [State.tileLocks]
  split
  · rfl
  · split <;> rfl

end Sys2Proof.Machine

namespace Sys2Proof.Claims
open Sys2Proof.Machine

/-- The queue, the flag or the range-lock table has no room. -/
def QueueFull (s : State) (flag n : Nat) : Prop :=
  64 ≤ s.myCore.mq.length ∨ s.flagFree flag = false ∨ s.myCore.freeLocks n = none

section Acceptance
variable {s : State} {flag n : Nat} {ks : List Nat} {dest : Dest} {mop : MOp} {f : Nat → List RLock} (len : ∀ op, (f op).length = n)
include len

theorem enqueue_of_takes (k : State → State) (takes : QueueTakes s flag n ks) :
    s.enqueue flag s.G dest 1 mop f k = (k (accepted s flag dest mop f ks)).done := by
  have room : (decide (64 ≤ s.myCore.mq.length) || !(s.flagFree flag)) = false := by
    rw [decide_eq_false (Nat.not_le.mpr takes.room), takes.flag]
    rfl
  simp only [State.enqueue, room, len, takes.locks, Bool.false_eq_true, if_false]
  rfl

theorem enqueue_of_full (k : State → State) (full : QueueFull s flag n) : s.enqueue flag s.G dest 1 mop f k = s := by
  by_cases room : (decide (64 ≤ s.myCore.mq.length) || !(s.flagFree flag)) = true
  · simp only [State.enqueue, room, if_true]
  · have locks : s.myCore.freeLocks n = none := by
      rcases full with long | held | locks
      · exact absurd (by rw [decide_eq_true long]; rfl) room
      · exact absurd (by rw [held, Bool.not_false, Bool.or_true]) room
      · exact locks
    simp only [State.enqueue, room, len, locks, Bool.false_eq_true, if_false]

end Acceptance

/-- The accumulators' words in a team that owns them (08 R141). -/
theorem checked_acc {s : State} (k : State) (a : Nat) (acc : s.myTeam.launch.acc = true) : s.checked [s.ar a] k = .next k :=
  checked_of_pass k (by simp [State.ar, acc])

theorem checked_acc_v {s : State} (k : State) {a d : Nat} (acc : s.myTeam.launch.acc = true) (reg : RegsIn s [d]) :
    s.checked [s.ar a, s.vr d] k = .next k :=
  checked_of_pass k (by simpa [State.ar, State.vr, acc, RegsIn] using reg)

-- streams by their record and their gate (08 R149, R154, R155) -----------------------------------------------------------------------------

/-- A stream of m rows of record t that is no illegal instruction: gated only as the first word of its clause. -/
structure StreamFits (s : State) (t g m : Nat) : Prop where
  first : g = 1 → s.cur.idx = 1
  valid : (s.myTeam.tile t).valid = true
  rows : m ≤ (s.myTeam.tile t).rows

section Stream
variable {s : State} {t k g m : Nat} {mop : MOp}

theorem stream_of_illegal (bad : (g = 1 ∧ s.cur.idx ≠ 1) ∨ (s.myTeam.tile t).valid = false ∨ (s.myTeam.tile t).rows < m) :
    s.stream t k g m mop = s.illegal := if_pos (by simpa [or_assoc] using bad)

theorem stream_of_fits (fits : StreamFits s t g m) :
    s.stream t k g m mop =
      if g = 1 && !(gateOpen (s.myTeam.kreg k)) then s.toHeader
      else s.enqueue s.cur.setb s.G .none 1 mop (fun op => s.tileLocks (s.myTeam.tile t) 0 op) (fun s => if g = 1 then s.modK k passGate else s) :=
  if_neg (by simpa [fits.valid, fits.rows] using fits.first)

theorem stream_of_closed (fits : StreamFits s t g m) (gated : g = 1) (closed : gateOpen (s.myTeam.kreg k) = false) :
    s.stream t k g m mop = s.toHeader := (stream_of_fits fits).trans (if_pos (by simp [gated, closed]))

section Open
variable (fits : StreamFits s t g m) (isOpen : g = 1 → gateOpen (s.myTeam.kreg k) = true)
include fits isOpen

theorem stream_of_open :
    s.stream t k g m mop =
      s.enqueue s.cur.setb s.G .none 1 mop (fun op => s.tileLocks (s.myTeam.tile t) 0 op) (fun s => if g = 1 then s.modK k passGate else s) :=
  (stream_of_fits fits).trans (if_neg (by simpa using isOpen))

theorem stream_of_takes {ks : List Nat} (takes : QueueTakes s s.cur.setb (s.tileLocks (s.myTeam.tile t) 0 0).length ks) :
    let gate (s : State) : State := if g = 1 then s.modK k passGate else s
    s.stream t k g m mop = (gate (accepted s s.cur.setb .none mop (s.tileLocks (s.myTeam.tile t) 0) ks)).done :=
  (stream_of_open fits isOpen).trans (enqueue_of_takes (tileLocks_length s _ 0) _ takes)

theorem stream_of_full (full : QueueFull s s.cur.setb (s.tileLocks (s.myTeam.tile t) 0 0).length) : s.stream t k g m mop = s :=
  (stream_of_open fits isOpen).trans (enqueue_of_full (tileLocks_length s _ 0) _ full)

end Open
end Stream

-- the words of a team that owns the accumulators --------------------------------------------------------------------------------------------

section Words
variable {s : State} (acc : s.myTeam.launch.acc = true)
include acc

theorem exec_mstream {t a k v g o m : Nat} (fits : 16 * o + rowsOf m ≤ 128) :
    exec (.mstream t a k v g o m) s =
      .next (s.stream t k g (rowsOf m) (.mstream a t (s.myTeam.tile t) (rowsOf m) (16 * o) (v = 1))) :=
  (if_neg (Nat.not_lt.mpr fits)).trans (checked_acc _ a acc)

theorem exec_mbatch {t k v g m : Nat} (some_ : 0 < m) (few : m ≤ 64) :
    exec (.mbatch t k v g m) s = .next (s.stream t k g m (.mbatch t (s.myTeam.tile t) m (v = 1))) :=
  (if_neg (by simp [Nat.pos_iff_ne_zero.mp some_, few])).trans (checked_acc _ 0 acc)

theorem exec_astore {t a o m : Nat} (fits : 16 * o + rowsOf m ≤ 128) :
    exec (.astore t a o m) s = .next (
      if !(s.myTeam.tile t).valid || (s.myTeam.tile t).rows < rowsOf m then s.illegal
      else s.enqueue s.cur.setb s.G .none 1 (.astore a t (s.myTeam.tile t) (rowsOf m) (16 * o))
        (fun op => s.tileLocks (s.myTeam.tile t) 1 op) id) :=
  (if_neg (Nat.not_lt.mpr fits)).trans (checked_acc _ a acc)

theorem exec_astore_of_rows {t a o m : Nat} (fits : 16 * o + rowsOf m ≤ 128) (valid : (s.myTeam.tile t).valid = true)
    (rows : rowsOf m ≤ (s.myTeam.tile t).rows) :
    exec (.astore t a o m) s = .next (s.enqueue s.cur.setb s.G .none 1 (.astore a t (s.myTeam.tile t) (rowsOf m) (16 * o))
      (fun op => s.tileLocks (s.myTeam.tile t) 1 op) id) :=
  (exec_astore acc fits).trans (next_congr (if_neg (by simp [valid, rows])))

theorem exec_azero {a o m : Nat} (fits : 16 * o + rowsOf m ≤ 128) :
    exec (.azero a o m) s = .next (s.enqueue 12 s.G .none 1 (.azero a (rowsOf m) (16 * o)) (fun _ => []) id) :=
  (if_neg (Nat.not_lt.mpr fits)).trans (checked_acc _ a acc)

theorem exec_aread {r a q c d h e : Nat} (reg : RegsIn s [d]) :
    exec (.aread r a q c d h e) s =
      .next (s.enqueue s.cur.seta s.G (.regs d 1) 1 (.aread a (8 * r + q) c h e d s.G) (fun _ => []) id) := checked_acc_v _ acc reg

theorem exec_wload (t : Nat) :
    exec (.wload t) s =
      .next (s.enqueue s.cur.setb s.G .none 1 (.wload t (s.myTeam.tile t)) (fun op => s.tileLocks (s.myTeam.tile t) 2 op) id) :=
  checked_acc _ 0 acc

theorem exec_wswap : exec .wswap s = .next (s.enqueue 12 s.G .none 1 .wswap (fun _ => []) id) := checked_acc _ 0 acc

end Words

/-- 08 R141, R146, R149 to R156. -/
theorem matrixWordsEnterTheQueue : MatrixWordsEnterTheQueue := by
  intro s t a k v g o m r q c d h e ks acc x n none_
  have unlocked (op : Nat) : (none_ op).length = 0 := rfl
  refine ⟨fun takes => ?_, fun takes => ⟨?_, fun fits => ?_⟩, fun takes reg => ?_, fun valid rows fits takes => ?_,
    fun valid isOpen takes => ⟨fun rows fits => ?_, fun some_ few rows => ?_⟩⟩
  · exact (exec_wload acc t).trans (next_congr (enqueue_of_takes (tileLocks_length s x 2) id takes))
  · exact (exec_wswap acc).trans (next_congr (enqueue_of_takes unlocked id takes))
  · exact (exec_azero acc fits).trans (next_congr (enqueue_of_takes unlocked id takes))
  · exact (exec_aread acc reg).trans (next_congr (enqueue_of_takes unlocked id takes))
  · exact (exec_astore_of_rows acc fits valid rows).trans (next_congr (enqueue_of_takes (tileLocks_length s x 1) id takes))
  · exact (exec_mstream acc fits).trans
      (next_congr (stream_of_takes ⟨fun gated => (isOpen gated).1, valid, rows⟩ (fun gated => (isOpen gated).2) takes))
  · exact (exec_mbatch acc some_ few).trans
      (next_congr (stream_of_takes ⟨fun gated => (isOpen gated).1, valid, rows⟩ (fun gated => (isOpen gated).2) takes))

/-- 08 R141, R146, R149, R154 to R156. -/
theorem matrixWordsWaitOrAreIllegal : MatrixWordsWaitOrAreIllegal := by
  intro s t a k v g o m r q c d h e x n full
  have unlocked (op : Nat) : (([] : List RLock)).length = 0 := rfl
  refine ⟨fun beyond => ⟨if_pos beyond, if_pos beyond, if_pos beyond⟩, fun bad => if_pos (by simpa using bad), fun acc =>
    ⟨fun fits bad => ?_, fun some_ few bad => ?_, fun fits bad => ?_, fun busy => ?_, fun busy => ⟨?_, fun fits => ?_⟩, fun busy reg => ?_,
      fun valid rows fits busy => ?_, fun valid first => ⟨fun rows fits => ⟨fun gated closed => ?_, fun isOpen busy => ?_⟩,
        fun some_ few rows => ⟨fun gated closed => ?_, fun isOpen busy => ?_⟩⟩⟩⟩
  · exact (exec_mstream acc fits).trans (next_congr (stream_of_illegal bad))
  · exact (exec_mbatch acc some_ few).trans (next_congr (stream_of_illegal bad))
  · exact (exec_astore acc fits).trans (next_congr (if_pos (by simpa using bad)))
  · exact (exec_wload acc t).trans (next_congr (enqueue_of_full (tileLocks_length s x 2) id busy))
  · exact (exec_wswap acc).trans (next_congr (enqueue_of_full unlocked id busy))
  · exact (exec_azero acc fits).trans (next_congr (enqueue_of_full unlocked id busy))
  · exact (exec_aread acc reg).trans (next_congr (enqueue_of_full unlocked id busy))
  · exact (exec_astore_of_rows acc fits valid rows).trans (next_congr (enqueue_of_full (tileLocks_length s x 1) id busy))
  · exact (exec_mstream acc fits).trans (next_congr (stream_of_closed ⟨first, valid, rows⟩ gated closed))
  · exact (exec_mstream acc fits).trans (next_congr (stream_of_full ⟨first, valid, rows⟩ isOpen busy))
  · exact (exec_mbatch acc some_ few).trans (next_congr (stream_of_closed ⟨first, valid, rows⟩ gated closed))
  · exact (exec_mbatch acc some_ few).trans (next_congr (stream_of_full ⟨first, valid, rows⟩ isOpen busy))

-- gated streams (08 R146, R149; 07 R129) -----------------------------------------------------------------------------------------------------

/-- A word that streams behind the gate k. -/
inductive GatedStream (k : Nat) : Instr → Prop
  | mstream (t a v o m : Nat) : GatedStream k (.mstream t a k v 1 o m)
  | mbatch (t v m : Nat) : GatedStream k (.mbatch t k v 1 m)

/-- A group that has passed its clause's header, at the clause's first word x at address a (07 R129). -/
def pastHeader (u : State) (a x : Nat) : State :=
  { u.passHeader with cur := { u.passHeader.cur with addr := a, idx := 1, word := x } }

/-- Passing a header leaves the team's convergence registers as they are. -/
theorem kreg_pastHeader (u : State) (a x k : Nat) : (pastHeader u a x).myTeam.kreg k = u.myTeam.kreg k := by
  have team : ((u.passHeader).team u.cur.tid).butCohs u.myTeam = u.myTeam := (stays_modMe u _).team
  change tget 0 (((u.passHeader).team u.cur.tid).butCohs u.myTeam).k k = _
  rw [team]
  rfl

/-- A group at a header whose WAIT is met, before a gated stream whose gate is open, passes it where the stream moves it on. -/
theorem exec_gateAccept_of_open {s t u v : State} {y b a w c x k : Nat} {i : Instr}
    (header : s.issue (tget 0 (s.core (s.team (s.arg 0)).core).ports (s.coh (s.arg 0) (s.arg 1)).quad) (s.arg 0) (s.arg 1) (s.arg 2) =
      .run (.clauseHeader y b a w 2 c) t)
    (may : t.myTeam.launch.mayRun t.cur.coh 2 = true) (clear : t.me.flagsClear w = true) (tiles : t.me.tiles = [])
    (word : t.fetch ((t.cur.addr + 4) % 2 ^ 52) = .word x u) (isOpen : gateOpen (u.myTeam.kreg k) = true) (dec : decode 2 x = .ok i)
    (gated : GatedStream k i) (accepts : exec i (pastHeader u ((t.cur.addr + 4) % 2 ^ 52) x) = .next v)
    (moves : (v.coh (s.arg 0) (s.arg 1)).stands (u.passHeader.coh (s.arg 0) (s.arg 1)) = false) : exec .gateAccept s = .next v := by
  have met : (!(t.myTeam.launch.mayRun t.cur.coh 2) || !(t.me.flagsClear w) || !t.me.tiles.isEmpty) = false := by
    rw [may, clear, tiles]
    rfl
  change execGateAccept s = _
  simp only [execGateAccept, header, met, word, Bool.false_eq_true, if_false, dec]
  cases gated with
  | mstream j r q o m =>
    have accepts : execMstream j r k q 1 o m (pastHeader u ((t.cur.addr + 4) % 2 ^ 52) x) = .next v := accepts
    rw [pastHeader] at accepts
    simp only [isOpen, accepts, moves, Bool.false_eq_true, if_true, if_false]
  | mbatch j q m =>
    have accepts : execMbatch j k q 1 m (pastHeader u ((t.cur.addr + 4) % 2 ^ 52) x) = .next v := accepts
    rw [pastHeader] at accepts
    simp only [isOpen, accepts, moves, Bool.false_eq_true, if_true, if_false]

end Sys2Proof.Claims

open Sys2Proof Sys2Proof.Machine Sys2Proof.Claims

/-- Settles O19: the tile words by the record, the range (`tresvLegal_iff`) and what names the record; `kset` by definition. -/
theorem tileAndConvergenceWords : Obligations.TileAndConvergenceWords := by
  intro s u t l o i n k old fresh legal img img' rows
  refine ⟨fun ok => next_congr (if_neg ?_), fun bad => next_congr (if_pos ?_), fun free =>
      ⟨next_congr (if_pos ?_), next_congr (if_pos ?_), next_congr (if_pos ?_)⟩,
    fun valid unnamed unboarded => ?_, fun valid named => exec_tfree_of_named valid named,
    fun valid unnamed => ⟨fun stands => ?_, fun gone => ?_⟩,
    fun beyond => next_congr (if_pos ?_), fun valid inside clean => ⟨fun bits ok => ?_, fun bad => ?_⟩, fun valid ok => next_congr (if_neg ?_),
    rfl, rfl, rfl⟩
  · exact Bool.eq_false_iff.mp (tresvLegal_iff.mp ok)
  · exact (Bool.not_eq_false _).mp (mt tresvLegal_iff.mpr bad)
  · rw [free, Bool.not_false]
  · rw [free, Bool.not_false, Bool.true_or]
  · rw [free, Bool.not_false, Bool.true_or]
  · exact exec_tfree_of_free valid unnamed unboarded
  · exact (exec_tfree_of_unnamed valid unnamed).trans (next_congr (if_neg (by rw [stands]; exact Bool.false_ne_true)))
  · exact (exec_tfree_of_unnamed valid unnamed).trans (next_congr (if_pos gone))
  · simp [beyond]
  · refine (exec_tset_of_read valid inside clean).trans (next_congr (if_neg (Bool.eq_false_iff.mp ?_)))
    rw [ok, Bool.not_true, Bool.or_false]
    exact bne_eq_false_iff_eq.mpr bits
  · exact (exec_tset_of_read valid inside clean).trans (next_congr (if_pos (by simpa using bad)))
  · simpa [old, rows] using ⟨valid, ok⟩

/-- Settles O20: each word of a team that owns the accumulators by its operands, then by the queue's room (`enqueue_of_takes`,
`enqueue_of_full`); a stream also by its record and its gate. -/
theorem matrixWordsAreAccepted : Obligations.MatrixWordsAreAccepted := ⟨matrixWordsEnterTheQueue, matrixWordsWaitOrAreIllegal⟩

/-- Settles O39: the gate lets the group pass the header (`exec_gateAccept_of_open`), and the stream is accepted as at its own place. -/
theorem gatedStreamsAreAccepted : Obligations.GatedStreamsAreAccepted := by
  intro s tid coh lane y b a w c x k j r q o m t u ks s port z i stream header may clear tiles word isOpen
  have gate : gateOpen (z.myTeam.kreg k) = true := (congrArg gateOpen (kreg_pastHeader u _ x k)).trans isOpen
  refine ⟨fun dec fits => ?_, fun dec some_ few => ?_⟩ <;> intro acc valid rows takes v moves
  · refine exec_gateAccept_of_open header may clear tiles word isOpen dec (.mstream ..) ?_ moves
    exact (exec_mstream acc fits).trans (next_congr (stream_of_takes ⟨fun _ => rfl, valid, rows⟩ (fun _ => gate) takes))
  · refine exec_gateAccept_of_open header may clear tiles word isOpen dec (.mbatch ..) ?_ moves
    exact (exec_mbatch acc some_ few).trans (next_congr (stream_of_takes ⟨fun _ => rfl, valid, rows⟩ (fun _ => gate) takes))
end

section
/-!
SUPPORT. Program faults (09 R158, R161, R164, R165): the entry into a handler, what the end of a team's operations leaves of the cores, and the
termination of a team; and the statement that they settle.
-/
namespace Sys2Proof.Machine
open Sys2Proof.Claims

-- the entry into a handler (09 R164) ---------------------------------------------------------------------------------------------

/-- A cohort whose group grp enters its handler, from the record's words ws, to return to `back`. -/
def Cohort.entersHandler (c : Cohort) (grp : Lanes) (back : BitVec 64) (l : Launch) (ws : List Nat) : Cohort :=
  { c with
    s := (List.range 7).foldl (fun r i => Machine.tset 0 r (56 + i) (BitVec.ofNat 64 (ws.getD i 0))) c.s
    trappc := back
    trapstat := true
    stkcur := l.privw
    waiting := c.waiting &&& ~~~grp
    last := c.last &&& ~~~grp
    pc := (lanesOf grp).foldl (fun r i => Machine.tset 0 r i (BitVec.ofNat 64 (fld l.trapvec 0 52))) c.pc }

section Handler
variable {c : Cohort} {grp : Lanes} {back : BitVec 64} {l : Launch} {ws : List Nat}

theorem Cohort.entersHandler_saved {i : Nat} (low : i < 7) :
    tget 0 (c.entersHandler grp back l ws).s (56 + i) = BitVec.ofNat 64 (ws.getD i 0) := by
  refine (tget_foldl_tset_range ..).trans ((if_pos (by omega)).trans ?_)
  rw [Nat.add_sub_cancel_left]

theorem Cohort.entersHandler_kept {r : Nat} (other : r < 56 ∨ 62 < r) : tget 0 (c.entersHandler grp back l ws).s r = tget 0 c.s r :=
  (tget_foldl_tset_range ..).trans (if_neg (by omega))

theorem Cohort.entersHandler_pc (i : Nat) : tget 0 (c.entersHandler grp back l ws).pc i =
    if i < 32 && grp.getLsbD i then BitVec.ofNat 64 (fld l.trapvec 0 52) else tget 0 c.pc i := by
  refine (foldl_tmod_get 0 (fun _ => BitVec.ofNat 64 (fld l.trapvec 0 52)) (lanesOf grp) (nodup_lanesOf grp) c.pc i).trans ?_
  simp only [mem_lanesOf, Bool.and_eq_true, decide_eq_true_eq]

end Handler

section Fault
variable {s : State} {tid coh : Nat} {grp : Lanes} {pc back : BitVec 64} {x : FaultInfo}

theorem State.programFault_of_handler (armed : (s.team tid).launch.trapvec ≠ 0) (outside : (s.coh tid coh).trapstat = false) :
    s.programFault tid coh grp pc back x = s.setCoh tid coh ((s.coh tid coh).entersHandler grp back (s.team tid).launch
      (s.faultWords tid coh pc (if groupCause x.cause then { x with lanes := grp } else x) false)) :=
  if_neg (by simp only [armed, outside, decide_false, Bool.or_self, Bool.false_eq_true, not_false_eq_true])

theorem State.programFault_of_unhandled (unhandled : (s.team tid).launch.trapvec = 0 ∨ (s.coh tid coh).trapstat = true) :
    ∃ r, s.programFault tid coh grp pc back x = s.terminate tid r :=
  ⟨_, if_pos (by simpa only [Bool.or_eq_true, decide_eq_true_eq] using unhandled)⟩

theorem entersHandler_programFault (armed : (s.team tid).launch.trapvec ≠ 0) (outside : (s.coh tid coh).trapstat = false) :
    EntersHandler s (s.programFault tid coh grp pc back x) tid coh grp back
      (s.faultWords tid coh pc (if groupCause x.cause then { x with lanes := grp } else x) false) := by
  rw [State.programFault_of_handler armed outside]
  generalize s.faultWords .. = ws
  exact {
    stays := stays_modCoh s tid coh (fun c => c.entersHandler grp back (s.team tid).launch ws)
    cores := fun _ => rfl
    rest := by rw [State.coh_setCoh_self]; rfl
    saved := fun i low => by rw [State.coh_setCoh_self, Cohort.entersHandler_saved low]
    kept := fun r other => by rw [State.coh_setCoh_self, Cohort.entersHandler_kept other]
    trappc := by rw [State.coh_setCoh_self]; rfl
    trapstat := by rw [State.coh_setCoh_self]; rfl
    stkcur := by rw [State.coh_setCoh_self]; rfl
    waiting := by rw [State.coh_setCoh_self]; rfl
    pc := fun l => by rw [State.coh_setCoh_self, Cohort.entersHandler_pc] }

end Fault

/-- The state in which a fault is taken: a range-lock fault is counted first (24 R346). -/
def State.counted (s : State) (x : FaultInfo) : State := if x.cause = 0x15 then s.count s.myTeam.core 0x0A 4 1 else s

@[simp] theorem State.counted_cur (s : State) (x : FaultInfo) : (s.counted x).cur = s.cur := by
  unfold State.counted
  split <;> rfl

@[simp] theorem State.counted_team (s : State) (x : FaultInfo) (n : Nat) : (s.counted x).team n = s.team n := by
  unfold State.counted
  split <;> rfl

@[simp] theorem State.counted_coh (s : State) (x : FaultInfo) (n c : Nat) : (s.counted x).coh n c = s.coh n c := by
  rw [State.coh, State.counted_team, State.coh]

theorem State.raise_eq (s : State) (x : FaultInfo) :
    s.raise x = (s.counted x).programFault s.cur.tid s.cur.coh (s.G &&& ~~~s.me.parked) s.herePc s.herePc x := by
  unfold State.raise State.counted
  split <;> rfl

-- what writes by units of the module leave of a core (10 R175, R178; 25 R348) ------------------------------------------------------

/-- A core without its copies of lines and leaves, which invalidations take away. -/
def Core.bare (c : Core) : Core := { c with l1 := [], tlb := [] }

def State.bare (s : State) (n : Nat) : Core := (s.core n).bare

section Bare
variable (s : State) (n : Nat)

theorem bare_foldl {β : Type} {f : State → β → State} (keeps : ∀ s b, (f s b).bare n = s.bare n) (l : List β) :
    (l.foldl f s).bare n = s.bare n :=
  foldl_keeps (fun u : State => u.bare n = s.bare n) f l s rfl fun u b _ same => (keeps u b).trans same

@[simp] theorem bare_ite (c : Prop) [Decidable c] (t u : State) : (if c then t else u).bare n = if c then t.bare n else u.bare n :=
  apply_ite (fun v => State.bare v n) c t u

theorem bare_modCore {f : Core → Core} (k : Nat) (keeps : ∀ c, (f c).bare = c.bare) : (s.modCore k f).bare n = s.bare n := by
  rw [State.bare, State.modCore, State.core_setCore]
  split
  · next same => rw [keeps, same]; rfl
  · rfl

@[simp] theorem bare_setSlice (k : Nat) (x : Slice) : (s.setSlice k x).bare n = s.bare n := rfl
@[simp] theorem bare_setSline (pa : Nat) (l : SLine) : (s.setSline pa l).bare n = s.bare n := rfl
@[simp] theorem bare_delSline (pa : Nat) : (s.delSline pa).bare n = s.bare n := rfl
@[simp] theorem bare_setUpset (unit index place k : Nat) : (s.setUpset unit index place k).bare n = s.bare n := rfl
@[simp] theorem bare_missAt (vf pa master : Nat) : (s.missAt vf pa master).bare n = s.bare n := rfl
@[simp] theorem bare_foldWrite (pa but : Nat) : (s.foldWrite pa but).bare n = s.bare n := rfl
@[simp] theorem bare_entered (master pa : Nat) : (s.entered master pa).bare n = s.bare n := rfl
@[simp] theorem bare_fresh : s.fresh.1.bare n = s.bare n := rfl
@[simp] theorem bare_setReq (k : Nat) (r : Option Req) : (s.setReq k r).bare n = s.bare n := rfl
@[simp] theorem bare_setFn (k : Nat) (f : Fn) : (s.setFn k f).bare n = s.bare n := rfl
@[simp] theorem bare_signal (fn vector : Nat) : (s.signal fn vector).bare n = s.bare n := rfl
@[simp] theorem bare_logError (kind vf unit index addr : Nat) (copy : List Nat) :
    (s.logError kind vf unit index addr copy).bare n = s.bare n := rfl
@[simp] theorem bare_logRefusal (vf master kind : Nat) (r : Refused) : (s.logRefusal vf master kind r).bare n = s.bare n := rfl
@[simp] theorem bare_modCoh (tid coh : Nat) (f : Cohort → Cohort) : (s.modCoh tid coh f).bare n = s.bare n := rfl
@[simp] theorem bare_setOp (k : Nat) (o : Option Op) : (s.setOp k o).bare n = s.bare n := rfl
@[simp] theorem bare_unmail (id : Nat) : (s.unmail id).bare n = s.bare n := rfl

@[simp] theorem bare_mail (core slice id : Nat) : (s.mail core slice id).bare n = s.bare n := by
  unfold State.mail
  split <;> rfl

@[simp] theorem bare_toChannel (r : NReq) : (s.toChannel r).bare n = s.bare n := by
  simp only [State.toChannel]
  split <;> rfl

@[simp] theorem bare_sendWrite (d pa vf master rq : Nat) (ws : List WByte) (back bad : Bool) :
    (s.sendWrite d pa vf master rq ws back bad).bare n = s.bare n := bare_toChannel ..

@[simp] theorem bare_sense (vf unit index place addr : Nat) : (s.sense vf unit index place addr).1.bare n = s.bare n := by
  unfold State.sense
  split
  · rfl
  · split <;> rfl

@[simp] theorem bare_senseLog (vf unit index place addr : Nat) : (s.senseLog vf unit index place addr).1.bare n = s.bare n := by
  simp only [State.senseLog]
  split
  · exact (bare_logError ..).trans (bare_sense ..)
  · exact bare_sense ..

@[simp] theorem bare_cleanLine (pa : Nat) : (s.cleanLine pa).bare n = s.bare n := by
  unfold State.cleanLine
  split
  · split <;> simp
  · rfl

/-- What an invalidation takes away is no part of the bare core. -/
@[simp] theorem bare_dropCopy (dst pa : Nat) : (s.dropCopy dst pa).bare n = s.bare n := by
  unfold State.dropCopy
  split
  · refine bare_modCore s n _ fun c => ?_
    split
    · split <;> rfl
    · rfl
  · exact bare_modCore s n _ fun _ => rfl

@[simp] theorem bare_invalidate (line : Nat) (out : List Nat) : (s.invalidate line out).1.bare n = s.bare n := by
  simp only [State.invalidate]
  refine foldl_keeps (fun x : State × List Nat => x.1.bare n = s.bare n) _ _ _ rfl fun x c _ same => ?_
  exact (bare_mail ..).trans same

@[simp] theorem bare_dropAll (pa : Nat) : (s.dropAll pa).bare n = s.bare n := by
  unfold State.dropAll
  split
  · simp [bare_foldl]
  · rfl

@[simp] theorem bare_evict (pa : Nat) : (s.evict pa).bare n = s.bare n := by
  simp [State.evict]

@[simp] theorem bare_pushBack (pa : Nat) : (s.pushBack pa).bare n = s.bare n := by
  unfold State.pushBack
  refine bare_foldl s n (fun u e => ?_) _
  rfl

@[simp] theorem bare_takeWay (pa : Nat) : (s.takeWay pa).bare n = s.bare n := by
  unfold State.takeWay
  cases s.victim (s.inSet pa) <;> simp only [bare_ite, bare_setSline, bare_evict, ite_self]

@[simp] theorem bare_fill (pa cls : Nat) (whole : Bool) (vf master : Nat) : (s.fill pa cls whole vf master).bare n = s.bare n := by
  unfold State.fill
  split
  · cases s.victim (s.inSet pa) <;>
      simp only [bare_ite, bare_setUpset, bare_setSline, bare_pushBack, bare_missAt, bare_evict, ite_self]
  · rfl

@[simp] theorem bare_accept (vf pa master keep but cls : Nat) (ws : List WByte) :
    (s.accept vf pa master keep but cls ws).1.bare n = s.bare n := by
  simp only [State.accept]
  split
  · split <;> simp
  · split <;> simp

@[simp] theorem bare_pokeLine (op vf pa master : Nat) (ws : List WByte) : (s.pokeLine op vf pa master ws).1.bare n = s.bare n := by
  simp only [State.pokeLine]
  split
  · rfl
  · split
    · split <;> simp
    · simp

theorem bare_pokeBy {no : State → Refused → State} (keeps : ∀ u x, (no u x).bare n = u.bare n) (vf a : Nat) (bs : List Byte) :
    (State.pokeBy no s vf a bs).bare n = s.bare n := by
  refine bare_foldl s n (fun u x => ?_) _
  split
  · exact keeps ..
  · split
    · rfl
    · exact bare_pokeLine ..

@[simp] theorem bare_report (vf : Nat) (r : BitVec 512) : (s.report vf r).bare n = s.bare n := by
  simp only [State.report]
  split
  · rfl
  · rw [bare_signal]
    exact (bare_pokeBy _ n (fun u x => bare_logRefusal u n vf 0x111 1 x) ..).trans (bare_setFn ..)

@[simp] theorem bare_refuseAt (vf master kind : Nat) (r : Refused) : (s.refuseAt vf master kind r).bare n = s.bare n :=
  (bare_report ..).trans (bare_logRefusal ..)

@[simp] theorem bare_poke (vf a : Nat) (bs : List Byte) : (s.poke vf a bs).bare n = s.bare n :=
  bare_pokeBy s n (fun u x => bare_refuseAt u n vf 0x111 1 x) ..

@[simp] theorem bare_complete (tid c f : Nat) : (s.complete tid c f).bare n = s.bare n := by
  simp only [State.complete]
  split
  · rfl
  · split
    · split <;> simp
    · rfl

@[simp] theorem bare_endOp (id : Nat) : (s.endOp id).bare n = s.bare n := by
  unfold State.endOp
  split <;> simp

end Bare

-- termination (09 R165; 11 R201) -----------------------------------------------------------------------------------------------------

theorem mem_of_mem_skipGone {q : List CopyCmd} {w : BitVec 64} {x : CopyCmd} (left : x ∈ (skipGone q w).1) : x ∈ q := by
  induction q generalizing w with
  | nil => exact left
  | cons y ys ih =>
    unfold skipGone at left
    split at left
    · exact List.mem_cons_of_mem _ (ih left)
    · exact left

/-- No command that f selects is left, but for its tombstone. -/
theorem Core.withdraw_clears {c : Core} {f : CopyCmd → Bool} {h : Nat × Chan} {y : CopyCmd} (chan : h ∈ (c.withdraw f).chans)
    (queued : y ∈ h.2.queue) (live : y.op ≠ 0) : f y = false := by
  obtain ⟨e, -, rfl⟩ := List.mem_map.mp chan
  obtain ⟨x, -, rfl⟩ := List.mem_map.mp (mem_of_mem_skipGone queued)
  split at live
  · exact absurd rfl live
  · next spared => simp [spared]

/-- A copy command of a team that waits for a RESUME. -/
def waitsFor (tid : Nat) (x : CopyCmd) : Bool := x.tid = tid && x.wait.isSome

/-- A boarding slot after the termination of team tid: its armed request is gone, and what lands for it is cancelled. -/
def BoardSlot.endFor (b : BoardSlot) (tid : Nat) : BoardSlot :=
  if b.state != 0 && b.tid = tid then (if b.state = 2 then { b with cancel := true } else {}) else b

theorem BoardSlot.endFor_clears {b : BoardSlot} {tid : Nat} (mine : (b.endFor tid).tid = tid) :
    (b.endFor tid).state ≠ 1 ∧ ((b.endFor tid).state = 2 → (b.endFor tid).cancel = true) := by
  unfold BoardSlot.endFor at mine ⊢
  split
  · split
    · next landing => exact ⟨fun armed => absurd (landing.symm.trans armed) (by decide), fun _ => rfl⟩
    · exact ⟨by decide, fun landing => absurd landing (by decide)⟩
  · next other =>
    rw [if_neg other] at mine
    have free : b.state = 0 := by simpa [mine] using other
    rw [free]
    exact ⟨by decide, fun landing => absurd landing (by decide)⟩

/-- A team after its termination. -/
def Team.ended (t : Team) : Team :=
  { t with
    terminated := true, boards := [], copies := [], deque := [], slack := [], cohs := t.cohs.map (fun e => (e.1, e.2.stopped)) }

/-- What a termination leaves of a team and of its core k: the team has ended, with its boarding requests, and its copy commands that waited have
been withdrawn. -/
structure Terminates (tid k : Nat) (u : State) : Prop where
  team : ∃ t, u.team tid = Team.ended t
  boards : ∃ c : Core, (u.core k).boards = c.boards.map (fun e => (e.1, e.2.endFor tid))
  chans : ∃ c : Core, (u.core k).chans = (c.withdraw (waitsFor tid)).chans

theorem State.terminates {s : State} {tid : Nat} (r : BitVec 512) (live : (s.team tid).terminated = false) :
    Terminates tid (s.team tid).core (s.terminate tid r) := by
  simp only [State.terminate, live, Bool.false_eq_true, if_false]
  -- x: the record is sent and the locks are broken; w: the copy commands are withdrawn, and they and the armed requests have ended
  generalize State.dropWaiters _ tid = x
  generalize ended : List.foldl State.endOp _ _ = w
  have bare : (w.core (s.team tid).core).bare = ((x.core (s.team tid).core).withdraw (waitsFor tid)).bare := by
    rw [← ended]
    refine (bare_foldl _ _ (fun u id => bare_endOp u _ id) _).trans ?_
    refine (bare_foldl _ _ (fun u (y : CopyCmd) => bare_endOp u _ y.op) _).trans ?_
    exact congrArg Core.bare (State.core_setCore_self ..)
  refine ⟨⟨w.team tid, State.team_setTeam_self ..⟩, ⟨w.core (s.team tid).core, congrArg Core.boards (State.core_setCore_self w _ _)⟩,
    ⟨x.core (s.team tid).core, ?_⟩⟩
  exact (congrArg Core.chans (State.core_setCore_self w _ _)).trans (congrArg Core.chans bare :)

theorem State.raise_terminates {s : State} (x : FaultInfo) (unhandled : s.myTeam.launch.trapvec = 0 ∨ s.me.trapstat = true)
    (live : s.myTeam.terminated = false) : Terminates s.cur.tid s.myTeam.core (s.raise x) := by
  rw [State.raise_eq]
  obtain ⟨r, terminates⟩ := State.programFault_of_unhandled (s := s.counted x) (tid := s.cur.tid) (coh := s.cur.coh)
    (grp := s.G &&& ~~~s.me.parked) (pc := s.herePc) (back := s.herePc) (x := x) (by rwa [State.counted_team, State.counted_coh])
  have ends := State.terminates (s := s.counted x) r (by rwa [State.counted_team])
  rwa [State.counted_team, ← terminates] at ends

end Sys2Proof.Machine

namespace Sys2Proof.Claims
open Sys2Proof.Machine

/-- 09 R161, R164, R166; 24 R346. -/
theorem programFaultsEnterTheHandler : ProgramFaultsEnterTheHandler := by
  intro s c armed outside pc words
  have grouped : groupCause 0x1C = true := by decide
  have enters := entersHandler_programFault (grp := s.G) (pc := pc) (back := nextPc pc (s.cur.idx = s.cur.count))
    (x := { cause := 0x1C, detail := c }) armed outside
  rw [if_pos grouped] at enters
  refine ⟨⟨_, rfl, enters⟩, ?_⟩
  intro x grp u
  have enters := entersHandler_programFault (s := s.counted x) (grp := grp) (pc := pc) (back := pc) (x := x)
    (by rwa [State.counted_team]) (by rwa [State.counted_coh])
  have cur : u.cur = s.cur := State.counted_cur s x
  simp only [words, cur]
  rw [← State.raise_eq] at enters
  exact enters

/-- 09 R164, R165. -/
theorem nestedFaultsTerminateTheTeam : NestedFaultsTerminateTheTeam := by
  intro s x unhandled live u t c
  have ends : Terminates s.cur.tid s.myTeam.core u := State.raise_terminates x unhandled live
  obtain ⟨⟨t', team⟩, ⟨c₁, boards⟩, ⟨c₂, chans⟩⟩ := ends
  simp only [t, c, team, boards, chans]
  refine ⟨rfl, rfl, rfl, fun e slot mine => ?_, fun h chan y queued stands mine => ?_, fun e cohort => ?_⟩
  · obtain ⟨b, -, rfl⟩ := List.mem_map.mp slot
    exact BoardSlot.endFor_clears mine
  · have spared := Core.withdraw_clears chan queued stands
    simpa [waitsFor, mine] using spared
  · obtain ⟨d, -, rfl⟩ := List.mem_map.mp cohort
    exact ⟨rfl, rfl, rfl, rfl, rfl, rfl⟩

end Sys2Proof.Claims

open Sys2Proof Sys2Proof.Machine Sys2Proof.Claims

/-- Settles O28: a fault outside a handler by the entry into it (`entersHandler_programFault`), every other one by what a termination leaves of
the team and of its core (`State.terminates`). -/
theorem faultsEnterOrTerminate : Obligations.FaultsEnterOrTerminate := ⟨programFaultsEnterTheHandler, nestedFaultsTerminateTheTeam⟩
end

section
/-!
SUPPORT. Pre-emption (09 R165, R167 to R171): the stop, the save and the restore of a team, and its release (02 R44), each by what it may do and by
what stands in its way; and the statements that they settle.
-/
namespace Sys2Proof.Machine

-- the stop (09 R167, R171; 25 R349) ----------------------------------------------------------------------------------------------------

/-- A team that stops now: it was asked to in an earlier clock, and stands. -/
structure StopsNow (q : State) (tid : Nat) : Prop where
  resident : (q.team tid).place = .resident
  live : (q.team tid).terminated = false
  asked : (q.team tid).asks ≠ []
  earlier : (q.team tid).askClk < q.clk
  stands : (q.team tid).standing = true

theorem StopsNow.stops {q : State} {tid : Nat} (h : StopsNow q tid) :
    ((q.team tid).place != .resident || (q.team tid).terminated || (q.team tid).asks.isEmpty || decide (q.clk ≤ (q.team tid).askClk) ||
      !(q.team tid).standing) = false := by
  simp [h.resident, h.live, h.asked, h.earlier, h.stands]

/-- A team with its save area a at its stop (05 R99). -/
def State.stopTeam (q : State) (tid a : Nat) : State :=
  let u := q.modTeam tid (fun t => { t.applySigs with
    place := .stopped, area := some a, saved := 0, saveTime := q.timebase, cohs := t.cohs.map (fun e => (e.1, e.2.stop)) })
  (((u.stopBoards tid).stopCopies tid).markAbsent tid).dropPriv tid

section Stop
variable {s : State} {a : Nat} (h : StopsNow (s.closeTeam (s.arg 0)) (s.arg 0))
include h

theorem exec_teamStop_of_noArea
    (full : let q := s.closeTeam (s.arg 0)
      let t := q.team (s.arg 0)
      q.freeArea t.vf t.areaLen = none) :
    let q := s.closeTeam (s.arg 0)
    exec .teamStop s = .next ((q.answer (q.team (s.arg 0)).asks 8).modTeam (s.arg 0) (fun t => { t with asks := [] })) := by
  change execTeamStop s = _
  simp only [execTeamStop, h.stops, full, Bool.false_eq_true, if_false]

theorem exec_teamStop_of_area
    (area : let q := s.closeTeam (s.arg 0)
      let t := q.team (s.arg 0)
      q.freeArea t.vf t.areaLen = some a)
    (landed : ∀ e ∈ ((s.closeTeam (s.arg 0)).team (s.arg 0)).unfs, (s.closeTeam (s.arg 0)).ended e.2.ops = true) :
    let q := s.closeTeam (s.arg 0)
    exec .teamStop s = .next (if (q.team (s.arg 0)).unfs.any (fun e => e.2.due % 2 = 0) then q.saveBlocks (s.arg 0)
      else q.stopTeam (s.arg 0) a) := by
  have ended : ((s.closeTeam (s.arg 0)).team (s.arg 0)).unfs.any (fun e => !((s.closeTeam (s.arg 0)).ended e.2.ops)) = false := by
    simpa using landed
  change execTeamStop s = _
  simp only [execTeamStop, h.stops, area, ended, Bool.false_eq_true, if_false]
  rfl

end Stop

-- the save (09 R168) ---------------------------------------------------------------------------------------------------------------------

/-- A stopped team whose next class may be written to its save area a. -/
structure SavesNow (u : State) (tid a : Nat) : Prop where
  area : (u.team tid).area = some a
  stopped : (u.team tid).place = .stopped
  live : (u.team tid).terminated = false
  may : u.maySave tid (u.team tid).saved = true

theorem SavesNow.saves {u : State} {tid a : Nat} (h : SavesNow u tid a) :
    ((u.team tid).place != .stopped || (u.team tid).terminated || !(u.maySave tid (u.team tid).saved)) = false := by
  simp [h.stopped, h.live, h.may]

/-- The state in which a team's next class is read, and the state with the class in the area a. -/
def State.classRead (u : State) (tid : Nat) : State :=
  (if (u.team tid).saved = 10 then u.spillDeque tid else u).senseClass tid (u.team tid).saved

def State.classSaved (u : State) (tid a : Nat) : State :=
  let t := u.team tid
  let bs := (u.classRead tid).classBytes tid t.saved
  let pad := List.replicate ((bs.length + 4095) / 4096 * 4096 - bs.length) (0 : Byte)
  ((u.classRead tid).cpWrite t.vf (a + t.offset t.saved) (bs ++ pad)).modTeam tid (fun t => { t with saved := t.saved + 1 })

/-- A team whose last class has been written: DONE is set, and it is saved (05 R99). -/
def State.teamSaved (w : State) (tid a : Nat) (t : Team) : State :=
  ((((w.cpWrite t.vf a ((t.header true).take 8)).stopPlanes tid).modTeam tid (fun t => { t with
    place := .saved, slack := [] })).answer t.asks 1).requeue tid

theorem exec_teamSave {s : State} {a : Nat} (stopped : (s.team (s.arg 0)).place = .stopped)
    (h : SavesNow (s.stopCopies (s.arg 0)) (s.arg 0) a) :
    let u := s.stopCopies (s.arg 0)
    let w := u.classSaved (s.arg 0) a
    exec .teamSave s = .next
      (if (u.team (s.arg 0)).saved < 11 then w else w.teamSaved (s.arg 0) a (u.team (s.arg 0))) := by
  change execTeamSave s = _
  simp only [execTeamSave, stopped, if_true, h.area, h.saves, Bool.false_eq_true, if_false]
  rfl

-- the restore (09 R170) --------------------------------------------------------------------------------------------------------------------

/-- A saved team with a new place, whose area a can be reached. -/
structure RestoresNow (s : State) (tid a : Nat) : Prop where
  area : (s.team tid).area = some a
  saved : (s.team tid).place = .saved
  placed : (s.team tid).due = true
  live : (s.team tid).terminated = false
  reached : s.areaLost (s.team tid) a = false

theorem RestoresNow.restores {s : State} {tid a : Nat} (h : RestoresNow s tid a) :
    ((s.team tid).place != .saved || !(s.team tid).due || (s.team tid).terminated || s.areaLost (s.team tid) a) = false := by
  simp [h.saved, h.placed, h.live, h.reached]

/-- The header of an area, as the command processor reads it (05 R99). -/
def State.areaHeader (s : State) (tid a : Nat) : Nat := ofLeBytes (s.fetchBytes (s.team tid).vf a 8).2

/-- A header that is valid and DONE. -/
def headerOk (h : Nat) : Prop := h % 65536 = 1 ∧ h / 2 ^ 23 % 2 = 1

theorem headerOk_iff {h : Nat} : headerOk h ↔ (h % 65536 != 1 || h / 2 ^ 23 % 2 != 1) = false := by
  simp [headerOk]

/-- A team back from its area a (09 R170): its classes are loaded, core c holds its requests and copies again, and it is resident. -/
def State.restored (m : State) (tid a : Nat) (t : Team) (c : Core) : State :=
  let u := (((m.loadV tid a).loadRuns tid a).loadDeque tid).loadPlanes tid
  let c : Core := { u.core t.core with boards := c.boards, chans := c.chans, rlocks := c.rlocks }
  let u := ((u.setCore t.core (c.rebase tid t)).markPresent tid).modTeam tid (fun t => { t with
    place := .resident, due := false, area := none, saved := 0, boards := [], copies := [], resumes := []
    cohs := t.cohs.map (fun e => (e.1, e.2.restored)) })
  let v := t.resumes.foldl (fun s f => s.applyResume t.vf f) u
  ((v.team tid).unfs.filter (fun e => e.2.due != 0)).foldl (fun s e => s.dueBlock tid e.1 e.2) v

section Restore
variable {s : State} {a : Nat} {c : Core} (h : RestoresNow s (s.arg 0) a)
include h

theorem exec_teamRestore_of_valid (valid : headerOk (s.areaHeader (s.arg 0) a))
    (room : let t := s.team (s.arg 0)
      (((s.fetchBytes t.vf a 8).1.core t.core).rearm (s.arg 0) t.boards).bind (Core.retake t.copies) = some c) :
    let t := s.team (s.arg 0)
    exec .teamRestore s = .next ((s.fetchBytes t.vf a 8).1.restored (s.arg 0) a t c) := by
  have header := headerOk_iff.mp valid
  unfold State.areaHeader at header
  change execTeamRestore s = _
  simp only [execTeamRestore, h.area, h.restores, header, room, Bool.false_eq_true, if_false]
  rfl

theorem exec_teamRestore_of_invalid (invalid : ¬headerOk (s.areaHeader (s.arg 0) a)) :
    exec .teamRestore s = .next ((s.fetchBytes (s.team (s.arg 0)).vf a 8).1.saveInvalid (s.arg 0) a) := by
  have header := (Bool.not_eq_false _).mp (mt headerOk_iff.mpr invalid)
  unfold State.areaHeader at header
  change execTeamRestore s = _
  simp only [execTeamRestore, h.area, h.restores, header, Bool.false_eq_true, if_false, if_true]

end Restore

-- the release (02 R44; 10 R175) --------------------------------------------------------------------------------------------------------------

/-- A team that is not saved has dirty lines that are its cohorts' alone (10 R175). -/
def DirtyTeam (s : State) (tid : Nat) : Prop :=
  (s.team tid).place ≠ .saved ∧ ∃ i, i < (s.team tid).launch.n ∧ s.dirtyPriv tid i ≠ []

theorem dirtyTeam_iff {s : State} {tid : Nat} : DirtyTeam s tid ↔
    ((s.team tid).place != .saved && (List.range (s.team tid).launch.n).any (fun i => !(s.dirtyPriv tid i).isEmpty)) = true := by
  simp [DirtyTeam]

/-- A team that gives up all that it has: who asked for its pre-emption gets status 0x0A, and its node has one live team less. -/
def State.releaseTeam (s : State) (tid : Nat) : State :=
  let t := s.team tid
  let u := (s.answer t.asks 0x0A).modTeam tid (fun t => { t with
    place := .gone, released := true, asks := [], area := none, due := false, held := false, deque := [], slack := [], boards := [] })
  u.modNode t.graph t.node (fun x => { x with live := x.live - 1 })

/-- The node of a released team ends with its last team (19 R280): 4 if it failed, else 1. -/
def State.endEmptyNode (s : State) (t : Team) : State :=
  let x := s.node t.graph t.node
  if x.live = 0 && (x.failed || x.total ≤ x.next) then s.endNode t.graph t.node (if x.failed then 4 else 1) else s

section Release
variable {s : State} (may : s.mayRelease (s.arg 0) = true)
include may

theorem exec_teamRelease_of_dirty (dirty : DirtyTeam s (s.arg 0)) : exec .teamRelease s = .next (s.flushTeam (s.arg 0)) :=
  next_congr ((if_neg (by simp [may])).trans (if_pos (dirtyTeam_iff.mp dirty)))

theorem exec_teamRelease_of_clean (clean : ¬DirtyTeam s (s.arg 0)) :
    exec .teamRelease s = .next ((s.releaseTeam (s.arg 0)).endEmptyNode (s.team (s.arg 0))) :=
  next_congr ((if_neg (by simp [may])).trans (if_neg (mt dirtyTeam_iff.mpr clean)))

end Release
end Sys2Proof.Machine

open Sys2Proof Sys2Proof.Machine Sys2Proof.Claims

/-- Settles O41: the stop by whether there is a save area and what the engines have written (`exec_teamStop_of_area`,
`exec_teamStop_of_noArea`), the save by the class that is due (`exec_teamSave`). -/
theorem teamsStopAndSave : Obligations.TeamsStopAndSave := by
  intro s tid a s q t
  refine ⟨fun resident live asked earlier stands => ?_, fun stopped => ?save⟩
  case save =>
    intro u t area place live may
    exact exec_teamSave stopped ⟨area, place, live, may⟩
  have now : StopsNow (s.closeTeam (s.arg 0)) (s.arg 0) := ⟨resident, live, asked, earlier, stands⟩
  refine ⟨fun area landed => ?_, exec_teamStop_of_noArea now⟩
  have stop : exec .teamStop s = .next (if t.unfs.any (fun e => e.2.due % 2 = 0) then q.saveBlocks tid else q.stopTeam tid a) :=
    exec_teamStop_of_area now area landed
  refine ⟨fun written => stop.trans (next_congr (if_neg ?_)), fun owed => stop.trans (next_congr (if_pos ?_))⟩
  · simpa using written
  · simpa using owed

/-- Settles O42: the restore by its header (`exec_teamRestore_of_valid`, `exec_teamRestore_of_invalid`), the release by whether the L1 holds
dirty lines of the team alone (`dirtyTeam_iff`). -/
theorem teamsRestoreAndRelease : Obligations.TeamsRestoreAndRelease := by
  intro s tid a c s t m h
  refine ⟨fun area saved placed live reached => ?_, fun may => ?_⟩
  · have now : RestoresNow s (s.arg 0) a := ⟨area, saved, placed, live, reached⟩
    exact ⟨exec_teamRestore_of_valid now, exec_teamRestore_of_invalid now⟩
  · exact ⟨exec_teamRelease_of_dirty may, exec_teamRelease_of_clean may⟩
end

section
/-!
SUPPORT. The loads, stores, atomics and reductions of the mem class (11 R186 to R197): when one issues, what stages 2 and 3 of 09 R160 make of
its accesses, and the statements that they settle.
-/
namespace Sys2Proof.Machine

-- when a mem word issues (11 R193, R194, R196; 03 R49; 14 R221) ----------------------------------------------------------------------

/-- No fence holds a mem word of the lanes, no `cas` of theirs has lanes to go, and its flag takes one more operation. -/
structure State.Issues (s : State) (lanes : Lanes) (flag : Nat) (load : Bool) : Prop where
  unfenced : s.fenced lanes load = false
  noCas : s.casPending lanes = false
  room : s.flagFree flag = true

/-- Something that a mem word of the lanes waits for. -/
def State.Held (s : State) (lanes : Lanes) (flag : Nat) (load : Bool) : Prop :=
  s.fenced lanes load = true ∨ s.casPending lanes = true ∨ s.flagFree flag = false

theorem State.Issues.free {s : State} {lanes : Lanes} {flag : Nat} {load : Bool} (h : s.Issues lanes flag load) :
    (s.fenced lanes load || s.casPending lanes || !(s.flagFree flag)) = false := by
  rw [h.unfenced, h.noCas, h.room]; rfl

section MemIssue
variable {s k : State} {lanes : Lanes} {flag rel : Nat} {load : Bool} {rs : List RegCheck}

theorem memIssue_of_idle (idle : lanes = 0) : s.memIssue lanes flag load rs k rel = s.checked rs k := if_pos idle

theorem memIssue_of_held (busy : lanes ≠ 0) (held : s.Held lanes flag load) : s.memIssue lanes flag load rs k rel = .next s := by
  refine (if_neg busy).trans (if_pos ?_)
  simpa [State.Held, or_assoc] using held

theorem memIssue_of_unflushed (busy : lanes ≠ 0) (issues : s.Issues lanes flag load) (dirty : s.unflushed rel = true) :
    s.memIssue lanes flag load rs k rel = s.checked rs s.flushFor := by
  rw [State.memIssue, if_neg busy, issues.free, if_neg Bool.false_ne_true, if_pos dirty]

theorem memIssue_of_issues (issues : s.Issues lanes flag load) (clean : s.unflushed rel = false) :
    s.memIssue lanes flag load rs k rel = s.checked rs k := by
  by_cases idle : lanes = 0
  · exact memIssue_of_idle idle
  · rw [State.memIssue, if_neg idle, issues.free, if_neg Bool.false_ne_true, clean, if_neg Bool.false_ne_true]

end MemIssue

-- stages 2 and 3 (09 R160; 18 R267) --------------------------------------------------------------------------------------------------

theorem lanesOf_eq_nil {g : Lanes} : lanesOf g = [] ↔ g = 0 := by
  refine ⟨fun empty => BitVec.eq_of_getLsbD_eq fun l low => ?_, fun zero => by subst zero; rfl⟩
  have off : g.getLsbD l = false := Bool.eq_false_iff.mpr fun on => List.not_mem_nil (empty ▸ mem_lanesOf.mpr ⟨low, on⟩)
  exact off.trans BitVec.getLsbD_zero.symm

/-- A walk counts at its core and joins the walks; it changes no team. -/
@[simp] theorem startWalk_myTeam (s : State) (core vf page : Nat) : (s.startWalk core vf page).myTeam = s.myTeam := by
  simp only [State.startWalk]
  split
  · split <;> rfl
  · rfl

theorem foldl_startWalk (s : State) (pages : List Nat) :
    pages.foldl (fun t q => t.startWalk t.myTeam.core t.myTeam.vf q) s =
      pages.foldl (fun t q => t.startWalk s.myTeam.core s.myTeam.vf q) s := by
  suffices general : ∀ t : State, t.myTeam = s.myTeam → pages.foldl (fun t q => t.startWalk t.myTeam.core t.myTeam.vf q) t =
      pages.foldl (fun t q => t.startWalk s.myTeam.core s.myTeam.vf q) t from general s rfl
  induction pages with
  | nil => exact fun _ _ => rfl
  | cons q pages ih =>
    intro t same
    rw [List.foldl_cons, List.foldl_cons, same]
    exact ih _ ((startWalk_myTeam ..).trans same)

section Translated
variable {s : State} {need access size : Nat} {ls : List (Nat × List Piece)} {k : State → List (Nat × List Piece) → State}
  {hold : List (Nat × List Piece) → Option State} {all : Bool}

/-- The group waits for the walks of what misses. -/
theorem translated_of_misses (missing : (s.transAll need ls).misses ≠ []) :
    s.translated need access size ls k hold all =
      (dedup (s.transAll need ls).misses).foldl (fun t q => t.startWalk s.myTeam.core s.myTeam.vf q) s := by
  rw [State.translated, if_pos (by simpa using missing)]
  exact foldl_startWalk ..

/-- Each failing lane, or with `all` every lane of the group for it. -/
def State.failing (s : State) (all : Bool) (bads : List BadLane) : List BadLane :=
  if all then (bads.map (fun b => (lanesOf s.G).map (fun l => { b with lane := l }))).flatten else bads

theorem translated_of_walked (walked : (s.transAll need ls).misses = []) (free : hold (s.transAll need ls).good = none) :
    s.translated need access size ls k hold all =
      let bads := s.failing all (s.transAll need ls).bads
      k (if bads.isEmpty then s else s.park bads size access) (s.transAll need ls).good := by
  simp only [State.translated, walked, free, List.isEmpty_nil, Bool.not_true, Bool.false_eq_true, if_false]
  rfl

end Translated

end Sys2Proof.Machine

namespace Sys2Proof.Claims
open Sys2Proof.Machine

-- the course of a mem word (09 R160) -------------------------------------------------------------------------------------------------

/-- What a mem word does when it issues. -/
def MemForm.course (m : MemForm) (s : State) : State := s.accessWord m.access m.n m.align m.x m.accs m.spin m.effect m.uni

/-- The faults of its lanes at stage 2. -/
def MemForm.fault (m : MemForm) (s : State) : Option FaultInfo :=
  stage2Fault m.access (m.accs.map (fun a => (a.lane, s.stage2 m.access m.n m.align a.ptr)))

/-- The translation of its lanes' parts. -/
def MemForm.parts (m : MemForm) (s : State) : Transed :=
  s.transAll (needOf m.access) ((m.own s).map (fun a => (a.lane, s.pieces a.lane m.n a.ptr)))

/-- What its lanes do that have translated. -/
def MemForm.perform (m : MemForm) (s t : State) (good : List (Nat × List Piece)) : State :=
  (if good = [] then t else m.effect t (withParts (m.own s) good)).memDone m.spin

theorem exec_of_memForm {s : State} {i : Instr} {m : MemForm} (form : memForm s i = some m) :
    exec i s = s.memIssue m.lanes m.flag m.isLoad (m.regs.map s.vr) (m.course s) m.rel := by
  cases i <;> cases form <;> rfl

section Course
variable {s : State} {m : MemForm}

theorem course_of_noAccess (empty : m.accs = []) : m.course s = s.done true := by
  rw [MemForm.course, empty]; rfl

theorem course_of_fault {f : FaultInfo} (some_ : m.accs ≠ []) (fault : m.fault s = some f) :
    m.course s = s.raise (if m.uni then { f with lanes := s.G } else f) := by
  rw [MemForm.fault] at fault
  rw [MemForm.course, State.accessWord, if_neg (by simpa using some_), fault]

theorem course_of_legal (some_ : m.accs ≠ []) (legal : m.fault s = none) :
    m.course s = s.translated (needOf m.access) m.access m.n ((m.own s).map (fun a => (a.lane, s.pieces a.lane m.n a.ptr)))
      (m.perform s) (s.orderHold m.x (m.own s)) m.uni := by
  rw [MemForm.fault] at legal
  rw [MemForm.course, State.accessWord, if_neg (by simpa using some_), legal]
  refine congrArg (fun k => s.translated _ _ _ _ k _ _) (funext fun t => funext fun good => ?_)
  cases good <;> rfl

theorem course_of_misses (some_ : m.accs ≠ []) (legal : m.fault s = none) (missing : (m.parts s).misses ≠ []) :
    m.course s = (dedup (m.parts s).misses).foldl (fun t q => t.startWalk s.myTeam.core s.myTeam.vf q) s :=
  (course_of_legal some_ legal).trans (translated_of_misses missing)

theorem course_of_walked (some_ : m.accs ≠ []) (legal : m.fault s = none) (walked : (m.parts s).misses = [])
    (free : s.orderHold m.x (m.own s) (m.parts s).good = none) :
    m.course s =
      let bads := s.failing m.uni (m.parts s).bads
      m.perform s (if bads.isEmpty then s else s.park bads m.n m.access) (m.parts s).good :=
  (course_of_legal some_ legal).trans (translated_of_walked walked free)

end Course

/-- 11 R191: a uniform form concerns the whole group. -/
theorem lanes_of_uniform {s : State} {i : Instr} {m : MemForm} (form : memForm s i = some m) (uniform : m.uni = true) : m.lanes = s.G := by
  cases i
  case lduD | stuD => cases form; rfl
  all_goals cases form
  all_goals cases uniform

/-- A mem word without an access has no lane. -/
theorem lanes_of_noAccess {s : State} {i : Instr} {m : MemForm} (form : memForm s i = some m) (empty : m.accs = []) : m.lanes = 0 := by
  cases i
  case lduD | stuD => cases form; cases empty
  all_goals cases form
  all_goals exact lanesOf_eq_nil.mp (List.map_eq_nil_iff.mp empty)

/-- A mem word that issues with its registers in the allocation, and with no dirty line for a release to take to memory first. -/
theorem exec_of_issues {s : State} {i : Instr} {m : MemForm} (form : memForm s i = some m) (issues : s.Issues m.lanes m.flag m.isLoad)
    (clean : s.unflushed m.rel = false) (regs : RegsIn s m.regs) : exec i s = .next (m.course s) :=
  (exec_of_memForm form).trans ((memIssue_of_issues issues clean).trans (checked_of_regsIn _ regs))

/-- 11 R193, R194, R196; 03 R49, R52; 14 R221. -/
theorem memoryWordsWaitOrPass : MemoryWordsWaitOrPass := by
  intro i s m form
  have word := exec_of_memForm form
  refine ⟨fun busy held => word.trans (memIssue_of_held busy held), fun busy open_ cas room regs dirty => ?_, fun regs empty => ?_⟩
  · exact word.trans ((memIssue_of_unflushed busy ⟨open_, cas, room⟩ dirty).trans (checked_of_regsIn _ regs))
  · refine word.trans ((memIssue_of_idle (lanes_of_noAccess form empty)).trans ?_)
    rw [course_of_noAccess empty, checked_of_regsIn _ regs]

/-- 09 R160; 10 R173, R176; 13 R217; 11 R191. -/
theorem memoryWordsFaultAtStageTwo : MemoryWordsFaultAtStageTwo := by
  intro i s m f form open_ cas room clean regs some_ fault
  rw [exec_of_issues form ⟨open_, cas, room⟩ clean regs, course_of_fault some_ fault]

end Sys2Proof.Claims

open Sys2Proof Sys2Proof.Machine Sys2Proof.Claims

/-- Settles O12: a word that nothing stops comes to its course (`exec_of_issues`), with every part translated (`course_of_walked`). -/
theorem memoryWordsPerform : Obligations.MemoryWordsPerform := by
  intro i s m good form nothing
  have parts : m.parts s = { misses := [], bads := [], good := good } := nothing.translated
  rw [exec_of_issues form ⟨nothing.open_, nothing.cas, nothing.room⟩ nothing.flushed nothing.regs,
    course_of_walked nothing.active nothing.legal (by rw [parts]) (by rw [parts]; exact nothing.unheld), parts]
  have none : s.failing m.uni [] = [] := by cases h : m.uni <;> rfl
  simp only [none, List.isEmpty_nil, if_true, MemForm.perform, if_neg nothing.some_]

/-- Settles O13: what a word waits for, by the issue rule (`memIssue_of_held`, `memIssue_of_unflushed`); its fault at stage 2
(`course_of_fault`). -/
theorem memoryWordsWaitOrFault : Obligations.MemoryWordsWaitOrFault := ⟨memoryWordsWaitOrPass, memoryWordsFaultAtStageTwo⟩
end

section
/-!
SUPPORT. Fences and cache operations (11 R193, R194, R198), copy words and bank modes (11 R199 to R205): each word by the checks that stand
before its effect, and the statements that they settle.
-/
namespace Sys2Proof.Claims
open Sys2Proof.Machine

-- fences (11 R193, R194) -------------------------------------------------------------------------------------------------------------

/-- What a fence leaves: the release's flush, if it has one, and the hold of its lanes. -/
def fenceHold (s : State) (sc k : Nat) (ls : Lanes) : State :=
  let t := if k ≠ 0 ∧ s.unflushed sc = true then s.flushFor else s
  let ops := t.opsBy (fun o => o.owes ls sc && ((k != 1 && (o.kind = 0 || o.kind = 2)) || (k != 0 && (o.kind = 1 || o.kind = 2))))
  t.modMe (fun c => { c with
    holds := c.holds.filter (fun h => h.ops.any (fun o => (s.op o).isSome)) ++ [{ lanes := ls, kind := k, ops := ops, scope := sc }] })

section Fence
variable {s : State} {sc k g : Nat}

theorem exec_fence_of_held (held : s.fenced (s.active g) true = true) : exec (.fence sc k g) s = .next s := next_congr (if_pos held)

theorem exec_fence_of_idle (free : s.fenced (s.active g) true = false) (idle : s.active g = 0) :
    exec (.fence sc k g) s = .next (s.done true) := by
  change execFence sc k g s = _
  rw [idle] at free
  simp only [execFence, idle, free, bne_self_eq_false, Bool.and_false, Bool.false_and, Bool.false_eq_true, if_true, if_false]

theorem exec_fence_of_lanes (free : s.fenced (s.active g) true = false) (busy : s.active g ≠ 0) :
    exec (.fence sc k g) s = .next ((fenceHold s sc k (s.active g)).done true) := by
  have flushes : (k != 0 && s.active g != 0 && s.unflushed sc) = true ↔ k ≠ 0 ∧ s.unflushed sc = true := by
    rw [Bool.and_eq_true, Bool.and_eq_true, bne_iff_ne, bne_iff_ne, and_assoc, and_iff_right busy]
  change execFence sc k g s = _
  simp only [execFence, free, flushes, if_neg busy, Bool.false_eq_true, if_false]
  rfl

end Fence

/-- 11 R193, R194: by whether an earlier fence holds it, and whether it has a lane. -/
theorem fenceHoldsLaterWords : FenceHoldsLaterWords := fun _ _ _ _ =>
  ⟨fun idle free => exec_fence_of_idle (idle ▸ free) idle, exec_fence_of_held, exec_fence_of_lanes⟩

-- cache operations (11 R198; 10 R173) ------------------------------------------------------------------------------------------------

section CacheWord
variable {s : State} {a o g : Nat} {n : State → List LaneAcc → Nat} {k : State → Nat → List LaneAcc → State}
  (issues : s.Issues (s.active g) s.cur.setb true) (regs : RegsIn s [a]) (some_ : s.laneAccs g a o 128 ≠ [])

/-- The faults of a cache operation's lanes at stage 2. -/
def cacheFault (s : State) (g a o : Nat) : Option FaultInfo :=
  stage2Fault 0 ((s.laneAccs g a o 128).map (fun x => (x.lane, s.stage2 0 1 0 x.ptr)))

include issues regs some_

theorem cacheWord_of_fault {f : FaultInfo} (fault : cacheFault s g a o = some f) : s.cacheWord a o g n k = .next (s.raise f) := by
  rw [cacheFault] at fault
  rw [State.cacheWord, memIssue_of_issues issues rfl, if_neg (by simpa using some_), fault]
  exact checked_of_regsIn _ regs

theorem cacheWord_of_good {good : List (Nat × List Piece)} (legal : cacheFault s g a o = none) (goods : good ≠ [])
    (mapped : s.transAll 1 ((s.laneAccs g a o 128).map (fun x => (x.lane, s.pieces x.lane 1 x.ptr))) = { misses := [], bads := [], good := good }) :
    s.cacheWord a o g n k =
      let as := withParts (s.laneAccs g a o 128) good
      let f := s.newOp { tid := s.cur.tid, coh := s.cur.coh, flag := s.cur.setb, lanes := lanesIn as, kind := 1, left := 1 + n s as }
      .next (((k f.1 f.2 as).ackFor f.2 0 []).memDone false) := by
  rw [cacheFault] at legal
  rw [State.cacheWord, memIssue_of_issues issues rfl, if_neg (by simpa using some_), legal]
  refine (checked_of_regsIn _ regs).trans (next_congr ((translated_of_good mapped rfl).trans (if_neg ?_)))
  simpa using goods

end CacheWord

theorem exec_cclean (s : State) (a p o g : Nat) : exec (.cclean a p o g) s =
    s.cacheWord a o g (fun t as => t.dirtyIn ((cacheLines as).filter (fun l => l.2)))
      (fun t op as => ((cacheLines as).filter (fun l => l.2)).foldl (fun t l => t.writeBack op t.myTeam.core l.1) t) := rfl

theorem exec_cflush (s : State) (a p o g : Nat) : exec (.cflush a p o g) s =
    s.cacheWord a o g (fun t as => t.dirtyIn (cacheLines as))
      (fun t op as => (cacheLines as).foldl (fun t l => t.l1Drop op t.myTeam.core l.1) t) := rfl

section Prefetch
variable {s : State} {a p o g : Nat}

theorem exec_pfetch (issues : s.Issues (s.active g) 15 true) (regs : RegsIn s [a]) :
    exec (.pfetch a p o g) s =
      let as := prefetchAccs s (s.laneAccs g a o 128)
      let r := s.transAll 1 (as.map (fun x => (x.lane, s.pieces x.lane 1 x.ptr)))
      .next (if !r.misses.isEmpty then (dedup r.misses).foldl (fun t q => t.startWalk s.myTeam.core s.myTeam.vf q) s
        else (r.good.foldl (fun t e => t.prefetch (s.policy p) (lineAt (e.2.headD default).pa) e.1
          (as.any (fun x => x.lane = e.1 && spaceOf x.ptr = 1))) (s.badWalks s.myTeam.core s.myTeam.vf r.bads)).done true) := by
  change execPfetch a p o g s = _
  rw [execPfetch, memIssue_of_issues issues rfl]
  exact checked_of_regsIn _ regs

end Prefetch

/-- 11 R198: each by the course of a word that issues. -/
theorem cacheOperationsPerform : CacheOperationsPerform := by
  intro s a p o g good as checks unfenced noCas regs
  refine ⟨fun some_ room goods legal mapped => ?_, fun f some_ room fault => ?_, ?_⟩
  · have issues : s.Issues (s.active g) s.cur.setb true := ⟨unfenced, noCas, room⟩
    intro lines mine op ends
    exact ⟨(exec_cclean ..).trans (cacheWord_of_good issues regs some_ legal goods mapped),
      (exec_cflush ..).trans (cacheWord_of_good issues regs some_ legal goods mapped)⟩
  · have issues : s.Issues (s.active g) s.cur.setb true := ⟨unfenced, noCas, room⟩
    exact ⟨(exec_cclean ..).trans (cacheWord_of_fault issues regs some_ fault),
      (exec_cflush ..).trans (cacheWord_of_fault issues regs some_ fault)⟩
  · have word := exec_pfetch (p := p) (o := o) ⟨unfenced, noCas, rfl⟩ regs
    refine ⟨fun _ missing => word.trans (next_congr (if_pos ?_)), fun walked _ => word.trans (next_congr (if_neg ?_))⟩
    · simpa using missing
    · simpa using walked

-- copies (11 R199, R200) -------------------------------------------------------------------------------------------------------------

theorem exec_copy (s : State) (isIn : Bool) (d a b ch : Nat) :
    exec (if isIn then .cpin d a b ch else .cpout d a b ch) s = s.copy isIn d a b ch := by cases isIn <;> rfl

/-- A copy between legal sides, of a whole number of 16-byte units below 2^24 bytes. -/
structure CopyLegal (s : State) (isIn : Bool) (d a b : Nat) : Prop where
  dst : s.copySide (!isIn) (s.sget d) (fld (s.sget b) 0 24) = true
  src : s.copySide isIn (s.sget a) (fld (s.sget b) 0 24) = true
  short : (s.sget b).toNat = fld (s.sget b) 0 24
  whole : fld (s.sget b) 0 24 % 16 = 0

theorem CopyLegal.sized {s : State} {isIn : Bool} {d a b : Nat} (legal : CopyLegal s isIn d a b) :
    ((s.sget b).toNat % 16 != 0 || (s.sget b).toNat != fld (s.sget b) 0 24) = false := by
  rw [legal.short, legal.whole, bne_self_eq_false, bne_self_eq_false]; rfl

section Copy
variable {s : State} {isIn : Bool} {d a b ch : Nat} (legal : CopyLegal s isIn d a b)
include legal

theorem copy_of_empty (empty : fld (s.sget b) 0 24 = 0) : s.copy isIn d a b ch = .next s.done := by
  simp only [State.copy, legal.dst, legal.src, legal.sized, if_pos empty, Bool.not_true, Bool.false_eq_true, if_false]

theorem copy_of_held (some_ : fld (s.sget b) 0 24 ≠ 0) (held : s.heldChan (s.myCore.chan ch) = true ∨ s.flagFree s.cur.setb = false) :
    s.copy isIn d a b ch = .next s := by
  have waits : (s.heldChan (s.myCore.chan ch) || !(s.flagFree s.cur.setb)) = true := by simpa using held
  simp only [State.copy, legal.dst, legal.src, legal.sized, waits, if_neg some_, Bool.not_true, Bool.false_eq_true, if_true, if_false]

theorem copy_of_taken {c : Core} (some_ : fld (s.sget b) 0 24 ≠ 0) (unheld : s.heldChan (s.myCore.chan ch) = false)
    (room : s.flagFree s.cur.setb = true) :
    let f := s.newOp { tid := s.cur.tid, coh := s.cur.coh, flag := s.cur.setb, kind := 3 }
    s.myCore.takeCopy { op := f.2, tid := s.cur.tid, coh := s.cur.coh, vf := s.myTeam.vf, isIn := isIn, dst := s.sget d,
                        src := s.sget a, len := fld (s.sget b) 0 24, ch := ch, pc := s.herePc } = some c →
      s.copy isIn d a b ch = .next ((f.1.setCore s.myTeam.core c).done) := by
  intro f taken
  have goes : (s.heldChan (s.myCore.chan ch) || !(s.flagFree s.cur.setb)) = false := by rw [unheld, room]; rfl
  simp only [f] at taken
  simp only [State.copy, legal.dst, legal.src, legal.sized, goes, taken, f, if_neg some_, Bool.not_true, Bool.false_eq_true, if_false]

end Copy

/-- 11 R199, R200: the commands that a channel takes, by their length and its room. -/
theorem copiesAreAccepted : CopiesAreAccepted := by
  intro s isIn d a b ch i len dst src short whole
  have word : exec i s = s.copy isIn d a b ch := exec_copy ..
  have legal : CopyLegal s isIn d a b := ⟨dst, src, short, whole⟩
  exact ⟨fun empty => word.trans (copy_of_empty legal empty), fun some_ held => word.trans (copy_of_held legal some_ held),
    fun c some_ unheld room taken => word.trans (copy_of_taken legal some_ unheld room taken)⟩

/-- 11 R200: the checks of a copy in their order, each that fails first. -/
theorem wrongCopiesFault : WrongCopiesFault := by
  intro s isIn d a b ch i len fault
  have word : exec i s = s.copy isIn d a b ch := exec_copy ..
  refine ⟨fun dst => word.trans (next_congr (if_pos ?_)), fun dst src => word.trans (next_congr ?_), fun dst src size => ?_⟩
  · rw [dst]; rfl
  · rw [dst, src]; rfl
  · have sized : ((s.sget b).toNat % 16 != 0 || (s.sget b).toNat != len) = true := by simpa using size
    have drawn : s.copy isIn d a b ch = fault s.draw.1 (if bit s.draw.2 0 then s.sget d else s.sget a) := by
      simp only [len] at dst src sized
      simp only [State.copy, dst, src, sized, Bool.not_true, Bool.false_eq_true, if_false, if_true]
      rfl
    rw [word, drawn]
    split
    · exact .inl rfl
    · exact .inr rfl

-- waiting for a channel (11 R204) ----------------------------------------------------------------------------------------------------

/-- 11 R204: by whether the threshold has been delivered. -/
theorem copyWaitReadsTheChannel : CopyWaitReadsTheChannel := by
  intro s d a ch h w
  refine ⟨fun hold held => next_congr (if_pos ?_), fun unheld short => next_congr ?_, fun there plain => next_congr ?_,
    fun there hold unheld => next_congr ?_⟩
  · simp only [hold, decide_true, Bool.true_and]; exact held
  · have passes : ¬((decide (a = 63) && s.heldChan h) = true) := by simpa using unheld
    exact (if_neg passes).trans (if_neg (Nat.not_le.mpr short))
  · have passes : ¬((decide (a = 63) && s.heldChan h) = true) := by simp [plain]
    exact (if_neg passes).trans ((if_pos there).trans (if_neg plain))
  · have passes : ¬((decide (a = 63) && s.heldChan h) = true) := by simp [unheld]
    exact (if_neg passes).trans ((if_pos there).trans (if_pos hold))

-- bank modes (11 R205) ---------------------------------------------------------------------------------------------------------------

/-- A mode that a bank may be given: one of the three, of a bank of the core, that no team's run keeps as it is. -/
structure BankLegal (s : State) (a m : Nat) : Prop where
  mode : m < 3
  bank : (s.sget a).toNat = fld (s.sget a) 0 4
  unkept : s.myCore.modeThen (fld (s.sget a) 0 4) ≠ 1 ∨ m = 1 ∨
    ∀ t ∈ tvals s.teams, t.on s.myTeam.core = false ∨ fld (s.sget a) 0 4 ∉ t.banksOf

theorem exec_bankmode_of_legal {s : State} {a m : Nat} (legal : BankLegal s a m) (room : s.flagFree s.cur.setb = true) :
    exec (.bankmode a m) s =
      let b := fld (s.sget a) 0 4
      .next (if !(s.myCore.drains.any (fun d => d.bank = b)) && tget 0 s.myCore.modes b = m then s.done
        else
          let f := s.newOp { tid := s.cur.tid, coh := s.cur.coh, flag := s.cur.setb, kind := 3 }
          (f.1.modCore s.myTeam.core (fun c => { c with drains := c.drains ++
            [{ bank := b, mode := m, op := f.2, tasks := s.tasksIn s.myTeam.core b }] })).done) := by
  obtain ⟨mode, bank, unkept⟩ := legal
  have formed : ¬((decide (3 ≤ m) || (s.sget a).toNat != fld (s.sget a) 0 4) = true) := by
    rw [← bank]; simpa using mode
  have free : ¬((decide (s.myCore.modeThen (fld (s.sget a) 0 4) = 1) && m != 1 &&
      (tvals s.teams).any (fun t => t.on s.myTeam.core && t.banksOf.contains (fld (s.sget a) 0 4))) = true) := by
    intro kept
    simp only [Bool.and_eq_true, decide_eq_true_eq, bne_iff_ne, List.any_eq_true, List.contains_iff_mem] at kept
    obtain ⟨⟨scratch, other⟩, t, standing, on_, holds⟩ := kept
    obtain gone | same | clear := unkept
    · exact gone scratch
    · exact other same
    · obtain off | outside := clear t standing
      · exact Bool.false_ne_true (off.symm.trans on_)
      · exact outside holds
  refine next_congr ((if_neg formed).trans ((if_neg free).trans (if_neg ?_)))
  rw [room]; exact Bool.false_ne_true

/-- 11 R205; log entry 18: by whether the bank has the mode already. -/
theorem bankModeDrains : BankModeDrains := by
  intro s a m b c mode bank room unkept
  have word := exec_bankmode_of_legal ⟨mode, bank, unkept⟩ room
  refine ⟨fun still same => word.trans (next_congr (if_pos ?_)), fun other => word.trans (next_congr (if_neg ?_))⟩
  · rw [Bool.and_eq_true, Bool.not_eq_true', List.any_eq_false]
    exact ⟨by simpa using still, decide_eq_true same⟩
  · intro stays
    rw [Bool.and_eq_true, Bool.not_eq_true', List.any_eq_false] at stays
    obtain ⟨still, same⟩ := stays
    obtain ⟨d, draining, its⟩ | changed := other
    · exact still d draining (decide_eq_true its)
    · exact changed (of_decide_eq_true same)

end Sys2Proof.Claims

open Sys2Proof Sys2Proof.Machine Sys2Proof.Claims

/-- Settles O14: a fence by whether an earlier one holds it and whether it has a lane; the cache operations by the course of a mem word. -/
theorem fencesAndCacheOperations : Obligations.FencesAndCacheOperations := ⟨fenceHoldsLaterWords, cacheOperationsPerform⟩

/-- Settles O15, by the checks of each word in their order (`copy_of_taken`, `exec_bankmode_of_legal`). -/
theorem copyWordsAndBankModes : Obligations.CopyWordsAndBankModes :=
  ⟨copiesAreAccepted, wrongCopiesFault, copyWaitReadsTheChannel, bankModeDrains⟩
end

section
/-!
SUPPORT. The lanes of a mem word that do not translate (09 R160, R162), and the read at a slice whose answer
ends another kind of operation, at which the statement about loads fails.
-/
namespace Sys2Proof.Claims
open Sys2Proof.Machine

-- the lanes that do not translate (09 R160, R162) -------------------------------------------------------------------------------------

/-- The lanes of a group that has any fail together where one access is theirs all. -/
theorem failing_ne_nil {s : State} {all : Bool} {bads : List BadLane} (some_ : bads ≠ []) (group : all = true → s.G ≠ 0) :
    s.failing all bads ≠ [] := by
  unfold State.failing
  split
  next uniform =>
    obtain ⟨b, bs, rfl⟩ := List.exists_cons_of_ne_nil some_
    obtain ⟨l, ls, lanes⟩ := List.exists_cons_of_ne_nil (mt lanesOf_eq_nil.mp (group uniform))
    simp [lanes]
  next => exact some_

/-- 09 R160, R162; 11 R191. -/
theorem lanesThatDoNotTranslatePark : LanesThatDoNotTranslatePark := by
  intro i s m form open_ cas room clean regs busy legal r
  have some_ : m.accs ≠ [] := fun empty => busy (lanes_of_noAccess form empty)
  have word := exec_of_issues form ⟨open_, cas, room⟩ clean regs
  refine ⟨fun missing => word.trans (next_congr (course_of_misses some_ legal missing)), fun walked bad free => ?_⟩
  intro bads ls parked record t
  refine word.trans (next_congr ((course_of_walked some_ legal walked free).trans ?_))
  have failing : s.failing m.uni (m.parts s).bads ≠ [] := failing_ne_nil bad fun uniform => lanes_of_uniform form uniform ▸ busy
  have parks : s.park bads m.n m.access = t := by
    have core := modCoh_teamCore s s.cur.tid s.cur.coh s.cur.tid
    simp only [State.park, State.modMe, core, List.foldl_cons, List.foldl_nil]
    rfl
  change m.perform s (if (s.failing m.uni (m.parts s).bads).isEmpty = true then s else s.park bads m.n m.access) r.good = _
  rw [if_neg (by simpa using failing), parks]
  rfl

-- a read that answers a store (10 R178; 09 R168) -------------------------------------------------------------------------------------

/-- A read of line 4096 by core 0, at its slice, as the last part of operation 3. -/
def flagRead : Req :=
  { op := 3, master := 0, vf := 0, tid := 1, coh := 0, lanes := 1, kind := .read [(0, 4096, 4)] none, line := 4096, here := true }

/-- Operation 3 is a store of a team whose flag counts are saved (09 R168); the byte of its flag stands in line 4096, of which slice 0 and the
L1 of core 0 hold copies. -/
def flagReadWorld : State :=
  { State.reset with
    cores := [(0, { l1 := [(4096, {})] })]
    teams := [(1, { area := some 0, saved := 7 })]
    slices := [(0, { lines := [(4096, { sharers := [0] })] })]
    polders := [(0, { x1 := 1, valid := true, vfmask := 1 })]
    reqs := [(9, some flagRead)]
    ops := [(3, some { tid := 1, coh := 0, flag := 0, kind := 1, left := 1 })] }

/-- Whether core 0 still has its copy of the line. -/
def keepsCopy : Out → Bool
  | .next u => (u.core 0).l1.any (fun e => e.1 = 4096)
  | _ => false

theorem flagRead_arrives : Arrives (asked flagReadWorld [9]) 9 (asked flagReadWorld [9]) flagRead 0 false where
  ready := ⟨flagRead, rfl, by decide +kernel, rfl⟩
  request := rfl
  first := by decide +kernel
  slice := rfl
  allowed := by decide +kernel

theorem flagRead_served : Served (asked flagReadWorld [9]) flagRead 128 where
  window := by decide +kernel
  miss := by decide +kernel
  there := by decide +kernel

/-- The end of the store writes its flag's byte, so that the copy is to be invalidated: the read, which came before, takes it away. -/
theorem sliceRead_drops_copy : keepsCopy (exec .sliceRead (asked flagReadWorld [9])) = false := by decide +kernel

/-- The state that the statement gives the read. -/
def flagReadAnswer : State :=
  let t := (asked flagReadWorld [9]).touch 4096
  (t.setReq 9 none).partBack flagRead (([(0, 4096, 4)].map (fun p => place p.1 (lineBytes (t.seen 4096 1 0) (p.2.1 % 128) p.2.2))).flatten)

theorem flagReadAnswer_keeps_copy : keepsCopy (.next flagReadAnswer) = true := by decide +kernel

end Sys2Proof.Claims

open Sys2Proof Sys2Proof.Machine Sys2Proof.Claims

/-- Refutes O60: the statement about a read at its slice speaks of an operation of any kind. Where the read's part ends a store of a team whose
flag counts are saved, the flag's byte is written to the save area (`State.complete`); standing in the line that is read, it makes the core's copy
stale, and the read drops it (`sliceRead_drops_copy`), which the statement's state does not (`flagReadAnswer_keeps_copy`). -/
theorem not_loadBytesAndParkedLanes : ¬ Obligations.LoadBytesAndParkedLanes := by
  rintro ⟨⟨_, atSlice, _, _⟩, _⟩
  have answer : exec .sliceRead (asked flagReadWorld [9]) = .next flagReadAnswer :=
    atSlice flagReadWorld 9 _ flagRead _ flagRead_arrives flagRead_served (by decide +kernel) (by decide +kernel) rfl (by decide +kernel)
  have same : false = true :=
    calc false
      _ = keepsCopy (exec .sliceRead (asked flagReadWorld [9])) := sliceRead_drops_copy.symm
      _ = keepsCopy (.next flagReadAnswer) := congrArg keepsCopy answer
      _ = true := flagReadAnswer_keeps_copy
  exact Bool.false_ne_true same
end

section
/-!
SUPPORT. The words of moves and the values of microcommands (15 R226, R229), the class that a word's shape is of, and the statement that what the
decoders accept encodes to it (03 R58).
-/
namespace Sys2Proof.Layout
open Sys2Proof.Claims

theorem le_56_of_portWritable {d : Nat} (writable : portWritable d = true) : d ≤ 56 := by
  simp only [portWritable, portTrigger, Bool.or_eq_true, Bool.and_eq_true, decide_eq_true_eq, beq_iff_eq] at writable
  omega

theorem le_56_of_portReadable {s : Nat} (readable : portReadable s = true) : s ≤ 56 := by
  simp only [portReadable, Bool.or_eq_true, Bool.and_eq_true, decide_eq_true_eq, beq_iff_eq] at readable
  omega

/-- The fields of a well-formed move's word are the move's (15 R229). -/
theorem moveOf_encodeMove {x : Move} (wf : x.wf = true) : moveOf (encodeMove x) = x := by
  obtain ⟨g, e, d, s, i, m⟩ := x
  simp only [Move.wf, Bool.and_eq_true, Bool.or_eq_true, decide_eq_true_eq, beq_iff_eq] at wf
  obtain ⟨⟨⟨hg, he⟩, hd⟩, src⟩ := wf
  have hd := le_56_of_portWritable hd
  have hs : s < 64 ∧ i < 2 ∧ m < 131072 := by
    obtain ⟨⟨hi, hs⟩, hm⟩ | ⟨⟨hi, hm⟩, hs⟩ := src
    · omega
    · have := le_56_of_portReadable hs
      omega
  obtain ⟨hs, hi, hm⟩ := hs
  simp only [moveOf, encodeMove, Move.mk.injEq]
  omega

/-- The fields of a well-formed microcommand's value are the microcommand's (15 R226). -/
theorem microOf_encodeMicro {x : Micro} (wf : x.wf = true) : microOf (encodeMicro x) = x := by
  obtain ⟨op, wr, acc, fmt, h⟩ := x
  simp only [Micro.wf, Bool.and_eq_true, decide_eq_true_eq] at wf
  simp only [microOf, encodeMicro, Micro.mk.injEq]
  omega

theorem decodeMove_encodeMove {x : Move} (wf : x.wf = true) : decodeMove (encodeMove x) = .ok (moveInstr x.d, x) := by
  simp only [decodeMove, moveOf_encodeMove wf, wf, beq_self_eq_true, Bool.and_self, if_true]

theorem decodeMicro_encodeMicro {x : Micro} (wf : x.wf = true) : decodeMicro (encodeMicro x) = .ok (microInstr x.op, x) := by
  simp only [decodeMicro, microOf_encodeMicro wf, wf, beq_self_eq_true, Bool.and_self, if_true]

-- the class of a word's shape (03 R51) ------------------------------------------------------------------------------------------

theorem cls_of_shapeAlu {w : Nat} {i : Instr} (shaped : shapeAlu w = some i) : i.cls = 0 := by
  unfold shapeAlu at shaped
  split at shaped
  case h_25 =>
    split at shaped
    case h_5 =>
      split at shaped
      case h_20 | h_46 | h_68 => split at shaped <;> cases shaped <;> rfl
      all_goals cases shaped <;> rfl
    all_goals cases shaped; rfl
  all_goals cases shaped; rfl

theorem cls_of_shapeMem {w : Nat} {i : Instr} (shaped : shapeMem w = some i) : i.cls = 1 := by
  unfold shapeMem at shaped
  split at shaped <;> cases shaped <;> rfl

theorem cls_of_shapeCtl {w : Nat} {i : Instr} (shaped : shapeCtl w = some i) : i.cls = 3 := by
  unfold shapeCtl at shaped
  split at shaped <;> cases shaped <;> rfl

theorem cls_of_shapeQue {w : Nat} {i : Instr} (shaped : shapeQue w = some i) : i.cls = 4 := by
  unfold shapeQue at shaped
  split at shaped
  case h_11 | h_12 => split at shaped <;> cases shaped <;> rfl
  all_goals cases shaped <;> rfl

theorem cls_of_shapeNmc {w : Nat} {i : Instr} (shaped : shapeNmc w = some i) : i.cls = 5 := by
  unfold shapeNmc at shaped
  split at shaped
  case h_7 => split at shaped <;> cases shaped <;> rfl
  all_goals cases shaped <;> rfl

theorem cls_of_shapeSys {w : Nat} {i : Instr} (shaped : shapeSys w = some i) : i.cls = 6 := by
  unfold shapeSys at shaped
  split at shaped <;> cases shaped <;> rfl

theorem cls_of_shapeHeader {w : Nat} {i : Instr} (shaped : shapeHeader w = some i) : i.cls = 7 := by
  cases shaped
  rfl

theorem cls_of_shape {c w : Nat} {i : Instr} (shaped : shape c w = some i) : i.cls = c := by
  unfold shape at shaped
  split at shaped
  · exact cls_of_shapeAlu shaped
  · exact cls_of_shapeMem shaped
  · exact cls_of_shapeMtx shaped
  · exact cls_of_shapeCtl shaped
  · exact cls_of_shapeQue shaped
  · exact cls_of_shapeNmc shaped
  · exact cls_of_shapeSys shaped
  · exact cls_of_shapeHeader shaped
  · cases shaped

/-- A word is accepted only as the well-formed instruction that encodes to it (03 R58). -/
theorem wf_and_encode_of_decode {c w : Nat} {i : Instr} (dec : decode c w = .ok i) : i.wf = true ∧ encode i = w := by
  simp only [decode, shape_of_decode dec] at dec
  split at dec
  next accepted => simpa using accepted
  next => split at dec <;> cases dec

end Sys2Proof.Layout

open Sys2Proof Sys2Proof.Claims Sys2Proof.Layout

/-- Settles O52: the fields of a move's word and of a microcommand's value are its own, and the decoder accepts nothing but an instruction's own
word, of the class whose shapes it asks. -/
theorem movesDecodeBackAndAcceptedWordsAreWellFormed : Obligations.MovesDecodeBackAndAcceptedWordsAreWellFormed := by
  refine ⟨fun x wf => decodeMove_encodeMove wf, fun x wf => decodeMicro_encodeMicro wf, fun c w i dec => ?_⟩
  obtain ⟨wf, word⟩ := wf_and_encode_of_decode dec
  exact ⟨wf, cls_of_shape (shape_of_decode dec), word⟩
end

section
/-!
SUPPORT. Words with a descriptor (15 R234, R369; 16 R245): the pointer's fault, the translation and the read of a descriptor, each once, and the
statement about the words that launch near-memory work and read its end.
-/
namespace Sys2Proof.Machine
open Sys2Proof.Claims

section Descriptor
variable {s t : State} {p : BitVec 64} {va need : Nat} {rd : Bool} {q : Piece} {k : State → Nat → State}

theorem descWord_of_fault {f : FaultInfo} (fault : s.descFault p = some f) : s.descWord p need k rd = s.raise f := by
  simp only [State.descWord, fault]

theorem descAt_of_placed (placed : PlacedAt s va need rd q) : s.descAt va need rd k = k s q.pa := by
  have mapped := placed.translated
  rw [State.descAt, translated_of_walked (by rw [mapped])]
  · simp [mapped, State.failing]
  · cases rd with
    | false => rfl
    | true => simp [mapped, placed.there]

theorem descWord_of_descAt (desc : DescAt s p need rd q) : s.descWord p need k rd = k s q.pa := by
  have sound : s.descFault p = none := by
    simp [State.descFault, desc.space, desc.rank, desc.aligned]
  simp only [State.descWord, sound]
  exact descAt_of_placed desc.placed

variable {pa : Nat} {no : State → State} {kw : State → List (BitVec 64) → State}

theorem descRead_of_refused {x : BitVec 1024}
    (line : s.readLine s.myTeam.vf (lineAt pa) s.myTeam.core s.cur.tid s.cur.coh = (t, x, none))
    (refused : (s.readRefusal s.myTeam.vf (lineAt pa) s.myTeam.core).any (fun x => x.tgt != 6) = true) :
    s.descRead pa no kw = no t := by
  simp only [State.descRead, line, refused, if_true]

theorem descRead_of_read {w : List (BitVec 64)} (read : DescRead s pa t w) : s.descRead pa no kw = kw t w := by
  obtain ⟨x, line, rfl⟩ := read.line
  simp only [State.descRead, line, read.allowed, Bool.false_eq_true, if_false]

/-- A word whose launch may not be in flight stands; else it reads its descriptor (15 R234). -/
theorem launchWord_of_full {s' : State} {act : State → Nat → State} (desc : DescAt s p need true q) (full : s.launchFree = false) :
    s.descWord p need (fun t pa => if !(t.launchFree) then s' else act t pa) = s' := by
  rw [descWord_of_descAt desc, full]
  rfl

theorem launchWord_of_free {s' : State} {act : State → Nat → State} (desc : DescAt s p need true q) (free : s.launchFree = true) :
    s.descWord p need (fun t pa => if !(t.launchFree) then s' else act t pa) = act s q.pa := by
  rw [descWord_of_descAt desc, free]
  rfl

end Descriptor

/-- The rows of a split product come in sixteens, 8192 at most (15 R236). -/
theorem badRows_iff {m : Nat} : (m % 16 != 0 || m = 0 || 8192 < m) = true ↔ ¬(m % 16 = 0 ∧ m ≠ 0 ∧ m ≤ 8192) := by
  simp only [Bool.or_eq_true, bne_iff_ne, decide_eq_true_eq]
  omega

end Sys2Proof.Machine

namespace Sys2Proof.Claims
open Sys2Proof.Machine

theorem launchWordsSend : LaunchWordsSend := by
  intro s t d a b q w p m nb legal
  have rows (ok : legal) : ¬(m % 16 != 0 || m = 0 || 8192 < m) = true := fun bad => badRows_iff.mp bad ok
  refine ⟨fun f fault => ⟨?_, ?_, fun ok => ?_⟩, fun bad => ?_, fun desc full => ⟨?_, ?_, fun ok => ?_⟩,
    fun x desc free line refused => ⟨?_, ?_, fun ok => ?_⟩, fun desc free read => ⟨?_, fun ok => ?_, fun q' u w' desc' read' => ?_⟩⟩
  -- a bad pointer
  · exact next_congr (descWord_of_fault fault)
  · exact next_congr (descWord_of_fault fault)
  · exact next_congr ((if_neg (rows ok)).trans (descWord_of_fault fault))
  · exact next_congr (if_pos (badRows_iff.mpr bad))
  -- no launch may be in flight
  · exact next_congr (launchWord_of_full desc full)
  · exact next_congr (launchWord_of_full desc full)
  · exact next_congr ((if_neg (rows ok)).trans (launchWord_of_full desc full))
  -- the read of the descriptor is refused
  · exact next_congr ((launchWord_of_free desc free).trans (descRead_of_refused line refused))
  · exact next_congr ((launchWord_of_free desc free).trans (descRead_of_refused line refused))
  · exact next_congr ((if_neg (rows ok)).trans ((launchWord_of_free desc free).trans (descRead_of_refused line refused)))
  -- the descriptor is read
  · exact next_congr ((launchWord_of_free desc free).trans (descRead_of_read read))
  · exact next_congr ((if_neg (rows ok)).trans ((launchWord_of_free desc free).trans (descRead_of_read read)))
  · exact next_congr ((launchWord_of_free desc free).trans ((descRead_of_read read).trans
      ((descAt_of_placed desc').trans (descRead_of_read read'))))

theorem launchStatusWords : LaunchStatusWords := by
  intro s t d a q w wait
  refine ⟨fun desc => ⟨fun u done live => ?_, fun pending => ?_⟩, fun desc read => ⟨fun free => ?_, fun free regs => ?_⟩⟩
  · refine next_congr ((descWord_of_descAt desc).trans ?_)
    simp only [done, live, wait]
    rfl
  · refine next_congr ((descWord_of_descAt desc).trans ?_)
    simp only [pending, wait]
  · refine next_congr ((descWord_of_descAt desc).trans ?_)
    simp only [free, descRead_of_read read]
    rfl
  · refine (checked_of_regsIn _ regs).trans (next_congr ((descWord_of_descAt desc).trans ?_))
    simp only [free, descRead_of_read read]
    rfl

end Sys2Proof.Claims

open Sys2Proof Sys2Proof.Machine Sys2Proof.Claims

/-- Settles O26: a word acts at its descriptor (`descWord_of_descAt`), and on the words that its read gives (`descRead_of_read`). -/
theorem nearMemoryLaunchWords : Obligations.NearMemoryLaunchWords := ⟨launchWordsSend, launchStatusWords⟩
end

section
/-!
SUPPORT. The moves of a pumphouse bundle (15 R229, R230): what a move comes to that performs, and one that its guard skips, and the statements
about the moves that compute, steer and access memory (16 R248).
-/
namespace Sys2Proof.Machine
open Sys2Proof.Claims

section Moves
variable {s : State} {pc : Nat} {m : Move} {r : Run} {v : BitVec 64}

/-- A move performs with the value of its source (15 R229). -/
theorem move_of_runs (k : State → Nat → Run → BitVec 64 → State) (runs : MoveRuns s pc m r v) : s.move k = .next (k s pc r v) := by
  obtain ⟨latched, running, guard, rfl⟩ := runs
  have passes : (decide (m.g = 1) && nbit r.old.c != m.e) = false := by
    by_cases guarded : m.g = 1
    · simp [guard guarded]
    · simp [guarded]
  simp only [State.move, latched, running, passes, Bool.false_eq_true, if_false]

theorem move_of_skipped (k : State → Nat → Run → BitVec 64 → State) (latched : s.mv = (pc, m)) (running : (s.pump pc).run = some r)
    (guarded : m.g = 1) (other : nbit r.old.c ≠ m.e) : s.move k = .next (s.moveDone pc) := by
  simp [State.move, latched, running, guarded, other]

theorem portMove_of_runs (f : Ports → BitVec 64 → Ports) (runs : MoveRuns s pc m r v) :
    s.portMove f = .next (portResult s pc (fun p => f p v)) := move_of_runs _ runs

theorem sfuMove_of_runs (f : Ports → BitVec 64 → BitVec 64) (runs : MoveRuns s pc m r v) :
    s.sfuMove f = .next (sfuResult s pc (fun p => f p v)) := move_of_runs _ runs

theorem runMove_of_runs (f : Run → BitVec 64 → Run) (runs : MoveRuns s pc m r v) :
    s.runMove f = .next (runResult s pc (fun r => f r v)) := move_of_runs _ runs

end Moves

-- a section's window (16 R248, R254) -----------------------------------------------------------------------------------------------------

section Window
variable {s u w : State} {pc pa d : Nat} {l : PumpLaunch} {v : BitVec 64}

theorem windowLoad_of_here (hu : (if (s.sectOf pc).spill then s else s.memFold pc pa) = u) (hd : (u.dramLine (lineAt pa)).getD 0 = d)
    (may : u.permits (128 + stackOf d) l.vf (0x80 + pc) 0 = true) (here : u.mscHas d = true)
    (sensed : u.sense l.vf 2 (stackOf d) d (lineAt pa) = (w, none)) :
    s.windowLoad pc l pa = w.windowBytes pc pa (lineBytes (w.dramNow d (lineAt pa)).1 (pa % 128) 8) := by
  subst hu hd
  simp only [State.windowLoad, State.baseDie, may, here, sensed, Bool.not_true, Bool.false_eq_true, if_false, if_true]

/-- The lines of a freeboard buffer. -/
def boardOf (s : State) (pc : Nat) : List Nat := dedup ((tsome (s.sectOf pc).board).map (fun b => lineAt b.1))

theorem boardStore_of_room (room : lineAt pa ∈ boardOf (s.memFold pc pa) pc ∨ (boardOf (s.memFold pc pa) pc).length < 512) :
    s.boardStore pc pa v = ((s.memFold pc pa).modSect pc (fun y => { y with
      board := (place pa (bytesOf 8 v)).foldl (fun b e => tset none b e.1 (some e.2)) y.board })).moveDone pc := by
  refine if_neg ?_
  rw [Bool.and_eq_true, Bool.not_eq_true', decide_eq_true_eq, ← Bool.not_eq_true, List.contains_iff_mem]
  exact fun ⟨new, full⟩ => room.elim new (Nat.not_lt.mpr full)

theorem boardStore_of_full (new : lineAt pa ∉ boardOf (s.memFold pc pa) pc) (full : 512 ≤ (boardOf (s.memFold pc pa) pc).length)
    (live : ((s.memFold pc pa).sectOf pc).abort = false) :
    s.boardStore pc pa v = (s.memFold pc pa).modSect pc (fun y => { y with
      phase := 3, outcome := 2, board := [], todo := (s.memFold pc pa).windowSlices ((s.memFold pc pa).sectOf pc) }) := by
  refine (if_pos ?_).trans (if_neg (by simp [live]))
  rw [Bool.and_eq_true, Bool.not_eq_true', decide_eq_true_eq, ← Bool.not_eq_true, List.contains_iff_mem]
  exact ⟨new, full⟩

theorem spillStore_of_allowed (hd : (s.dramLine (lineAt pa)).getD 0 = d) (may : s.permits (128 + stackOf d) l.vf (0x80 + pc) 1 = true)
    (keyed : s.keyless l.vf = false) :
    s.spillStore pc l pa v =
      let n := s.newOp { tid := l.tid, coh := 64, lanes := 1, kind := 1, left := 1, pump := some pc }
      ((n.1.modRun pc (fun r => { r with ops := n.2 :: r.ops })).sendWrite d (lineAt pa) l.vf (0x80 + pc) n.2
        (wbytes pa (bytesOf 8 v)) false).moveDone pc := by
  subst hd
  simp only [State.spillStore, State.baseDie, may, keyed, Bool.not_true, Bool.or_self, Bool.false_eq_true, if_false]

end Window

/-- Every move of a bundle is performed under its guard. -/
theorem exec_eq_move {i : Instr} (s : State) (move : i ∈ pumpMoves) : ∃ k, exec i s = s.move k := by
  simp only [pumpMoves, List.mem_cons, List.not_mem_nil, or_false] at move
  rcases move with rfl | rfl | rfl | rfl | rfl | rfl | rfl | rfl | rfl | rfl | rfl | rfl | rfl | rfl | rfl | rfl | rfl | rfl | rfl | rfl |
    rfl | rfl | rfl | rfl | rfl
  all_goals
    simp only [exec, execPumpMove, execAluadd, execAlusub, execAluand, execAluor, execAluxor, execAlushl, execAlushr, execAlusra, execAlumul,
      execCmpeq, execCmplt, execCmpltu, execSfufma, execSfucvt, execLdg, execLds, execStg, execSts, execBkc, execSluice, execPumpDone, execJump,
      execJrel, execDrain, State.portMove, State.sfuMove, State.runMove]
    exact ⟨_, rfl⟩

end Sys2Proof.Machine

namespace Sys2Proof.Claims
open Sys2Proof.Machine

theorem unitMovesCompute : UnitMovesCompute := by
  intro s pc m r v runs res k
  refine ⟨?_, (portMove_of_runs _ runs : execAluadd s = _), (portMove_of_runs _ runs : execAlusub s = _),
    (portMove_of_runs _ runs : execAluand s = _), (portMove_of_runs _ runs : execAluor s = _), (portMove_of_runs _ runs : execAluxor s = _),
    (portMove_of_runs _ runs : execAlushl s = _), (portMove_of_runs _ runs : execAlushr s = _), (portMove_of_runs _ runs : execAlusra s = _),
    (portMove_of_runs _ runs : execAlumul s = _), (portMove_of_runs _ runs : execCmpeq s = _), (portMove_of_runs _ runs : execCmplt s = _),
    (portMove_of_runs _ runs : execCmpltu s = _), (sfuMove_of_runs _ runs : execSfufma s = _), (sfuMove_of_runs _ runs : execSfucvt s = _)⟩
  refine (portMove_of_runs _ runs : execPumpMove s = _).trans ?_
  rw [runs.latched]
  rfl

theorem guardedMovesAreSkipped : GuardedMovesAreSkipped := by
  intro i s pc m r move latched running guarded other
  obtain ⟨k, word⟩ := exec_eq_move s move
  rw [word, move_of_skipped k latched running guarded other]

theorem controlMovesSteerTheProgram : ControlMovesSteerTheProgram := fun s _ _ _ _ runs =>
  ⟨(runMove_of_runs _ runs : execJump s = _), (runMove_of_runs _ runs : execJrel s = _), (runMove_of_runs _ runs : execDrain s = _),
    (runMove_of_runs _ runs : execSluice s = _), (runMove_of_runs _ runs : execPumpDone s = _)⟩

theorem memoryMovesAccess : MemoryMovesAccess := by
  intro s t pc pa k m r v runs
  dsimp only
  have lds := (move_of_runs _ runs : execLds s = _)
  have sts := (move_of_runs _ runs : execSts s = _)
  have ldg := (move_of_runs _ runs : execLdg s = _)
  have stg := (move_of_runs _ runs : execStg s = _)
  have bkc := (move_of_runs _ runs : execBkc s = _)
  refine ⟨fun ok sensed => lds.trans (next_congr ?_), fun x ok sensed => lds.trans (next_congr ?_), fun bad => lds.trans (next_congr ?_),
    fun ok => sts.trans (next_congr ?_), fun bad => sts.trans (next_congr ?_),
    fun bad => ldg.trans (next_congr ?_), fun ok mapped plain => ldg.trans (next_congr ?_), fun ok unmapped => ldg.trans (next_congr ?_),
    fun bad => stg.trans (next_congr ?_), fun ok mapped plain => stg.trans (next_congr ?_), fun ok unmapped => stg.trans (next_congr ?_),
    fun i x dec => ⟨fun bad => bkc.trans (next_congr ?_), fun ok full => bkc.trans (next_congr ?_), fun ok room => bkc.trans (next_congr ?_)⟩,
    fun e dec => bkc.trans (next_congr ?_)⟩
  -- LDS
  · simp only [ok, sensed, if_true]
  · simp only [ok, sensed, if_true]
  · simp only [bad, Bool.false_eq_true, if_false]
  -- STS
  · simp only [ok, if_true]
  · simp only [bad, Bool.false_eq_true, if_false]
  -- LDG
  · simp only [bad]; rfl
  · simp only [ok, mapped, plain]; rfl
  · simp only [ok, unmapped]; rfl
  -- STG
  · simp only [bad]; rfl
  · simp only [ok, mapped, plain]; rfl
  · simp only [ok, unmapped]; rfl
  -- BKC
  · simp only [dec, bad]; rfl
  · simp only [dec, ok, full]; rfl
  · simp only [dec, ok, Nat.not_le.mpr room]; rfl
  · simp only [dec]

theorem sectionMovesUseTheFreeboard : SectionMovesUseTheFreeboard := by
  intro s t pc pa k m r v x runs sect
  dsimp only
  have ldg := (move_of_runs _ runs : execLdg s = _)
  have stg := (move_of_runs _ runs : execStg s = _)
  refine ⟨fun inside ok mapped w may here sensed => ldg.trans (next_congr ?_), fun ok mapped =>
    ⟨fun inside optimistic => ⟨fun room => stg.trans (next_congr ?_), fun new full live => stg.trans (next_congr ?_)⟩,
      fun inside spill may keyed => stg.trans (next_congr ?_), fun outside => stg.trans (next_congr ?_)⟩⟩
  · simp only [ok, mapped, sect, Option.any_some, inside]
    exact windowLoad_of_here rfl rfl may here sensed
  · simp only [ok, mapped, sect, inside, optimistic]
    exact boardStore_of_room room
  · simp only [ok, mapped, sect, inside, optimistic]
    exact boardStore_of_full new full live
  · simp only [ok, mapped, sect, inside, spill]
    exact spillStore_of_allowed rfl may keyed
  · simp only [ok, mapped, sect, outside]
    rfl

end Sys2Proof.Claims

open Sys2Proof Sys2Proof.Machine Sys2Proof.Claims

/-- Settles O30: a move that its guard lets perform acts with its source's value (`move_of_runs`), and each unit's meaning is the statement's. -/
theorem unitAndControlMoves : Obligations.UnitAndControlMoves :=
  ⟨unitMovesCompute, guardedMovesAreSkipped, controlMovesSteerTheProgram⟩

/-- Settles O31: each access by its address, its translation and, in a section, its place in the window and the run's kind. That the wrong bits
of an SRAM word end when it is written is the model's choice (log entry 34). -/
theorem memoryAndSectionMoves : Obligations.MemoryAndSectionMoves := ⟨memoryMovesAccess, sectionMovesUseTheFreeboard⟩
end

section
/-!
SUPPORT. Microcommands at their banks (15 R227, R228, R237), the events of a bank between them and the normal commands of a channel (15 R238), and
the statement about them.
-/
namespace Sys2Proof.Machine
open Sys2Proof.Claims

@[simp] theorem arg_asked (s : State) (a : Nat) (as : List Nat) : (asked s (a :: as)).arg 0 = a := rfl

section Events
variable {s : State} {r : Row} {n : NReq}

theorem exec_bankSuspension_of_row {x : Nat} (row : ((asked s [x]).bank x).open? = some r) (wait : (asked s [x]).waitingAt x ≠ [])
    (free : (asked s [x]).bankHeld x = false) (due : max ((asked s [x]).bank x).busy (r.act + 32) ≤ (asked s [x]).dclk) :
    exec .bankSuspension (asked s [x]) = .next ((asked s [x]).setBank x { (asked s [x]).bank x with
      row := none, susp := some r, pre := (asked s [x]).dclk + 14, preBy := 128, busy := (asked s [x]).dclk + 1 }) := by
  have waits : ((asked s [x]).waitingAt x).isEmpty = false := List.isEmpty_eq_false_iff.mpr wait
  simp only [exec, execBankSuspension, arg_asked, row, waits, free, tRAS, Nat.not_lt.mpr due]
  rfl

/-- The deadline of a bank's waiting requests moves when its oldest is admitted (15 R238). -/
def State.deadlineMoved (s : State) (n : NReq) : State :=
  if (s.waitingAt n.bank).head? = some n then s.modBank n.bank (fun b => { b with since := s.dclk }) else s

theorem deadlineMoved_eq :
    (if (s.waitingAt n.bank).head? = some n then s.modBank n.bank (fun b => { b with since := s.dclk }) else s) = s.deadlineMoved n := rfl

theorem admitNormal_of_refused {ch : Nat} (no : s.mayNormal n = false) :
    s.admitNormal ch n = (s.deadlineMoved n).dropRefused ch n :=
  if_pos (by rw [no]; rfl)

theorem admitNormal_of_open {ch : Nat} (may : s.mayNormal n = true) (row : (s.bank n.bank).row.isSome = true) :
    s.admitNormal ch n = ((s.deadlineMoved n).takePath ch).lineCommand ch n :=
  (if_neg (by simp [may])).trans (if_pos row)

/-- The rights of a normal request are its function's on the row, whatever the bank and the channel do meanwhile (15 R237). -/
theorem mayNormal_admitting (ch : Nat) (row : Row) (y : NReq) :
    (((s.deadlineMoved n).takePath ch).modBank n.bank (fun b => { b with row := some row, busy := s.dclk + 1 })).mayNormal y =
      s.mayNormal y := by
  unfold State.deadlineMoved
  split <;> rfl

end Events

end Sys2Proof.Machine

namespace Sys2Proof.Claims
open Sys2Proof.Machine

theorem microcommandsAct : MicrocommandsAct := by
  intro s gb c
  dsimp only
  refine ⟨fun recalls => next_congr (if_pos (List.any_eq_true.mpr recalls)), fun head recalled => ?_, fun u e issues ready sensed => ?_,
    fun issues ready => ?_, fun head => ?_, fun issues => ?_⟩
  -- ACT
  · have recalled : ((asked s [gb]).bank gb).queue.any ((asked s [gb]).mayRecall gb) = false := by
      simpa using recalled
    refine ⟨fun row => ?_, fun closed unsuspended => ⟨fun no => ?_, fun may new => ?_, fun may old held => ?_, fun may old gone free => ?_⟩⟩
    · have row : (((asked s [gb]).bank gb).open?.isSome || ((asked s [gb]).bank gb).susp.isSome) = true := by
        rwa [Bool.or_eq_true, Option.isSome_iff_ne_none, Option.isSome_iff_ne_none]
      simp only [exec, execMicroAct, arg_asked, head, recalled, row, Bool.false_eq_true, if_false, if_true]
    · simp only [exec, execMicroAct, arg_asked, head, recalled, closed, unsuspended, no]
      rfl
    · simp only [exec, execMicroAct, arg_asked, head, recalled, closed, unsuspended, may, new]
      rfl
    · have held : ((asked s [gb]).recalling gb c.row || !((asked s [gb]).canIssue gb 0)) = true := by
        simpa using held
      simp only [exec, execMicroAct, arg_asked, head, recalled, closed, unsuspended, may, old, held]
      rfl
    · simp only [exec, execMicroAct, arg_asked, head, recalled, closed, unsuspended, may, old, gone, free]
      rfl
  -- MAC
  · obtain ⟨head, may⟩ := issues
    obtain ⟨unsuspended, compute, own⟩ := ready
    refine ⟨fun sound => ?_, fun x wrong => ?_⟩
    · simp only [exec, execMicroMac, arg_asked, head, unsuspended, compute, own, may, sensed, sound, Bool.not_true, Bool.false_eq_true, if_false]
    · simp only [exec, execMicroMac, arg_asked, head, unsuspended, compute, own, may, sensed, wrong, Bool.not_true, Bool.false_eq_true, if_false]
  -- WB
  · obtain ⟨head, may⟩ := issues
    obtain ⟨unsuspended, compute, own⟩ := ready
    refine ⟨fun keyed => ?_, fun keyless => ?_⟩
    · simp only [exec, execMicroWb, arg_asked, head, unsuspended, compute, own, may, Bool.not_true, Bool.false_eq_true, if_false]
      exact next_congr (if_neg (fun lost => Bool.false_ne_true (keyed.symm.trans lost)))
    · simp only [exec, execMicroWb, arg_asked, head, unsuspended, compute, own, may, keyless, Bool.not_true, Bool.false_eq_true, if_false, if_true]
  -- PRE
  · refine ⟨fun mine => ?_, fun other own may => ?_, fun other closed => ?_⟩
    · simp only [exec, execMicroPre, arg_asked, head, mine, if_true]
    · simp only [exec, execMicroPre, arg_asked, head, other, own, may, Bool.false_eq_true, if_false, if_true]
      rfl
    · simp only [exec, execMicroPre, arg_asked, head, other, closed, Bool.false_eq_true, if_false]
  -- CLR
  · obtain ⟨head, may⟩ := issues
    simp only [exec, execMicroClr, arg_asked, head, may, Bool.not_true, Bool.false_eq_true, if_false]

theorem bankEventsInterleave : BankEventsInterleave := by
  intro s x r n
  dsimp only
  refine ⟨exec_bankSuspension_of_row, fun susp quiet closed kept due => ?_, fun next waits => ?_, fun next admitted => ?_, fun gb next => ?_⟩
  · have due := Nat.not_lt.mpr due
    refine ⟨fun no => ?_, fun may wr window => ?_, fun may outside => ?_⟩
    · simp only [exec, execBankResumption, arg_asked, susp, quiet, closed, kept, due, no]
      rfl
    · have inside : (r.wr && (asked s [x]).rowInWindow x r.row) = true := by
        simp [wr, window]
      simp only [exec, execBankResumption, arg_asked, susp, quiet, closed, kept, due, may, inside]
      rfl
    · have outside : (r.wr && (asked s [x]).rowInWindow x r.row) = false := by
        simpa using outside
      refine ⟨fun new => ?_, fun old held => ?_, fun old gone duty => ?_⟩
      · simp only [exec, execBankResumption, arg_asked, susp, quiet, closed, kept, due, may, outside, new]
        rfl
      · have held : ((asked s [x]).recalling x r.row || (asked s [x]).bd ≤ (asked s [x]).dclk % 16) = true := by
          simpa using held
        simp only [exec, execBankResumption, arg_asked, susp, quiet, closed, kept, due, may, outside, old, held]
        rfl
      · simp only [exec, execBankResumption, arg_asked, susp, quiet, closed, kept, due, may, outside, old, gone, Nat.not_le.mpr duty]
        rfl
  · simp only [exec, execNormalRequestAdmission, arg_asked, next, waits, deadlineMoved_eq, mayNormal_admitting, Bool.false_eq_true, if_false]
    refine next_congr ?_
    cases may : (asked s [x]).mayNormal n with
    | false => exact admitNormal_of_refused may
    | true =>
      by_cases row : ((asked s [x]).bank n.bank).row.isSome = true
      · simp only [row, if_true]
        exact admitNormal_of_open may row
      · simp only [row, if_true, Bool.false_eq_true, if_false]
        simp only [State.admitNormal, may, row]
        rfl
  · simp only [exec, execNormalCommandIssue, arg_asked, next, admitted, if_true]
  · simp only [exec, execNormalCommandIssue, arg_asked, next]
    rfl

theorem lineCommandsMoveLines : LineCommandsMoveLines := by
  intro s ch d n place
  have there : (((s.dropNormal ch n).modBank n.bank (fun b => { b with busy := s.dclk + 4 })).dramLine n.line) = some d := place
  refine ⟨fun reads => ?_, fun ws writes => ?_⟩
  · simp only [State.lineCommand, reads, there]
  · simp only [State.lineCommand, writes, there]

end Sys2Proof.Claims

open Sys2Proof Sys2Proof.Machine Sys2Proof.Claims

/-- Settles O32, by what a bank's head, a bank's events and a channel's next command come to. That a place's wrong bits end, or come with a line
that is written back, when it is written whole is the model's choice (log entry 34). -/
theorem microcommandsAndLinesMove : Obligations.MicrocommandsAndLinesMove := ⟨microcommandsAct, bankEventsInterleave, lineCommandsMoveLines⟩
end

section
/-!
SUPPORT. The start of a pumphouse launch, of a program, a split product or a section (15 R231; 16 R246), and its end (15 R232, R233; 16 R255), and
the statement about them.
-/
namespace Sys2Proof.Claims
open Sys2Proof.Machine

theorem launchesStart : LaunchesStart := by
  intro s pc l
  dsimp only
  intro head free
  refine ⟨fun plain => ⟨fun gone => ?_, fun live mute => ?_, fun live heard no => ?_, fun live heard may =>
      ⟨fun split ok => ?_, fun split bad => ?_, fun program bad => ?_, fun t m program ok loaded => ?_, fun t c program ok unloaded => ?_⟩⟩,
    fun sect => ⟨fun gone => ?_, fun live no => ?_, fun live may bad => ?_, fun live may sectOk pumpOk =>
      ⟨fun t unmapped => ?_, fun t u m runs mapped loaded => ?_⟩⟩⟩
  · simp only [exec, execPumpLaunchStart, arg_asked, head, free, plain, gone]
    rfl
  · simp only [exec, execPumpLaunchStart, arg_asked, head, free, plain, live, mute]
    rfl
  · simp only [exec, execPumpLaunchStart, arg_asked, head, free, plain, live, heard, no]
    rfl
  · simp only [exec, execPumpLaunchStart, arg_asked, head, free, live, heard, may, split, ok]
    rfl
  · simp only [exec, execPumpLaunchStart, arg_asked, head, free, live, heard, may, split, bad]
    rfl
  · simp only [exec, execPumpLaunchStart, arg_asked, head, free, plain, live, heard, may, program, bad]
    rfl
  · simp only [exec, execPumpLaunchStart, arg_asked, head, free, plain, live, heard, may, program, ok, loaded]
    rfl
  · simp only [exec, execPumpLaunchStart, arg_asked, head, free, plain, live, heard, may, program, ok, unloaded]
    cases c <;> rfl
  · simp only [exec, execSectionStart, arg_asked, head, free, sect, gone]
    rfl
  · simp only [exec, execSectionStart, arg_asked, head, free, sect, live, no]
    rfl
  · have bad : (!(sectDescOk l.swords) || !(pumpDescOk l.words)) = true := by
      simpa using bad
    simp only [exec, execSectionStart, arg_asked, head, free, sect, live, may, bad]
    rfl
  · simp only [exec, execSectionStart, arg_asked, head, free, sect, live, may, sectOk, pumpOk, unmapped]
    rfl
  · simp only [exec, execSectionStart, arg_asked, head, free, sect, live, may, sectOk, pumpOk, mapped, loaded]
    rfl

section End
variable {s : State} {pc code : Nat} {r : Run}

/-- A launch has run its clocks, when no sluice has its outcome to complete first (15 R232, R233). -/
theorem limitOver_of_late (program : r.launch.kind ≠ 1) (limited : fld (r.launch.word 1) 24 5 ≠ 0) (running : r.ended = none)
    (settled : r.launch.kind = 2 → ¬((s.sectOf pc).phase = 2 ∨ (s.sectOf pc).phase = 3 ∧ (s.sectOf pc).outcome ≤ 1))
    (late : r.start + 2 ^ fld (r.launch.word 1) 24 5 ≤ s.pclk) : s.limitOver pc r = true := by
  have free : (decide (r.launch.kind = 2) && (decide ((s.sectOf pc).phase = 2) ||
      decide ((s.sectOf pc).phase = 3) && decide ((s.sectOf pc).outcome ≤ 1))) = false := by
    rw [Bool.and_eq_false_imp]
    intro sect
    simpa using settled (of_decide_eq_true sect)
  simp only [State.limitOver, running, free]
  simp [program, limited, late]

/-- An ended launch leaves its core when its accesses, its clean outcome, its rows and its microcommands are done (15 R232; 16 R255). -/
theorem exec_pumpLaunchEnd_of_done (waits : ((asked s [pc]).pump pc).nodes.find? (fun e => (asked s [pc]).ended [e.1]) = none)
    (running : ((asked s [pc]).pump pc).run = some r) (ended : r.ended = some code)
    (clear : ∀ e ∈ tsome (asked s [pc]).ops, e.2.pump = some pc → e.2.coh = 64 → ¬e.2.kind ≤ 1)
    (settled : r.launch.kind = 2 → ((asked s [pc]).sectOf pc).phase = 3 → ((asked s [pc]).sectOf pc).outcome = 0 →
      ((asked s [pc]).sectOf pc).todo = [] ∧ ((asked s [pc]).sectOf pc).lifts = [])
    (closed : ((asked s [pc]).closeRows pc).openRows pc = []) (drained : ((asked s [pc]).closeRows pc).bkq pc = 0) :
    exec .pumpLaunchEnd (asked s [pc]) = .next (((asked s [pc]).closeRows pc).leavePump pc r code) := by
  simp only [exec, execPumpLaunchEnd, arg_asked, waits, running, ended, closed, drained]
  refine next_congr (if_neg ?_)
  simp only [List.isEmpty_nil, Bool.not_true, bne_self_eq_false, Bool.or_false, Bool.or_eq_true, not_or, List.any_eq_true, Bool.and_eq_true,
    decide_eq_true_eq]
  refine ⟨fun ⟨e, unfinished, ⟨own, access⟩, program⟩ => clear e unfinished (of_decide_eq_true own) program access,
    fun ⟨⟨⟨sect, phase⟩, clean⟩, busy⟩ => ?_⟩
  obtain ⟨todo, lifts⟩ := settled sect (of_decide_eq_true phase) (of_decide_eq_true clean)
  rw [todo, lifts] at busy
  exact Bool.false_ne_true busy

end End

theorem launchesEnd : LaunchesEnd := by
  intro s pc code r
  dsimp only
  -- the last clause is `leavePump` written out
  refine ⟨fun running program limited going settled late => ?_, fun o g n c acked => ?_, fun waits running ended clear settled closed drained =>
    (exec_pumpLaunchEnd_of_done waits running ended clear settled closed drained).trans rfl⟩
  · simp only [exec, execPumpLimitTimeout, arg_asked, running, limitOver_of_late program limited going settled late, if_true]
  · simp only [exec, execPumpLaunchEnd, arg_asked, acked]

end Sys2Proof.Claims

open Sys2Proof Sys2Proof.Machine Sys2Proof.Claims

/-- Settles O33: a start by the checks in their order, an end by what the launch still waits for. That a section descriptor's reserved bytes are
checked, and that a core's memories are right after they have been loaded, are the model's choices (log entries 31, 34). -/
theorem launchesStartAndEnd : Obligations.LaunchesStartAndEnd := ⟨launchesStart, launchesEnd⟩
end

section
/-!
SUPPORT. The steps that are no issue of a word (15 R224, R229; 25 R350, R358; 02 R36): what the grouping stages owe first, the action at the head
of the agenda, and the statement about them.
-/
namespace Sys2Proof.Claims
open Sys2Proof.Machine

section Step
variable {s : State} {a b : Action} {as : List Action}

theorem step_of_owed (agenda : s.agenda = a :: as) (owed : s.owed a = some b) : step s = s.perform b := by
  simp only [step, agenda, owed]

/-- A step whose action nothing must precede. -/
theorem step_of_free (agenda : s.agenda = a :: as) (free : s.owed a = none) :
    step s = ended { s with agenda := as } (({ s with agenda := as } : State).act a) := by
  simp only [step, agenda, free]
  rfl

theorem step_of_act {o : Out} (agenda : s.agenda = a :: as) (free : s.owed a = none) (act : ({ s with agenda := as } : State).act a = o) :
    step s = ended { s with agenda := as } o := act ▸ step_of_free agenda free

theorem owed_of_noOffer (a : Action) (none_ : s.nextOffer = none) : s.owed a = none := by
  unfold State.owed
  split
  · rfl
  · exact none_

/-- The cores of a stopped module offer nothing (25 R358). -/
theorem nextOffer_of_stopped (stopped : s.stopped = true) : s.nextOffer = none := if_pos stopped

/-- An event is its instruction's meaning; that of a gated stream is an issue besides (08 R149). -/
theorem act_event {t : State} {i : Instr} (args : List Nat) (event : i.cls = 10) (other : i ≠ .gateAccept) :
    t.act (.event i args) = exec i { t with args := args } := by
  unfold State.act
  split
  case h_6 same => exact absurd (Action.event.inj same).1 other
  case h_7 same =>
    obtain ⟨rfl, rfl⟩ := Action.event.inj same
    exact if_pos event
  all_goals next same => cases same

section Bundle
variable {t u : State} {pc : Nat} {i : Instr}

theorem act_bundle_of_run (runs : t.stopped = false) (move : t.nextMove pc = .run i u) : t.act (.bundle pc) = exec i u := by
  refine (if_neg (by rw [runs]; exact Bool.false_ne_true)).trans ?_
  simp only [State.bundleStep, move]

theorem act_bundle_of_done (runs : t.stopped = false) (move : t.nextMove pc = .done u) : t.act (.bundle pc) = .next u := by
  refine (if_neg (by rw [runs]; exact Bool.false_ne_true)).trans ?_
  simp only [State.bundleStep, move]

end Bundle

end Step

end Sys2Proof.Claims

open Sys2Proof Sys2Proof.Machine Sys2Proof.Claims

/-- Settles O56: a step by the action at the head of the agenda (`step_of_act`). That a step with an empty agenda takes the first move of the
model's own order is the model's choice (log entry 1). -/
theorem stepRunsMovesCommandsAndEvents : Obligations.StepRunsMovesCommandsAndEvents := by
  intro s u as pc gb fn i args c
  dsimp only
  refine ⟨fun a b agenda owed => step_of_owed agenda owed, fun none_ => ?_, fun clock port tid coh lane issues stopped => ?_, fun empty => ?_⟩
  · have free (a : Action) : s.owed a = none := owed_of_noOffer a none_
    refine ⟨fun agenda runs move => step_of_act agenda (free _) ?_, fun agenda runs move => step_of_act agenda (free _) ?_,
      fun agenda head => step_of_act agenda (free _) ?_, fun agenda next kind => step_of_act agenda (free _) ?_,
      fun agenda next kind => step_of_act agenda (free _) ?_, fun agenda event other => step_of_act agenda (free _) (act_event args event other),
      fun tid coh lane agenda runs => step_of_act agenda (free _) ?_, fun x agenda => step_of_free agenda (free _),
      fun agenda => step_of_free agenda (free _)⟩
    · exact act_bundle_of_run runs move
    · exact act_bundle_of_done runs move
    · simp only [State.act, State.bankStep, head]
    · simp only [State.act, State.takeNext, next, kind]
    · simp only [State.act, State.takeNext, next, kind]
    · exact if_neg (by rw [runs]; exact Bool.false_ne_true)
  · have free (a : Action) : s.owed a = none := owed_of_noOffer a (nextOffer_of_stopped stopped)
    obtain agenda | agenda | agenda := issues
    · exact step_of_act agenda (free _) (if_pos stopped)
    · exact step_of_act agenda (free _) (if_pos stopped)
    · exact step_of_act agenda (free _) (if_pos stopped)
  · simp only [step, empty]
end

section
/-!
SUPPORT. The events of a memory-side section (16 R244 to R254; 13 R219): what its window slices report, what its sluice decides, and the statement
about them.
-/
namespace Sys2Proof.Machine
open Sys2Proof.Claims

@[simp] theorem arg_one_asked (s : State) (a b : Nat) (as : List Nat) : (asked s (a :: b :: as)).arg 1 = b := rfl

section Outcome
variable {s : State} {pc sl : Nat} {x : Section} {r : Run}

/-- The outcome reaches a window slice that has yet to report, which is then done (16 R250, R251). -/
theorem outcomeAtWindowSlice_of_due (sect : ((asked s [pc, sl]).pump pc).sect = some x) (running : ((asked s [pc, sl]).pump pc).run = some r)
    (phase : x.phase = 3) (due : sl ∈ x.todo) :
    exec .outcomeAtWindowSlice (asked s [pc, sl]) =
      let t := (asked s [pc, sl]).modSect pc (fun x => { x with todo := x.todo.erase sl })
      .next (if x.outcome = 0 then t.cleanOutcome pc sl x r.launch else t.breachOutcome pc sl x) := by
  simp only [exec, execOutcomeAtWindowSlice, arg_asked, arg_one_asked, sect, running]
  exact next_congr ((if_neg (by simp [phase])).trans (if_pos (by simp [due])))

/-- A slice clears its HOLD when every slice has its outcome and no older L1 copy is left (13 R219). -/
theorem outcomeAtWindowSlice_of_lift (sect : ((asked s [pc, sl]).pump pc).sect = some x) (running : ((asked s [pc, sl]).pump pc).run = some r)
    (phase : x.phase = 3) (all : x.todo = []) (lift : sl ∈ x.lifts) (gone : ∀ i ∈ x.invs, tget none (asked s [pc, sl]).invs i = none) :
    exec .outcomeAtWindowSlice (asked s [pc, sl]) =
      .next (((asked s [pc, sl]).modSect pc (fun x => { x with lifts := x.lifts.erase sl })).clearHold sl pc) := by
  simp only [exec, execOutcomeAtWindowSlice, arg_asked, arg_one_asked, sect, running]
  exact next_congr ((if_neg (by simp [phase])).trans ((if_neg (by simp [all])).trans (if_pos (by simpa [all, lift] using gone))))

/-- A section whose segment was not clean replays it, when every slice has reported (16 R251, R252, R254). -/
theorem segmentReplay_of_reported (sect : ((asked s [pc, sl]).pump pc).sect = some x) (running : ((asked s [pc, sl]).pump pc).run = some r)
    (phase : x.phase = 3) (unclean : x.outcome ≠ 0) (all : x.todo = []) :
    exec .segmentReplay (asked s [pc, sl]) =
      let t := (asked s [pc, sl]).modSect pc (fun x => { x with
        rcnt := x.rcnt + 1, replays := min (x.replays + 1) (2 ^ 32 - 1), isOver := false })
      .next (if x.outcome = 2 then
          if x.abort || r.ended.isSome then ((asked s [pc, sl]).modSect pc (fun x => { x with phase := 1 })).endRun pc 8
          else ((asked s [pc, sl]).restoreSect pc).nextRun pc true
        else if x.abort || r.ended.isSome then (t.modSect pc (fun x => { x with phase := 1 })).endRun pc 8
        else (t.restoreSect pc).nextRun pc (x.rcnt + 1 = x.limit)) := by
  simp only [exec, execSegmentReplay, arg_asked, sect, running]
  exact next_congr (if_neg (by simp [phase, unclean, all]))

end Outcome

end Sys2Proof.Machine

namespace Sys2Proof.Claims
open Sys2Proof.Machine

theorem windowSlicesReport : WindowSlicesReport := by
  intro s pc sl x r
  dsimp only
  intro sect running
  refine ⟨fun phase head room going => ?_, fun phase due => ?_, fun phase due => ?_⟩
  -- a claim
  · simp only [exec, execSliceClaim, arg_asked, arg_one_asked, sect, running]
    exact next_congr (if_neg (by simp [phase, head, Nat.not_le.mpr room, going]))
  -- a snapshot
  · simp only [exec, execSliceSnapshot, arg_asked, arg_one_asked, sect]
    exact next_congr (if_neg (by simp [phase, due]))
  -- a spill request
  · simp only [exec, execSpillRequest, arg_asked, arg_one_asked, sect]
    exact next_congr (if_neg (by simp [phase, due]))

theorem sluicesDecide : SluicesDecide := by
  intro s pc sl x r
  dsimp only
  intro sect running
  refine ⟨fun phase all => ?_, fun phase due => ⟨fun clean => ?_, fun breach => ?_⟩, fun phase all lift gone => ?_,
    fun phase clean all lifted acked => ?_, fun phase breach all => ?_, fun phase overflow all => ?_⟩
  -- the outcome
  · simp only [exec, execSluiceOutcome, arg_asked, sect]
    exact next_congr (if_neg (by simp [phase, all]))
  -- the outcome at a window slice
  · exact (outcomeAtWindowSlice_of_due sect running phase due).trans (next_congr (if_pos clean))
  · exact (outcomeAtWindowSlice_of_due sect running phase due).trans (next_congr (if_neg breach))
  -- HOLD clears
  · exact outcomeAtWindowSlice_of_lift sect running phase all lift gone
  -- the commit
  · simp only [exec, execSegmentCommit, arg_asked, sect, running]
    exact next_congr (if_neg (by simp [phase, clean, all, lifted, acked]))
  -- the replay
  · exact (segmentReplay_of_reported sect running phase (by simp [breach]) all).trans (next_congr (if_neg (by simp [breach])))
  · exact (segmentReplay_of_reported sect running phase (by simp [overflow]) all).trans (next_congr (if_pos overflow))

end Sys2Proof.Claims

open Sys2Proof Sys2Proof.Machine Sys2Proof.Claims

/-- Settles O34: each event acts when its section is at its phase and its slice is due. That HOLD stays until no L1 keeps an older copy of a line is
the model's reading of R219 (log entry 44). -/
theorem sectionEvents : Obligations.SectionEvents := ⟨windowSlicesReport, sluicesDecide⟩
end

section
/-!
SUPPORT. Host writes of a function's registers (25 R348), the bring-up's chunks and objects (25 R353, R354), and the statements about them, about the
governor (25 R357, R358) and about the reset values.
-/
namespace Sys2Proof.Machine
open Sys2Proof.Claims

@[simp] theorem arg_two_asked (s : State) (a b c : Nat) (as : List Nat) : (asked s (a :: b :: c :: as)).arg 2 = c := rfl

theorem State.barWrite_of_served {s : State} (f : Fn → Nat → Fn) (served : s.serves (s.arg 0) = true) :
    s.barWrite f = .next (s.setFn (s.arg 0) (f (s.fn (s.arg 0)) (s.arg 1))) := next_congr (if_pos served)

theorem State.barWrite_of_unserved {s : State} (f : Fn → Nat → Fn) (unserved : s.serves (s.arg 0) = false) : s.barWrite f = .next s :=
  next_congr (if_neg (by simp [unserved]))

theorem lgdOf_zero (top : Nat) : lgdOf 0 top = 0 := rfl

theorem lgdOf_of_ne {v top : Nat} (set_ : v ≠ 0) : lgdOf v top = max 4 (min v top) := if_neg set_

theorem lgdOf_ne_zero {v top : Nat} (set_ : v ≠ 0) : lgdOf v top ≠ 0 := by
  rw [lgdOf_of_ne set_]
  omega

/-- A write of a queue's LGD: 0 disables the queue, another value enables a disabled one (25 R348). -/
theorem lgdWrite_eq {α : Type} (v top : Nat) (disabled kept : α) (enabled : Nat → α) (off : Prop) [Decidable off] :
    (if lgdOf v top = 0 then disabled else if off then enabled (lgdOf v top) else kept) =
      if v = 0 then disabled else if off then enabled (max 4 (min v top)) else kept := by
  by_cases zero : v = 0
  · rw [zero, lgdOf_zero, if_pos rfl, if_pos rfl]
  · rw [if_neg (lgdOf_ne_zero zero), if_neg zero, lgdOf_of_ne zero]

section Register
variable {s : State}

theorem exec_registerWrite_of_served (served : s.serves (s.arg 0) = true) : exec .registerWrite s = .next (
    if s.arg 0 = 0 ∧ s.arg 1 = 0x090 then { s with elrd := BitVec.ofNat 32 (s.arg 2) }
    else if s.arg 0 = 0 ∧ 0x180000 ≤ s.arg 1 ∧ s.arg 1 + 8 ≤ 0x200000 then
      { s with stage := memWrite s.stage (s.arg 1 - 0x180000) (bytesOf 8 (BitVec.ofNat 64 (s.arg 2))) }
    else s.setFn (s.arg 0) ((s.fn (s.arg 0)).write (s.arg 1) (s.arg 2))) := by
  refine next_congr ((if_neg (by simp [served])).trans ?_)
  simp only [Bool.and_eq_true, decide_eq_true_eq, and_assoc]

theorem exec_registerWrite_of_unserved (unserved : s.serves (s.arg 0) = false) : exec .registerWrite s = .next s :=
  next_congr (if_pos (by simp [unserved]))

theorem exec_perfselWrite_of_slot (core : s.arg 0 < 128) (slot : s.arg 1 < 16) : exec .perfselWrite s =
    .next (s.modCore (s.arg 0) (fun c => { c with
      perfsel := tset 0 c.perfsel (s.arg 1) (BitVec.ofNat 64 (s.arg 2 % 2 ^ 12)), perfc := tset 0 c.perfc (s.arg 1) 0 })) :=
  next_congr (if_neg (by simp [core, slot]))

theorem exec_thermalTrip_of_hot (hot : s.tjmax + 15 ≤ s.arg 1) (operating : s.mstate = 2) (going : s.stopped = false) :
    exec .thermalTrip s =
      .next (({ s with stopped := true } : State).elog (rec512 [0x13 + 6 * 2 ^ 16 + s.arg 0 * 2 ^ 19, 0, s.timebase.toNat, s.arg 1])) :=
  next_congr (if_neg (by simp [hot, operating, going]))

end Register

section Load
variable {s : State} {obj : Nat}

/-- A chunk that the module takes in its MSTATE (25 R354). -/
def State.takesChunk (s : State) (obj len : Nat) : Prop :=
  s.mstate = obj ∧ 8 ≤ len ∧ len ≤ 524288 ∧ len % 8 = 0 ∧ s.ldstate ≠ 1 ∧ (s.ldstate = 2 → s.objKind = obj)

theorem loadChunk_of_failed (failed : s.mstate = 3) : s.loadChunk obj = s := if_pos failed

theorem not_takesChunk_iff : (s.mstate != obj || decide (s.arg 0 < 8) || decide (524288 < s.arg 0) || s.arg 0 % 8 != 0 || decide (s.ldstate = 1) ||
    (decide (s.ldstate = 2) && s.objKind != obj)) = true ↔ ¬s.takesChunk obj (s.arg 0) := by
  simp only [State.takesChunk, Bool.or_eq_true, Bool.and_eq_true, bne_iff_ne, decide_eq_true_eq]
  grind

theorem loadChunk_of_unfit (going : s.mstate ≠ 3) (unfit : ¬s.takesChunk obj (s.arg 0)) : s.loadChunk obj = s.loadFails 5 :=
  (if_neg going).trans (if_pos (not_takesChunk_iff.mpr unfit))

theorem loadChunk_of_fit (going : s.mstate ≠ 3) (fit : s.takesChunk obj (s.arg 0)) : s.loadChunk obj =
    { (if s.ldstate = 2 then s else { s with object := [], objLen := 0 }) with objKind := obj, ldstate := 1, ldchunk := (s.arg 0, s.arg 1 != 0) } := by
  refine (if_neg going).trans ((if_neg (fun bad => not_takesChunk_iff.mp bad fit)).trans ?_)
  by_cases more : s.ldstate = 2
  · rw [if_pos more]
  · rw [if_neg more]
    rfl

/-- The object with the chunk that has been taken (25 R354). -/
def State.chunkTaken (s : State) : State :=
  { s with object := memWrite s.object s.objLen (memBytes s.stage 0 s.ldchunk.1), objLen := s.objLen + s.ldchunk.1 }

theorem closeLoad_of_taking (taking : s.ldstate = 1) : s.closeLoad =
    if !s.ldchunk.2 then { s.chunkTaken with ldstate := 2 } else if s.objKind = 0 then s.chunkTaken.startImage else s.chunkTaken.applyBlob :=
  if_neg (by simp [taking])

theorem closeLoad_of_more (taking : s.ldstate = 1) (more : s.ldchunk.2 = false) : s.closeLoad = { s.chunkTaken with ldstate := 2 } :=
  (closeLoad_of_taking taking).trans (if_pos (by simp [more]))

theorem closeLoad_of_image (taking : s.ldstate = 1) (last : s.ldchunk.2 = true) (image : s.objKind = 0) :
    s.closeLoad = s.chunkTaken.startImage :=
  (closeLoad_of_taking taking).trans ((if_neg (by simp [last])).trans (if_pos image))

theorem closeLoad_of_blob (taking : s.ldstate = 1) (last : s.ldchunk.2 = true) (blob : s.objKind = 1) :
    s.closeLoad = s.chunkTaken.applyBlob :=
  (closeLoad_of_taking taking).trans ((if_neg (by simp [last])).trans (if_neg (by simp [blob])))

theorem startImage_eq : s.startImage =
    if headerErr s.loaded 0x56465A4F none ≠ 0 then s.loadFails (headerErr s.loaded 0x56465A4F none)
    else if Ecdsa.signed Config.fusedKey s.loaded = false then s.loadFails 3
    else { s with mstate := 1, ldstate := 0, object := [], objLen := 0 } := by
  simp only [State.startImage, bne_iff_ne, Bool.not_eq_true']

/-- The state of a module that has applied its blob (25 R353, R354). -/
def State.configured (s : State) : State :=
  let n (o k : Nat) : Nat := ofLeBytes ((s.loaded.drop o).take k)
  { s with
    mstate := 2, ldstate := 0, object := [], objLen := 0
    pcap := n 0x10 2, mfloor := n 0x12 1, tjmax := n 0x13 1, nvf := n 0x14 1, self := n 0x15 1
    portmap := (List.range 256).foldl (fun t m => tset 0xFF t m (n (0x18 + m) 1)) []
    resetKey := Config.resetKey s.freeCtr, freeCtr := s.freeCtr + 1 }

theorem applyBlob_eq : s.applyBlob =
    if headerErr s.loaded 0x42465A4F (some 0x178) ≠ 0 then s.loadFails (headerErr s.loaded 0x42465A4F (some 0x178))
    else if blobOk s.loaded = false then s.loadFails 4
    else if Ecdsa.signed Config.fusedKey s.loaded = false then s.loadFails 3
    else s.configured := by
  simp only [State.applyBlob, bne_iff_ne, Bool.not_eq_true']
  rfl

theorem configured_portmap {m : Nat} (port : m < 256) :
    tget 0xFF s.configured.portmap m = ofLeBytes ((s.loaded.drop (0x18 + m)).take 1) := by
  have written : s.configured.portmap =
      (List.range 256).foldl (fun t m => tset 0xFF t (0 + m) (ofLeBytes ((s.loaded.drop (0x18 + m)).take 1))) [] := by
    simp only [State.configured, Nat.zero_add]
  rw [written, tget_foldl_tset_range, if_pos ⟨Nat.zero_le m, by omega⟩, Nat.sub_zero]

theorem closeLoad_of_configured (taking : s.ldstate = 1) (last : s.ldchunk.2 = true) (blob : s.objKind = 1)
    (header : headerErr s.chunkTaken.loaded 0x42465A4F (some 0x178) = 0) (fields : blobOk s.chunkTaken.loaded = true)
    (signed : Ecdsa.signed Config.fusedKey s.chunkTaken.loaded = true) : s.closeLoad = s.chunkTaken.configured := by
  rw [closeLoad_of_blob taking last blob, applyBlob_eq, if_neg (Classical.not_not.mpr header), if_neg (by simp [fields]), if_neg (by simp [signed])]

end Load

end Sys2Proof.Machine

namespace Sys2Proof.Claims
open Sys2Proof.Machine

theorem bringUpLoadsAndResets : BringUpLoadsAndResets := by
  intro s len last
  dsimp only
  refine ⟨fun going => ⟨fun fit => next_congr (loadChunk_of_fit going fit), fun fit => next_congr (loadChunk_of_fit going fit),
      fun unfit => next_congr (loadChunk_of_unfit going unfit), fun unfit => next_congr (loadChunk_of_unfit going unfit)⟩,
    fun failed => ⟨next_congr (loadChunk_of_failed failed), next_congr (loadChunk_of_failed failed)⟩,
    closeLoad_of_more, fun taking last image => (closeLoad_of_image taking last image).trans startImage_eq, fun taking last blob => ?_, rfl⟩
  have applied := (closeLoad_of_blob taking last blob).trans applyBlob_eq
  refine ⟨fun header => applied.trans (if_pos header), fun header fields => ?_, fun header fields unsigned => ?_, fun header fields signed => ?_⟩
  · exact applied.trans ((if_neg (Classical.not_not.mpr header)).trans (if_pos fields))
  · exact applied.trans ((if_neg (Classical.not_not.mpr header)).trans ((if_neg (ne_false_of_eq_true fields)).trans (if_pos unsigned)))
  · rw [closeLoad_of_configured taking last blob header fields signed]
    exact ⟨rfl, rfl, rfl, rfl, rfl, rfl, rfl, fun m port => configured_portmap port⟩

theorem governorAndTrip : GovernorAndTrip := by
  intro s p temp
  dsimp only
  refine ⟨fun late operating => next_congr (if_neg ?_), fun early => next_congr (if_pos ?_), exec_thermalTrip_of_hot, rfl⟩
  · simp [late, operating]
  · simpa using early

end Sys2Proof.Claims

open Sys2Proof Sys2Proof.Machine Sys2Proof.Claims

/-- Settles O57: each register and table at its reset value; an empty table reads its default. -/
theorem resetValues : Obligations.ResetValues := by
  refine ⟨rfl, fun f => ⟨rfl, rfl, rfl, rfl, rfl, rfl, rfl, rfl, rfl, rfl, rfl, rfl, rfl, rfl, rfl, rfl, rfl, rfl⟩, rfl, rfl, rfl, rfl, rfl,
    fun i => rfl, rfl, fun f => ⟨rfl, rfl, rfl⟩, rfl, rfl, rfl⟩

/-- Settles O47: a write acts on the registers of a served function (`State.barWrite_of_served`). That a write of CQTAIL to a disabled queue is
only stored is the model's reading (log entry 36). -/
theorem hostRegisterWrites : Obligations.HostRegisterWrites := by
  intro s fn v w
  dsimp only
  refine ⟨fun served => ⟨?_, ?_, ?_, ?_, ?_, exec_registerWrite_of_served served⟩, fun unserved i => ?_,
    exec_perfselWrite_of_slot (s := asked s [fn, v, w]), rfl⟩
  · simp only [exec, execCqtailDoorbell]
    exact State.barWrite_of_served _ served
  · simp only [exec, execCqlgdWrite, State.barWrite_of_served (s := asked s [fn, v, w]) _ served]
    exact next_congr (congrArg _ (lgdWrite_eq (v % 16) 12 _ _ (fun n => ({ (asked s [fn, v, w]).fn fn with cqlgd := n } : Fn)) _))
  · simp only [exec, execFqlgdWrite, State.barWrite_of_served (s := asked s [fn, v, w]) _ served]
    exact next_congr (congrArg _ (lgdWrite_eq (v % 32) 16 _ _ (fun n => ({ (asked s [fn, v, w]).fn fn with fqlgd := n } : Fn)) _))
  · simp only [exec, execRqlgdWrite, State.barWrite_of_served (s := asked s [fn, v, w]) _ served]
    exact next_congr (congrArg _ (lgdWrite_eq (v % 32) 16 _ _ (fun n => ({ (asked s [fn, v, w]).fn fn with rqlgd := n } : Fn)) _))
  · simp only [exec, execFqrdWrite]
    exact State.barWrite_of_served _ served
  · have ignored (f : Fn → Nat → Fn) : (asked s [fn, v, w]).barWrite f = .next (asked s [fn, v, w]) := State.barWrite_of_unserved f unserved
    simp only [List.mem_cons, List.not_mem_nil, or_false]
    rintro (rfl | rfl | rfl | rfl | rfl | rfl)
    · simp only [exec, execCqtailDoorbell, ignored]
    · simp only [exec, execCqlgdWrite, ignored]
    · simp only [exec, execFqlgdWrite, ignored]
    · simp only [exec, execRqlgdWrite, ignored]
    · simp only [exec, execFqrdWrite, ignored]
    · exact exec_registerWrite_of_unserved unserved

/-- Settles O48, by what a chunk that fits, the object's checks in their order and an interval's comparisons come to. The order of the checks, the
code 5 of a write in MSTATE 2 and the chunk's end are the model's choices (log entry 10); what a module reset keeps, and the governor's inputs, are
its readings (log entries 37, 38). -/
theorem bringUpAndGovernor : Obligations.BringUpAndGovernor := ⟨bringUpLoadsAndResets, governorAndTrip⟩
end

section
/-!
SUPPORT. The commands of the command processor (25 R350 to R352): what a taken slot comes to, the table and key commands (18 R263 to R275), the graph
and team commands (19 R279 to R281; 09 R163, R167), RING-LOAD and RESET-VF (20 R298), and the statements about them.
-/
namespace Sys2Proof.Claims
open Sys2Proof.Machine

-- a taken slot -------------------------------------------------------------------------------------------------------------------

section Take
variable {s t : State} {fn kind x : Nat} {pfOnly : Bool} {k : State → Cmd → Did} {c : Cmd}

/-- The next slot of the round is taken: it is refused to a function that is not the PF, where it is the PF's alone, and else it acts. -/
theorem takeCmd_of_taken (h : Taken s fn kind c) : s.takeCmd fn kind pfOnly k =
    if pfOnly && fn != 0 then (taken s fn c).finish c 6
    else match k (taken s fn c) c with
      | .ends t x => t.finish c x
      | .goes t => t := by
  obtain ⟨operating, turn, slot, kinds, alone, legal⟩ := h
  subst slot
  have idle : (s.mstate != 2 || s.nextFn != some fn || (s.slotCmd fn).kind != kind || s.cmds.any (fun c => c.typ = 8)) = false := by
    simpa [operating, turn, kinds] using alone
  refine (if_neg (by simp [idle])).trans ((if_neg ?_).trans rfl)
  exact ne_true_of_eq_false legal

theorem takeCmd_of_ends (h : Taken s fn kind c) (may : pfOnly = true → fn = 0) (act : k (taken s fn c) c = .ends t x) :
    s.takeCmd fn kind pfOnly k = t.finish c x := by
  have mine : (pfOnly && fn != 0) = false := by
    simpa using may
  simp only [takeCmd_of_taken h, mine, act]
  rfl

theorem takeCmd_of_goes (h : Taken s fn kind c) (may : pfOnly = true → fn = 0) (act : k (taken s fn c) c = .goes t) :
    s.takeCmd fn kind pfOnly k = t := by
  have mine : (pfOnly && fn != 0) = false := by
    simpa using may
  simp only [takeCmd_of_taken h, mine, act]
  rfl

theorem takeCmd_of_other (h : Taken s fn kind c) (other : fn ≠ 0) : s.takeCmd fn kind true k = (taken s fn c).finish c 6 :=
  (takeCmd_of_taken h).trans (if_pos (by simp [other]))

/-- No RESET-VF is in effect where a slot is taken (25 R350). -/
theorem Taken.noReset (h : Taken s fn kind c) : s.cmds.find? (fun c => c.typ = 8) = none := by
  simpa using h.alone

theorem exec_resetVf_of_taken (h : Taken s (s.arg 0) 32 c) :
    exec .resetVf s = .next (s.takeCmd (s.arg 0) 32 true (fun s c => .goes (s.endWork c.tvf))) := by
  simp only [exec, execResetVf, h.noReset]

theorem exec_resetVf_of_begun (begun : s.cmds.find? (fun c => c.typ = 8) = some c) (done : s.busyVf c.tvf = false)
    (written : s.writesEnd c.tvf = false) : exec .resetVf s = .next ((s.wipeVf c.tvf).finish c 1) := by
  simp only [exec, execResetVf, begun, done, written, Bool.or_self, Bool.false_eq_true, if_false]

end Take

-- what a command's operands break ---------------------------------------------------------------------------------------------------

/-- The image of a stack's domains and rows keeps R273. -/
theorem rowsLegal {b : Nat} {x : BitVec 64} {dom : Nat → BitVec 16} (bits : b = 0) (top : fld x 60 4 = 0)
    (doms : ∀ i, 1 ≤ i → i ≤ 15 → fld (dom i) 9 7 = 0) (fits : fld x 4 26 + fld x 30 26 ≤ 25165824) :
    ¬(b != 0 || fld x 60 4 != 0 || ((List.range 15).map (· + 1)).any (fun i => fld (dom i) 9 7 != 0) ||
      decide (25165824 < fld x 4 26 + fld x 30 26)) = true := by
  have clear : ∀ i < 15, fld (dom (i + 1)) 9 7 = 0 := fun i small => doms (i + 1) (by omega) (by omega)
  simpa [bits, top, Nat.not_lt.mpr fits] using clear

/-- The operands of a SUBMIT-GRAPH keep R350. -/
theorem graphLegal {base n high : Nat} (aligned : base % 128 = 0) (inside : base < 2 ^ 52) (bits : high = 0) (some_ : 1 ≤ n) (most : n ≤ 65536) :
    ¬(base % 128 != 0 || decide (2 ^ 52 ≤ base) || high != 0 || decide (n = 0) || decide (65536 < n)) = true := by
  simpa [aligned, bits, Nat.ne_of_gt some_, Nat.not_lt.mpr most] using inside

theorem preempt_of_some {s : State} {c : Cmd} {hold : Bool} {tid : Nat} {t : Team} (bits : fld (c.arg 1) 34 30 = 0)
    (named : s.named c (fun t => t.place = .resident || t.place = .stopped) = some (tid, t)) :
    s.preempt c hold = .goes (s.modTeam tid (fun t => t.ask (.host c.jseq hold) s.clk)) := by
  refine (if_neg (by simp [bits])).trans ?_
  simp only [named]

theorem preempt_of_none {s : State} {c : Cmd} {hold : Bool} (bits : fld (c.arg 1) 34 30 = 0)
    (unnamed : s.named c (fun t => t.place = .resident || t.place = .stopped) = none) : s.preempt c hold = .ends s 0x0A := by
  refine (if_neg (by simp [bits])).trans ?_
  simp only [unnamed]

/-- The operands of a RING-LOAD keep R298. -/
theorem ringLegal {low high list n speed share : Nat} (hlow : low = 0) (hhigh : high = 0) (inside : list < 2 ^ 52) (most : n ≤ 1048576)
    (slow : speed ≤ 16) (fair : n = 0 ∨ (1 ≤ share ∧ share ≤ 16)) :
    ¬(low != 0 || high != 0 || decide (2 ^ 52 ≤ list) || decide (1048576 < n) || decide (16 < speed) ||
      (n != 0 && (decide (share = 0) || decide (16 < share)))) = true := by
  have shared : n ≠ 0 → share ≠ 0 ∧ share ≤ 16 := by omega
  simpa [hlow, hhigh, Nat.not_lt.mpr most, Nat.not_lt.mpr slow] using And.intro inside shared

theorem not_foreign {x : Sched} {vf : Nat} (mine : x.loaded = false ∨ x.owner = vf) : ¬(x.loaded && x.owner != vf) = true := by
  rcases mine with free | own
  · simp [free]
  · simp [own]

theorem not_wrongList_iff {n list : Nat} {good rising : Bool} :
    ¬(n != 0 && (list % 32 != 0 || !good || !rising)) = true ↔ n = 0 ∨ (list % 32 = 0 ∧ good = true ∧ rising = true) := by
  simp [Decidable.or_iff_not_imp_left]

end Sys2Proof.Claims

open Sys2Proof Sys2Proof.Machine Sys2Proof.Claims

/-- Settles O45: each command by its target's work and its image's checks, when its slot has been taken (`takeCmd_of_ends`). Which SUB asks BUSY of
the polder and which of the function, how rows are counted and what breaks a routing table are the model's readings (log entry 36). -/
theorem tableCommands : Obligations.TableCommands := by
  intro s fn c
  dsimp only
  refine ⟨fun ⟨h, pf, bits⟩ image => ⟨fun idle off => ?_, fun idle on bad => ?_, fun idle on good => ⟨fun bad => ?_, fun routes => ?_⟩, fun busy => ?_⟩,
    fun ⟨h, pf, bits⟩ low high => ⟨fun idle idleVf => ?_, fun busy => ?_⟩, fun ⟨h, pf, bits⟩ => ⟨fun idleVf => ?_, fun busy => ?_⟩,
    fun ⟨h, pf, bits⟩ top doms fits => ⟨fun idle => ?_, fun busy => ?_⟩, fun h => ⟨fun idleVf unkeyed => ?_, fun busy => ?_⟩,
    fun h => ⟨fun idleVf => ?_, fun busy => ?_⟩, fun i k row h other => ?_⟩
  -- an entry
  · exact next_congr (takeCmd_of_ends h (fun _ => pf)
      ((if_neg (by simp [bits, image])).trans ((if_neg (by simp [idle])).trans (if_pos (by simp [off])))))
  · exact next_congr (takeCmd_of_ends h (fun _ => pf)
      ((if_neg (by simp [bits, image])).trans ((if_neg (by simp [idle])).trans ((if_neg (by simp [on])).trans (if_pos bad)))))
  · exact next_congr (takeCmd_of_ends h (fun _ => pf)
      ((if_neg (by simp [bits, image])).trans ((if_neg (by simp [idle])).trans ((if_neg (by simp [on])).trans
        ((if_neg (by simp [good])).trans (if_pos bad))))))
  · exact next_congr (takeCmd_of_ends h (fun _ => pf)
      ((if_neg (by simp [bits, image])).trans ((if_neg (by simp [idle])).trans ((if_neg (by simp [on])).trans
        ((if_neg (by simp [good])).trans (if_neg (ne_true_of_eq_false routes)))))))
  · exact next_congr (takeCmd_of_ends h (fun _ => pf) ((if_neg (by simp [bits, image])).trans (if_pos (by simpa using busy))))
  -- an access row
  · exact next_congr (takeCmd_of_ends h (fun _ => pf) ((if_neg (by simp [bits, low, high])).trans (if_neg (by simp [idle, idleVf]))))
  · exact next_congr (takeCmd_of_ends h (fun _ => pf) ((if_neg (by simp [bits, low, high])).trans (if_pos (by simpa using busy))))
  -- a TROOT
  · exact next_congr (takeCmd_of_ends h (fun _ => pf) ((if_neg (by simp [bits])).trans (if_neg (by simp [idleVf]))))
  · exact next_congr (takeCmd_of_ends h (fun _ => pf) ((if_neg (by simp [bits])).trans (if_pos (by simpa using busy))))
  -- domains and rows
  · exact next_congr (takeCmd_of_ends h (fun _ => pf) ((if_neg (rowsLegal bits top doms fits)).trans (if_neg (by simp [idle]))))
  · exact next_congr (takeCmd_of_ends h (fun _ => pf) ((if_neg (rowsLegal bits top doms fits)).trans (if_pos (by simpa using busy))))
  -- keys
  · exact next_congr (takeCmd_of_ends h (fun pf => nomatch pf) (if_neg (by simp [idleVf, unkeyed])))
  · exact next_congr (takeCmd_of_ends h (fun pf => nomatch pf)
      (if_pos ((Bool.or_eq_true ..).mpr (busy.imp eq_true_of_ne_false decide_eq_true))))
  · exact next_congr (takeCmd_of_ends h (fun pf => nomatch pf) (if_neg (by simp [idleVf])))
  · exact next_congr (takeCmd_of_ends h (fun pf => nomatch pf) (if_pos (by simpa using busy)))
  -- another function's command
  · simp only [List.mem_cons, List.not_mem_nil, or_false, Prod.mk.injEq] at row
    obtain ⟨rfl, rfl⟩ | ⟨rfl, rfl⟩ | ⟨rfl, rfl⟩ | ⟨rfl, rfl⟩ | ⟨rfl, rfl⟩ := row
    · exact next_congr (takeCmd_of_other h other)
    · exact next_congr (takeCmd_of_other h other)
    · exact next_congr (takeCmd_of_other h other)
    · exact next_congr (takeCmd_of_other h other)
    · exact (exec_resetVf_of_taken h).trans (next_congr (takeCmd_of_other h other))

/-- Settles O44: a graph by its base, its count and its nodes' records, a team command by the team that it names. That undefined operand bits end a
command BADCMD is the model's reading (log entry 36). -/
theorem graphAndTeamCommands : Obligations.GraphAndTeamCommands := by
  intro s fn c
  dsimp only
  refine ⟨fun h t l aligned inside bits some_ most read => ?_, fun h bits => ?_, fun bits => ⟨fun h => ?_, fun h => ?_, fun h => ?_⟩,
    fun i k row h base seqs opts => ?_⟩
  · refine next_congr (takeCmd_of_goes (fn := fn) h (fun pf => nomatch pf) ((if_neg (graphLegal aligned inside bits some_ most)).trans ?_))
    simp only [read]
  · exact next_congr (takeCmd_of_ends h (fun pf => nomatch pf) (if_neg (by simp [bits])))
  · exact ⟨fun tid t named => next_congr (takeCmd_of_goes h (fun pf => nomatch pf) (preempt_of_some bits named)),
      fun unnamed => next_congr (takeCmd_of_ends h (fun pf => nomatch pf) (preempt_of_none bits unnamed))⟩
  · exact ⟨fun tid t named => next_congr (takeCmd_of_goes h (fun pf => nomatch pf) (preempt_of_some bits named)),
      fun unnamed => next_congr (takeCmd_of_ends h (fun pf => nomatch pf) (preempt_of_none bits unnamed))⟩
  · refine ⟨fun tid t named => next_congr (takeCmd_of_ends (fn := fn) h (fun pf => nomatch pf) ((if_neg (by simp [bits])).trans ?_)),
      fun unnamed => next_congr (takeCmd_of_ends (fn := fn) h (fun pf => nomatch pf) ((if_neg (by simp [bits])).trans ?_))⟩
    · simp only [named]
    · simp only [unnamed]
  -- operand bits that have no meaning
  · simp only [List.mem_cons, List.not_mem_nil, or_false, Prod.mk.injEq] at row
    obtain ⟨rfl, rfl⟩ | ⟨rfl, rfl⟩ | ⟨rfl, rfl⟩ | ⟨rfl, rfl⟩ | ⟨rfl, rfl⟩ := row
    · exact next_congr (takeCmd_of_ends h (fun pf => nomatch pf) (if_pos (by simpa using seqs)))
    · exact next_congr (takeCmd_of_ends h (fun pf => nomatch pf) (if_pos (by simpa using opts)))
    · exact next_congr (takeCmd_of_ends h (fun pf => nomatch pf) (if_pos (by simpa using opts)))
    · exact next_congr (takeCmd_of_ends h (fun pf => nomatch pf) (if_pos (by simpa using opts)))
    · exact next_congr (takeCmd_of_ends h (fun pf => nomatch pf) (if_pos (by simp [base])))

/-- Settles O46: RING-LOAD by its operands, its owner and its list's records, RESET-VF by the work that it waits for. That SHARE is not checked
where NSLOT is 0, that a virtual function's speed is ignored and that the target function owns the schedule are the model's readings (log
entry 35), as that RESET-VF ends the work before it wipes (log entry 36). -/
theorem ringLoadAndResetVf : Obligations.RingLoadAndResetVf := by
  intro s fn c
  dsimp only
  refine ⟨fun h low high inside most slow share => ⟨fun mine => ⟨fun right => ?_, fun wrong => ?_⟩, fun loaded other => ?_⟩, fun h pf => ?_,
    fun begun done written => ?_⟩
  · exact next_congr (takeCmd_of_ends h (fun pf => nomatch pf) ((if_neg (ringLegal low high inside most slow share)).trans
      ((if_neg (not_foreign mine)).trans (if_neg (not_wrongList_iff.mpr right)))))
  · exact next_congr (takeCmd_of_ends h (fun pf => nomatch pf) ((if_neg (ringLegal low high inside most slow share)).trans
      ((if_neg (not_foreign mine)).trans (if_pos (Classical.not_not.mp (mt not_wrongList_iff.mp wrong))))))
  · exact next_congr (takeCmd_of_ends h (fun pf => nomatch pf) ((if_neg (ringLegal low high inside most slow share)).trans
      (if_pos (by simp [loaded, other]))))
  · exact (exec_resetVf_of_taken h).trans (next_congr (takeCmd_of_goes h (fun _ => pf) rfl))
  · exact exec_resetVf_of_begun begun done written
end

section
/-!
SUPPORT. The words of boarding (20 R302, R306, R307), and the statement about them.
-/
namespace Sys2Proof.Machine
open Sys2Proof.Claims

section Board
variable {s : State} {a d t i dest base : Nat} {p : BitVec 64}

/-- The team has requested the key already: an armed or landing slot of its core holds it, and no `unboard` has taken it. -/
def State.boarded (s : State) (k : Nat × Nat) : Prop :=
  ∃ e ∈ s.myCore.boards, e.1 < 4 ∧ (e.2.state = 1 ∨ e.2.state = 2) ∧ e.2.quit = 0 ∧ e.2.names s.cur.tid k = true

theorem boarded_iff {k : Nat × Nat} : s.myCore.boards.any (fun e => e.1 < 4 && (e.2.state = 1 || e.2.state = 2) && e.2.quit = 0 &&
    e.2.names s.cur.tid k) = true ↔ s.boarded k := by
  simp only [State.boarded, List.any_eq_true, Bool.and_eq_true, Bool.or_eq_true, decide_eq_true_eq, and_assoc]

theorem board_of_boarded (boarded : s.boarded (boardKey p)) : s.board p dest t base = s.done := if_pos (boarded_iff.mpr boarded)

/-- The request that a boarding word makes in a free slot (20 R302, R308). -/
def State.request (s : State) (p : BitVec 64) (dest t base : Nat) : BoardSlot :=
  { state := 1, key := (boardKey p).1, sched := (boardKey p).2, dest := dest, t := t, base := base, tid := s.cur.tid, coh := s.cur.coh
    pending := true, ask := s.rclk + 1, op := (s.newOp { tid := s.cur.tid, coh := s.cur.coh, flag := s.cur.setb, kind := 3 }).2 }

theorem board_of_free (new : ¬s.boarded (boardKey p)) (room : s.flagFree s.cur.setb = true) (slot : s.myCore.freeSlot = some i) :
    s.board p dest t base = ((s.newOp { tid := s.cur.tid, coh := s.cur.coh, flag := s.cur.setb, kind := 3 }).1.modCore s.myTeam.core
      (fun c => c.setBoard i (s.request p dest t base))).done := by
  have slot : (s.core s.myTeam.core).freeSlot = some i := slot
  refine (if_neg (mt boarded_iff.mp new)).trans ?_
  simp only [slot, room, Bool.not_true, Bool.false_eq_true, if_false]
  rfl

theorem exec_boardShadow (bits : fld (s.sget a) 38 26 = 0) (acc : s.myTeam.launch.acc = true) :
    exec (.boardShadow a) s = .next (s.board (s.sget a) 0 0 0) :=
  next_congr ((if_neg (by simp [bits])).trans (if_neg (by simp [acc])))

theorem exec_boardTile (bits : fld (s.sget a) 38 26 = 0) (valid : (s.myTeam.tile t).valid = true) (long : 65536 ≤ (s.myTeam.tile t).len) :
    exec (.boardTile a t) s = .next (s.board (s.sget a) 1 t (s.myTeam.tile t).base) := by
  have legal : (fld (s.sget a) 38 26 != 0 || !(s.myTeam.tile t).valid || decide ((s.myTeam.tile t).len < 65536)) = false := by
    simp [bits, valid, long]
  exact next_congr (if_neg (ne_true_of_eq_false legal))

theorem exec_unboard (bits : fld (s.sget a) 38 26 = 0) : exec (.unboard a) s = .next (
    let mine (b : BoardSlot) : Bool := b.names s.cur.tid (boardKey (s.sget a))
    if s.landing s.myTeam.core mine then s.disarm s.myTeam.core mine else (s.disarm s.myTeam.core mine).done) :=
  next_congr (if_neg (by simp [bits]))

theorem exec_boardstat (reg : RegsIn s [d]) : exec (.boardstat d a) s = .next (
    if fld (s.sget a) 38 26 != 0 then s.illegal
    else if !(s.flagFree s.cur.seta) then s
    else (s.resultAll d (statWord (s.myCore.statSlot s.cur.tid (boardKey (s.sget a))))).done true) :=
  checked_of_regsIn _ reg

end Board

end Sys2Proof.Machine

open Sys2Proof Sys2Proof.Machine Sys2Proof.Claims

/-- Settles O27: a boarding word by what its team has requested and the core's free slot (`board_of_boarded`, `board_of_free`). -/
theorem boardingWordsAct : Obligations.BoardingWordsAct := by
  intro s d a t i
  dsimp only
  refine ⟨fun bits => ⟨?_, ?_, ?_, fun reg => ?_⟩, fun bits => ⟨fun acc boarded => ?_, fun valid long boarded => ?_,
    fun new room slot => ⟨fun acc => ?_, fun valid long => ?_⟩, exec_unboard bits, fun reg room => ?_⟩⟩
  · exact next_congr (if_pos (by simp [bits]))
  · have illegal : (fld (s.sget a) 38 26 != 0 || !(s.myTeam.tile t).valid || decide ((s.myTeam.tile t).len < 65536)) = true := by
      simp [bits]
    exact next_congr (if_pos illegal)
  · exact next_congr (if_pos (by simp [bits]))
  · exact (exec_boardstat reg).trans (next_congr (if_pos (by simp [bits])))
  · rw [exec_boardShadow bits acc, board_of_boarded boarded]
  · rw [exec_boardTile bits valid long, board_of_boarded boarded]
  · rw [exec_boardShadow bits acc, board_of_free new room slot]
    rfl
  · rw [exec_boardTile bits valid long, board_of_free new room slot]
    rfl
  · exact (exec_boardstat reg).trans (next_congr ((if_neg (by simp [bits])).trans (if_neg (by simp [room]))))
end

section
/-!
SUPPORT. The events of the ring (20 R298 to R304, R308): a slot's issue, a request's arming, a header's passage and a landing's CRC, and the statement
about them.
-/
namespace Sys2Proof.Machine
open Sys2Proof.Claims

section Issue
variable {s t u : State} {k : Nat}

theorem exec_slotIssue_of_inside (picked : s.pick = some (k, t)) (inside : (s.sched k).next ≠ 0 ∨ (s.sched k).fresh = true)
    (put : t.putSlot k = some u) : exec .slotIssue s = .next u := by
  have no : ((s.sched k).next = 0 && !(s.sched k).fresh) = false := by
    rcases inside with next | fresh
    · simp [next]
    · simp [fresh]
  simp only [exec, execSlotIssue, picked, no, put]
  rfl

/-- A boundary of laps stands before a further slot 0 (20 R298). -/
theorem exec_slotIssue_of_lap (picked : s.pick = some (k, t)) (first : (s.sched k).next = 0) (further : (s.sched k).fresh = false) :
    exec .slotIssue s = .next (match (s.sched k).pend with
      | some p => ({ s with ringlap := tmod 0 s.ringlap k (· + 1) } : State).setSched k p
      | none => (({ t with ringlap := tmod 0 t.ringlap k (· + 1) } : State).putSlot k).getD s) := by
  have lap : ((s.sched k).next = 0 && !(s.sched k).fresh) = true := by
    simp [first, further]
  simp only [exec, execSlotIssue, picked, lap]
  rfl

end Issue

section Stop
variable {s : State} {core i : Nat} {r : RSlot}

/-- Whether a stop's access rows let its team receive from the schedule of a request (20 R302). -/
def State.mayBoard (s : State) (core i : Nat) : Bool :=
  let b := (s.core core).boardAt i
  s.permits (144 + core) (s.team b.tid).vf core 4 && s.permits (144 + core) (s.team b.tid).vf core (5 + b.sched)

/-- Whether the schedule of a request is loaded and holds its key. -/
def State.listsKey (s : State) (core i : Nat) : Bool :=
  let b := (s.core core).boardAt i
  (s.sched b.sched).loaded && (s.listKeys (s.sched b.sched).list (s.sched b.sched).nslot).contains b.key

theorem arm_of_early (early : s.rclk < ((s.core core).boardAt i).ask) : s.arm core i = s := if_pos (by simp [early])

theorem arm_of_due (state : ((s.core core).boardAt i).state = 1) (pending : ((s.core core).boardAt i).pending = true)
    (due : ((s.core core).boardAt i).ask ≤ s.rclk) : s.arm core i =
      let b := (s.core core).boardAt i
      if !s.mayBoard core i then (s.refuse (s.team b.tid).vf 2 core core 4 b.key).endBoard core i endRefused
      else if !s.listsKey core i then s.endBoard core i endAbsent
      else s.modCore core (fun c =>
        let c := c.modBoard i (fun b => { b with pending := false, arm := s.rclk })
        if (tget none c.lastkey b.sched).any (fun k => b.key ≤ k) then c.miss i else c) := by
  refine (if_neg (by simp [state, pending, due])).trans ?_
  simp only [State.mayBoard, State.listsKey, Bool.not_and]

/-- A slot's header at a stop that it has reached, and not passed (20 R299, R303). -/
theorem passage_of_reached {sn : Nat} (slot : tget none s.ring sn = some r) (inside : core < 128) (reached : r.at_ core ≤ s.rclk)
    (unseen : core ∉ r.seen) : s.passage core sn =
      let t : State := { s with ring := tset none s.ring sn (some { r with seen := core :: r.seen }) }
      if r.bad then t else t.modCore core (fun c =>
        let c := { c with lastkey := tset none c.lastkey r.sched (some r.key) }
        (c.boardsOf (fun b => b.state = 1 && !b.pending && b.sched = r.sched && b.key = r.key)).foldl (fun c e =>
          c.takePass (t.team e.2.tid).vf sn (r.at_ core) r e.1) c) := by
  simp only [State.passage, slot]
  exact if_neg (by simp [reached, unseen, inside])

theorem crcCheck_of_landed (slot : tget none s.ring ((s.core core).boardAt i).sn = some r) (landing : ((s.core core).boardAt i).state = 2)
    (landed : r.at_ core + 16 ≤ s.rclk) : s.crcCheck core i =
      let b := (s.core core).boardAt i
      if crc32c ((List.range 65536).map (fun j => tget 0 r.payload j)) = r.crc then s.deliver core i b r else s.corrupt core i b := by
  simp only [State.crcCheck, slot]
  exact if_neg (by simp [landing, landed])

end Stop

end Sys2Proof.Machine

open Sys2Proof Sys2Proof.Machine Sys2Proof.Claims

/-- Settles O49: each event of the ring after the parts of its ring clock that come first. That RINGLAP counts the boundary at which a schedule is
replaced or removed is the model's reading (log entry 35). -/
theorem slotsIssuePassAndLand : Obligations.SlotsIssuePassAndLand := by
  intro s core x k r
  dsimp only
  refine ⟨fun t u => exec_slotIssue_of_inside, fun t u picked first further => ⟨fun p pend => ?_, fun pend put => ?_⟩,
    fun state pending due => ⟨fun may held => ?_, fun may absent => ?_, fun refused => ?_⟩, fun _ _ early => next_congr (arm_of_early early),
    fun slot inside reached unseen => next_congr (passage_of_reached slot inside reached unseen),
    fun slot landing landed => next_congr (crcCheck_of_landed slot landing landed)⟩
  · rw [exec_slotIssue_of_lap picked first further, pend]
  · rw [exec_slotIssue_of_lap picked first further, pend, put]
    rfl
  · have may : ((asked s [core, x]).takeQuits core).mayBoard core x = true := may
    have held : ((asked s [core, x]).takeQuits core).listsKey core x = true := held
    exact next_congr ((arm_of_due state pending due).trans ((if_neg (by simp [may])).trans (if_neg (by simp [held]))))
  · have may : ((asked s [core, x]).takeQuits core).mayBoard core x = true := may
    have absent : ((asked s [core, x]).takeQuits core).listsKey core x = false := absent
    exact next_congr ((arm_of_due state pending due).trans ((if_neg (by simp [may])).trans (if_pos (by simp [absent]))))
  · have refused : ((asked s [core, x]).takeQuits core).mayBoard core x = false := refused
    exact next_congr ((arm_of_due state pending due).trans (if_pos (by simp [refused])))
end

section
/-!
SUPPORT. The course of a queue word and its arbiter's steps (19 R286 to R291), the task words (19 R292 to R294), and the statement about them.
-/
namespace Sys2Proof.Machine
open Sys2Proof.Claims

-- the course of a queue word (19 R288) -------------------------------------------------------------------------------------------------

section Course
variable {s u : State} {lanes : Lanes} {flag b q id : Nat} {rel : Bool} {rs : List Nat} {x : QueOp} {k : State → QueAns → State} {a : QueAns}

theorem queEnd_of_clean {p : BitVec 64} (right : a.bad = none) (unfaulted : a.fault = none) : s.queEnd x p a k = k s a := by
  simp only [State.queEnd, right, unfaulted]

theorem queEnd_of_bad {p : BitVec 64} {e : Nat × Nat × Nat} (bad : a.bad = some e) :
    s.queEnd x p a k = s.machineCheck s.cur.tid s.cur.coh s.herePc s.G 0 e := by
  simp only [State.queEnd, bad]

theorem queEnd_of_fault {p : BitVec 64} {c d pg : Nat} {ls : Lanes} (right : a.bad = none) (fault : a.fault = some (c, d, pg, ls))
    (other : c ≠ 0x15) : s.queEnd x p a k = s.qFault c p ls := by
  simp only [State.queEnd, right, fault]

theorem queWord_of_idle (regs : RegsIn s rs) (idle : lanes = 0) : s.queWord lanes flag b rel (rs.map s.vr) x k = .next (s.done true) :=
  (checked_of_regsIn _ regs).trans (next_congr (if_pos idle))

theorem queWord_of_unnamed (regs : RegsIn s rs) (busy : lanes ≠ 0) (free : s.queReq = none) (unnamed : s.qTeam (s.sget b) = none) :
    s.queWord lanes flag b rel (rs.map s.vr) x k = .next (s.qFault 0x1D (s.sget b) lanes) := by
  refine (checked_of_regsIn _ regs).trans (next_congr ((if_neg busy).trans ?_))
  simp only [free, unnamed]

theorem queWord_of_asked {r : Req} {y : QueOp} {p : BitVec 64} (regs : RegsIn s rs) (busy : lanes ≠ 0) (asked : s.queReq = some (id, r))
    (kind : r.kind = .answer y p a) : s.queWord lanes flag b rel (rs.map s.vr) x k =
      .next (if r.held then ({ s with cur := { s.cur with lanes := s.G &&& r.lanes } }.setReq id none).queEnd x (s.sget b) a k else s) := by
  refine (checked_of_regsIn _ regs).trans (next_congr ((if_neg busy).trans ?_))
  simp only [asked, kind]

/-- A word whose flag, lanes and releases let it pass asks its arbiter: on its own core it acts at once. -/
theorem queWord_of_open (regs : RegsIn s rs) (open_ : QueueOpen s lanes flag (if rel then 2 else 0)) (free : s.queReq = none)
    (named : s.qTeam (s.sget b) = some q) : s.queWord lanes flag b rel (rs.map s.vr) x k =
      .next (if (s.team q).core = s.myTeam.core then
          (s.queStep s.cur.tid s.G q (s.sget b) x).1.queEnd x (s.sget b) (s.queStep s.cur.tid s.G q (s.sget b) x).2 k
        else (s.sendQue 0 s.G (.que x (s.sget b)) (s.team q).core false q 0).1) := by
  obtain ⟨busy, room, order, flushed, released⟩ := open_
  have unflushed : (rel && s.unflushed 2) = false := by
    cases rel with
    | false => rfl
    | true => exact flushed
  have done : (rel && !(s.relOps lanes 2).isEmpty) = false := by
    cases rel with
    | false => rfl
    | true =>
      have none_ : s.relOps lanes 2 = [] := released (by decide)
      rw [none_]
      rfl
  refine (checked_of_regsIn _ regs).trans (next_congr ((if_neg busy).trans ?_))
  simp only [free, named, room, order, unflushed, done, Bool.not_true, Bool.or_false, Bool.false_eq_true, if_false]

theorem queWord_of_at (regs : RegsIn s rs) (at_ : QueueAt s (s.sget b) q u) (open_ : QueueOpen s lanes flag (if rel then 2 else 0)) :
    s.queWord lanes flag b rel (rs.map s.vr) x k =
      .next ((s.queStep s.cur.tid s.G q (s.sget b) x).1.queEnd x (s.sget b) (s.queStep s.cur.tid s.G q (s.sget b) x).2 k) :=
  (queWord_of_open regs open_ at_.free at_.team).trans (next_congr (if_pos at_.own))

/-- What ends each queue word when its arbiter has answered (19 R288 to R291). -/
def queEnds (s : State) : Instr → State → QueAns → State
  | .qpop v _ _ g => fun t a => (t.newOp { tid := t.cur.tid, coh := t.cur.coh, flag := t.cur.seta, lanes := t.active g, dest := .regs v 1
                                           kind := 3, got := gather [] a.got, pc := t.herePc }).1.done
  | .swt n b p => fun t a =>
    if a.met || t.swtMet t.cur.tid (s.sget b) (fld (s.sget n) 0 16) p then t.done
    else (t.modMe (fun c => { c with polls := c.polls ++ [⟨t.G, .swt (s.sget b) (fld (s.sget n) 0 16) p⟩] })).suspend t.G
  | _ => fun t _ => t.done

theorem exec_of_queForm {i : Instr} (form : queForm s i = some (lanes, flag, b, rel, rs, x)) :
    exec i s = s.queWord lanes flag b rel (rs.map s.vr) x (queEnds s i) := by
  cases i
  case qinit | qpush | qpop | sarr | swt =>
    cases form
    rfl
  all_goals cases form

end Course

-- the arbiter's steps (19 R288, R289, R291) ----------------------------------------------------------------------------------------------

section Step
variable {s u q : State} {tid x ix ph : Nat} {grp : Lanes} {p v w : BitVec 64} {vals : List (Nat × BitVec 64)} {ref : Bool}

/-- The arbiter's step of an operation, when its queue word has been read right (19 R288). -/
def State.stepOf (u : State) (tid : Nat) (grp : Lanes) (x : Nat) (p : BitVec 64) : QueOp → State × QueAns
  | .init v => u.initStep grp x p v
  | .push vals ref => u.pushStep tid x p vals ref
  | .pop vals ref => u.popStep tid x p vals ref
  | .arr ix => u.arrStep grp x p ix
  | .wait ix ph => if qKind (u.qWord (u.team x) (offOf p)) != 1 then (u, qNo 0x1D p grp) else (u, { met := u.phaseIs x (offOf p) ix ph })

theorem queStep_of_read (op : QueOp) (read : s.senseRun (s.team x) 2 (offOf p) 8 = (u, none)) :
    s.queStep tid grp x p op = u.stepOf tid grp x p op := by
  cases op <;> simp only [State.queStep, State.stepOf, read]

/-- A queue that `qinit` accepts (19 R286, R289). -/
structure QueueLegal (t : Team) (o : Nat) (v : BitVec 64) : Prop where
  kind : qKind v < 3
  aligned : qBase v % qElem v = 0
  above : t.launch.scratch ≤ qBase v
  inside : qBase v + qBytes v ≤ t.runLen
  deque : qKind v = 2 → o = t.launch.scratch ∧ fld v 27 3 = 2

theorem initStep_of_legal (legal : QueueLegal (u.team x) (offOf p) v) : u.initStep grp x p v =
    (let s1 := u.qWrite (u.team x) (offOf p) (bytesOf 8 (BitVec.ofNat 64 (fld v 0 32)))
     let ph := qBase v + qDepth v * qElem v
     let s1 := if qKind v = 1 then (List.range ((qDepth v + 7) / 8)).foldl (fun s i => s.runWrite (u.team x) 2
         [{ addr := ph + i, data := 0, mask := if 8 ≤ qDepth v then 255 else BitVec.ofNat 8 (2 ^ qDepth v - 1) }]) s1
       else s1
     let s1 := if qKind v = 2 then s1.setDeque x [] else s1
     (s1.wakeSwt, {})) := by
  obtain ⟨kind, aligned, above, inside, deque⟩ := legal
  refine if_neg ?_
  simpa [Nat.ne_of_lt kind, aligned, Nat.not_lt.mpr above, Nat.not_lt.mpr inside] using deque

theorem pushStep_of_legal (legal : (u.team tid).qBad (u.qWord (u.team x) (offOf p)) vals ref = 0)
    (free : u.refFault (u.team tid) (if ref then vals else []) (qElem (u.qWord (u.team x) (offOf p))) false = none) :
    u.pushStep tid x p vals ref =
      let w := u.qWord (u.team x) (offOf p)
      let e := u.refSense (u.team tid) (if ref then vals else []) (qElem w)
      if qDepth w < qCount w + vals.length then (u, qNo 0x1B p (lanesFrom (vals.map (·.1))))
      else if let some z := e.2 then (e.1, { bad := some z })
      else ((pushed e.1 (u.team tid) (u.team x) w ref vals).1.qWrite (u.team x) (offOf p)
        (bytesOf 8 (setFld w 48 16 (pushed e.1 (u.team tid) (u.team x) w ref vals).2)), {}) := by
  refine (if_neg (by simp [legal])).trans ?_
  simp only [free]
  rfl

theorem popStep_of_legal (legal : (u.team tid).qBad (u.qWord (u.team x) (offOf p)) vals ref = 0)
    (free : u.refFault (u.team tid) (if ref then vals.take (qCount (u.qWord (u.team x) (offOf p))) else [])
      (qElem (u.qWord (u.team x) (offOf p))) true = none) :
    u.popStep tid x p vals ref =
      let w := u.qWord (u.team x) (offOf p)
      let e := (List.range (vals.take (qCount w)).length).foldl (fun (y : State × Option (Nat × Nat × Nat)) i =>
        let e := y.1.senseRun (u.team x) 2 (qSlot w (qHead w + i)) (qElem w)
        (e.1, y.2.orElse (fun _ => e.2))) (u, none)
      let y := popped e.1 (u.team tid) (u.team x) w ref vals
      let z := y.1.qWrite (u.team x) (offOf p) (bytesOf 8 (setFld w 32 16 y.2.1))
      ({ z with freeCtr := z.freeCtr + 1 }, { got := y.2.2, bad := e.2 }) := by
  refine (if_neg (by simp [legal])).trans ?_
  simp only [free]
  rfl

theorem arrStep_of_stage (stage : qKind (u.qWord (u.team x) (offOf p)) = 1) : u.arrStep grp x p ix =
    (let j := qPhase (u.qWord (u.team x) (offOf p)) ix
     ((u.qWrite (u.team x) j.1 [(u.qRead (u.team x) j.1 1).headD 0 ^^^ BitVec.ofNat 8 (2 ^ j.2)]).wakeSwt, {})) :=
  if_neg (by simp [stage])

end Step

-- the task words (19 R292 to R294) --------------------------------------------------------------------------------------------------------

section Task
variable {s : State} {h g n : Nat}

theorem vrun_eq (s : State) (r n : Nat) : s.vrun r n = (run r n).map s.vr := by
  simp only [State.vrun, run, List.map_map]
  rfl

theorem regsIn_pair {r : Nat} (inside : r + 1 < 8 * s.me.alloc) : RegsIn s (run r 2) := by
  intro k pair
  obtain ⟨i, small, rfl⟩ := List.mem_map.mp pair
  have small : i < 2 := List.mem_range.mp small
  omega

theorem taskWord_of_open {k : State} (inside : 2 * h + 1 < 8 * s.me.alloc) (open_ : QueueOpen s (s.active g) s.cur.seta 0) :
    s.taskWord (2 * h) g k = .next k := by
  obtain ⟨busy, room, order, -, -⟩ := open_
  rw [State.taskWord, vrun_eq, checked_of_regsIn _ (regsIn_pair inside)]
  exact next_congr ((if_neg busy).trans (if_neg (by simp [room, order])))

theorem exec_tspawn (inside : 2 * h + 1 < 8 * s.me.alloc) : exec (.tspawn h g) s = .next (
    if s.active g = 0 then s.done true
    else
      let t := s.myTeam
      let ts := ((lanesOf (s.active g)).map (fun l => s.task l (2 * h))).filter (fun x => taskKey x != 0)
      match s.taskDepth t with
      | none => s.qFault 0x1B (BitVec.ofNat 64 (2 * 2 ^ 60 + t.launch.scratch)) (s.active g)
      | some d =>
        if d < t.deque.length + ts.length then s.qFault 0x1B (BitVec.ofNat 64 (2 * 2 ^ 60 + t.launch.scratch)) (s.active g)
        else if !(s.flagFree s.cur.setb) || s.casPending (s.active g) then s
        else if s.unflushed 4 then s.flushFor
        else if !(s.relOps (s.active g) 4).isEmpty then s
        else (s.pushTasks s.cur.tid ts).done) := by
  simp only [exec, execTspawn, vrun_eq, checked_of_regsIn _ (regsIn_pair inside)] <;> rfl

end Task

end Sys2Proof.Machine

namespace Sys2Proof.Claims
open Sys2Proof.Machine

theorem queueWordsPerform : QueueWordsPerform := by
  intro s u a b v r p g x
  dsimp only
  intro at_
  have step (op : QueOp) := queStep_of_read (tid := s.cur.tid) (grp := s.G) op at_.word
  refine ⟨fun open_ kind aligned above inside deque => ?_, fun open_ reg legal free => ⟨fun q room sensed => ?_, fun full => ?_⟩,
    fun open_ stage => ?_, fun open_ stage => ⟨fun met => ?_, fun wait unmet => ?_⟩⟩
  · refine (queWord_of_at (rs := []) (fun _ h => nomatch h) at_ open_).trans (next_congr ?_)
    rw [step, State.stepOf, initStep_of_legal ⟨kind, aligned, above, inside, deque⟩, queEnd_of_clean rfl rfl]
    obtain plain | stage | tasks : qKind (s.sget a) = 0 ∨ qKind (s.sget a) = 1 ∨ qKind (s.sget a) = 2 := by omega
    · simp only [plain]
      rfl
    · simp only [stage]
      rfl
    · simp only [tasks]
      rfl
  · refine (queWord_of_at (rs := [v]) reg at_ open_).trans (next_congr ?_)
    rw [step, State.stepOf, pushStep_of_legal legal free]
    simp only [Nat.not_lt.mpr room, sensed, if_false]
    exact queEnd_of_clean rfl rfl
  · refine (queWord_of_at (rs := [v]) reg at_ open_).trans (next_congr ?_)
    rw [step, State.stepOf, pushStep_of_legal legal free]
    simp only [full, if_true]
    exact queEnd_of_fault rfl rfl (by decide)
  · refine (queWord_of_at (rs := []) (fun _ h => nomatch h) at_ open_).trans (next_congr ?_)
    rw [step, State.stepOf, arrStep_of_stage stage, queEnd_of_clean rfl rfl]
  · refine (queWord_of_at (rs := []) (fun _ h => nomatch h) at_ open_).trans (next_congr ?_)
    rw [step, State.stepOf, if_neg (by simp [stage]), queEnd_of_clean rfl rfl]
    exact if_pos (by simp [met])
  · refine (queWord_of_at (rs := []) (fun _ h => nomatch h) at_ open_).trans (next_congr ?_)
    rw [step, State.stepOf, if_neg (by simp [stage]), queEnd_of_clean rfl rfl]
    exact if_neg (by simp [wait, unmet])

theorem queueWordsAskOtherCores : QueueWordsAskOtherCores := by
  intro i s lanes flag b rel rs x form regs busy
  dsimp only
  have word := exec_of_queForm form
  refine ⟨fun q free named other open_ => ?_, fun id r a y p asked kind => ?_⟩
  · exact word.trans ((queWord_of_open regs open_ free named).trans (next_congr (if_neg other)))
  have answered := word.trans (queWord_of_asked regs busy asked kind)
  refine ⟨fun away => ?_, fun e held bad => ?_, fun c d pg ls held right fault other => ?_, fun held right unfaulted => ?_⟩
  · exact answered.trans (next_congr (if_neg (by simp [away])))
  · exact answered.trans (next_congr ((if_pos held).trans (queEnd_of_bad bad)))
  · exact answered.trans (next_congr ((if_pos held).trans (queEnd_of_fault right fault other)))
  · have ended := answered.trans (next_congr ((if_pos held).trans (queEnd_of_clean right unfaulted)))
    refine ⟨fun plain => ended.trans (next_congr ?_), fun v e g pop => ?_, fun n q wait met => ?_⟩
    · cases i
      case qinit | qpush | sarr => rfl
      case qpop | swt =>
        cases form
        simp at plain
      all_goals cases form
    · subst pop
      exact ended
    · subst wait
      exact ended.trans (next_congr (if_pos (by simp [met])))

theorem queueWordsCheckTheirPointer : QueueWordsCheckTheirPointer := by
  intro s a b v r p g
  dsimp only
  intro free unnamed
  refine ⟨fun busy => ⟨?_, ?_, ?_⟩, fun busy reg => ⟨?_, ?_⟩, fun idle reg => ⟨?_, ?_⟩⟩
  · exact queWord_of_unnamed (rs := []) (fun _ h => nomatch h) busy free unnamed
  · exact queWord_of_unnamed (rs := []) (fun _ h => nomatch h) busy free unnamed
  · exact queWord_of_unnamed (rs := []) (fun _ h => nomatch h) busy free unnamed
  · exact queWord_of_unnamed (rs := [v]) reg busy free unnamed
  · exact queWord_of_unnamed (rs := [v]) reg busy free unnamed
  · exact queWord_of_idle (rs := [v]) reg idle
  · exact queWord_of_idle (rs := [v]) reg idle

theorem qpopTakesInLaneOrder : QpopTakesInLaneOrder := by
  intro s u q v b r g x
  dsimp only
  intro at_ open_ reg legal free sensed
  refine (queWord_of_at (rs := [v]) reg at_ open_).trans (next_congr ?_)
  rw [queStep_of_read _ at_.word, State.stepOf, popStep_of_legal legal free]
  simp only [sensed]
  exact queEnd_of_clean rfl rfl

theorem taskWordsPerform : TaskWordsPerform := by
  intro s h g
  dsimp only
  intro inside
  refine ⟨fun d depth room open_ => ?_, fun busy full => ?_, fun open_ => ?_, fun open_ => ⟨fun alone => ?_, fun x xs victims r sent => ?_⟩⟩
  · refine (exec_tspawn inside).trans (next_congr ((if_neg open_.some_).trans ?_))
    obtain ⟨-, flagged, order, flushed, released⟩ := open_
    have released : s.relOps (s.active g) 4 = [] := released (by decide)
    simp only [depth, Nat.not_lt.mpr room, flagged, order, flushed, released, if_false]
    rfl
  · refine (exec_tspawn inside).trans (next_congr ((if_neg busy).trans ?_))
    dsimp only
    cases depth : s.taskDepth s.myTeam with
    | none => rfl
    | some d => exact if_pos (full d depth)
  · exact taskWord_of_open inside open_
  · refine (taskWord_of_open inside open_).trans (next_congr ?_)
    simp only [alone]
    rfl
  · refine (taskWord_of_open inside open_).trans (next_congr ?_)
    simp only [victims, List.isEmpty_cons, Bool.false_eq_true, if_false, sent]

end Sys2Proof.Claims

open Sys2Proof Sys2Proof.Machine Sys2Proof.Claims

/-- Settles O21: a queue word by its course and its arbiter's step, a task word by its deque. That an arbiter acts when the packet is taken there, and
that a steal visits the victims of its own core at once, are the model's readings (log entry 22). -/
theorem queueAndTaskWords : Obligations.QueueAndTaskWords :=
  ⟨queueWordsPerform, queueWordsAskOtherCores, queueWordsCheckTheirPointer, qpopTakesInLaneOrder, taskWordsPerform⟩
end

section
/-!
SUPPORT. The words of line locks (21 R324 to R326) and the steps of a line's slice (21 R314 to R319), and the statements about them.
-/
namespace Sys2Proof.Machine
open Sys2Proof.Claims

-- the words (21 R324 to R326) ------------------------------------------------------------------------------------------------------------

theorem stage2Fault_eq_none {access : Nat} {fs : List (Nat × Option (Nat × Nat × Nat))} (clear : ∀ f ∈ fs, f.2 = none) :
    stage2Fault access fs = none := by
  have none_ : fs.find? (fun f => f.2.isSome) = none := by
    simpa [Option.isNone_iff_eq_none] using clear
  simp only [stage2Fault, none_]

section Word
variable {s : State} {a d g need access size align flag : Nat} {spin : Bool} {ps : List (Nat × Piece)} {rs : List Nat} {k : State}

theorem lockWord_of_locksAt {act : State → List (Nat × Piece) → State} (locks : LocksAt s a g need size align ps) :
    s.lockWord g a need access size align spin act = act s ps := by
  obtain ⟨busy, order, legal, translated, some_⟩ := locks
  refine (if_neg busy).trans ((if_neg (by simp [order])).trans ?_)
  have checked : stage2Fault access ((lanesOf (s.active g)).map (fun l =>
      (l, if spaceOf (s.ptr l a) != 0 || rankOf (s.ptr l a) != 0 || offOf (s.ptr l a) % align != 0 then
        some (0x1D, spaceOf (s.ptr l a), (s.ptr l a).toNat) else none))) = none := by
    refine stage2Fault_eq_none (fun f lane => ?_)
    obtain ⟨l, active, rfl⟩ := List.mem_map.mp lane
    obtain ⟨space, rank, aligned⟩ := legal l active
    exact if_neg (by simp [space, rank, aligned])
  simp only [checked]
  refine (translated_of_good translated rfl).trans ((if_neg (by simpa using some_)).trans ?_)
  simp [Function.comp_def]

theorem lockIssue_of_room (regs : RegsIn s rs) (room : s.flagFree flag = true) : s.lockIssue g flag (rs.map s.vr) k = .next k :=
  (if_neg (by simp [room])).trans (checked_of_regsIn k regs)

theorem lockAddrOk_of_locksAt (locks : LocksAt s a g need size align ps) : s.lockAddrOk a g align = true := by
  have legal := locks.legal
  simpa [State.lockAddrOk, and_assoc] using legal

end Word

end Sys2Proof.Machine

namespace Sys2Proof.Claims
open Sys2Proof.Machine

theorem lockWordsRequest : LockWordsRequest := by
  intro s d a b g ps regs locks
  dsimp only
  have lock : exec (.llock d a b g) s = _ := (checked_of_regsIn _ regs).trans (next_congr (lockWord_of_locksAt locks))
  have try_ (room : s.flagFree s.cur.seta = true) : exec (.ltry d a g) s = _ :=
    (lockIssue_of_room regs room).trans (next_congr (lockWord_of_locksAt locks))
  refine ⟨fun free => ⟨lock.trans ?_, fun room => (try_ room).trans ?_⟩, fun x fault => ⟨lock.trans ?_, fun room => (try_ room).trans ?_⟩⟩
  · simp only [free]
  · simp only [free]
  · simp only [fault]
  · simp only [fault]

section Unlock
variable {s : State} {v : Option Nat} {a g n : Nat} {ps : List (Nat × Piece)}

theorem exec_of_unlockForm {i : Instr} (form : unlockForm i = some (v, a, g, n)) : exec i s = s.lunlock v a g n := by
  cases i
  case lunlock | lunlockW | lunlockD | lunlockQ =>
    cases form
    rfl
  all_goals cases form

theorem lunlock_of_locksAt (room : s.flagFree s.cur.setb = true) (regs : RegsIn s (v.toList ++ [a]))
    (locks : LocksAt s a g 3 (if n = 0 then 128 else n) (if n = 0 then 128 else n) ps) : s.lunlock v a g n = .next (
      if let some f := s.unlockHit a g n then s.raise f
      else if s.unflushed 5 then s.flushFor
      else if ps.any (fun e => !(s.me.locks.any (fun r => r.2.line = lineAt e.2.pa && r.2.holds))) then s.illegal
      else
        let f := s.newOp { tid := s.cur.tid, coh := s.cur.coh, flag := s.cur.setb, lanes := lanesFrom (ps.map (·.1)), kind := 5
                           left := (lockLines ps).length, parts := (lockLines ps).map (fun e => (e.2.2, 0)), pc := s.herePc }
        (sendUnlocks s f.1 v n f.2 ps).memDone false) := by
  have checks : (v.map (fun r => s.vr r)).toList ++ [s.vr a] = (v.toList ++ [a]).map s.vr := by
    cases v <;> rfl
  refine (congrArg (fun rs => s.lockIssue g s.cur.setb rs _) checks).trans ((lockIssue_of_room regs room).trans (next_congr ?_))
  have legal := lockAddrOk_of_locksAt locks
  refine (if_neg (by simp [locks.cas])).trans ?_
  simp only [legal, if_true, lockWord_of_locksAt locks, bne_iff_ne.mpr locks.active, Bool.true_and]
  rfl

end Unlock

theorem unlockWordsRelease : UnlockWordsRelease := by
  intro i s v a g n ps form
  dsimp only
  intro room regs locks
  have word := (exec_of_unlockForm (s := s) form).trans (lunlock_of_locksAt room regs locks)
  refine ⟨fun x hit => word.trans ?_, fun free dirty => word.trans ?_, fun free clean => ⟨fun held => word.trans ?_, fun other => word.trans ?_⟩⟩
  · simp only [hit]
  · simp only [free, dirty, if_true]
  · have none_ : ps.any (fun e => !(s.me.locks.any (fun r => r.2.line = lineAt e.2.pa && r.2.holds))) = false := by
      simpa [and_assoc] using held
    simp only [free, clean, none_, Bool.false_eq_true, if_false]
  · have some_ : ps.any (fun e => !(s.me.locks.any (fun r => r.2.line = lineAt e.2.pa && r.2.holds))) = true := by
      simpa using other
    simp only [free, clean, some_, Bool.false_eq_true, if_false, if_true]

theorem lockStatusWords : LockStatusWords := by
  intro s d a b g room
  refine ⟨fun ps regs locks => ?_, fun reg busy => ?_⟩
  · exact (lockIssue_of_room regs room).trans (next_congr (lockWord_of_locksAt locks))
  · exact (lockIssue_of_room (rs := [d]) reg room).trans (next_congr (if_neg busy))

end Sys2Proof.Claims

open Sys2Proof Sys2Proof.Machine Sys2Proof.Claims

/-- Settles O22: a lock word by its lanes' lines (`lockWord_of_locksAt`). That a lock's fault names its lanes' pointers, and that its translation asks
for the whole line, are the model's readings (log entry 29). -/
theorem lockWords : Obligations.LockWords := ⟨lockWordsRequest, unlockWordsRelease, lockStatusWords⟩
end

section
/-!
SUPPORT. The steps of a line's slice that serve its lock (21 R314 to R319), and the statements about them.
-/
namespace Sys2Proof.Machine
open Sys2Proof.Claims

/-- A request that comes in is taken as it stands after its arrival (10 R184). -/
theorem taking_of_comesIn {s t : State} {r : Req} (k : State → Nat → Req → State) (comes : ComesIn s (s.arg 0) t r) :
    s.taking k = k t (s.arg 0) r := by
  obtain ⟨⟨q, asked, ready, rfl⟩, request, first⟩ := comes
  simp only [State.taking, asked, ready, request, Option.getD_some, first, if_true, Bool.false_eq_true, if_false]

section Request
variable {s t : State} {r : Req} {va : BitVec 64} {lanes : Lanes} {k : Nat} {isTry : Bool}

theorem exec_lockRequest_of_comesIn (comes : ComesIn s (s.arg 0) t r) (kind : r.kind = .lock va lanes k isTry)
    (right : s.refusalAt r.vf r.line r.master 2 false = none) : exec .lockRequest s = .next (
      if t.heldWindow r.line 128 then s.holdReq t (s.arg 0) r
      else if let some x := t.missRefusal r.vf r.line then
        ((t.setReq (s.arg 0) none).refuseAt r.vf r.master 2 x).lockRefused r lanes (t.lockVd r)
      else if t.isHere r.line || (t.lock r.line).holder.isSome then t.takeLock (s.arg 0) r lanes k isTry
      else t.want r.vf r.line r.master (s.arg 0)) := by
  refine next_congr ((taking_of_comesIn _ comes).trans ?_)
  simp only [kind, right, Option.isSome_none, Bool.false_eq_true, if_false] <;> rfl

variable {id : Nat}

/-- What a lock request does that no router and no table turns away (21 R314 to R316): w is the state without it. -/
theorem takeLock_of_live {w : State} (gone : w = t.setReq id none) (live : (w.team r.tid).terminated = false)
    (allowed : w.turnedAway r 2 false = none) : t.takeLock id r lanes k isTry =
      let l := w.lock r.line
      let answer (st : Nat) : Grant := { tid := r.tid, coh := r.coh, line := r.line, lanes := lanes, status := st, vd := w.lockVd r, op := r.op }
      let e : ChainEntry := { tid := r.tid, coh := r.coh, vf := r.vf, core := (w.team r.tid).core, slot := (w.team r.tid).slot,
                              absent := (w.team r.tid).place != .resident, lanes := if isTry then 0 else lanes, tleft := k }
      if isTry && l.holder.isSome then w.sendGrant (answer 1)
      else if w.lockFull r.line then w.sendGrant (answer 3)
      else if l.holder.isSome then w.setLock r.line { l with chain := l.chain ++ [e] }
      else
        let f := w.fill r.line 0
        if isTry then
          let y := (f.setLock r.line { chain := { e with holds := true } :: l.chain, locked := true, broken := false,
                                       image := (f.work r.line).1 }).sendGrant
            { answer (if l.broken then 2 else 0) with got := true }
          if (f.coh r.tid r.coh).retired then y.breakLine r.line r.tid r.coh true else y
        else (f.setLock r.line { l with chain := e :: l.chain }).grantHead r.line := by
  subst gone
  simp only [State.takeLock, live, Bool.false_eq_true, if_false, allowed] <;> rfl

end Request

/-- An unlock that comes to its slice, of a line that its cohort holds, writes its data and hands the line on (21 R318). -/
theorem takeUnlock_of_mine {t w : State} {id : Nat} {r : Req} {ws : List WByte} (gone : w = t.setReq id none)
    (way : ∃ k relay, w.wayOf r = .arrives k relay) (allowed : ws ≠ [] → w.turnedAway r 1 true = none)
    (mine : (w.lock r.line).mine r.tid r.coh = true) : t.takeUnlock id r ws =
      let x := w.unlock r.vf r.line r.master ws
      x.1.ackFor r.op x.2.1 x.2.2 r.lanes r.scope [] (w.backWay r) := by
  subst gone
  obtain ⟨k, relay, way⟩ := way
  have kept : (if ws.isEmpty = true then none else (t.setReq id none).turnedAway r 1 true) = none := by
    cases ws with
    | nil => rfl
    | cons x ws => exact allowed (List.cons_ne_nil x ws)
  simp only [State.takeUnlock, way, Bool.not_false, Bool.and_true, kept, Option.isSome_none, Option.getD_none, mine, if_true,
    Bool.false_eq_true, if_false]

theorem exec_unlockStep_of_comesIn {s t : State} {r : Req} {ws : List WByte} (comes : ComesIn s (s.arg 0) t r) (kind : r.kind = .unlock ws)
    (window : t.heldWindow r.line 128 = false) : exec .unlockStep s = .next (t.takeUnlock (s.arg 0) r ws) := by
  refine next_congr ((taking_of_comesIn _ comes).trans ?_)
  simp only [kind, window, Bool.false_eq_true, if_false]

theorem exec_lockGrant_of_next {s : State} {g : Grant} (grant : tget none s.grants (s.arg 0) = some g) (next : s.isNext (s.arg 0) = true)
    (live : (s.team g.tid).terminated = false)
    (here : (s.team g.tid).place = .resident ∨ ((s.team g.tid).place = .stopped ∧ g.op ≠ 0)) :
    exec .lockGrant s = .next (({ s.unmail (s.arg 0) with grants := tset none s.grants (s.arg 0) none } : State).landGrant g) := by
  have there : (s.team g.tid).place ≠ .gone := by
    rcases here with place | ⟨place, _⟩ <;> simp [place]
  have lands : ((s.team g.tid).place = .resident || ((s.team g.tid).place = .stopped && g.op != 0)) = true := by
    simpa using here
  refine next_congr ?_
  simp only [grant, next, live, there, lands, Bool.not_true, Bool.false_eq_true, if_false, decide_false, Bool.or_false, if_true]

theorem exec_lockTimeout_of_quiet {s : State}
    (quiet : ∀ q ∈ tsome s.reqs, q.2.slice = true → q.2.line = s.arg 0 → s.ready q.1 q.2 = false) :
    exec .lockTimeout s = .next (s.lockTimeout (s.arg 0) (s.arg 1) (s.arg 2)) := by
  refine next_congr (if_neg ?_)
  simpa [and_imp] using quiet

/-- An entry whose timeout is over loses its waiting lanes (21 R319). -/
theorem lockTimeout_of_due {s : State} {pa tid coh : Nat} {e : ChainEntry}
    (due : (s.lock pa).chain.find? (fun e => e.tid = tid && e.coh = coh && e.tleft = 1 && 256 ≤ e.sub && !e.absent) = some e) :
    s.lockTimeout pa tid coh =
      let due (e : ChainEntry) : Bool := e.tid = tid && e.coh = coh && e.tleft = 1 && 256 ≤ e.sub && !e.absent
      let l := s.lock pa
      let chain := (l.chain.map (fun x => if due x then { x with lanes := 0, tleft := 0, sub := 0 } else x)).filter
        (fun x => x.holds || x.lanes != 0)
      let vd := match (s.coh e.tid e.coh).locks.find? (fun r => r.2.line = pa) with
        | some (_, r) => r.vd
        | none => 0
      let w := s.setLock pa { l with chain := chain, broken := l.broken && (l.locked || !chain.isEmpty) }
      let answer : Grant := { tid := e.tid, coh := e.coh, line := pa, lanes := e.lanes, status := 1, vd := vd }
      (if e.lanes = 0 then w else w.sendGrant answer).report e.vf (s.deadlock pa e) := by
  simp only [State.lockTimeout, due] <;> rfl

end Sys2Proof.Machine

namespace Sys2Proof.Claims
open Sys2Proof.Machine

theorem lockRequestsAreTaken : LockRequestsAreTaken := by
  intro s t id k r va lanes isTry
  dsimp only
  intro comes kind right
  have step := exec_lockRequest_of_comesIn (s := asked s [id]) comes kind right
  refine ⟨fun held => step.trans (next_congr (if_pos held)), fun window miss away free => step.trans ?_, fun window miss there live allowed => ?_⟩
  · simp [window, miss, away, free]
  have takes : exec .lockRequest (asked s [id]) = .next (t.takeLock id r lanes k isTry) := step.trans (next_congr (by
    have there : (t.isHere r.line || (t.lock r.line).holder.isSome) = true := by
      simpa [Option.isSome_iff_ne_none] using there
    simp only [window, miss, there, Bool.false_eq_true, if_false, if_true] <;> rfl))
  replace takes := takes.trans (next_congr (takeLock_of_live rfl live allowed))
  refine ⟨fun try_ busy => takes.trans ?_, fun free full => takes.trans ?_, fun waits busy room => takes.trans ?_,
    fun waits free room => takes.trans ?_, fun try_ free room => takes.trans ?_⟩
  · simp only [try_, Option.isSome_iff_ne_none.mpr busy, Bool.and_self, if_true]
  · have joins : (isTry && ((t.setReq id none).lock r.line).holder.isSome) = false := by
      rcases free with free | free
      · exact (congrArg (· && _) free).trans (Bool.false_and _)
      · exact (congrArg (isTry && Option.isSome ·) free).trans (Bool.and_false _)
    simp only [joins, full, Bool.false_eq_true, if_false, if_true]
  · simp only [waits, Option.isSome_iff_ne_none.mpr busy, room, Bool.false_and, Bool.false_eq_true, if_false, if_true]
  · simp only [waits, free, room, Option.isSome_none, Bool.false_and, Bool.false_eq_true, if_false]
  · simp only [try_, free, room, Option.isSome_none, Bool.and_false, Bool.false_eq_true, if_false, if_true]

theorem lockStepsHandOn : LockStepsHandOn := by
  intro s id
  dsimp only
  refine ⟨fun g grant next live here => exec_lockGrant_of_next (s := asked s [id]) grant next live here,
    fun t r ws comes kind window way allowed mine => ?_, fun line tid coh e quiet due => ?_⟩
  · exact (exec_unlockStep_of_comesIn (s := asked s [id]) comes kind window).trans (next_congr (takeUnlock_of_mine rfl way allowed mine))
  · refine (exec_lockTimeout_of_quiet (s := asked s [line, tid, coh]) quiet).trans (next_congr (lockTimeout_of_due due))

end Sys2Proof.Claims

open Sys2Proof Sys2Proof.Machine Sys2Proof.Claims

/-- Settles O23: a lock request and an unlock by what a request that comes in does (`taking_of_comesIn`), a grant and a timeout by their branches. -/
theorem lockEventsServe : Obligations.LockEventsServe := ⟨lockRequestsAreTaken, lockStepsHandOn⟩
end

section
/-!
SUPPORT. The steps of an unfolding's engine (23 R333 to R341), and the statement about them.
-/
namespace Sys2Proof.Machine
open Sys2Proof.Claims

section Engine
variable {s : State} {tid coh : Nat} {u : Unf} {on lanes : Lanes} {as : List (Nat × Nat)}

theorem engStep_of_acts (k : State → List (List Piece) → State) (acts : EngineActs s tid coh u on lanes as) :
    s.engStep tid coh u lanes as k = k s (as.map (fun a => engParts s tid a.1 a.2)) := by
  obtain ⟨-, -, open_, mapped⟩ := acts
  have all : as.find? (fun a => (s.engMap tid a.1 a.2).toOption.isNone) = none := by
    simpa [Option.isSome_iff_ne_none] using mapped
  simp only [State.engStep, open_, Bool.false_eq_true, if_false, all] <;> rfl

theorem exec_routineDispatch {l k f : Nat} {rest : List (Nat × Nat)} (unf : (s.coh (s.arg 0) (s.arg 1)).unf = some u)
    (todo : (u.cur (s.arg 2)).todo = (k, f) :: rest) (idle : (u.cur (s.arg 2)).kind = 3) (on : s.engOn (s.arg 0) u (lane1 (s.arg 2)) = true)
    (lane : l = s.arg 2) :
    exec .routineDispatch s = .next (if u.due != 0 then s.dueBlock (s.arg 0) (s.arg 1) u else s.dispatch (s.arg 0) (s.arg 1) l k f rest u) := by
  subst lane
  refine next_congr ?_
  simp only [unf, todo]
  exact if_neg (by simp [on, idle])

/-- A routine's dispatch, when the engine can read its frame (23 R333). -/
theorem dispatch_of_acts {l k f : Nat} {rest : List (Nat × Nat)} {r : State × List Byte × Option (Nat × Nat × Nat)}
    (acts : EngineActs s tid coh u on (lane1 l) [(u.obj.frame f, 32 + 16 * u.obj.argq), (u.obj.farea, 512)])
    (read : r = s.getParts tid coh (engParts s tid (u.obj.frame f) (32 + 16 * u.obj.argq))) (clean : r.2.2 = none) :
    s.dispatch tid coh l k f rest u =
      let i := u.frameInfo f
      let head := ((engParts s tid (u.obj.frame f) (32 + 16 * u.obj.argq)).filter (fun p => p.at_ < 16)).map
        (fun p => { p with len := min p.len (16 - p.at_) })
      let m := r.1.setUnf tid coh (some (u.setCur l { kind := k, frame := f, spawned := 0, next := 0, todo := rest }))
      let m := if k = 0 then m.engPut tid coh (lane1 l) [(head, i.head 1)] else m
      let m := m.writeBlock tid coh (engParts s tid u.obj.farea 512)
      let v1 : BitVec 128 := BitVec.ofNat 128 (u.obj.frame f + i.depth * 2 ^ 64 + (i.nch + i.cidx * 2 ^ 4 + k * 2 ^ 7) * 2 ^ 96)
      let m := (List.range u.obj.argq).foldl (fun m q =>
        m.vset tid coh l (2 + q) (BitVec.ofNat 128 (ofLeBytes ((r.2.1.drop (32 + 16 * q)).take 16)))) (m.vset tid coh l 1 v1)
      let pc := if k = 0 then u.obj.divpc else if k = 1 then u.obj.basepc else u.obj.combpc
      m.modCoh tid coh (fun c => { c with
        waiting := c.waiting &&& ~~~(lane1 l)
        last := c.last &&& ~~~(lane1 l)
        pc := tset 0 c.pc l (jumpPc (tget 0 c.pc l) (fld pc 0 52) (fld (tget 0 u.pcs l) 52 8)) }) := by
  subst read
  simp only [State.dispatch, engStep_of_acts _ acts, List.map_cons, List.getD_cons_zero, List.getD_cons_succ, clean, Option.isSome_none,
    Bool.false_eq_true, if_false]

theorem exec_levelEnd (unf : (s.coh (s.arg 0) (s.arg 1)).unf = some u) (on : s.engOn (s.arg 0) u (BitVec.allOnes 32) = true)
    (due : u.due = 0) (going : u.isOver = false) (idle : u.idle = true) : exec .levelEnd s = .next (
      if u.phase = 0 then s.moveLevel (s.arg 0) (s.arg 1) u
      else s.engStep (s.arg 0) (s.arg 1) u (lanesBy (fun l => l < u.obj.w)) [(u.obj.farea, 512)] (fun t ps =>
        (t.setUnf (s.arg 0) (s.arg 1) (some (u.combine u.levels))).writeBlock (s.arg 0) (s.arg 1) (ps.getD 0 []))) := by
  refine next_congr ?_
  simp only [unf]
  exact (if_neg (by simp [-BitVec.reduceAllOnes, on, going, idle])).trans (if_neg (by simp [due]))

/-- The end of a level of the depth-first or the combine phase (23 R335, R336). -/
theorem exec_levelEnd_later (unf : (s.coh (s.arg 0) (s.arg 1)).unf = some u) (going : u.isOver = false) (idle : u.idle = true)
    (later : u.phase ≠ 0)
    (acts : EngineActs s (s.arg 0) (s.arg 1) u (BitVec.allOnes 32) (lanesBy (fun l => l < u.obj.w)) [(u.obj.farea, 512)]) :
    exec .levelEnd s = .next ((s.setUnf (s.arg 0) (s.arg 1) (some (u.combine u.levels))).writeBlock (s.arg 0) (s.arg 1)
      (engParts s (s.arg 0) u.obj.farea 512)) := by
  rw [exec_levelEnd unf acts.on acts.due going idle, if_neg later, engStep_of_acts _ acts]
  simp only [List.map_cons, List.getD_cons_zero]

theorem exec_unfoldRelease (unf : (s.coh (s.arg 0) (s.arg 1)).unf = some u) (ended : u.isOver = true)
    (acts : EngineActs s (s.arg 0) (s.arg 1) u (BitVec.allOnes 32) u.lanes [(u.obj.frame 0 + 32 + 16 * u.obj.argq, 16 * u.obj.resq)])
    {r : State × List Byte × Option (Nat × Nat × Nat)}
    (read : r = s.getParts (s.arg 0) (s.arg 1) (engParts s (s.arg 0) (u.obj.frame 0 + 32 + 16 * u.obj.argq) (16 * u.obj.resq)))
    (clean : r.2.2 = none) : exec .unfoldRelease s = .next (
      (((lanesOf u.lanes).foldl (fun t l => (List.range u.obj.resq).foldl (fun t q =>
        t.vset (s.arg 0) (s.arg 1) l (u.vd + q) (BitVec.ofNat 128 (ofLeBytes ((r.2.1.drop (16 * q)).take 16)))) t) r.1).setUnf
          (s.arg 0) (s.arg 1) none).modCoh (s.arg 0) (s.arg 1) (fun c => c.release u.lanes)) := by
  subst read
  refine next_congr ?_
  simp only [unf]
  refine (if_neg (by simp [-BitVec.reduceAllOnes, acts.on, ended])).trans ((if_neg (by simp [acts.due])).trans ((engStep_of_acts _ acts).trans ?_))
  exact if_neg (by simpa using clean)

end Engine

end Sys2Proof.Machine

open Sys2Proof Sys2Proof.Machine Sys2Proof.Claims

/-- Settles O25: each step by its own readiness, what it reads and writes by `engStep_of_acts`. The bytes of a control block are free values (log
entry 3), and the order of the routines within a level is the model's (log entry 39). -/
theorem unfoldingSteps : Obligations.UnfoldingSteps := by
  intro s tid coh l k f rest u unf
  dsimp only
  refine ⟨fun todo idle => ⟨fun on due => ?_, fun acts clean => ?_⟩, fun on due going idle => ⟨fun first => ?_, fun later acts => ?_⟩,
    fun ended acts clean => ?_⟩
  · exact (exec_routineDispatch (s := asked s [tid, coh, l]) unf todo idle on rfl).trans (next_congr (if_pos (by simpa using due)))
  · refine (exec_routineDispatch (s := asked s [tid, coh, l]) unf todo idle acts.on rfl).trans (next_congr ((if_neg (by simp [acts.due])).trans ?_))
    exact dispatch_of_acts acts rfl clean
  · exact (exec_levelEnd (s := asked s [tid, coh]) unf on due going idle).trans (next_congr (if_pos first))
  · exact exec_levelEnd_later (s := asked s [tid, coh]) unf going idle later acts
  · exact exec_unfoldRelease (s := asked s [tid, coh]) unf ended acts rfl clean
end

section
/-!
SUPPORT. What the memory system, the faults and the ends of operations leave as it is: the issuing word and the dispatch pool.
-/
namespace Sys2Proof.Machine
open Sys2Proof.Claims

/-- The issuing word and the dispatch pool, which belong to no unit of the memory system. -/
def State.desk (s : State) : Cur × List PoolEntry := (s.cur, s.pool)

section Desk
variable (s : State)

theorem cur_of_desk {s t : State} (same : t.desk = s.desk) : t.cur = s.cur := congrArg Prod.fst same

theorem pool_of_desk {s t : State} (same : t.desk = s.desk) : t.pool = s.pool := congrArg Prod.snd same

theorem desk_foldl {β : Type} {f : State → β → State} (keeps : ∀ s b, (f s b).desk = s.desk) (l : List β) :
    (l.foldl f s).desk = s.desk :=
  foldl_keeps (fun u : State => u.desk = s.desk) f l s rfl fun u b _ same => (keeps u b).trans same

@[simp] theorem desk_ite (c : Prop) [Decidable c] (t u : State) : (if c then t else u).desk = if c then t.desk else u.desk :=
  apply_ite State.desk c t u

-- lines and requests (10 R175 to R184) ---------------------------------------------------------------------------------------------------

@[simp] theorem desk_modCore (k : Nat) (f : Core → Core) : (s.modCore k f).desk = s.desk := rfl
@[simp] theorem desk_modCoh (tid coh : Nat) (f : Cohort → Cohort) : (s.modCoh tid coh f).desk = s.desk := rfl
@[simp] theorem desk_setSlice (k : Nat) (x : Slice) : (s.setSlice k x).desk = s.desk := rfl
@[simp] theorem desk_setSline (pa : Nat) (l : SLine) : (s.setSline pa l).desk = s.desk := rfl
@[simp] theorem desk_delSline (pa : Nat) : (s.delSline pa).desk = s.desk := rfl
@[simp] theorem desk_setUpset (unit index place k : Nat) : (s.setUpset unit index place k).desk = s.desk := rfl
@[simp] theorem desk_missAt (vf pa master : Nat) : (s.missAt vf pa master).desk = s.desk := rfl
@[simp] theorem desk_foldWrite (pa but : Nat) : (s.foldWrite pa but).desk = s.desk := rfl
@[simp] theorem desk_entered (master pa : Nat) : (s.entered master pa).desk = s.desk := rfl
@[simp] theorem desk_fresh : s.fresh.1.desk = s.desk := rfl
@[simp] theorem desk_setReq (k : Nat) (r : Option Req) : (s.setReq k r).desk = s.desk := rfl
@[simp] theorem desk_setFn (k : Nat) (f : Fn) : (s.setFn k f).desk = s.desk := rfl
@[simp] theorem desk_signal (fn vector : Nat) : (s.signal fn vector).desk = s.desk := rfl
@[simp] theorem desk_setOp (k : Nat) (o : Option Op) : (s.setOp k o).desk = s.desk := rfl
@[simp] theorem desk_unmail (id : Nat) : (s.unmail id).desk = s.desk := rfl
@[simp] theorem desk_logError (kind vf unit index addr : Nat) (copy : List Nat) :
    (s.logError kind vf unit index addr copy).desk = s.desk := rfl
@[simp] theorem desk_logRefusal (vf master kind : Nat) (r : Refused) : (s.logRefusal vf master kind r).desk = s.desk := rfl
@[simp] theorem desk_pushBack (pa : Nat) : (s.pushBack pa).desk = s.desk := by
  unfold State.pushBack
  refine desk_foldl s (fun u e => ?_) _
  rfl

@[simp] theorem desk_mail (core slice id : Nat) : (s.mail core slice id).desk = s.desk := by
  unfold State.mail
  split <;> rfl

@[simp] theorem desk_toChannel (r : NReq) : (s.toChannel r).desk = s.desk := by
  simp only [State.toChannel]
  split <;> rfl

@[simp] theorem desk_sendWrite (d pa vf master rq : Nat) (ws : List WByte) (back bad : Bool) :
    (s.sendWrite d pa vf master rq ws back bad).desk = s.desk := desk_toChannel ..

@[simp] theorem desk_sense (vf unit index place addr : Nat) : (s.sense vf unit index place addr).1.desk = s.desk := by
  unfold State.sense
  split
  · rfl
  · split <;> rfl

@[simp] theorem desk_senseLog (vf unit index place addr : Nat) : (s.senseLog vf unit index place addr).1.desk = s.desk := by
  simp only [State.senseLog]
  split <;> simp

@[simp] theorem desk_senseLine (vf pa : Nat) : (s.senseLine vf pa).1.desk = s.desk := by
  unfold State.senseLine
  split
  · simp
  · split <;> simp
  · rfl

@[simp] theorem desk_cleanLine (pa : Nat) : (s.cleanLine pa).desk = s.desk := by
  unfold State.cleanLine
  split
  · split <;> simp
  · rfl

@[simp] theorem desk_dropCopy (dst pa : Nat) : (s.dropCopy dst pa).desk = s.desk := by
  unfold State.dropCopy
  split <;> rfl

@[simp] theorem desk_invalidate (line : Nat) (out : List Nat) : (s.invalidate line out).1.desk = s.desk := by
  simp only [State.invalidate]
  refine foldl_keeps (fun x : State × List Nat => x.1.desk = s.desk) _ _ _ rfl fun x c _ same => ?_
  exact (desk_mail ..).trans same

@[simp] theorem desk_dropAll (pa : Nat) : (s.dropAll pa).desk = s.desk := by
  unfold State.dropAll
  split
  · simp [desk_foldl]
  · rfl

@[simp] theorem desk_evict (pa : Nat) : (s.evict pa).desk = s.desk := by
  simp [State.evict]

@[simp] theorem desk_takeWay (pa : Nat) : (s.takeWay pa).desk = s.desk := by
  unfold State.takeWay
  cases s.victim (s.inSet pa) <;> simp

@[simp] theorem desk_fill (pa cls : Nat) (whole : Bool) (vf master : Nat) : (s.fill pa cls whole vf master).desk = s.desk := by
  unfold State.fill
  split
  · cases s.victim (s.inSet pa) <;> simp
  · rfl

@[simp] theorem desk_accept (vf pa master keep but cls : Nat) (ws : List WByte) :
    (s.accept vf pa master keep but cls ws).1.desk = s.desk := by
  simp only [State.accept]
  split <;> split <;> simp

@[simp] theorem desk_pokeLine (op vf pa master : Nat) (ws : List WByte) : (s.pokeLine op vf pa master ws).1.desk = s.desk := by
  simp only [State.pokeLine]
  split
  · rfl
  · split
    · split <;> simp
    · simp

-- reports and faults (09 R162, R166) -------------------------------------------------------------------------------------------------------

theorem desk_pokeBy {no : State → Refused → State} (keeps : ∀ u x, (no u x).desk = u.desk) (vf a : Nat) (bs : List Byte) :
    (State.pokeBy no s vf a bs).desk = s.desk := by
  refine desk_foldl s (fun u x => ?_) _
  split
  · exact keeps ..
  · split
    · rfl
    · exact desk_pokeLine ..

@[simp] theorem desk_report (vf : Nat) (r : BitVec 512) : (s.report vf r).desk = s.desk := by
  simp only [State.report]
  split
  · rfl
  · rw [desk_signal]
    exact (desk_pokeBy _ (fun u x => desk_logRefusal u vf 0x111 1 x) ..).trans (desk_setFn ..)

@[simp] theorem desk_refuseAt (vf master kind : Nat) (r : Refused) : (s.refuseAt vf master kind r).desk = s.desk :=
  (desk_report ..).trans (desk_logRefusal ..)

@[simp] theorem desk_poke (vf a : Nat) (bs : List Byte) : (s.poke vf a bs).desk = s.desk :=
  desk_pokeBy s (fun u x => desk_refuseAt u vf 0x111 1 x) ..

@[simp] theorem desk_readLine (vf pa master tid coh : Nat) : (s.readLine vf pa master tid coh).1.desk = s.desk := by
  unfold State.readLine
  split
  · simp
  · simp

@[simp] theorem desk_getParts (tid coh : Nat) (ps : List Piece) : (s.getParts tid coh ps).1.desk = s.desk :=
  foldl_keeps (fun x : State × List Byte × Option (Nat × Nat × Nat) => x.1.desk = s.desk) _ _ _ rfl fun _ _ _ same =>
    (desk_readLine ..).trans same

end Desk

end Sys2Proof.Machine
end

section
/-!
SUPPORT. The words of recursion unfolding (23 R330 to R339), and the statements about them.
-/
namespace Sys2Proof.Machine
open Sys2Proof.Claims

section Word
variable {s : State} {need access size a b d g v l : Nat} {all : Bool} {ls good : List (Nat × List Piece)} {rs : List Nat} {u : Unf}

theorem translated_of_translates (k : State → List (Nat × List Piece) → State) (mapped : Translates s need ls good) :
    s.translated need access size ls k (all := all) = k s good := by
  obtain ⟨mapped, -⟩ := mapped
  cases all <;> simp [State.translated, mapped]

theorem isEmpty_of_translates (mapped : Translates s need ls good) : good.isEmpty = false := by
  simpa using mapped.2

theorem find?_vr_eq_none (regs : RegsIn s rs) : (rs.map s.vr).find? (fun c => !c.1) = none := by
  simpa [State.vr, RegsIn] using regs

theorem checked_vrun (k : State) {n : Nat} (regs : RegsIn s (run d n)) : s.checked (s.vrun d n) k = .next k := by
  rw [vrun_eq, checked_of_regsIn k regs]

theorem find?_eq_of_agree {α : Type} {p q : α → Bool} {l : List α} (agree : ∀ x ∈ l, p x = q x) : l.find? p = l.find? q := by
  induction l with
  | nil => rfl
  | cons x xs ih =>
    rw [List.find?_cons, List.find?_cons, agree x List.mem_cons_self, ih fun y later => agree y (List.mem_cons_of_mem x later)]

-- unfold (23 R330 to R332) -----------------------------------------------------------------------------------------------------------------

/-- `unfold` of a pointer that can be read looks at its object. -/
theorem exec_unfold {ps : List Piece} {r : State × List Byte × Option (Nat × Nat × Nat)} (regs : RegsIn s [d, a])
    (space : spaceOf (s.sget b) = 0) (rank : rankOf (s.sget b) = 0) (aligned : offOf (s.sget b) % 64 = 0)
    (mapped : Translates s 1 [(lowest s.G, linePieces (offOf (s.sget b)) 64)] [(lowest s.G, ps)])
    (read : r = s.getParts s.cur.tid s.cur.coh ps) : exec (.unfold d a b) s = .next (
      if let some e := r.2.2 then r.1.machineCheck r.1.cur.tid r.1.cur.coh r.1.herePc r.1.G 0 e
      else if !(recOk (words8 r.2.1)) then
        r.1.raise { cause := 0x1D, detail := spaceOf (s.sget b), pages := [(s.sget b).toNat], lanes := r.1.G }
      else
        let o := recObj (words8 r.2.1)
        let n := 32 + 16 * o.argq
        if r.1.me.unf.isSome || !((List.range o.w).all (fun l => r.1.G.getLsbD l)) then r.1.illegal
        else
          match (r.1.vrun d o.resq ++ r.1.vrun a o.argq ++ r.1.vrun 1 (1 + o.argq)).find? (fun x => !x.1) with
          | some x => r.1.badReg x.2
          | none =>
            r.1.translated 3 1 n [(lowest s.G, linePieces (o.frame 0) n)] (all := true) (fun t good =>
              if good.isEmpty then t
              else
                let u : Unf := { obj := o, vd := d, lanes := t.G, pc := t.herePc, last := t.cur.idx = t.cur.count,
                                 pcs := (lanesOf t.G).map (fun l => (l, tget 0 t.me.pc l)), frames := [0] }
                let y := (t.suspend t.G).saveBlock t.cur.tid t.cur.coh u.begin 0
                y.engPut y.cur.tid y.cur.coh u.width [((good.headD (0, [])).2, ({} : FrameInfo).record (y.regBytes 0 a o.argq))])) := by
  subst read
  refine (checked_of_regsIn (rs := [d, a]) _ regs).trans (next_congr ((if_neg (by simp [space, rank, aligned])).trans ?_))
  exact translated_of_translates _ mapped

-- the routine words (23 R336 to R339) ------------------------------------------------------------------------------------------------------

/-- What `spawnf` finds wrong with an active lane (23 R337). -/
def spawnCause (u : Unf) (l : Nat) : Nat :=
  if (u.cur l).kind != 0 || u.obj.maxch ≤ (u.cur l).spawned then 0x10
  else if (u.frameInfo (u.cur l).frame).depth = u.obj.dlim then 0x18
  else 0

theorem spawnCause_illegal (wrong : (u.cur l).kind ≠ 0 ∨ u.obj.maxch ≤ (u.cur l).spawned) : spawnCause u l = 0x10 :=
  if_pos (by simpa using wrong)

theorem spawnCause_of_divide (divide : (u.cur l).kind = 0 ∧ (u.cur l).spawned < u.obj.maxch) :
    spawnCause u l = if (u.frameInfo (u.cur l).frame).depth = u.obj.dlim then 0x18 else 0 := by
  obtain ⟨kind, room⟩ := divide
  exact if_neg (by simp [kind, room])

section Outside
variable (outside : s.me.unf = none) (regs : RegsIn s [v])
include outside regs

theorem exec_spawnf_outside : exec (.spawnf v g) s = .next (if s.active g = 0 then s.done true else s.illegal) := by
  simp only [exec, execSpawnf, outside, Option.isSome_none, Bool.false_eq_true, if_false]
  exact checked_vrun (d := v) (n := 1) _ regs

theorem exec_fret_outside : exec (.fret v) s = .next s.illegal := by
  simp only [exec, execFret, outside, Option.isSome_none, Bool.false_eq_true, if_false]
  exact checked_vrun (d := v) (n := 1) _ regs

theorem exec_cres_outside : exec (.cres v g) s = .next (if s.active g = 0 then s.done true else s.illegal) := by
  simp only [exec, execCres, outside, Option.isSome_none, Bool.false_eq_true, if_false]
  exact checked_vrun (d := v) (n := 1) _ regs

end Outside

theorem obj_of_unf (unf : s.me.unf = some u) : s.obj = u.obj := by
  simp only [State.obj, unf, Option.getD_some]

/-- What `cres` reads for its lanes: the state, the lanes' bytes and the first bytes that cannot be corrected. -/
def State.readResults (s : State) (q : Nat) (good : List (Nat × List Piece)) : State × List (Nat × Byte) × Option (Nat × Nat × Nat) :=
  good.foldl (fun r e => ((r.1.getParts s.cur.tid s.cur.coh e.2).1, r.2.1 ++ place (q * e.1) (r.1.getParts s.cur.tid s.cur.coh e.2).2.1,
    r.2.2.orElse (fun _ => (r.1.getParts s.cur.tid s.cur.coh e.2).2.2))) (s, [], none)

theorem newOp_cur (s : State) (o : Op) : (s.newOp o).1.cur = s.cur := rfl

theorem readResults_cur (s : State) (q : Nat) (good : List (Nat × List Piece)) : (s.readResults q good).1.cur = s.cur :=
  foldl_keeps (fun r : State × List (Nat × Byte) × Option (Nat × Nat × Nat) => r.1.cur = s.cur) _ _ _ rfl fun _ _ _ same =>
    (cur_of_desk (desk_getParts ..)).trans same

section Inside
variable (unf : s.me.unf = some u)
include unf

theorem exec_spawnf_wrong (regs : RegsIn s (run v u.obj.argq)) (wrong : (lanesOf (s.active g)).find? (fun l => spawnCause u l != 0) = some l) :
    exec (.spawnf v g) s = .next (
      if spawnCause u l = 0x10 then s.illegal
      else
        let path := (u.frameInfo (u.cur l).frame).path
        s.raise { cause := 0x18, detail := u.obj.dlim, pages := (List.range 3).map (fun i => path / 2 ^ (64 * i) % 2 ^ 64), access := 1,
                  lanes := lanesFrom ((lanesOf (s.active g)).filter (fun l => spawnCause u l = 0x18)) }) := by
  have busy : s.active g ≠ 0 := by
    intro idle
    simp [idle, lanesOf] at wrong
  simp only [exec, execSpawnf, unf, Option.isSome_some, if_true, obj_of_unf unf, checked_vrun _ regs, busy, if_false]
  unfold spawnCause at wrong ⊢
  simp only [wrong]

section Perform
variable {good : List (Nat × List Piece)}

theorem exec_spawnf_right (regs : RegsIn s (run v u.obj.argq)) (busy : s.active g ≠ 0) (room : s.flagFree s.cur.setb = true)
    (order : s.casPending (s.active g) = false) (right : ∀ l ∈ lanesOf (s.active g), spawnCause u l = 0) {child : Nat → Nat}
    (place : child = fun l =>
      u.obj.slot l ((if u.phase = 0 then 0 else u.obj.maxch * (u.frameInfo (u.cur l).frame).depth) + (u.cur l).spawned))
    (mapped : Translates s 3 ((lanesOf (s.active g)).map (fun l => (l, linePieces (u.obj.frame (child l)) (32 + 16 * u.obj.argq) ++
      after (32 + 16 * u.obj.argq) (linePieces (u.obj.frame (u.cur l).frame) 16)))) good) :
    exec (.spawnf v g) s = .next (
      let o := u.obj
      let r := good.foldl (fun (r : List (List Piece × List Byte) × Unf) e =>
        let u := r.2
        let c := u.cur e.1
        let i := u.frameInfo c.frame
        let x : FrameInfo := { parent := c.frame, depth := i.depth + 1, cidx := c.spawned, path := i.path + c.spawned * 8 ^ i.depth }
        let i := { i with nch := c.spawned + 1, first := if u.phase = 0 then 0 else if c.spawned = 0 then child e.1 else i.first }
        let u := ((u.setInfo (child e.1) x).setInfo c.frame i).setCur e.1 { c with spawned := c.spawned + 1 }
        (r.1 ++ [(e.2, x.record (s.regBytes e.1 v o.argq) ++ i.head 1)], u)) ([], u)
      let f := (s.setUnf s.cur.tid s.cur.coh (some r.2)).recOp (lanesFrom (good.map (·.1))) (partsIn good)
      (r.1.foldl (fun t w => t.putParts f.2 s.cur.tid w.1 w.2) f.1).memDone false) := by
  subst place
  have none_ : (lanesOf (s.active g)).find? (fun l => spawnCause u l != 0) = none := by
    simpa using right
  unfold spawnCause at none_
  simp only [exec, execSpawnf, unf, Option.isSome_some, if_true, obj_of_unf unf, checked_vrun _ regs, busy, if_false, none_, room, order,
    Bool.not_true, Bool.or_self, Bool.false_eq_true]
  refine congrArg _ ((translated_of_translates _ mapped).trans ?_)
  simp only [isEmpty_of_translates mapped, Bool.false_eq_true, if_false]

theorem exec_fret_right (regs : RegsIn s (run v u.obj.resq)) (room : s.flagFree s.cur.setb = true) (order : s.casPending s.G = false)
    (released : s.relOps s.G 1 = []) (inside : ∀ l ∈ lanesOf s.G, (u.cur l).kind ≠ 3)
    (mapped : Translates s 3 ((lanesOf s.G).map (fun l => (l, if (u.cur l).kind != 0 then
      linePieces (u.obj.frame (u.cur l).frame + 32 + 16 * u.obj.argq) (16 * u.obj.resq) ++
        after (16 * u.obj.resq) (linePieces (u.obj.frame (u.cur l).frame) 16) else []))) good)
    {ends : Lanes} (ending : ends = lanesFrom (good.map (·.1))) (some_ : ends ≠ 0) :
    exec (.fret v) s = .next (
      let f := s.recOp ends (partsIn good)
      (good.foldl (fun t e => if (u.cur e.1).kind != 0 then
          t.putParts f.2 s.cur.tid e.2 (s.regBytes e.1 v u.obj.resq ++ (u.frameInfo (u.cur e.1).frame).head 2)
        else t) f.1).endRoutines ends) := by
  subst ending
  have none_ : (lanesOf s.G).any (fun l => (u.cur l).kind = 3) = false := by
    simpa using inside
  simp only [exec, execFret, unf, Option.isSome_some, if_true, obj_of_unf unf, checked_vrun _ regs, none_, room, order, released,
    List.isEmpty_nil, Bool.not_true, Bool.or_self, Bool.false_eq_true, if_false]
  exact congrArg _ ((translated_of_translates _ mapped).trans (if_neg some_))

theorem exec_fret_wrong (regs : RegsIn s (run v u.obj.resq)) (idle : ∃ l ∈ lanesOf s.G, (u.cur l).kind = 3) :
    exec (.fret v) s = .next s.illegal := by
  have some_ : (lanesOf s.G).any (fun l => (u.cur l).kind = 3) = true := by
    simpa using idle
  simp only [exec, execFret, unf, Option.isSome_some, if_true, obj_of_unf unf, checked_vrun _ regs, some_]

theorem exec_cres_right (regs : RegsIn s (run v u.obj.resq)) (busy : s.active g ≠ 0) (room : s.flagFree s.cur.seta = true)
    (order : s.casPending (s.active g) = false) (combines : ∀ l ∈ lanesOf (s.active g), (u.cur l).kind = 2)
    (mapped : Translates s 1 ((lanesOf (s.active g)).map (fun l => (l,
      if (u.cur l).next < (u.frameInfo (u.cur l).frame).nch then
        linePieces (u.obj.frame ((u.frameInfo (u.cur l).frame).first + (u.cur l).next) + 32 + 16 * u.obj.argq) (16 * u.obj.resq)
      else []))) good) :
    exec (.cres v g) s = .next (
      let r := s.readResults (16 * u.obj.resq) good
      let t := (r.1.newOp { tid := s.cur.tid, coh := s.cur.coh, flag := s.cur.seta, lanes := lanesFrom (good.map (·.1)),
                            dest := .regs v u.obj.resq, kind := 3, got := gather [] r.2.1, pc := s.herePc, bad := r.2.2 }).1
      (t.setUnf s.cur.tid s.cur.coh (some (good.foldl (fun u e =>
        u.setCur e.1 { u.cur e.1 with next := (u.cur e.1).next + 1 }) u))).memDone false) := by
  have none_ : (lanesOf (s.active g)).any (fun l => (u.cur l).kind != 2) = false := by
    simpa using combines
  simp only [exec, execCres, unf, Option.isSome_some, if_true, obj_of_unf unf, checked_vrun _ regs, busy, none_, room, order,
    Bool.not_true, Bool.or_self, Bool.false_eq_true, if_false]
  refine congrArg _ ((translated_of_translates _ mapped).trans ?_)
  simp only [isEmpty_of_translates mapped, Bool.false_eq_true, if_false, newOp_cur]
  rw [← State.readResults, readResults_cur]

theorem exec_cres_wrong (regs : RegsIn s (run v u.obj.resq)) (other : ∃ l ∈ lanesOf (s.active g), (u.cur l).kind ≠ 2) :
    exec (.cres v g) s = .next s.illegal := by
  have busy : s.active g ≠ 0 := by
    intro idle
    simp [idle, lanesOf] at other
  have some_ : (lanesOf (s.active g)).any (fun l => (u.cur l).kind != 2) = true := by
    simpa using other
  simp only [exec, execCres, unf, Option.isSome_some, if_true, obj_of_unf unf, checked_vrun _ regs, busy, some_, if_false]

end Perform

end Inside

end Word

end Sys2Proof.Machine

namespace Sys2Proof.Claims
open Sys2Proof.Machine

theorem unfoldOpens : UnfoldOpens := by
  intro s d a b ps qs
  dsimp only
  generalize read : s.getParts s.cur.tid s.cur.coh ps = r
  intro regs space rank aligned mapped
  have word := exec_unfold regs space rank aligned mapped read.symm
  refine ⟨fun e broken => word.trans ?_, fun clean bad => word.trans ?_, fun clean legal refused => word.trans ?_,
    fun clean legal free full => ⟨fun x out => word.trans ?_, fun regs mapped => word.trans ?_⟩⟩
  · simp only [broken]
  · simp only [clean, bad, Bool.not_false, if_true]
  · have refused : (r.1.me.unf.isSome || !((List.range (recObj (words8 r.2.1)).w).all (fun l => r.1.G.getLsbD l))) = true := by
      simpa [Option.isSome_iff_ne_none] using refused
    simp only [clean, legal, refused, Bool.not_true, Bool.false_eq_true, if_false, if_true]
  all_goals
    have full : (List.range (recObj (words8 r.2.1)).w).all (fun l => r.1.G.getLsbD l) = true := by simpa using full
    simp only [clean, legal, free, full, Option.isSome_none, Bool.not_true, Bool.or_self, Bool.false_eq_true, if_false]
  · simp only [out]
  · have inside : (r.1.vrun d (recObj (words8 r.2.1)).resq ++ r.1.vrun a (recObj (words8 r.2.1)).argq ++
        r.1.vrun 1 (1 + (recObj (words8 r.2.1)).argq)).find? (fun c => !c.1) = none := by
      simpa only [vrun_eq, List.map_append] using find?_vr_eq_none regs
    simp only [inside]
    exact congrArg _ (translated_of_translates _ mapped)

theorem routineWordsCheckTheirRoutine : RoutineWordsCheckTheirRoutine := by
  intro s v g
  dsimp only
  refine ⟨fun outside regs => ⟨exec_fret_outside outside regs, fun busy => ⟨?_, ?_⟩, fun idle => ⟨?_, ?_⟩⟩, fun u unf => ⟨fun regs wrong => ?_,
    fun regs divide l deep => ?_, fun regs idle => ?_, fun regs other => ?_⟩⟩
  · exact (exec_spawnf_outside outside regs).trans (next_congr (if_neg busy))
  · exact (exec_cres_outside outside regs).trans (next_congr (if_neg busy))
  · exact (exec_spawnf_outside outside regs).trans (next_congr (if_pos idle))
  · exact (exec_cres_outside outside regs).trans (next_congr (if_pos idle))
  · obtain ⟨l, first, wrong⟩ := wrong
    obtain ⟨ls, lanes⟩ := List.head?_eq_some_iff.mp first
    have cause := spawnCause_illegal wrong
    have found : (lanesOf (s.active g)).find? (fun l => spawnCause u l != 0) = some l :=
      lanes ▸ List.find?_cons_of_pos (by simp [cause])
    exact (exec_spawnf_wrong unf regs found).trans (next_congr (if_pos cause))
  · have at_limit (k : Nat) (lane : k ∈ lanesOf (s.active g)) :
        decide (spawnCause u k = 0x18) = decide ((u.frameInfo (u.cur k).frame).depth = u.obj.dlim) ∧
        (spawnCause u k != 0) = decide ((u.frameInfo (u.cur k).frame).depth = u.obj.dlim) := by
      rw [spawnCause_of_divide (divide k lane)]
      split <;> simp_all
    have found := (find?_eq_of_agree (fun k lane => (at_limit k lane).2)).trans deep
    have cause : spawnCause u l = 0x18 := by
      rw [spawnCause_of_divide (divide l (List.mem_of_find?_eq_some deep))]
      exact if_pos (by simpa using List.find?_some deep)
    refine (exec_spawnf_wrong unf regs found).trans (next_congr ((if_neg (by simp [cause])).trans ?_))
    dsimp only
    rw [List.filter_congr (fun k lane => (at_limit k lane).1)]
  · exact exec_fret_wrong unf regs idle
  · exact exec_cres_wrong unf regs other

theorem routineWordsPerform : RoutineWordsPerform := by
  intro s u v g good unf o ls n q child
  refine ⟨fun regs busy room order divide mapped => ?_, fun regs room order released inside mapped some_ => ?_,
    fun regs busy room order combines mapped => exec_cres_right unf regs busy room order combines mapped⟩
  · refine exec_spawnf_right unf regs busy room order (fun l lane => ?_) rfl mapped
    obtain ⟨kind, fits, depth⟩ := divide l lane
    exact (spawnCause_of_divide ⟨kind, fits⟩).trans (if_neg depth)
  · exact exec_fret_right unf regs room order released inside mapped rfl some_

end Sys2Proof.Claims

open Sys2Proof Sys2Proof.Machine Sys2Proof.Claims

/-- Settles O24: each word by its checks in the order of the spec, then by its lanes' accesses, which all translate (`translated_of_translates`). The
depth fault's ACCESS 1 is R367's code of a `spawnf`. -/
theorem recursionWords : Obligations.RecursionWords := ⟨unfoldOpens, routineWordsPerform, routineWordsCheckTheirRoutine⟩
end

section
/-!
SUPPORT. What the ends of operations, the breaks of locks and a termination leave as it is: the issuing word and the dispatch pool.
-/
namespace Sys2Proof.Machine
open Sys2Proof.Claims

section Desk
variable (s : State)

@[simp] theorem desk_modTeam (k : Nat) (f : Team → Team) : (s.modTeam k f).desk = s.desk := rfl
@[simp] theorem desk_setCoh (tid coh : Nat) (c : Cohort) : (s.setCoh tid coh c).desk = s.desk := rfl
@[simp] theorem desk_setLock (pa : Nat) (l : LockSt) : (s.setLock pa l).desk = s.desk := rfl
@[simp] theorem desk_modNode (g n : Nat) (f : Node → Node) : (s.modNode g n f).desk = s.desk := rfl
@[simp] theorem desk_l1Update (core pa : Nat) (ws : List WByte) : (s.l1Update core pa ws).desk = s.desk := rfl

-- operations and their acknowledgements (10 R184; 11 R201) ----------------------------------------------------------------------------------

@[simp] theorem desk_complete (tid c f : Nat) : (s.complete tid c f).desk = s.desk := by
  simp only [State.complete]
  split
  · rfl
  · split
    · split <;> simp
    · rfl

@[simp] theorem desk_endOp (id : Nat) : (s.endOp id).desk = s.desk := by
  unfold State.endOp
  split <;> simp

@[simp] theorem desk_partDone (id : Nat) (res : List (Nat × Byte)) (lanes : Lanes) (scope : Nat) :
    (s.partDone id res lanes scope).desk = s.desk := by
  unfold State.partDone
  split
  · rfl
  · simp

@[simp] theorem desk_partBack (r : Req) (res : List (Nat × Byte)) : (s.partBack r res).desk = s.desk := by
  simp [State.partBack]

@[simp] theorem desk_mailAcks : s.mailAcks.desk = s.desk := by
  unfold State.mailAcks
  refine desk_foldl s (fun u a => ?_) _
  split <;> simp

@[simp] theorem desk_ackFor (op : Nat) (tag : BitVec 16) (invs : List Nat) (lanes : Lanes) (scope : Nat) (res : List (Nat × Byte))
    (way : Nat × Nat) : (s.ackFor op tag invs lanes scope res way).desk = s.desk := desk_mailAcks _

-- a core's copies that go back to their slices (10 R175) ------------------------------------------------------------------------------------

@[simp] theorem desk_keepBad (pa : Nat) : (s.keepBad pa).desk = s.desk := by
  unfold State.keepBad
  split <;> rfl

@[simp] theorem desk_writeFor (op vf pa master : Nat) (ws : List WByte) : (s.writeFor op vf pa master ws).1.desk = s.desk := by
  unfold State.writeFor
  split
  · simp
  · split <;> simp

@[simp] theorem desk_writeAck (op vf pa master : Nat) (ws : List WByte) : (s.writeAck op vf pa master ws).desk = s.desk := by
  simp only [State.writeAck]
  split
  · split <;> simp
  · simp

@[simp] theorem desk_ownOp (tid coh : Nat) : (s.ownOp tid coh).1.desk = s.desk := rfl

@[simp] theorem desk_writeBack (op core pa : Nat) : (s.writeBack op core pa).desk = s.desk := by
  simp only [State.writeBack]
  split
  · split
    · split <;> split <;> simp
    · rfl
  · rfl

@[simp] theorem desk_unshare (who pa : Nat) : (s.unshare who pa).desk = s.desk := by
  unfold State.unshare
  extract_lets t out
  have dropped : t.desk = s.desk := by
    unfold t
    split <;> rfl
  refine (desk_mailAcks _).trans ((desk_foldl t (fun u e => ?_) out).trans dropped)
  rfl

@[simp] theorem desk_l1Drop (k core pa : Nat) : (s.l1Drop k core pa).desk = s.desk := by
  simp [State.l1Drop]

@[simp] theorem desk_touch (pa : Nat) : (s.touch pa).desk = s.desk := by
  unfold State.touch
  split <;> simp

@[simp] theorem desk_spoil (op vf : Nat) (x : Option (Nat × Nat × Nat)) : (s.spoil op vf x).desk = s.desk := by
  unfold State.spoil
  split <;> simp

@[simp] theorem desk_dropStale (core pa : Nat) : (s.dropStale core pa).desk = s.desk := by
  unfold State.dropStale
  split <;> simp

@[simp] theorem desk_invalidateLine (pa : Nat) : (s.invalidateLine pa).desk = s.desk := by
  simp only [State.invalidateLine]
  split
  · split <;> simp
  · simp

-- what waits for a line (21 R318) -----------------------------------------------------------------------------------------------------------

@[simp] theorem desk_takeRelease (r : Req) (ws : List WByte) : (s.takeRelease r ws).desk = s.desk := by
  unfold State.takeRelease
  extract_lets n tag slice s1 full s2 x
  have sent : s2.desk = s.desk := by
    unfold s2
    split
    · exact desk_sendWrite ..
    · rfl
  have taken : x.1.desk = s2.desk := by
    unfold x
    split
    · exact desk_invalidate ..
    · exact desk_invalidate ..
  exact (desk_ackFor ..).trans (taken.trans sent)

@[simp] theorem desk_doWrite (r : Req) (ws : List WByte) : (s.doWrite r ws).desk = s.desk := by
  simp [State.doWrite]

@[simp] theorem desk_doAtomic (r : Req) (op size addr : Nat) (lanes : List ALane) : (s.doAtomic r op size addr lanes).desk = s.desk := by
  simp only [State.doAtomic]
  split
  · simp
  · split <;> simp

@[simp] theorem desk_applyHeld (id : Nat) : (s.applyHeld id).desk = s.desk := by
  unfold State.applyHeld
  split
  · rfl
  · dsimp only
    split
    · split <;> simp
    · simp
    · split <;> simp
    · simp

@[simp] theorem desk_applyWaiting (pa : Nat) : (s.applyWaiting pa).desk = s.desk := by
  unfold State.applyWaiting
  split
  · rfl
  · exact desk_foldl s desk_applyHeld _

-- locks (21 R314 to R322) -------------------------------------------------------------------------------------------------------------------

@[simp] theorem desk_sendGrant (g : Grant) : (s.sendGrant g).desk = s.desk := desk_mail ..

@[simp] theorem desk_grantHead (pa : Nat) : (s.grantHead pa).desk = s.desk := by
  simp only [State.grantHead]
  split
  · rfl
  · simp

@[simp] theorem desk_handoff (pa : Nat) : (s.handoff pa).desk = s.desk := by
  simp only [State.handoff]
  split
  · rfl
  · split
    · simp
    · split <;> simp

@[simp] theorem desk_dropMark (pa : Nat) : (s.dropMark pa).desk = s.desk := by
  unfold State.dropMark
  split
  · split <;> simp
  · rfl

@[simp] theorem desk_unlock (vf pa master : Nat) (ws : List WByte) : (s.unlock vf pa master ws).1.desk = s.desk := by
  simp only [State.unlock, desk_handoff, desk_applyWaiting, desk_setLock]
  split <;> simp

@[simp] theorem desk_breakLine (pa tid coh : Nat) (retire : Bool) : (s.breakLine pa tid coh retire).desk = s.desk := by
  simp only [State.breakLine]
  split
  · split <;> simp
  · rfl

@[simp] theorem desk_breakAll (tid coh : Nat) (retire : Bool) : (s.breakAll tid coh retire).desk = s.desk :=
  desk_foldl s (fun u l => desk_breakLine u l tid coh retire) _

@[simp] theorem desk_dropWaiters (tid : Nat) : (s.dropWaiters tid).desk = s.desk := by
  unfold State.dropWaiters
  refine desk_foldl s (fun u e => ?_) _
  rfl

-- records and the end of a team (09 R162, R165) -----------------------------------------------------------------------------------------------

@[simp] theorem desk_fqPut (vf : Nat) (r : BitVec 512) : (s.fqPut vf r).desk = s.desk :=
  (desk_signal ..).trans ((desk_poke ..).trans (desk_setFn ..))

@[simp] theorem desk_record (r : FRec) : (s.record r).desk = s.desk := by
  have kept := desk_fqPut s r.vf r.data
  simp only [State.record]
  generalize s.fqPut r.vf r.data = u at kept ⊢
  cases r.park <;> exact kept

@[simp] theorem desk_sendRecord (r : FRec) : (s.sendRecord r).desk = s.desk := by
  simp only [State.sendRecord]
  split
  · simp
  · split
    · simp
    · rfl

@[simp] theorem desk_disarm (core : Nat) (f : BoardSlot → Bool) : (s.disarm core f).desk = s.desk := by
  unfold State.disarm
  refine desk_foldl s (fun u e => ?_) _
  rfl

@[simp] theorem desk_terminate (tid : Nat) (r : BitVec 512) : (s.terminate tid r).desk = s.desk := by
  unfold State.terminate
  extract_lets t s1 gone dead s2 s3 lost s4 ends s5 s6 s7
  split
  · rfl
  · have sent : s1.desk = s.desk := desk_sendRecord ..
    clear_value s1
    have parked : s2.desk = s1.desk := rfl
    clear_value s2
    have broken : s3.desk = s2.desk := (desk_dropWaiters ..).trans (desk_foldl _ (fun u (e : Nat × Cohort) => desk_breakAll u tid e.1 false) _)
    clear_value s3
    have lost' : s4.desk = s3.desk := desk_foldl _ (fun u (x : CopyCmd) => desk_endOp u x.op) _
    clear_value s4
    have ends' : s5.desk = s4.desk := desk_foldl _ desk_endOp _
    clear_value s5
    calc
      _ = s5.desk := rfl
      _ = s.desk := ends'.trans (lost'.trans (broken.trans (parked.trans sent)))

@[simp] theorem desk_tryRetire (tid coh : Nat) : (s.tryRetire tid coh).desk = s.desk := by
  simp only [State.tryRetire]
  split
  · rfl
  · split
    · simp
    · split <;> simp

-- the placement of a node's teams (19 R282) -----------------------------------------------------------------------------------------------------

@[simp] theorem desk_vset (tid c lane r : Nat) (x : BitVec 128) : (s.vset tid c lane r x).desk = s.desk := by
  simp only [State.vset]
  split
  · split <;> simp
  · simp

theorem desk_seat {t : State} {g n core number : Nat} {l : Launch} (seated : s.seat g n core l number = some t) : t.desk = s.desk := by
  simp only [State.seat] at seated
  split at seated
  · cases seated
  · cases seated
    rw [desk_foldl _ (fun u i => desk_tryRetire u _ i), desk_modNode, desk_foldl _ (fun u e => desk_vset ..)]
    rfl

end Desk

end Sys2Proof.Machine
end

section
/-!
SUPPORT. A decision of the dispatcher without reservations (19 R281 to R283), and the statement about it.
-/
namespace Sys2Proof.Machine
open Sys2Proof.Claims

-- the dispatch order and its reservations (19 R282, R283) ----------------------------------------------------------------------------------

theorem mem_insBy {α : Type} {le : α → α → Bool} {l : List α} {x y : α} : x ∈ insBy le y l ↔ x = y ∨ x ∈ l := by
  induction l with
  | nil => exact List.mem_cons
  | cons z zs ih =>
    unfold insBy
    split
    · exact List.mem_cons
    · rw [List.mem_cons, ih, List.mem_cons, or_left_comm]

theorem mem_sortBy {α : Type} {le : α → α → Bool} {l : List α} {x : α} : x ∈ sortBy le l ↔ x ∈ l := by
  induction l with
  | nil => exact Iff.rfl
  | cons y ys ih => rw [sortBy, mem_insBy, ih, List.mem_cons]

section Dispatch
variable {s t : State} {e : PoolEntry} {es past : List PoolEntry} {pref : Nat}

/-- No entry of the pool takes a reservation (19 R283). -/
theorem takeReserves_of_low (low : ∀ e ∈ s.pool, e.skip < 64) : s.takeReserves = s := by
  have none_ : s.order.filter (fun e => decide (64 ≤ e.skip)) = [] := by
    refine List.filter_eq_nil_iff.mpr (fun e he => ?_)
    simpa using low e (mem_sortBy.mp he)
  simp only [State.takeReserves, none_, List.foldl_nil]

theorem askReserved_of_none (none_ : tsome s.reserves = []) : s.askReserved = s := by
  simp only [State.askReserved, none_, List.foldl_nil]

/-- The first entry that is placed skips none. -/
theorem tryPool_of_placed (placed : s.tryEntry e.graph e.node (s.openCores (s.node e.graph e.node).polder pref) false = .placed t) :
    tryPool pref (e :: es) [] s = .placed t := by
  simp only [tryPool, placed, List.any_nil, Bool.false_eq_true, if_false, List.map_id']

/-- A node whose launch record has been read, with no saved team waiting, places its next unit of new teams (19 R282). -/
theorem tryEntry_of_placeNew {g n : Nat} {l : Launch} {cores : List Nat} {mine : Bool} (launch : (s.node g n).pump = false)
    (fresh : s.waitingTeams g n = []) (more : s.allPlaced g n = false) (record : (s.node g n).lrec = some l)
    (free : (s.node g n).started = true ∨ s.conflicts g n = false) (place : s.placeNew g n l cores = some t) :
    s.tryEntry g n cores mine = .placed (t.afterPlace g n) := by
  have unheld : (!(s.node g n).started && s.conflicts g n) = false := by
    rcases free with started | clear
    · rw [started, Bool.not_true, Bool.false_and]
    · rw [clear, Bool.and_false]
  simp only [State.tryEntry, launch, fresh, more, record, unheld, place, Bool.false_eq_true, if_false]

theorem exec_dispatchDecision_of_placed (low : ∀ e ∈ s.pool, e.skip < 64) (unreserved : tsome s.reserves = []) (unqueued : tsome s.pumpRes = [])
    (first : tryPool (s.arg 0) s.order [] s = .placed t) (after : t.takeReserves.askReserved = t) :
    exec .dispatchDecision s = .next t := by
  have before : s.takeReserves.askReserved = s := by
    rw [takeReserves_of_low low, askReserved_of_none unreserved]
  simp only [exec, execDispatchDecision, before, unreserved, unqueued, List.map_nil, List.append_nil, tryReserved, first, after]

end Dispatch

-- a placement leaves the pool's skips low (19 R281, R282) -----------------------------------------------------------------------------------

section Place
variable {s t : State} {g n : Nat}

theorem desk_foldl_bind {β : Type} {f : β → State → Option State} (keeps : ∀ i u v, f i u = some v → v.desk = u.desk) (l : List β)
    (placed : l.foldl (fun acc i => acc.bind (f i)) (some s) = some t) : t.desk = s.desk := by
  have all : ∀ v ∈ l.foldl (fun acc i => acc.bind (f i)) (some s), v.desk = s.desk := by
    refine foldl_keeps (fun acc : Option State => ∀ v ∈ acc, v.desk = s.desk) _ _ _ ?_ fun acc i _ same v next => ?_
    · rintro _ ⟨⟩
      rfl
    · obtain ⟨u, before, step⟩ := Option.bind_eq_some_iff.mp next
      exact (keeps i u v step).trans (same u before)
  exact all t placed

theorem desk_findSome? {β : Type} {f : β → Option State} (keeps : ∀ i v, f i = some v → v.desk = s.desk) {l : List β}
    (found : l.findSome? f = some t) : t.desk = s.desk := by
  obtain ⟨i, -, place⟩ := List.exists_of_findSome?_eq_some found
  exact keeps i t place

theorem desk_placeUnit {seat : State → Nat → Nat → Option State} (keeps : ∀ u c k v, seat u c k = some v → v.desk = u.desk)
    {ds : List (Nat × Nat)} {a m : Nat} {cores : List Nat} (placed : placeUnit seat ds s a m cores = some t) : t.desk = s.desk := by
  induction ds generalizing s t a m cores with
  | nil => exact desk_foldl_bind (fun i u v step => desk_findSome? (fun c w => keeps u c (a + i) w) step) _ placed
  | cons d ds ih => exact desk_foldl_bind (fun j u v step => desk_findSome? (fun i w place => ih place) step) _ placed

theorem desk_placeNew {l : Launch} {cores : List Nat} (placed : s.placeNew g n l cores = some t) : t.desk = s.desk :=
  desk_placeUnit (fun u _ _ _ => desk_seat u) placed

theorem desk_settleQueue (s : State) (pc : Nat) : (s.settleQueue pc).desk = s.desk := by
  unfold State.settleQueue
  split <;> rfl

theorem desk_dropReserve : (s.dropReserve g n).desk = s.desk := by
  unfold State.dropReserve
  exact (desk_foldl _ (fun u (e : Nat × Nat × Nat) => desk_settleQueue u e.1) _).trans rfl

theorem enterPool_low (low : ∀ e ∈ s.pool, e.skip < 64) : ∀ e ∈ (s.enterPool g n).pool, e.skip < 64 := by
  unfold State.enterPool
  split
  · exact low
  · split
    · intro e entered
      rcases List.mem_append.mp entered with old | new
      · exact low e old
      · rw [List.mem_singleton.mp new]
        exact Nat.zero_lt_succ 63
    · split <;> exact low

theorem refill_low {w : List (Nat × Nat)} (low : ∀ e ∈ s.pool, e.skip < 64) : ∀ e ∈ (refill w s).pool, e.skip < 64 := by
  induction w generalizing s with
  | nil => exact low
  | cons x xs ih =>
    unfold refill
    split
    · exact ih (enterPool_low low)
    · exact low

theorem leavePool_low (low : ∀ e ∈ s.pool, e.skip < 64) : ∀ e ∈ (s.leavePool g n).pool, e.skip < 64 :=
  refill_low fun e left => low e ((List.mem_filter.mp left).1)

theorem afterPlace_low (low : ∀ e ∈ s.pool, e.skip < 64) : ∀ e ∈ (s.afterPlace g n).pool, e.skip < 64 := by
  have kept : ∀ e ∈ (s.dropReserve g n).pool, e.skip < 64 := by
    rwa [pool_of_desk desk_dropReserve]
  simp only [State.afterPlace]
  split
  · exact leavePool_low kept
  · exact kept

end Place

end Sys2Proof.Machine

open Sys2Proof Sys2Proof.Machine Sys2Proof.Claims

/-- Settles O43: without reservations a decision tries the pool in dispatch order, and its first entry places its next unit. That the preferred core
comes first is the model's choice (log entry 33). -/
theorem dispatchDecides : Obligations.DispatchDecides := by
  intro s pref
  dsimp only
  refine ⟨⟨_, rfl⟩, fun e es l t order low unreserved unqueued launch fresh more record free place _ unreserved' => ?_⟩
  refine exec_dispatchDecision_of_placed low unreserved unqueued ?_ ?_
  · rw [order]
    exact tryPool_of_placed (tryEntry_of_placeNew launch fresh more record free place)
  · have low' : ∀ e ∈ t.pool, e.skip < 64 := (pool_of_desk (desk_placeNew place)) ▸ low
    rw [takeReserves_of_low (afterPlace_low low'), askReserved_of_none unreserved']
end

section
/-!
SUPPORT. What every operation of the model does to DRAM. All but three leave its bytes as they are: a bank writes back a column (15 R227), and a channel
performs a line's write when it admits it or issues its column command (15 R238). Those write whole lines by `memWrite`, which keeps the canonical
form of a memory (log entry 2). A lemma `dram_f` says that f leaves DRAM as it is, `dramIs_f` the same of an f with an outcome, and `wf_f` and
`inForm_f` that f keeps the form.
-/
namespace Sys2Proof.Machine

@[simp] theorem dram_ite (c : Prop) [Decidable c] (s t : State) : (if c then s else t).dram = if c then s.dram else t.dram := apply_ite ..
@[simp] theorem dram_fst_ite {α : Type} (c : Prop) [Decidable c] (s t : State × α) :
    (if c then s else t).1.dram = if c then s.1.dram else t.1.dram := by
  split <;> rfl

@[simp] theorem dram_foldl {α : Type} (f : State → α → State) (l : List α) (s : State) (h : ∀ s x, (f s x).dram = s.dram) :
    (l.foldl f s).dram = s.dram :=
  foldl_keeps (fun t : State => t.dram = s.dram) f l s rfl fun t x _ same => (h t x).trans same

@[simp] theorem dram_foldl_fst {α β : Type} (f : State × β → α → State × β) (l : List α) (r : State × β)
    (h : ∀ r x, (f r x).1.dram = r.1.dram) : (l.foldl f r).1.dram = r.1.dram :=
  foldl_keeps (fun q : State × β => q.1.dram = r.1.dram) f l r rfl fun q x _ same => (h q x).trans same

@[simp] theorem dram_foldl_loading {α : Type} (f : Loading → α → Loading) (l : List α) (r : Loading) (h : ∀ r x, (f r x).s.dram = r.s.dram) :
    (l.foldl f r).s.dram = r.s.dram :=
  foldl_keeps (fun q : Loading => q.s.dram = r.s.dram) f l r rfl fun q x _ same => (h q x).trans same

theorem dram_of_fst {α : Type} {p : State × α} {t : State} {a : α} (eq : p = (t, a)) : t.dram = p.1.dram := by rw [eq]

/-- The state in which a fetch leaves the model, whether it found a word or not. -/
def Fetched.state : Fetched → State
  | .word _ s => s
  | .none s => s

/-- The state in which an issue leaves the model, whether a word is still to run or not. -/
def Issue.state : Issue → State
  | .run _ s => s
  | .done s => s

/-- The state in which the fetch of a pump core's bundle leaves the model. -/
def Pumped.state : Pumped → State
  | .run _ s => s
  | .done s => s

/-- The state after the dispatcher tried a node. -/
def Tried.state : Tried → State
  | .placed s => s
  | .no s => s

/-- The state after a command, whether it ends or goes on. -/
def Did.state : Did → State
  | .ends s _ => s
  | .goes s => s

/-- If the outcome is a state, its DRAM is m. -/
def DramIs (m : List Host.Cell) : Out → Prop
  | .next t => t.dram = m
  | _ => True

@[simp] theorem dramIs_next (m : List Host.Cell) (t : State) : DramIs m (.next t) ↔ t.dram = m := Iff.rfl
@[simp] theorem dramIs_fault (m : List Host.Cell) (f : Fault) : DramIs m (.fault f) ↔ True := Iff.rfl
@[simp] theorem dramIs_refused (m : List Host.Cell) (f : Refusal) : DramIs m (.refused f) ↔ True := Iff.rfl
@[simp] theorem dramIs_ite (m : List Host.Cell) (c : Prop) [Decidable c] (s t : Out) :
    DramIs m (if c then s else t) = if c then DramIs m s else DramIs m t := apply_ite ..

/-- If the outcome is a state, its DRAM is in its canonical form. -/
def InForm : Out → Prop
  | .next t => Memory.wf t.dram = true
  | _ => True

@[simp] theorem inForm_next (t : State) : InForm (.next t) ↔ Memory.wf t.dram = true := Iff.rfl

theorem inForm_of_dramIs {m : List Host.Cell} {o : Out} (same : DramIs m o) (form : Memory.wf m = true) : InForm o := by
  cases o with
  | next t => rw [inForm_next, (dramIs_next m t).mp same]; exact form
  | fault f => trivial
  | refused r => trivial

-- the parts of the state, DRAM and the home slices (10 R178, R181; 18 R269, R270; 25 R355) ------------------------------------------------

@[simp] theorem dram_modCore (s : State) (n : Nat) (f : Core → Core) : (s.modCore n f).dram = s.dram := by rfl
@[simp] theorem dram_modTeam (s : State) (t : Nat) (f : Team → Team) : (s.modTeam t f).dram = s.dram := by rfl
@[simp] theorem dram_modPump (s : State) (n : Nat) (f : Pump → Pump) : (s.modPump n f).dram = s.dram := by rfl
@[simp] theorem dram_setUpset (s : State) (unit index place k : Nat) : (s.setUpset unit index place k).dram = s.dram := by rfl
@[simp] theorem dram_mendPump (s : State) (pc : Nat) : (s.mendPump pc).dram = s.dram := by rfl

theorem wf_dramWrite {s : State} {d vf : Nat} {x : BitVec 1024} (form : Memory.wf s.dram = true) : Memory.wf (s.dramWrite d vf x).dram = true :=
  wf_memWrite form ..

@[simp] theorem dram_mscPut (s : State) (d : Nat) : (s.mscPut d).dram = s.dram := by simp [State.mscPut]
@[simp] theorem dram_mscDrop (s : State) (stack : Nat) (f : Nat → Bool) : (s.mscDrop stack f).dram = s.dram := by rfl
@[simp] theorem dram_toChannel (s : State) (n : NReq) : (s.toChannel n).dram = s.dram := by simp [State.toChannel]

@[simp] theorem dram_want (s : State) (vf pa master rq : Nat) : (s.want vf pa master rq).dram = s.dram := by
  simp only [State.want]; split <;> simp

@[simp] theorem dram_sendWrite (s : State) (d pa vf master rq : Nat) (ws : List WByte) (back : Bool) (bad : Bool) :
    (s.sendWrite d pa vf master rq ws back bad).dram = s.dram := by simp [State.sendWrite]

@[simp] theorem dram_signal (s : State) (fn vector : Nat) : (s.signal fn vector).dram = s.dram := by rfl
@[simp] theorem dram_elog (s : State) (e : BitVec 512) : (s.elog e).dram = s.dram := by rfl

@[simp] theorem dram_logError (s : State) (kind vf unit index addr : Nat) (copy : List Nat) :
    (s.logError kind vf unit index addr copy).dram = s.dram := by rfl

@[simp] theorem dram_sense (s : State) (vf unit index place addr : Nat) : (s.sense vf unit index place addr).1.dram = s.dram := by simp [State.sense]
@[simp] theorem dram_missAt (s : State) (vf pa master : Nat) : (s.missAt vf pa master).dram = s.dram := by rfl
@[simp] theorem dram_setSline (s : State) (pa : Nat) (l : SLine) : (s.setSline pa l).dram = s.dram := by rfl
@[simp] theorem dram_delSline (s : State) (pa : Nat) : (s.delSline pa).dram = s.dram := by rfl

@[simp] theorem dram_senseLog (s : State) (vf unit index place addr : Nat) : (s.senseLog vf unit index place addr).1.dram = s.dram := by
  simp only [State.senseLog]; split <;> simp

@[simp] theorem dram_senseLine (s : State) (vf pa : Nat) : (s.senseLine vf pa).1.dram = s.dram := by
  simp only [State.senseLine]; split <;> simp

@[simp] theorem dram_cleanLine (s : State) (pa : Nat) : (s.cleanLine pa).dram = s.dram := by
  simp only [State.cleanLine]; split <;> simp

@[simp] theorem dram_dropCopy (s : State) (dst pa : Nat) : (s.dropCopy dst pa).dram = s.dram := by simp [State.dropCopy]
@[simp] theorem dram_fresh (s : State) : s.fresh.1.dram = s.dram := by rfl
@[simp] theorem dram_mail (s : State) (core slice id : Nat) : (s.mail core slice id).dram = s.dram := by simp [State.mail]
@[simp] theorem dram_unmail (s : State) (id : Nat) : (s.unmail id).dram = s.dram := by rfl
@[simp] theorem dram_invalidate (s : State) (line : Nat) (out : List Nat) : (s.invalidate line out).1.dram = s.dram := by simp [State.invalidate]

@[simp] theorem dram_dropAll (s : State) (pa : Nat) : (s.dropAll pa).dram = s.dram := by
  simp only [State.dropAll]; split <;> simp

@[simp] theorem dram_evict (s : State) (pa : Nat) : (s.evict pa).dram = s.dram := by simp [State.evict]
@[simp] theorem dram_pushBack (s : State) (pa : Nat) : (s.pushBack pa).dram = s.dram := by simp [State.pushBack]

@[simp] theorem dram_fill (s : State) (pa cls : Nat) (whole : Bool) (vf : Nat) (master : Nat) : (s.fill pa cls whole vf master).dram = s.dram := by
  unfold State.fill; dsimp only; (repeat' split) <;> simp

@[simp] theorem dram_takeWay (s : State) (pa : Nat) : (s.takeWay pa).dram = s.dram := by
  unfold State.takeWay; dsimp only; (repeat' split) <;> simp

@[simp] theorem dram_touch (s : State) (pa : Nat) : (s.touch pa).dram = s.dram := by
  simp only [State.touch]; split <;> simp

@[simp] theorem dram_share (s : State) (pa who : Nat) : (s.share pa who).dram = s.dram := by
  simp only [State.share]; split <;> simp

@[simp] theorem dram_foldWrite (s : State) (pa but : Nat) : (s.foldWrite pa but).dram = s.dram := by rfl

@[simp] theorem dram_accept (s : State) (vf pa master keep but cls : Nat) (ws : List WByte) :
    (s.accept vf pa master keep but cls ws).1.dram = s.dram := by
  unfold State.accept; dsimp only; (repeat' split) <;> simp

@[simp] theorem dram_logRefusal (s : State) (vf master kind : Nat) (r : Refused) : (s.logRefusal vf master kind r).dram = s.dram := by rfl
@[simp] theorem dram_entered (s : State) (master pa : Nat) : (s.entered master pa).dram = s.dram := by rfl

@[simp] theorem dram_pokeLine (s : State) (op vf pa master : Nat) (ws : List WByte) : (s.pokeLine op vf pa master ws).1.dram = s.dram := by
  simp [State.pokeLine]

@[simp] theorem dram_pokeBy {no : State → Refused → State} (kept : ∀ t r, (no t r).dram = t.dram) (s : State) (vf a : Nat) (bs : List Byte) :
    (State.pokeBy no s vf a bs).dram = s.dram := by
  refine dram_foldl _ _ _ fun t x => ?_
  split
  · exact kept ..
  · split <;> simp

@[simp] theorem dram_report (s : State) (vf : Nat) (r : BitVec 512) : (s.report vf r).dram = s.dram := by simp [State.report]

@[simp] theorem dram_refuseAt (s : State) (vf master kind : Nat) (r : Refused) : (s.refuseAt vf master kind r).dram = s.dram := by
  simp [State.refuseAt]

@[simp] theorem dram_refuse (s : State) (vf tgt tidx master kind addr : Nat) : (s.refuse vf tgt tidx master kind addr).dram = s.dram := by
  simp [State.refuse]

@[simp] theorem dram_poke (s : State) (vf a : Nat) (bs : List Byte) : (s.poke vf a bs).dram = s.dram := by simp [State.poke]

theorem dram_of_turnedAway {s t : State} {r : Req} {right : Nat} {wr : Bool} (eq : s.turnedAway r right wr = some t) : t.dram = s.dram := by
  obtain ⟨x, -, rfl⟩ := Option.map_eq_some_iff.mp eq
  exact dram_refuseAt ..

@[simp] theorem dram_flushLate (s : State) : s.flushLate.dram = s.dram := by simp [State.flushLate]

@[simp] theorem dram_readLine (s : State) (vf pa master tid coh : Nat) : (s.readLine vf pa master tid coh).1.dram = s.dram := by
  simp only [State.readLine]; split <;> simp

@[simp] theorem dram_readFor (s : State) (vf pa master tid coh : Nat) : (s.readFor vf pa master tid coh).1.dram = s.dram := by
  simp only [State.readFor]; split <;> simp

theorem dram_of_awaits {s t : State} {vf pa master : Nat} (eq : s.awaits vf pa master = some t) : t.dram = s.dram := by
  unfold State.awaits at eq
  split at eq
  · cases eq; rfl
  · split at eq <;> cases eq
    exact dram_want ..

@[simp] theorem dram_getD_awaits (s u : State) (vf pa master : Nat) (same : u.dram = s.dram) :
    ((s.awaits vf pa master).getD u).dram = s.dram := by
  cases eq : s.awaits vf pa master with
  | none => exact same
  | some t => exact dram_of_awaits eq

@[simp] theorem dram_wantFor (s : State) (m : Nat × Nat × Nat) : (s.wantFor m).dram = s.dram := by simp [State.wantFor]

@[simp] theorem dram_writeFor (s : State) (op vf pa master : Nat) (ws : List WByte) : (s.writeFor op vf pa master ws).1.dram = s.dram := by
  simp only [State.writeFor]; split <;> simp

@[simp] theorem dram_fetchBytes (s : State) (vf a n : Nat) : (s.fetchBytes vf a n).1.dram = s.dram := by simp [State.fetchBytes]

-- the register file, the L1 and what a home slice does (10 R175, R178; 11 R195, R196) -----------------------------------------------------

@[simp] theorem dram_setCoh (s : State) (tid c : Nat) (x : Cohort) : (s.setCoh tid c x).dram = s.dram := by rfl
@[simp] theorem dram_modCoh (s : State) (tid c : Nat) (f : Cohort → Cohort) : (s.modCoh tid c f).dram = s.dram := by rfl

@[simp] theorem dram_vset (s : State) (tid c lane r : Nat) (x : BitVec 128) : (s.vset tid c lane r x).dram = s.dram := by
  simp only [State.vset]; split <;> simp

@[simp] theorem dram_complete (s : State) (tid c f : Nat) : (s.complete tid c f).dram = s.dram := by
  unfold State.complete; dsimp only; (repeat' split) <;> simp

@[simp] theorem dram_newOp (s : State) (o : Op) : (s.newOp o).1.dram = s.dram := by rfl

@[simp] theorem dram_endOp (s : State) (id : Nat) : (s.endOp id).dram = s.dram := by
  simp only [State.endOp]; split <;> simp

@[simp] theorem dram_partDone (s : State) (id : Nat) (res : List (Nat × Byte)) (lanes : Lanes) (scope : Nat) :
    (s.partDone id res lanes scope).dram = s.dram := by
  simp only [State.partDone]; split <;> simp

@[simp] theorem dram_mailAcks (s : State) : s.mailAcks.dram = s.dram := by simp [State.mailAcks]

@[simp] theorem dram_ackFor (s : State) (op : Nat) (tag : BitVec 16) (invs : List Nat) (lanes : Lanes) (scope : Nat) (res : List (Nat × Byte) )
    (way : Nat × Nat) : (s.ackFor op tag invs lanes scope res way).dram = s.dram := by simp [State.ackFor]

@[simp] theorem dram_writeAck (s : State) (op vf pa master : Nat) (ws : List WByte) : (s.writeAck op vf pa master ws).dram = s.dram := by
  simp only [State.writeAck]; split <;> simp

@[simp] theorem dram_spoil (s : State) (op vf : Nat) (x : Option (Nat × Nat × Nat)) : (s.spoil op vf x).dram = s.dram := by
  simp only [State.spoil]; split <;> simp

@[simp] theorem dram_ownOp (s : State) (tid coh : Nat) : (s.ownOp tid coh).1.dram = s.dram := by rfl
@[simp] theorem dram_keepBad (s : State) (pa : Nat) : (s.keepBad pa).dram = s.dram := by simp [State.keepBad]

@[simp] theorem dram_writeBack (s : State) (op core pa : Nat) : (s.writeBack op core pa).dram = s.dram := by
  simp only [State.writeBack]; split <;> simp

@[simp] theorem dram_unshare (s : State) (who pa : Nat) : (s.unshare who pa).dram = s.dram := by
  simp only [State.unshare]; split <;> simp

@[simp] theorem dram_l1Drop (s : State) (op core pa : Nat) : (s.l1Drop op core pa).dram = s.dram := by simp [State.l1Drop]

@[simp] theorem dram_l1Put (s : State) (core pa : Nat) (l : L1Line) : (s.l1Put core pa l).dram = s.dram := by
  unfold State.l1Put; dsimp only; (repeat' split) <;> simp

@[simp] theorem dram_dropStale (s : State) (core pa : Nat) : (s.dropStale core pa).dram = s.dram := by simp [State.dropStale]
@[simp] theorem dram_l1Update (s : State) (core pa : Nat) (ws : List WByte) : (s.l1Update core pa ws).dram = s.dram := by rfl
@[simp] theorem dram_modBank (s : State) (gb : Nat) (f : Bank → Bank) : (s.modBank gb f).dram = s.dram := by rfl
@[simp] theorem dram_launchErr (s : State) (pc code : Nat) : (s.launchErr pc code).dram = s.dram := by rfl

@[simp] theorem dram_pumpRefused (s : State) (op : Nat) : (s.pumpRefused op).dram = s.dram := by
  unfold State.pumpRefused
  split
  · split
    · split <;> simp
    · rfl
  · rfl

@[simp] theorem dram_partBack (s : State) (r : Req) (res : List (Nat × Byte)) : (s.partBack r res).dram = s.dram := by simp [State.partBack]

@[simp] theorem dram_takeRelease (s : State) (r : Req) (ws : List WByte) : (s.takeRelease r ws).dram = s.dram := by
  unfold State.takeRelease; dsimp only; (repeat' split) <;> simp

@[simp] theorem dram_doWrite (s : State) (r : Req) (ws : List WByte) : (s.doWrite r ws).dram = s.dram := by simp [State.doWrite]

@[simp] theorem dram_doAtomic (s : State) (r : Req) (op size addr : Nat) (lanes : List ALane) : (s.doAtomic r op size addr lanes).dram = s.dram := by
  simp only [State.doAtomic]; split <;> simp

@[simp] theorem dram_invalidateLine (s : State) (pa : Nat) : (s.invalidateLine pa).dram = s.dram := by
  simp only [State.invalidateLine]; split <;> simp

@[simp] theorem dram_applyHeld (s : State) (id : Nat) : (s.applyHeld id).dram = s.dram := by
  unfold State.applyHeld; dsimp only; (repeat' split) <;> simp

@[simp] theorem dram_applyWaiting (s : State) (pa : Nat) : (s.applyWaiting pa).dram = s.dram := by simp [State.applyWaiting]

-- lock chains at a home slice (21 R312 to R322) -------------------------------------------------------------------------------------------

@[simp] theorem dram_landStatus (s : State) (tid coh vd : Nat) (lanes : Lanes) (status : Nat) :
    (s.landStatus tid coh vd lanes status).dram = s.dram := by simp [State.landStatus]

@[simp] theorem dram_sendGrant (s : State) (g : Grant) : (s.sendGrant g).dram = s.dram := by simp [State.sendGrant]

@[simp] theorem dram_grantHead (s : State) (pa : Nat) : (s.grantHead pa).dram = s.dram := by
  simp only [State.grantHead]; split <;> simp

@[simp] theorem dram_handoff (s : State) (pa : Nat) : (s.handoff pa).dram = s.dram := by
  unfold State.handoff; dsimp only; (repeat' split) <;> simp

@[simp] theorem dram_dropMark (s : State) (pa : Nat) : (s.dropMark pa).dram = s.dram := by
  simp only [State.dropMark]; split <;> simp

@[simp] theorem dram_unlock (s : State) (vf pa master : Nat) (ws : List WByte) : (s.unlock vf pa master ws).1.dram = s.dram := by simp [State.unlock]

@[simp] theorem dram_breakLine (s : State) (pa tid coh : Nat) (retire : Bool) : (s.breakLine pa tid coh retire).dram = s.dram := by
  simp only [State.breakLine]; split <;> simp

@[simp] theorem dram_dropWaiters (s : State) (tid : Nat) : (s.dropWaiters tid).dram = s.dram :=
  dram_foldl _ _ _ fun _ _ => rfl

@[simp] theorem dram_breakAll (s : State) (tid coh : Nat) (retire : Bool) : (s.breakAll tid coh retire).dram = s.dram := by simp [State.breakAll]

@[simp] theorem dram_markAbsent (s : State) (tid : Nat) : (s.markAbsent tid).dram = s.dram :=
  dram_foldl _ _ _ fun _ _ => rfl

@[simp] theorem dram_markPresent (s : State) (tid : Nat) : (s.markPresent tid).dram = s.dram := by
  refine dram_foldl _ _ _ fun u e => ?_
  dsimp only
  split
  · split
    · split <;> simp
    · simp
  · rfl

-- the issuing group, faults, translation and the runs of a team (09 R159 to R165; 10 R174; 18 R264 to R267) -------------------------------

@[simp] theorem dram_modMe (s : State) (f : Cohort → Cohort) : (s.modMe f).dram = s.dram := by rfl
@[simp] theorem dram_sset (s : State) (r : Nat) (v : BitVec 64) : (s.sset r v).dram = s.dram := by rfl
@[simp] theorem dram_pset (s : State) (r : Nat) (ls v : Lanes) : (s.pset r ls v).dram = s.dram := by rfl
@[simp] theorem dram_setV (s : State) (lane r : Nat) (x : BitVec 128) : (s.setV lane r x).dram = s.dram := by simp [State.setV]
@[simp] theorem dram_eachV (s : State) (ls : Lanes) (r : Nat) (f : Nat → BitVec 128) : (s.eachV ls r f).dram = s.dram := by simp [State.eachV]
@[simp] theorem dram_advance (s : State) (ls : Lanes) : (s.advance ls).dram = s.dram := by rfl
@[simp] theorem dram_done (s : State) (spin : Bool) : (s.done spin).dram = s.dram := by rfl
@[simp] theorem dram_doneIn (s : State) (ls : Lanes) (spin : Bool) : (s.doneIn ls spin).dram = s.dram := by rfl
@[simp] theorem dram_suspend (s : State) (ls : Lanes) : (s.suspend ls).dram = s.dram := by rfl
@[simp] theorem dram_draw (s : State) : s.draw.1.dram = s.dram := by rfl
@[simp] theorem dram_count (s : State) (core ev quad n : Nat) : (s.count core ev quad n).dram = s.dram := by rfl
@[simp] theorem dram_fqPut (s : State) (vf : Nat) (r : BitVec 512) : (s.fqPut vf r).dram = s.dram := by simp [State.fqPut]

@[simp] theorem dram_record (s : State) (r : FRec) : (s.record r).dram = s.dram := by
  simp only [State.record]; split <;> simp

@[simp] theorem dram_sendRecord (s : State) (r : FRec) : (s.sendRecord r).dram = s.dram := by simp [State.sendRecord]
@[simp] theorem dram_takeFseq (s : State) (vf : Nat) : (s.takeFseq vf).1.dram = s.dram := by rfl
@[simp] theorem dram_terminate (s : State) (tid : Nat) (r : BitVec 512) : (s.terminate tid r).dram = s.dram := by simp [State.terminate]

@[simp] theorem dram_machineCheck (s : State) (tid coh : Nat) (pc : BitVec 64) (lanes : Lanes) (access : Nat) (e : Nat × Nat × Nat) :
    (s.machineCheck tid coh pc lanes access e).dram = s.dram := by simp [State.machineCheck]

@[simp] theorem dram_engineCheck (s : State) (tid coh : Nat) (pc : BitVec 64) (e : Option (Nat × Nat × Nat)) :
    (s.engineCheck tid coh pc e).dram = s.dram := by
  simp only [State.engineCheck]; split <;> simp

@[simp] theorem dram_programFault (s : State) (tid coh : Nat) (grp : Lanes) (pc back : BitVec 64) (x : FaultInfo) :
    (s.programFault tid coh grp pc back x).dram = s.dram := by simp [State.programFault]

@[simp] theorem dram_raise (s : State) (x : FaultInfo) : (s.raise x).dram = s.dram := by simp [State.raise]
@[simp] theorem dram_illegal (s : State) : s.illegal.dram = s.dram := by simp [State.illegal]
@[simp] theorem dram_badReg (s : State) (r : Nat) : (s.badReg r).dram = s.dram := by simp [State.badReg]
@[simp] theorem dram_badWalks (s : State) (core vf : Nat) (bads : List BadLane) : (s.badWalks core vf bads).dram = s.dram := by simp [State.badWalks]
@[simp] theorem dram_park (s : State) (bads : List BadLane) (size access : Nat) : (s.park bads size access).dram = s.dram := by simp [State.park]

@[simp] theorem dram_transFor (s : State) (vf va need master : Nat) : (s.transFor vf va need master).1.dram = s.dram := by
  simp only [State.transFor]; split <;> simp

@[simp] theorem dram_startWalk (s : State) (core vf page : Nat) : (s.startWalk core vf page).dram = s.dram := by
  simp only [State.startWalk]; split <;> simp

theorem dram_translated {s : State} {need access size : Nat} {ls : List (Nat × List Piece)} {k : State → List (Nat × List Piece) → State}
    {hold : List (Nat × List Piece) → Option State} {all : Bool} (kept : ∀ t good, t.dram = s.dram → (k t good).dram = s.dram)
    (held : ∀ good t, hold good = some t → t.dram = s.dram) : (s.translated need access size ls k hold all).dram = s.dram := by
  unfold State.translated
  dsimp only
  split
  · exact dram_foldl _ _ _ fun _ _ => dram_startWalk ..
  · split
    next t eq => exact held _ t eq
    next => refine kept _ _ ?_; split <;> simp

@[simp] theorem dram_senseRun (s : State) (t : Team) (space i n : Nat) : (s.senseRun t space i n).1.dram = s.dram := by simp [State.senseRun]
@[simp] theorem dram_sensePlaces (s : State) (vf core lo n : Nat) : (s.sensePlaces vf core lo n).1.dram = s.dram := by simp [State.sensePlaces]
@[simp] theorem dram_mendPlaces (s : State) (core lo n : Nat) : (s.mendPlaces core lo n).dram = s.dram := by rfl

@[simp] theorem dram_senseTasks (s : State) (t : Team) (tid i n : Nat) (vf : Nat) : (s.senseTasks t tid i n vf).1.dram = s.dram := by
  simp [State.senseTasks]

@[simp] theorem dram_pushTasks (s : State) (tid : Nat) (ts : List (BitVec 256)) : (s.pushTasks tid ts).dram = s.dram := by simp [State.pushTasks]
@[simp] theorem dram_runWrite (s : State) (t : Team) (space : Nat) (ws : List WByte) : (s.runWrite t space ws).dram = s.dram := by rfl
@[simp] theorem dram_setDeque (s : State) (tid : Nat) (q : List (BitVec 256)) (front : Nat) : (s.setDeque tid q front).dram = s.dram := by rfl
@[simp] theorem dram_tick (s : State) : s.tick.dram = s.dram := by simp [State.tick]

-- an alu word's interlock (06 R104) -------------------------------------------------------------------------------------------------------

@[simp] theorem dram_noteAlu (s : State) (port tid coh : Nat) (g guard : Lanes) (w : Nat) : (s.noteAlu port tid coh g guard w).dram = s.dram := by
  simp only [State.noteAlu]; split <;> simp

-- fetching and decoding (03 R46, R47, R58, R59) -------------------------------------------------------------------------------------------

@[simp] theorem dram_fetch (s : State) (a : Nat) : (s.fetch a).state.dram = s.dram := by
  unfold State.fetch
  dsimp only
  split
  · rfl
  · split
    · split
      next t eq => exact dram_of_awaits eq
      next => split <;> simp [Fetched.state]
    all_goals simp [Fetched.state]

theorem dram_of_word {s t : State} {a w : Nat} (eq : s.fetch a = .word w t) : t.dram = s.dram := by
  rw [← dram_fetch s a, eq]; rfl

theorem dram_of_noWord {s t : State} {a : Nat} (eq : s.fetch a = .none t) : t.dram = s.dram := by
  rw [← dram_fetch s a, eq]; rfl

@[simp] theorem dram_badClause (s : State) (h w : Nat) : (s.badClause h w).dram = s.dram := by simp [State.badClause]
@[simp] theorem dram_badRole (s : State) (h e : Nat) : (s.badRole h e).dram = s.dram := by simp [State.badRole]
@[simp] theorem dram_passCohort (s : State) (tid coh : Nat) : (s.passCohort tid coh).dram = s.dram := by rfl

@[simp] theorem dram_issue (s : State) (port tid coh lane : Nat) : (s.issue port tid coh lane).state.dram = s.dram := by
  unfold State.issue
  dsimp only
  split
  · rfl
  · split
    · simp [Issue.state]
    · split
      next t eq => simp [Issue.state, dram_of_noWord eq]
      next w t eq =>
        have first := dram_of_word eq
        split
        · split
          · simpa [Issue.state] using first
          · split
            · simpa [Issue.state] using first
            · split
              · simpa [Issue.state] using first
              · split
                next u eq => simpa [Issue.state, dram_of_noWord eq] using first
                next x u eq =>
                  split
                  · split
                    · simpa [Issue.state, dram_of_word eq] using first
                    · simpa [Issue.state, dram_of_word eq] using first
                  · simpa [Issue.state, dram_of_word eq] using first
        · simpa [Issue.state] using first

theorem dram_of_run {s t : State} {port tid coh lane : Nat} {i : Instr} (eq : s.issue port tid coh lane = .run i t) : t.dram = s.dram := by
  rw [← dram_issue s port tid coh lane, eq]; rfl

theorem dram_of_done {s t : State} {port tid coh lane : Nat} (eq : s.issue port tid coh lane = .done t) : t.dram = s.dram := by
  rw [← dram_issue s port tid coh lane, eq]; rfl

-- register checks and operand forms (03 R51, R57) -----------------------------------------------------------------------------------------

@[simp] theorem dramIs_checked (s : State) (rs : List RegCheck) (k : State) (kept : k.dram = s.dram) : DramIs s.dram (s.checked rs k) := by
  unfold State.checked
  split
  · simp
  · exact kept

@[simp] theorem dram_guarded (s : State) (g : Nat) (k : State) (spin : Bool) : (s.guarded g k spin).dram = k.dram := dram_done ..

@[simp] theorem dramIs_opVV (s : State) (d a b g : Nat) (f : BitVec 128 → BitVec 128 → BitVec 128) : DramIs s.dram (s.opVV d a b g f) := by
  simp [State.opVV]

@[simp] theorem dramIs_opVVV (s : State) (d a b g : Nat) (f : BitVec 128 → BitVec 128 → BitVec 128 → BitVec 128) :
    DramIs s.dram (s.opVVV d a b g f) := by simp [State.opVVV]

@[simp] theorem dramIs_opV (s : State) (d a g : Nat) (f : BitVec 128 → BitVec 128) : DramIs s.dram (s.opV d a g f) := by simp [State.opV]
@[simp] theorem dramIs_opI (s : State) (d a : Nat) (f : BitVec 128 → BitVec 128 → BitVec 128) : DramIs s.dram (s.opI d a f) := by simp [State.opI]
@[simp] theorem dramIs_opS (s : State) (d a b : Nat) (f : BitVec 64 → BitVec 64 → BitVec 64) : DramIs s.dram (s.opS d a b f) := by rfl
@[simp] theorem dram_uniform (s : State) (g d : Nat) (x : BitVec 64) : (s.uniform g d x).dram = s.dram := by rfl

-- comparisons and FPFLAGS (04 R87, R88; 06 R114 to R119) ----------------------------------------------------------------------------------

@[simp] theorem dram_orFlags (s : State) (f : BitVec 32) : (s.orFlags f).dram = s.dram := by rfl

@[simp] theorem dram_eachVF (s : State) (ls : Lanes) (d : Nat) (f : Nat → BitVec 128 × BitVec 32) : (s.eachVF ls d f).dram = s.dram := by
  simp [State.eachVF]

@[simp] theorem dramIs_opF (s : State) (t d a b g : Nat) (f : Mode → FVal → FVal → FVal → FVal × Bool) : DramIs s.dram (s.opF t d a b g f) := by
  simp [State.opF]

@[simp] theorem dramIs_opEst (s : State) (d a g : Nat) (f : BitVec 32 → BitVec 32 × BitVec 32) : DramIs s.dram (s.opEst d a g f) := by
  simp [State.opEst]

@[simp] theorem dramIs_opCvtWide (s : State) (d a r g w : Nat) (f : Mode → Nat → Nat × BitVec 32) : DramIs s.dram (s.opCvtWide d a r g w f) := by
  simp [State.opCvtWide]

@[simp] theorem dramIs_opCvtNarrow (s : State) (d a r g b : Nat) (fm : Fmt) : DramIs s.dram (s.opCvtNarrow d a r g b fm) := by
  simp [State.opCvtNarrow]

-- the alu class (06 R103 to R128) ---------------------------------------------------------------------------------------------------------

@[simp] theorem dramIs_cmpWith (s : State) (d a b g : Nat) (f : BitVec 128 → BitVec 128 → Bool) : DramIs s.dram (s.cmpWith d a b g f) := by
  simp [State.cmpWith]

@[simp] theorem dramIs_predWith (s : State) (d g : Nat) (v : Lanes) : DramIs s.dram (s.predWith d g v) := by rfl
@[simp] theorem dram_shuffle (s : State) (d a g : Nat) (src : Nat → Nat) : (s.shuffle d a g src).dram = s.dram := by simp [State.shuffle]

-- loads, stores and atomics (09 R160; 11 R186 to R197) ------------------------------------------------------------------------------------

@[simp] theorem dram_noteRedo (s : State) (id : Nat) : (s.noteRedo id).dram = s.dram := by simp [State.noteRedo]
@[simp] theorem dram_addReq (s : State) (r : Req) : (s.addReq r).1.dram = s.dram := by rfl

@[simp] theorem dram_send (s : State) (op : Nat) (lanes : Lanes) (kind : ReqKind) (line : Nat) (slice : Bool) (cls page pk : Nat) (ops : List Nat)
    (after : List Nat) (rel : Nat) (part : Option Lanes) :
    (s.send op lanes kind line slice cls page pk ops after rel part).1.dram = s.dram := by rfl

@[simp] theorem dram_sendQue (s : State) (op : Nat) (lanes : Lanes) (kind : ReqKind) (line : Nat) (slice : Bool) (page pk : Nat) (ops : List Nat)
    (rel : Nat) : (s.sendQue op lanes kind line slice page pk ops rel).1.dram = s.dram := by simp [State.sendQue]

@[simp] theorem dram_extRead (s : State) (p : BitVec 64) (n vf master : Nat) : (s.extRead p n vf master).1.dram = s.dram := by
  simp only [State.extRead]; split <;> simp

@[simp] theorem dram_extWrite (s : State) (p : BitVec 64) (vf master : Nat) (bs : List (Nat × Byte × Byte)) :
    (s.extWrite p vf master bs).1.dram = s.dram := by
  simp only [State.extWrite]; split <;> simp

@[simp] theorem dram_privLine (s : State) (line cls : Nat) : (s.privLine line cls).1.dram = s.dram := by
  simp only [State.privLine]; split <;> simp

@[simp] theorem dram_privPut (s : State) (line : Nat) (ws : List WByte) : (s.privPut line ws).dram = s.dram := by
  simp only [State.privPut]; split <;> simp

@[simp] theorem dram_privWrite (s : State) (line cls : Nat) (ws : List WByte) : (s.privWrite line cls ws).dram = s.dram := by
  simp only [State.privWrite]; split <;> simp

@[simp] theorem dram_privReads (s : State) (cls : Nat → Nat) (parts : List (Nat × Nat × Nat)) : (s.privReads cls parts).1.dram = s.dram := by
  simp [State.privReads]

@[simp] theorem dram_privWrites (s : State) (cls : Nat → Nat) (ws : List WByte) : (s.privWrites cls ws).dram = s.dram := by simp [State.privWrites]
@[simp] theorem dram_privPuts (s : State) (ws : List WByte) : (s.privPuts ws).dram = s.dram := by simp [State.privPuts]

theorem dram_of_privAwait {s t : State} {lines : List Nat} (eq : s.privAwait lines = some t) : t.dram = s.dram := by
  obtain ⟨l, -, waits⟩ := List.exists_of_findSome?_eq_some eq
  split at waits
  · cases waits
  · exact dram_of_awaits waits

@[simp] theorem dram_flushPriv (s : State) (tid coh op : Nat) : (s.flushPriv tid coh op).dram = s.dram := by simp [State.flushPriv]
@[simp] theorem dram_flushFor (s : State) : s.flushFor.dram = s.dram := by simp [State.flushFor]

@[simp] theorem dram_memOp (s : State) (x : MemX) (dest : Dest) (kind : Nat) (as : List LaneAcc) : (s.memOp x dest kind as).1.dram = s.dram := by
  simp [State.memOp]

@[simp] theorem dram_setParts (s : State) (op : Nat) (sent now : List (Lanes × Nat)) : (s.setParts op sent now).dram = s.dram := by
  simp only [State.setParts]; split <;> simp

@[simp] theorem dram_setGot (s : State) (op left : Nat) (got : Tab Byte) : (s.setGot op left got).dram = s.dram := by
  simp only [State.setGot]; split <;> simp

@[simp] theorem dram_doLoad (s : State) (x : MemX) (dest : Dest) (n : Nat) (as : List LaneAcc) : (s.doLoad x dest n as).dram = s.dram := by
  simp only [State.doLoad, dram_ite, dram_modMe, dram_setGot, ite_self]
  rw [dram_foldl_loading, dram_foldl_loading, dram_foldl_loading]
  · simp
  · intro r a
    split <;> (try split) <;> simp
  · intro r l
    split <;> simp
  · intro r m
    simp

@[simp] theorem dram_lookedUp (s : State) (core line : Nat) : (s.lookedUp core line).dram = s.dram := by rfl

@[simp] theorem dram_doStore (s : State) (x : MemX) (n : Nat) (data : Nat → List (Byte × Byte)) (as : List LaneAcc) :
    (s.doStore x n data as).dram = s.dram := by
  unfold State.doStore
  extract_lets t f op u here groups one sent far
  have part (r) (l) (ps) : (one r l ps).1.dram = r.1.dram := by
    simp only [one]
    split <;> simp
  have placed : here.1.dram = s.dram := by
    refine (dram_foldl_fst _ _ _ fun r a => ?_).trans (by simp [u, f])
    split <;> simp
  have lines : sent.1.dram = here.1.dram := by
    refine dram_foldl_fst _ _ _ fun r l => ?_
    split <;> simp [part]
  have away : far.1.dram = sent.1.dram := by
    refine dram_foldl_fst _ _ _ fun r m => ?_
    dsimp only
    split <;> simp
  rw [dram_setParts, away, lines, placed]

@[simp] theorem dram_privAtomics (s : State) (id : Nat) (x : MemX) (op n : Nat) (v w : Nat → BitVec 64) (as : List LaneAcc) :
    (s.privAtomics id x op n v w as).1.dram = s.dram := by simp [State.privAtomics]

@[simp] theorem dram_runAtomic (s : State) (t : Team) (op n off : Nat) (v w : BitVec 64) : (s.runAtomic t op n off v w).1.dram = s.dram := by
  simp only [State.runAtomic]; split <;> simp

@[simp] theorem dram_hereAtomic (s : State) (id : Nat) (c : CasLane) : (s.hereAtomic id c).1.dram = s.dram := by simp [State.hereAtomic]

@[simp] theorem dram_casNext (s : State) (id : Nat) (o : Op) (c : CasLane) (cs : List CasLane) : (s.casNext id o c cs).dram = s.dram := by
  unfold State.casNext; dsimp only; (repeat' split) <;> simp

@[simp] theorem dram_casRun (s : State) (id n : Nat) : (s.casRun id n).dram = s.dram := by
  induction n generalizing s with
  | zero => rfl
  | succ n ih =>
    unfold State.casRun
    split
    · split
      · split
        · rw [ih, dram_casNext]
        · rfl
      · rfl
    · rfl

@[simp] theorem dram_doAtomics (s : State) (x : MemX) (dest : Dest) (aop n : Nat) (ret : Bool) (v w : Nat → BitVec 64) (as : List LaneAcc) :
    (s.doAtomics x dest aop n ret v w as).dram = s.dram := by
  unfold State.doAtomics
  dsimp only
  split
  · split <;> simp
  · simp only [dram_ite, dram_setGot, dram_setParts, ite_self]
    rw [dram_foldl_fst, dram_foldl_fst, dram_foldl_fst]
    · simp
    · intro r a
      split <;> simp
    · intro r kind
      simp
    · intro r m
      simp

-- the mem class (11 R186 to R198) ---------------------------------------------------------------------------------------------------------

@[simp] theorem dram_memDone (s : State) (spin : Bool) : (s.memDone spin).dram = s.dram := by rfl

theorem dram_of_orderHold {s t : State} {x : MemX} {as : List LaneAcc} {good : List (Nat × List Piece)} (eq : s.orderHold x as good = some t) :
    t.dram = s.dram := by
  unfold State.orderHold at eq
  dsimp only at eq
  split at eq
  · cases eq; rfl
  · exact dram_of_privAwait eq

@[simp] theorem dram_accessWord (s : State) (access n align : Nat) (x : MemX) (as : List LaneAcc) (spin uni : Bool)
    (k : State → List LaneAcc → State) (kept : ∀ t as, (k t as).dram = t.dram) : (s.accessWord access n align x as spin k uni).dram = s.dram := by
  unfold State.accessWord
  split
  · simp
  · split
    · simp
    · refine dram_translated (fun t good same => ?_) fun good t => dram_of_orderHold
      dsimp only
      split
      · simpa using same
      · simpa [kept] using same

@[simp] theorem dramIs_memIssue (s : State) (lanes : Lanes) (flag : Nat) (load : Bool) (rs : List RegCheck) (k : State) (rel : Nat)
    (kept : k.dram = s.dram) : DramIs s.dram (s.memIssue lanes flag load rs k rel) := by
  unfold State.memIssue
  split
  · exact dramIs_checked _ _ _ kept
  · split
    · rfl
    · exact dramIs_checked _ _ _ (by split <;> simp [kept])

@[simp] theorem dramIs_load (s : State) (d a p o g n : Nat) (sx : Bool) : DramIs s.dram (s.load d a p o g n sx) := by simp [State.load]

@[simp] theorem dramIs_store (s : State) (v a p o g n u align : Nat) (data : BitVec 128 → List (Byte × Byte)) :
    DramIs s.dram (s.store v a p o g n u align data) := by simp [State.store]

@[simp] theorem dramIs_execLduD (d a p o : Nat) (s : State) : DramIs s.dram (execLduD d a p o s) := by simp [execLduD]
@[simp] theorem dramIs_execStuD (v a p o : Nat) (s : State) : DramIs s.dram (execStuD v a p o s) := by simp [execStuD]
@[simp] theorem dramIs_loadAcq (s : State) (d a p g n : Nat) : DramIs s.dram (s.loadAcq d a p g n) := by simp [State.loadAcq]
@[simp] theorem dramIs_storeRel (s : State) (v a p sc g n : Nat) : DramIs s.dram (s.storeRel v a p sc g n) := by simp [State.storeRel]
@[simp] theorem dramIs_atom (s : State) (op n d a p o g : Nat) : DramIs s.dram (s.atom op n d a p o g) := by simp [State.atom]
@[simp] theorem dramIs_mred (s : State) (op n v a p o g : Nat) : DramIs s.dram (s.mred op n v a p o g) := by simp [State.mred]
@[simp] theorem dramIs_execFence (sc k g : Nat) (s : State) : DramIs s.dram (execFence sc k g s) := by simp [execFence]

theorem dramIs_cacheWord {s : State} {a o g : Nat} {n : State → List LaneAcc → Nat} {k : State → Nat → List LaneAcc → State}
    (kept : ∀ t op as, (k t op as).dram = t.dram) : DramIs s.dram (s.cacheWord a o g n k) := by
  unfold State.cacheWord
  dsimp only
  refine dramIs_memIssue _ _ _ _ _ _ _ ?_
  split
  · simp
  · split
    · simp
    · refine dram_translated (fun t good same => ?_) fun _ _ eq => nomatch eq
      split
      · simpa using same
      · simpa [kept] using same

@[simp] theorem dramIs_execCclean (a z o g : Nat) (s : State) : DramIs s.dram (execCclean a z o g s) := by
  unfold execCclean
  exact dramIs_cacheWord fun _ _ _ => by simp

@[simp] theorem dramIs_execCflush (a z o g : Nat) (s : State) : DramIs s.dram (execCflush a z o g s) := by
  unfold execCflush
  exact dramIs_cacheWord fun _ _ _ => by simp

@[simp] theorem dram_prefetch (s : State) (pol : BitVec 64) (line lane : Nat) (priv : Bool) : (s.prefetch pol line lane priv).dram = s.dram := by
  unfold State.prefetch; dsimp only; (repeat' split) <;> simp

@[simp] theorem dramIs_execPfetch (a p o g : Nat) (s : State) : DramIs s.dram (execPfetch a p o g s) := by simp [execPfetch]

-- boarding slots (20 R302 to R307) --------------------------------------------------------------------------------------------------------

@[simp] theorem dram_endBoard (s : State) (core i fin : Nat) : (s.endBoard core i fin).dram = s.dram := by simp [State.endBoard]
@[simp] theorem dram_disarm (s : State) (core : Nat) (f : BoardSlot → Bool) : (s.disarm core f).dram = s.dram := by simp [State.disarm]
@[simp] theorem dram_cancelBoard (s : State) (core i : Nat) : (s.cancelBoard core i).dram = s.dram := by simp [State.cancelBoard]
@[simp] theorem dram_takeQuits (s : State) (core : Nat) : (s.takeQuits core).dram = s.dram := by simp [State.takeQuits]

-- mask waits, the barrier, donations and retirement (02 R43; 07 R133 to R140) -------------------------------------------------------------

@[simp] theorem dram_partFault (s : State) (tid coh : Nat) : (s.partFault tid coh).dram = s.dram := by
  simp only [State.partFault]; split <;> simp

@[simp] theorem dram_pairCheck (s : State) (tid coh : Nat) : (s.pairCheck tid coh).dram = s.dram := by
  unfold State.pairCheck; dsimp only; (repeat' split) <;> simp

@[simp] theorem dram_partnerCheck (s : State) (tid coh : Nat) : (s.partnerCheck tid coh).dram = s.dram := by
  simp only [State.partnerCheck]; split <;> simp

@[simp] theorem dram_tryRetire (s : State) (tid coh : Nat) : (s.tryRetire tid coh).dram = s.dram := by
  unfold State.tryRetire; dsimp only; (repeat' split) <;> simp

-- clause headers and the ctl class (03 R45 to R48; 07 R129 to R140) -----------------------------------------------------------------------

@[simp] theorem dram_passHeader (s : State) : s.passHeader.dram = s.dram := by rfl

@[simp] theorem dram_takeTile (s : State) : s.takeTile.dram = s.dram := by
  simp only [State.takeTile]; split <;> simp

@[simp] theorem dramIs_execClauseHeader (y b a w e c : Nat) (s : State) : DramIs s.dram (execClauseHeader y b a w e c s) := by
  unfold execClauseHeader
  split
  · simp
  · split
    · simp
    · split
      · simp
      · split
        · split
          next x t eq => split <;> simp [dram_of_word eq]
          next t eq => simp [dram_of_noWord eq]
        · simp

@[simp] theorem dram_transfer (s : State) (ls : Lanes) (f d : Nat → Nat) (spin : Bool) : (s.transfer ls f d spin).dram = s.dram := by rfl
@[simp] theorem dramIs_execBr (o g : Nat) (s : State) : DramIs s.dram (execBr o g s) := by rfl
@[simp] theorem dramIs_execBra (o g : Nat) (s : State) : DramIs s.dram (execBra o g s) := by rfl

theorem dram_of_frameHold {s t : State} {good : List (Nat × List Piece)} (eq : s.frameHold good = some t) : t.dram = s.dram := by
  unfold State.frameHold at eq
  dsimp only at eq
  split at eq
  · cases eq; rfl
  · exact dram_of_privAwait eq

@[simp] theorem dram_callTo (s : State) (g : Nat) (f : Nat → Nat) : (s.callTo g f).dram = s.dram := by
  unfold State.callTo
  dsimp only
  split
  · simp
  · split
    · simp
    · refine dram_translated (fun t good same => ?_) fun good t => dram_of_frameHold
      simpa using same

@[simp] theorem dramIs_execCall (o g : Nat) (s : State) : DramIs s.dram (execCall o g s) := by simp [execCall]

@[simp] theorem dramIs_execRet (g : Nat) (s : State) : DramIs s.dram (execRet g s) := by
  unfold execRet
  dsimp only
  rw [dramIs_next]
  split
  · simp
  · split
    · simp
    · split
      · simp
      · refine dram_translated (fun t good same => ?_) fun good t => dram_of_frameHold
        split <;> simpa using same

@[simp] theorem dramIs_execJmpi (a x g : Nat) (s : State) : DramIs s.dram (execJmpi a x g s) := by simp [execJmpi]
@[simp] theorem dramIs_execCalli (a x g : Nat) (s : State) : DramIs s.dram (execCalli a x g s) := by simp [execCalli]
@[simp] theorem dramIs_execJoin (a b : Nat) (s : State) : DramIs s.dram (execJoin a b s) := by simp [execJoin]
@[simp] theorem dramIs_execLeave (a : Nat) (s : State) : DramIs s.dram (execLeave a s) := by simp [execLeave]
@[simp] theorem dram_arriveAt (s : State) (k : Nat) (h : HwRec) : (s.arriveAt k h).dram = s.dram := by rfl

@[simp] theorem dramIs_execWaitm (a b p n : Nat) (s : State) : DramIs s.dram (execWaitm a b p n s) := by
  simp only [execWaitm]; split <;> simp

@[simp] theorem dramIs_execBar (a b n : Nat) (s : State) : DramIs s.dram (execBar a b n s) := by
  unfold execBar; dsimp only; (repeat' split) <;> simp

@[simp] theorem dramIs_execExit (g : Nat) (s : State) : DramIs s.dram (execExit g s) := by simp [execExit]
@[simp] theorem dramIs_execNop (x : Nat) (s : State) : DramIs s.dram (execNop x s) := by rfl
@[simp] theorem dramIs_execYield (g : Nat) (s : State) : DramIs s.dram (execYield g s) := by simp [execYield]
@[simp] theorem dramIs_execBrk (c g : Nat) (s : State) : DramIs s.dram (execBrk c g s) := by simp [execBrk]

@[simp] theorem dramIs_donation (s : State) (kind g c : Nat) : DramIs s.dram (s.donation kind g c) := by
  unfold State.donation; dsimp only; (repeat' split) <;> simp

-- the sys class (09 R166) -----------------------------------------------------------------------------------------------------------------

@[simp] theorem dramIs_execMfsr (r n : Nat) (s : State) : DramIs s.dram (execMfsr r n s) := by
  simp only [execMfsr]; split <;> simp

theorem dram_of_sysWrite {s t : State} {n : Nat} {v : BitVec 64} (eq : s.sysWrite n v = some t) : t.dram = s.dram := by
  unfold State.sysWrite at eq
  (repeat' split at eq) <;> cases eq <;> rfl

@[simp] theorem dramIs_execMtsr (r n : Nat) (s : State) : DramIs s.dram (execMtsr r n s) := by
  unfold execMtsr
  split
  · simp
  next t eq => simp [dram_of_sysWrite eq]

@[simp] theorem dramIs_execTrap (c : Nat) (s : State) : DramIs s.dram (execTrap c s) := by simp [execTrap]
@[simp] theorem dramIs_execTret (s : State) : DramIs s.dram (execTret s) := by simp [execTret]
@[simp] theorem dramIs_execFencei (s : State) : DramIs s.dram (execFencei s) := by simp [execFencei]

-- copy channels and bank modes (11 R199 to R205) ------------------------------------------------------------------------------------------

@[simp] theorem dramIs_copy (s : State) (isIn : Bool) (d a b ch : Nat) : DramIs s.dram (s.copy isIn d a b ch) := by
  unfold State.copy; dsimp only; (repeat' split) <;> simp

@[simp] theorem dramIs_execCpwait (d a c : Nat) (s : State) : DramIs s.dram (execCpwait d a c s) := by simp [execCpwait]
@[simp] theorem dram_shareLeaves (s : State) (core : Nat) (ls : List Nat) : (s.shareLeaves core ls).1.dram = s.dram := by simp [State.shareLeaves]

@[simp] theorem dram_copyFault (s : State) (core : Nat) (x : CopyCmd) (cause : Nat) (pages : List Nat) (reps : List Refused) :
    (s.copyFault core x cause pages reps).dram = s.dram := by simp [State.copyFault]

@[simp] theorem dram_copied (s : State) (core : Nat) (x : CopyCmd) (n : Nat) : (s.copied core x n).dram = s.dram := by simp [State.copied]

@[simp] theorem dram_pieceIn (s : State) (core : Nat) (x : CopyCmd) (n : Nat) (spans : List (Nat × Nat × Nat)) :
    (s.pieceIn core x n spans).dram = s.dram := by
  unfold State.pieceIn
  dsimp only
  split
  · split
    next t eq =>
      obtain ⟨e, -, waits⟩ := List.exists_of_findSome?_eq_some eq
      exact dram_of_awaits waits
    next => simp
  · split
    next eq => simp [dram_of_fst eq]
    next eq => simp [dram_of_fst eq]

@[simp] theorem dram_pieceOut (s : State) (core : Nat) (x : CopyCmd) (n : Nat) (spans : List (Nat × Nat × Nat)) :
    (s.pieceOut core x n spans).dram = s.dram := by
  unfold State.pieceOut
  dsimp only
  split
  · split
    next t eq =>
      obtain ⟨e, -, waits⟩ := List.exists_of_findSome?_eq_some eq
      split at waits
      · cases waits
      · exact dram_of_awaits waits
    next => simp
  · split <;> simp

@[simp] theorem dram_copyPiece (s : State) (core : Nat) (x : CopyCmd) : (s.copyPiece core x).dram = s.dram := by simp [State.copyPiece]

@[simp] theorem dramIs_execCopyPieceDelivery (s : State) : DramIs s.dram (execCopyPieceDelivery s) := by
  unfold execCopyPieceDelivery; dsimp only; (repeat' split) <;> simp

@[simp] theorem dramIs_execBankmode (a m : Nat) (s : State) : DramIs s.dram (execBankmode a m s) := by simp [execBankmode]
@[simp] theorem dram_scramble (s : State) (core b : Nat) : (s.scramble core b).dram = s.dram := by rfl

@[simp] theorem dram_drainL1 (s : State) (core op : Nat) : (s.drainL1 core op).dram = s.dram := by
  simp only [State.drainL1]; split <;> simp

@[simp] theorem dramIs_execBankmodeDrainComplete (s : State) : DramIs s.dram (execBankmodeDrainComplete s) := by
  simp only [execBankmodeDrainComplete]; split <;> simp

-- queues, rings and deques (19 R286 to R295) ----------------------------------------------------------------------------------------------

@[simp] theorem dram_qWrite (s : State) (t : Team) (off : Nat) (bs : List Byte) : (s.qWrite t off bs).dram = s.dram := by rfl

@[simp] theorem dram_qFault (s : State) (cause : Nat) (p : BitVec 64) (lanes : Lanes) : (s.qFault cause p lanes).dram = s.dram := by
  simp [State.qFault]

@[simp] theorem dram_wakeAnswers (s : State) : s.wakeAnswers.dram = s.dram := by
  refine dram_foldl _ _ _ fun t e => ?_
  split
  · split <;> simp
  · rfl

@[simp] theorem dram_wakeSwt (s : State) : s.wakeSwt.dram = s.dram := by simp [State.wakeSwt]

@[simp] theorem dram_refSense (s : State) (t : Team) (vals : List (Nat × BitVec 64)) (n : Nat) : (s.refSense t vals n).1.dram = s.dram := by
  simp [State.refSense]

@[simp] theorem dram_initStep (s : State) (grp : Lanes) (q : Nat) (p v : BitVec 64) : (s.initStep grp q p v).1.dram = s.dram := by
  simp [State.initStep]

@[simp] theorem dram_pushStep (s : State) (tid q : Nat) (p : BitVec 64) (vals : List (Nat × BitVec 64)) (ref : Bool) :
    (s.pushStep tid q p vals ref).1.dram = s.dram := by
  unfold State.pushStep; dsimp only; (repeat' split) <;> simp

@[simp] theorem dram_popStep (s : State) (tid q : Nat) (p : BitVec 64) (vals : List (Nat × BitVec 64)) (ref : Bool) :
    (s.popStep tid q p vals ref).1.dram = s.dram := by
  unfold State.popStep; dsimp only; (repeat' split) <;> simp

@[simp] theorem dram_arrStep (s : State) (grp : Lanes) (q : Nat) (p : BitVec 64) (ix : Nat) : (s.arrStep grp q p ix).1.dram = s.dram := by
  simp [State.arrStep]

@[simp] theorem dram_queStep (s : State) (tid : Nat) (grp : Lanes) (q : Nat) (p : BitVec 64) (x : QueOp) :
    (s.queStep tid grp q p x).1.dram = s.dram := by
  unfold State.queStep; dsimp only; (repeat' split) <;> simp

@[simp] theorem dram_sendBack (s : State) (id : Nat) (r : Req) (kind : ReqKind) : (s.sendBack id r kind).dram = s.dram := by rfl

@[simp] theorem dram_replyTo (s : State) (id : Nat) (r : Req) (res : List (Nat × Byte)) : (s.replyTo id r res).dram = s.dram := by
  simp [State.replyTo]

@[simp] theorem dram_queMesh (s : State) (id : Nat) (r : Req) (x : QueOp) (p : BitVec 64) (reached : Bool) :
    (s.queMesh id r x p reached).dram = s.dram := by simp [State.queMesh]

theorem dram_queEnd {s : State} {x : QueOp} {p : BitVec 64} {a : QueAns} {k : State → QueAns → State} (kept : ∀ t a, (k t a).dram = t.dram) :
    (s.queEnd x p a k).dram = s.dram := by
  unfold State.queEnd
  split <;> simp [kept]

theorem dramIs_queWord {s : State} {lanes : Lanes} {flag b : Nat} {release : Bool} {rs : List RegCheck} {x : QueOp} {k : State → QueAns → State}
    (kept : ∀ t a, (k t a).dram = t.dram) : DramIs s.dram (s.queWord lanes flag b release rs x k) := by
  refine dramIs_checked _ _ _ ?_
  split
  · simp
  · dsimp only
    split
    · split
      · split
        · simp [dram_queEnd kept]
        · rfl
      · rfl
    · simp
    · split
      · rfl
      · split
        · simp
        · split
          · rfl
          · split
            · simp [dram_queEnd kept]
            · simp

@[simp] theorem dramIs_execQinit (a b : Nat) (s : State) : DramIs s.dram (execQinit a b s) :=
  dramIs_queWord fun _ _ => dram_done ..

@[simp] theorem dramIs_execQpush (v b r g : Nat) (s : State) : DramIs s.dram (execQpush v b r g s) :=
  dramIs_queWord fun _ _ => dram_done ..

@[simp] theorem dramIs_execQpop (v b r g : Nat) (s : State) : DramIs s.dram (execQpop v b r g s) :=
  dramIs_queWord fun _ _ => by simp

@[simp] theorem dramIs_execSarr (a b : Nat) (s : State) : DramIs s.dram (execSarr a b s) :=
  dramIs_queWord fun _ _ => dram_done ..

@[simp] theorem dramIs_execSwt (a b p : Nat) (s : State) : DramIs s.dram (execSwt a b p s) :=
  dramIs_queWord fun _ _ => by split <;> simp

@[simp] theorem dramIs_execTspawn (h g : Nat) (s : State) : DramIs s.dram (execTspawn h g s) := by
  refine dramIs_checked _ _ _ ?_
  dsimp only
  (repeat' split) <;> simp

@[simp] theorem dramIs_taskWord (s : State) (v g : Nat) (k : State) (kept : k.dram = s.dram) : DramIs s.dram (s.taskWord v g k) := by
  refine dramIs_checked _ _ _ ?_
  split
  · simp
  · split
    · rfl
    · exact kept

@[simp] theorem dramIs_execTtake (h g : Nat) (s : State) : DramIs s.dram (execTtake h g s) := by simp [execTtake]

@[simp] theorem dram_stealStep (s : State) (id : Nat) (r : Req) (lanes : List Nat) (reached : Bool) (vs : List Nat) :
    (s.stealStep id r lanes reached vs).dram = s.dram := by
  cases vs with
  | nil => rfl
  | cons v vs =>
    unfold State.stealStep
    dsimp only
    (repeat' split) <;> simp

@[simp] theorem dram_ownVisits (s : State) (id : Nat) (r : Req) (vs : List Nat) : (s.ownVisits id r vs).dram = s.dram := by
  induction vs generalizing s r with
  | nil => rfl
  | cons v vs ih =>
    unfold State.ownVisits
    split
    · rfl
    · split
      · dsimp only
        split
        · rw [ih, dram_stealStep]
        · exact dram_stealStep ..
      · rfl

@[simp] theorem dramIs_execTsteal (h g : Nat) (s : State) : DramIs s.dram (execTsteal h g s) := by
  refine dramIs_taskWord _ _ _ _ ?_
  dsimp only
  split
  · simp
  · split <;> simp

-- the lock words and the steps of a lock (21 R314 to R326) --------------------------------------------------------------------------------

@[simp] theorem dram_lockWord (s : State) (g a need access size align : Nat) (spin : Bool) (k : State → List (Nat × Piece) → State)
    (kept : ∀ t ps, (k t ps).dram = t.dram) : (s.lockWord g a need access size align spin k).dram = s.dram := by
  unfold State.lockWord
  dsimp only
  split
  · simp
  · split
    · rfl
    · split
      · simp
      · refine dram_translated (fun t good same => ?_) fun _ _ eq => nomatch eq
        split
        · simpa using same
        · simpa [kept] using same

@[simp] theorem dramIs_execLlock (d a b g : Nat) (s : State) : DramIs s.dram (execLlock d a b g s) := by
  refine dramIs_checked _ _ _ (dram_lockWord _ _ _ _ _ _ _ _ _ fun t good => ?_)
  split <;> simp

@[simp] theorem dramIs_lockIssue (s : State) (g flag : Nat) (rs : List RegCheck) (k : State) (kept : k.dram = s.dram) :
    DramIs s.dram (s.lockIssue g flag rs k) := by
  unfold State.lockIssue
  split
  · rfl
  · exact dramIs_checked _ _ _ kept

@[simp] theorem dramIs_execLtry (d a g : Nat) (s : State) : DramIs s.dram (execLtry d a g s) := by
  refine dramIs_lockIssue _ _ _ _ _ (dram_lockWord _ _ _ _ _ _ _ _ _ fun t good => ?_)
  split <;> simp

@[simp] theorem dramIs_lunlock (s : State) (v : Option Nat) (a g n : Nat) : DramIs s.dram (s.lunlock v a g n) := by
  refine dramIs_lockIssue _ _ _ _ _ ?_
  split
  · rfl
  · split
    · simp
    · split
      · simp
      · refine dram_lockWord _ _ _ _ _ _ _ _ _ fun t good => ?_
        split <;> simp

@[simp] theorem dramIs_execLstat (d a g : Nat) (s : State) : DramIs s.dram (execLstat d a g s) := by
  refine dramIs_lockIssue _ _ _ _ _ (dram_lockWord _ _ _ _ _ _ _ _ _ fun t good => ?_)
  simp

@[simp] theorem dramIs_execLstatList (d b g : Nat) (s : State) : DramIs s.dram (execLstatList d b g s) := by simp [execLstatList]
@[simp] theorem dram_comeIn (s : State) (id : Nat) (r : Req) : (s.comeIn id r).dram = s.dram := by simp [State.comeIn]

theorem dram_taking {s : State} {k : State → Nat → Req → State} (kept : ∀ t id r, t.dram = s.dram → (k t id r).dram = s.dram) :
    (s.taking k).dram = s.dram := by
  unfold State.taking
  split
  · rfl
  · split
    · dsimp only
      split
      · simp
      · exact kept _ _ _ (dram_comeIn ..)
    · rfl

theorem dram_holdReq {s t : State} {id : Nat} {r : Req} (same : t.dram = s.dram) : (s.holdReq t id r).dram = s.dram := by
  unfold State.holdReq
  split
  · rfl
  · simpa using same

@[simp] theorem dram_lockRefused (s : State) (r : Req) (lanes : Lanes) (vd : Nat) : (s.lockRefused r lanes vd).dram = s.dram := by
  simp [State.lockRefused]

@[simp] theorem dram_takeLock (s : State) (id : Nat) (r : Req) (lanes : Lanes) (tleft : Nat) (isTry : Bool) :
    (s.takeLock id r lanes tleft isTry).dram = s.dram := by
  unfold State.takeLock
  dsimp only
  split
  · simp
  · split
    next t eq => simp [dram_of_turnedAway eq]
    next =>
      split
      · simp
      · split
        · simp
        · split
          · simp
          · split
            · split <;> simp
            · simp

@[simp] theorem dramIs_execLockRequest (s : State) : DramIs s.dram (execLockRequest s) := by
  refine dram_taking fun t id r same => ?_
  split
  · split
    · simpa using same
    · split
      · exact dram_holdReq same
      · split
        · simpa using same
        · split <;> simpa using same
  · rfl

@[simp] theorem dram_landGrant (s : State) (g : Grant) : (s.landGrant g).dram = s.dram := by simp [State.landGrant]

@[simp] theorem dramIs_execLockGrant (s : State) : DramIs s.dram (execLockGrant s) := by
  simp only [execLockGrant]; split <;> simp

@[simp] theorem dram_takeUnlock (s : State) (id : Nat) (r : Req) (ws : List WByte) : (s.takeUnlock id r ws).dram = s.dram := by
  unfold State.takeUnlock
  extract_lets t lost away no u x
  have turned : u.dram = t.dram := by
    simp only [u, away]
    split
    · rfl
    · cases eq : t.turnedAway r 1 true with
      | none => rfl
      | some v => exact dram_of_turnedAway eq
  split <;> simp [x, turned, t]

@[simp] theorem dramIs_execUnlockStep (s : State) : DramIs s.dram (execUnlockStep s) := by
  refine dram_taking fun t id r same => ?_
  split
  · split
    · exact dram_holdReq same
    · simpa using same
  · rfl

@[simp] theorem dram_lockTimeout (s : State) (pa tid coh : Nat) : (s.lockTimeout pa tid coh).dram = s.dram := by
  simp only [State.lockTimeout]; split <;> simp

@[simp] theorem dramIs_execLockTimeout (s : State) : DramIs s.dram (execLockTimeout s) := by simp [execLockTimeout]
@[simp] theorem dram_lockTimeouts (s : State) : s.lockTimeouts.dram = s.dram := by simp [State.lockTimeouts]

-- the recursion unfolding engine (23 R329 to R341) ----------------------------------------------------------------------------------------

@[simp] theorem dram_putParts (s : State) (op tid : Nat) (ps : List Piece) (bs : List Byte) : (s.putParts op tid ps bs).dram = s.dram := by
  simp [State.putParts]

@[simp] theorem dram_getParts (s : State) (tid coh : Nat) (ps : List Piece) : (s.getParts tid coh ps).1.dram = s.dram := by simp [State.getParts]

@[simp] theorem dram_engFault (s : State) (tid coh : Nat) (u : Unf) (lanes : Lanes) (size cause : Nat) (pages : List Nat) (rs : List Refused) :
    (s.engFault tid coh u lanes size cause pages rs).dram = s.dram := by simp [State.engFault]

@[simp] theorem dram_engStop (s : State) (tid coh : Nat) (u : Unf) (lanes : Lanes) (size : Nat) (e : EngStop) :
    (s.engStop tid coh u lanes size e).dram = s.dram := by
  simp only [State.engStop]; split <;> simp

theorem dram_engStep {s : State} {tid coh : Nat} {u : Unf} {lanes : Lanes} {as : List (Nat × Nat)} {k : State → List (List Piece) → State}
    (kept : ∀ ps, (k s ps).dram = s.dram) : (s.engStep tid coh u lanes as k).dram = s.dram := by
  unfold State.engStep
  split
  · rfl
  · split
    · split <;> simp
    · exact kept _

@[simp] theorem dram_setUnf (s : State) (tid coh : Nat) (u : Option Unf) : (s.setUnf tid coh u).dram = s.dram := by rfl
@[simp] theorem dram_engOwn (s : State) (tid coh id : Nat) : (s.engOwn tid coh id).dram = s.dram := by rfl

@[simp] theorem dram_engPut (s : State) (tid coh : Nat) (lanes : Lanes) (ws : List (List Piece × List Byte)) :
    (s.engPut tid coh lanes ws).dram = s.dram := by simp [State.engPut]

@[simp] theorem dram_writeBlock (s : State) (tid coh : Nat) (ps : List Piece) : (s.writeBlock tid coh ps).dram = s.dram := by simp [State.writeBlock]

@[simp] theorem dram_saveBlock (s : State) (tid coh : Nat) (u : Unf) (due : Nat) : (s.saveBlock tid coh u due).dram = s.dram := by
  rw [State.saveBlock]
  split
  · rw [dram_writeBlock, dram_setUnf]
  · rw [dram_engStop, dram_setUnf]

@[simp] theorem dram_dueBlock (s : State) (tid coh : Nat) (u : Unf) : (s.dueBlock tid coh u).dram = s.dram := by
  refine dram_engStep fun ps => ?_
  dsimp only
  (repeat' split) <;> simp

@[simp] theorem dramIs_execUnfold (d a b : Nat) (s : State) : DramIs s.dram (execUnfold d a b s) := by
  refine dramIs_checked _ _ _ ?_
  split
  · simp
  · refine dram_translated (fun t good same => ?_) fun _ _ eq => nomatch eq
    split
    · exact same
    · dsimp only
      split
      · simpa using same
      · split
        · simpa using same
        · split
          · simpa using same
          · split
            · simpa using same
            · refine (dram_translated (fun u good same => ?_) fun _ _ eq => by cases eq).trans ?_
              · split
                · exact same
                · simpa using same
              · simpa using same

@[simp] theorem dram_recOp (s : State) (lanes : Lanes) (parts : Nat) : (s.recOp lanes parts).1.dram = s.dram := by simp [State.recOp]

@[simp] theorem dramIs_execSpawnf (v g : Nat) (s : State) : DramIs s.dram (execSpawnf v g s) := by
  refine dramIs_checked _ _ _ ?_
  dsimp only
  split
  · split <;> simp
  · split
    · simp
    · split
      · split <;> simp
      · split
        · rfl
        · refine dram_translated (fun t good same => ?_) fun _ _ eq => nomatch eq
          split <;> simpa using same

@[simp] theorem dram_endRoutines (s : State) (ls : Lanes) : (s.endRoutines ls).dram = s.dram := by rfl

@[simp] theorem dramIs_execFret (v : Nat) (s : State) : DramIs s.dram (execFret v s) := by
  refine dramIs_checked _ _ _ ?_
  dsimp only
  split
  · simp
  · split
    · simp
    · split
      · rfl
      · refine dram_translated (fun t good same => ?_) fun _ _ eq => nomatch eq
        split
        · exact same
        · simpa using same

@[simp] theorem dramIs_execCres (d g : Nat) (s : State) : DramIs s.dram (execCres d g s) := by
  refine dramIs_checked _ _ _ ?_
  dsimp only
  split
  · split <;> simp
  · split
    · simp
    · split
      · simp
      · split
        · rfl
        · refine dram_translated (fun t good same => ?_) fun _ _ eq => nomatch eq
          split <;> simpa using same

@[simp] theorem dram_dispatch (s : State) (tid coh lane kind f : Nat) (rest : List (Nat × Nat)) (u : Unf) :
    (s.dispatch tid coh lane kind f rest u).dram = s.dram := by
  refine dram_engStep fun ps => ?_
  dsimp only
  split <;> simp

@[simp] theorem dramIs_execRoutineDispatch (s : State) : DramIs s.dram (execRoutineDispatch s) := by
  unfold execRoutineDispatch; dsimp only; (repeat' split) <;> simp

@[simp] theorem dram_moveLevel (s : State) (tid coh : Nat) (u : Unf) : (s.moveLevel tid coh u).dram = s.dram := by
  refine dram_engStep fun ps => ?_
  dsimp only
  split <;> simp

@[simp] theorem dramIs_execLevelEnd (s : State) : DramIs s.dram (execLevelEnd s) := by
  unfold execLevelEnd
  dsimp only
  rw [dramIs_next]
  split
  · rfl
  · split
    · rfl
    · split
      · simp
      · split
        · simp
        · exact dram_engStep fun ps => by simp

@[simp] theorem dramIs_execUnfoldRelease (s : State) : DramIs s.dram (execUnfoldRelease s) := by
  unfold execUnfoldRelease
  dsimp only
  rw [dramIs_next]
  split
  · rfl
  · split
    · rfl
    · split
      · simp
      · refine dram_engStep fun ps => ?_
        split <;> simp

-- the mtx class (08 R141 to R157) ---------------------------------------------------------------------------------------------------------

@[simp] theorem dram_setTile (s : State) (i : Nat) (x : Tile) : (s.setTile i x).dram = s.dram := by rfl
@[simp] theorem dramIs_execTresv (t l o : Nat) (s : State) : DramIs s.dram (execTresv t l o s) := by simp [execTresv]
@[simp] theorem dramIs_execTfree (t : Nat) (s : State) : DramIs s.dram (execTfree t s) := by simp [execTfree]

@[simp] theorem dramIs_execTset (t i : Nat) (s : State) : DramIs s.dram (execTset t i s) := by
  unfold execTset; dsimp only; (repeat' split) <;> simp

@[simp] theorem dramIs_execTsetRows (t n : Nat) (s : State) : DramIs s.dram (execTsetRows t n s) := by simp [execTsetRows]
@[simp] theorem dram_modK (s : State) (i : Nat) (f : BitVec 1024 → BitVec 1024) : (s.modK i f).dram = s.dram := by rfl
@[simp] theorem dramIs_execKsetArm (k n : Nat) (s : State) : DramIs s.dram (execKsetArm k n s) := by rfl
@[simp] theorem dramIs_execKsetSign (k : Nat) (s : State) : DramIs s.dram (execKsetSign k s) := by rfl
@[simp] theorem dramIs_execKsetOff (k : Nat) (s : State) : DramIs s.dram (execKsetOff k s) := by rfl

@[simp] theorem dram_enqueue {s : State} {flag : Nat} {lanes : Lanes} {dest : Dest} {left : Nat} {mop : MOp} {f : Nat → List RLock}
    {k : State → State} (kept : ∀ t, (k t).dram = t.dram) : (s.enqueue flag lanes dest left mop f k).dram = s.dram := by
  unfold State.enqueue
  dsimp only
  split
  · rfl
  · split
    · rfl
    · simp [kept]

@[simp] theorem dramIs_execWload (t : Nat) (s : State) : DramIs s.dram (execWload t s) := by simp [execWload]
@[simp] theorem dramIs_execWswap (s : State) : DramIs s.dram (execWswap s) := by simp [execWswap]
@[simp] theorem dram_toHeader (s : State) : s.toHeader.dram = s.dram := by rfl

@[simp] theorem dram_stream (s : State) (t k g m : Nat) (mop : MOp) : (s.stream t k g m mop).dram = s.dram := by
  unfold State.stream
  dsimp only
  split
  · simp
  · split
    · simp
    · exact dram_enqueue fun u => by simp

@[simp] theorem dramIs_execMstream (t a k v g o m : Nat) (s : State) : DramIs s.dram (execMstream t a k v g o m s) := by simp [execMstream]
@[simp] theorem dramIs_execMbatch (t k v g m : Nat) (s : State) : DramIs s.dram (execMbatch t k v g m s) := by simp [execMbatch]
@[simp] theorem dramIs_execAread (r a q c d h e : Nat) (s : State) : DramIs s.dram (execAread r a q c d h e s) := by simp [execAread]
@[simp] theorem dramIs_execAstore (t a o m : Nat) (s : State) : DramIs s.dram (execAstore t a o m s) := by simp [execAstore]
@[simp] theorem dramIs_execAzero (a o m : Nat) (s : State) : DramIs s.dram (execAzero a o m s) := by simp [execAzero]

-- the matrix queue (08 R149 to R156) ------------------------------------------------------------------------------------------------------

@[simp] theorem dram_headIn (s : State) (core n : Nat) : (s.headIn core n).dram = s.dram := by rfl
@[simp] theorem dram_mdone (s : State) (core : Nat) (e : MEntry) : (s.mdone core e).dram = s.dram := by simp [State.mdone]
@[simp] theorem dram_sensePlane (s : State) (core vf : Nat) : (s.sensePlane core vf).1.dram = s.dram := by simp [State.sensePlane]

theorem dram_sensed {s : State} {e : MEntry} {rs : List (Nat × Nat)} {k : State → State} (kept : ∀ t, (k t).dram = t.dram) :
    (s.sensed e rs k).dram = s.dram := by
  unfold State.sensed
  dsimp only
  split <;> simp [kept]

theorem dram_onRows {s : State} {core : Nat} {e : MEntry} {x : Tile} {n : Nat} {k : State → State} (kept : (k s).dram = s.dram) :
    (s.onRows core e x n k).dram = s.dram := by
  unfold State.onRows
  dsimp only
  split
  · exact kept
  · simp

@[simp] theorem dram_modPl (s : State) (tid : Nat) (f : Nat → Nat) : (s.modPl tid f).dram = s.dram := by rfl
@[simp] theorem dram_endRefill (s : State) (core plane : Nat) : (s.endRefill core plane).dram = s.dram := by simp [State.endRefill]

@[simp] theorem dramIs_execWloadFill (s : State) : DramIs s.dram (execWloadFill s) := by
  unfold execWloadFill
  dsimp only
  rw [dramIs_next]
  split
  · split
    · split
      · rfl
      · split
        · exact dram_onRows (by simp)
        · exact dram_sensed fun u => by simp
    · rfl
  · rfl

@[simp] theorem dram_swapPlaces (s : State) (core : Nat) : (s.swapPlaces core).dram = s.dram := by simp [State.swapPlaces]

@[simp] theorem dramIs_execWswapExecute (s : State) : DramIs s.dram (execWswapExecute s) := by
  unfold execWswapExecute; dsimp only; (repeat' split) <;> simp

@[simp] theorem dram_runStream (s : State) (core : Nat) (t : Team) (x : Tile) (ovr ok : Bool) (row : Nat → List StreamElem) (m : Nat) :
    (s.runStream core t x ovr ok row m).dram = s.dram := by simp [State.runStream]

theorem dram_streamOn {s : State} {core : Nat} {e : MEntry} {x : Tile} {m : Nat} {k : State → State} (kept : (k s).dram = s.dram) :
    (s.streamOn core e x m k).dram = s.dram := by
  unfold State.streamOn
  dsimp only
  split
  · exact kept
  · split
    · rfl
    · split <;> simp

@[simp] theorem dramIs_execMstreamExecute (s : State) : DramIs s.dram (execMstreamExecute s) := by
  unfold execMstreamExecute
  dsimp only
  rw [dramIs_next]
  split
  · split
    · split
      · rfl
      · exact dram_streamOn (dram_sensed fun u => by simp)
    · rfl
  · rfl

@[simp] theorem dramIs_execMbatchExecute (s : State) : DramIs s.dram (execMbatchExecute s) := by
  unfold execMbatchExecute
  dsimp only
  rw [dramIs_next]
  split
  · split
    · split
      · rfl
      · exact dram_streamOn (dram_sensed fun u => by simp)
    · rfl
  · rfl

@[simp] theorem dramIs_execAreadExecute (s : State) : DramIs s.dram (execAreadExecute s) := by
  unfold execAreadExecute; dsimp only; (repeat' split) <;> simp

theorem dram_takes {s : State} {core : Nat} {e : MEntry} {n : Nat} {k : State → State} (kept : (k s).dram = s.dram) :
    (s.takes core e n k).dram = s.dram := by
  unfold State.takes
  split
  · simp
  · exact kept

@[simp] theorem dramIs_execAstoreExecute (s : State) : DramIs s.dram (execAstoreExecute s) := by
  unfold execAstoreExecute
  dsimp only
  rw [dramIs_next]
  split
  · split
    · exact dram_takes (by simp)
    · rfl
  · rfl

@[simp] theorem dramIs_execAzeroExecute (s : State) : DramIs s.dram (execAzeroExecute s) := by
  unfold execAzeroExecute
  dsimp only
  rw [dramIs_next]
  split
  · split
    · exact dram_takes (by simp)
    · rfl
  · rfl

@[simp] theorem dramIs_mopStep (o : MOp) (s : State) : DramIs s.dram (o.step s) := by
  cases o <;> simp [MOp.step]

@[simp] theorem dramIs_execGateAccept (s : State) : DramIs s.dram (execGateAccept s) := by
  unfold execGateAccept
  extract_lets tid coh
  split
  next t eq =>
    have issued := dram_of_run eq
    extract_lets a
    split
    · rfl
    · split
      · rfl
      next w u eq =>
        have fetched := (dram_of_word eq).trans issued
        extract_lets passed cur go
        have kept (k : Nat) (f : State → Out) (executes : ∀ v, DramIs v.dram (f v)) : DramIs s.dram (go k f) := by
          simp only [go]
          split
          · have accepted := executes { passed with cur := { cur with addr := a, idx := 1, word := w } }
            generalize f _ = o at accepted ⊢
            cases o with
            | next v =>
              dsimp only
              split
              · rfl
              · exact accepted.trans (by simpa [passed] using fetched)
            | fault f => trivial
            | refused f => trivial
          · rfl
        split
        · split
          · exact kept _ _ fun v => dramIs_execMstream ..
          · rfl
        · split
          · exact kept _ _ fun v => dramIs_execMbatch ..
          · rfl
        · rfl
  · rfl

-- the steps of slices, results and walks (10 R175 to R180; 18 R266, R267) -----------------------------------------------------------------

@[simp] theorem dram_l1Fill (s : State) (core pa cls : Nat) (l : L1Line) : (s.l1Fill core pa cls l).dram = s.dram := by
  simp only [State.l1Fill]; split <;> simp

@[simp] theorem dram_serveRead (s : State) (id : Nat) (r : Req) : (s.serveRead id r).dram = s.dram := by
  unfold State.serveRead; dsimp only; (repeat' split) <;> simp

@[simp] theorem dram_serveStat (s : State) (id : Nat) (r : Req) (lanes : Lanes) : (s.serveStat id r lanes).dram = s.dram := by simp [State.serveStat]

@[simp] theorem dram_refuseRead (s : State) (id : Nat) (r : Req) : (s.refuseRead id r).dram = s.dram := by
  simp only [State.refuseRead]; split <;> simp

@[simp] theorem dramIs_execSliceRead (s : State) : DramIs s.dram (execSliceRead s) := by
  refine dram_taking fun t id r same => ?_
  split
  case h_9 =>
    split
    · rfl
    · split
      next u eq => simp [dram_of_turnedAway eq, same]
      next =>
        split
        · simpa using same
        · split
          · exact dram_holdReq same
          · split
            · simpa using same
            · split
              · simpa using same
              · split <;> simpa using same
  all_goals rfl

@[simp] theorem dram_dropWrite (s : State) (id : Nat) (r : Req) : (s.dropWrite id r).dram = s.dram := by simp [State.dropWrite]

theorem dram_takeWrite {s t : State} {id : Nat} {r : Req} {right : Nat} {k : State → State} (same : t.dram = s.dram)
    (kept : ∀ u, (k u).dram = u.dram) : (s.takeWrite t id r right k).dram = s.dram := by
  unfold State.takeWrite
  split
  next u eq => simp [dram_of_turnedAway eq, same]
  next =>
    split
    · exact dram_holdReq same
    · split
      · simpa using same
      · split
        · simpa [kept] using same
        · split
          · simpa using same
          · split <;> simpa [kept] using same

@[simp] theorem dramIs_execSliceWrite (s : State) : DramIs s.dram (execSliceWrite s) := by
  refine dram_taking fun t id r same => ?_
  split
  · split
    · exact dram_takeWrite same fun u => by simp
    · rfl
  · rfl

@[simp] theorem dramIs_execSliceAtomic (s : State) : DramIs s.dram (execSliceAtomic s) := by
  refine dram_taking fun t id r same => ?_
  split
  · split
    · exact dram_takeWrite same fun u => by simp
    · rfl
  · rfl

@[simp] theorem dramIs_execInvalidation (s : State) : DramIs s.dram (execInvalidation s) := by
  simp only [execInvalidation]; split <;> simp

@[simp] theorem dramIs_execWriteAcknowledgement (s : State) : DramIs s.dram (execWriteAcknowledgement s) := by
  unfold execWriteAcknowledgement; dsimp only; (repeat' split) <;> simp

@[simp] theorem dramIs_execL1Eviction (s : State) : DramIs s.dram (execL1Eviction s) := by simp [execL1Eviction]

@[simp] theorem dram_land (s : State) (o : Op) : (s.land o).dram = s.dram := by
  simp only [State.land]; split <;> simp

@[simp] theorem dram_landOp (s : State) (id : Nat) (o : Op) : (s.landOp id o).dram = s.dram := by
  simp only [State.landOp]; split <;> simp

@[simp] theorem dram_takeParts (s : State) (id : Nat) : (s.takeParts id).dram = s.dram := by simp [State.takeParts]

@[simp] theorem dramIs_execLoadReturn (s : State) : DramIs s.dram (execLoadReturn s) := by
  unfold execLoadReturn
  dsimp only
  rw [dramIs_next]
  split
  · simp
  · (repeat' split) <;> simp

@[simp] theorem dramIs_execWalkCompletion (s : State) : DramIs s.dram (execWalkCompletion s) := by
  unfold execWalkCompletion; dsimp only; (repeat' split) <;> simp

@[simp] theorem dramIs_execFaultRecordDeferred (s : State) : DramIs s.dram (execFaultRecordDeferred s) := by
  simp only [execFaultRecordDeferred]; split <;> simp

@[simp] theorem dram_meshAccess (s : State) (id : Nat) (r : Req) : (s.meshAccess id r).dram = s.dram := by
  unfold State.meshAccess
  extract_lets t here sense read bump
  have sensed (u : State) (a n : Nat) : (sense u a n).dram = u.dram := by
    simp only [sense]
    split <;> simp
  have bumped (u : State) : (bump u).dram = u.dram := by
    simp only [bump]
    split <;> rfl
  split
  · simp [bumped, sensed]
  · split <;> simp
  · extract_lets u x v
    have written : v.dram = u.dram := by
      simp only [v]
      split
      · split <;> simp
      · rfl
    simp [bumped, written, u, sensed]
  · simp
  · simp
  · split <;> simp
  · simp
  · rfl

@[simp] theorem dram_meshDropped (s : State) (id : Nat) (r : Req) (site : Nat) : (s.meshDropped id r site).dram = s.dram := by
  unfold State.meshDropped
  dsimp only
  generalize (match r.kind with | .read _ _ => 0 | .write _ => 1 | .reply _ => 0 | _ => 2 : Nat) = kind
  split <;> simp

@[simp] theorem dramIs_execMeshOperationAtQueueArbiter (s : State) : DramIs s.dram (execMeshOperationAtQueueArbiter s) := by
  refine dram_taking fun t id r same => ?_
  split
  · rfl
  · split <;> simpa using same

-- the cohort event arbiter's events (09 R171) ---------------------------------------------------------------------------------------------

@[simp] theorem dram_regroup (s : State) (core : Nat) : (s.regroup core).dram = s.dram := by rfl
@[simp] theorem dram_regroupAll (s : State) : s.regroupAll.dram = s.dram := by simp [State.regroupAll]

@[simp] theorem dram_tryDonation (s : State) (tid dn rc : Nat) : (s.tryDonation tid dn rc).dram = s.dram := by
  simp only [State.tryDonation]; split <;> simp

@[simp] theorem dramIs_execDonationComplete (s : State) : DramIs s.dram (execDonationComplete s) := by simp [execDonationComplete]
@[simp] theorem dram_settle (s : State) (tid : Nat) : (s.settle tid).dram = s.dram := by simp [State.settle]

@[simp] theorem dram_expire (s : State) (tid coh k : Nat) : (s.expire tid coh k).dram = s.dram := by
  simp only [State.expire]; split <;> simp

@[simp] theorem dramIs_execWaitmTimeout (s : State) : DramIs s.dram (execWaitmTimeout s) := by simp [execWaitmTimeout]

@[simp] theorem dram_barFault (s : State) (tid coh mreg : Nat) : (s.barFault tid coh mreg).dram = s.dram := by
  simp only [State.barFault]; split <;> simp

@[simp] theorem dram_expireBar (s : State) (tid : Nat) : (s.expireBar tid).dram = s.dram := by simp [State.expireBar]
@[simp] theorem dramIs_execBarrierTimeout (s : State) : DramIs s.dram (execBarrierTimeout s) := by simp [execBarrierTimeout]
@[simp] theorem dram_closeTeam (s : State) (tid : Nat) : (s.closeTeam tid).dram = s.dram := by simp [State.closeTeam]
@[simp] theorem dram_hangReport (s : State) (tid coh : Nat) : (s.hangReport tid coh).dram = s.dram := by simp [State.hangReport]
@[simp] theorem dramIs_execHangReport (s : State) : DramIs s.dram (execHangReport s) := by simp [execHangReport]

@[simp] theorem dramIs_execCorruptedTileFault (s : State) : DramIs s.dram (execCorruptedTileFault s) := by
  simp only [execCorruptedTileFault]; split <;> simp

@[simp] theorem dramIs_execGranuleReturn (s : State) : DramIs s.dram (execGranuleReturn s) := by simp [execGranuleReturn]

theorem dram_of_pollDone {s t : State} {tid coh : Nat} {ls : Lanes} {w : Wait} (eq : s.pollDone tid coh ls w = some t) : t.dram = s.dram := by
  cases w <;> simp only [State.pollDone] at eq
  all_goals (repeat' split at eq) <;> cases eq <;> simp

@[simp] theorem dram_pollMore (s : State) (tid : Nat) (w : Wait) : (s.pollMore tid w).dram = s.dram := by
  unfold State.pollMore
  split <;> simp

@[simp] theorem dram_poll (s : State) (tid coh lane : Nat) : (s.poll tid coh lane).dram = s.dram := by
  unfold State.poll
  split
  · rfl
  · split
    · rfl
    · split
      · simp
      next t eq => simp [dram_of_pollDone eq]

-- banks and channels: the writers of DRAM (15 R224 to R228, R237, R238) -------------------------------------------------------------------

theorem wf_putColumn {s : State} {gb row col vf : Nat} {bs : List Byte} (form : Memory.wf s.dram = true) :
    Memory.wf (s.putColumn gb row col vf bs).dram = true := by
  rw [State.putColumn, dram_mscDrop]
  exact wf_dramWrite form

@[simp] theorem dram_senseColumn (s : State) (vf gb row col : Nat) : (s.senseColumn vf gb row col).1.dram = s.dram := by simp [State.senseColumn]
@[simp] theorem dram_recall (s : State) (pc gb row : Nat) (wr : Bool) : (s.recall pc gb row wr).dram = s.dram := by simp [State.recall]
@[simp] theorem dram_actRefused (s : State) (gb row pc : Nat) : (s.actRefused gb row pc).dram = s.dram := by simp [State.actRefused]
@[simp] theorem dram_recallQueue (s : State) (gb : Nat) : (s.recallQueue gb).dram = s.dram := by simp [State.recallQueue]

@[simp] theorem dramIs_execMicroAct (s : State) : DramIs s.dram (execMicroAct s) := by
  unfold execMicroAct; dsimp only; (repeat' split) <;> simp

@[simp] theorem dramIs_execMicroMac (s : State) : DramIs s.dram (execMicroMac s) := by
  unfold execMicroMac; dsimp only; (repeat' split) <;> simp

theorem inForm_execMicroWb {s : State} (form : Memory.wf s.dram = true) : InForm (execMicroWb s) := by
  unfold execMicroWb
  dsimp only
  rw [inForm_next]
  split
  · exact form
  · (repeat' split)
    · simpa using form
    · simpa using form
    · simpa using form
    · simpa using form
    · simpa using form
    · exact wf_putColumn (by simpa using form)

@[simp] theorem dramIs_execMicroPre (s : State) : DramIs s.dram (execMicroPre s) := by
  simp only [execMicroPre]; split <;> simp

@[simp] theorem dramIs_execMicroClr (s : State) : DramIs s.dram (execMicroClr s) := by
  simp only [execMicroClr]; split <;> simp

@[simp] theorem dramIs_execBankSuspension (s : State) : DramIs s.dram (execBankSuspension s) := by
  simp only [execBankSuspension]; split <;> simp

@[simp] theorem dramIs_execBankResumption (s : State) : DramIs s.dram (execBankResumption s) := by
  simp only [execBankResumption]; split <;> simp

@[simp] theorem dram_dropNormal (s : State) (ch : Nat) (n : NReq) : (s.dropNormal ch n).dram = s.dram := by rfl
@[simp] theorem dram_takePath (s : State) (ch : Nat) : (s.takePath ch).dram = s.dram := by rfl

theorem wf_lineCommand {s : State} {ch : Nat} {n : NReq} (form : Memory.wf s.dram = true) : Memory.wf (s.lineCommand ch n).dram = true := by
  unfold State.lineCommand
  dsimp only
  split
  · simpa using form
  · rw [dram_partDone]
    refine wf_dramWrite ?_
    split <;> simpa using form
  · simpa using form

@[simp] theorem dram_dropRefused (s : State) (ch : Nat) (n : NReq) : (s.dropRefused ch n).dram = s.dram := by simp [State.dropRefused]

theorem wf_admitNormal {s : State} {ch : Nat} {n : NReq} (form : Memory.wf s.dram = true) : Memory.wf (s.admitNormal ch n).dram = true := by
  unfold State.admitNormal
  extract_lets t u
  have same : t.dram = s.dram := by
    simp only [t]
    split <;> simp
  rw [← same] at form
  split
  · simpa using form
  · split
    · exact wf_lineCommand (by simpa using form)
    · simpa [u] using form

theorem inForm_execNormalRequestAdmission {s : State} (form : Memory.wf s.dram = true) : InForm (execNormalRequestAdmission s) := by
  unfold execNormalRequestAdmission
  dsimp only
  rw [inForm_next]
  split
  · split
    · exact form
    · exact wf_admitNormal form
  · exact form

theorem inForm_execNormalCommandIssue {s : State} (form : Memory.wf s.dram = true) : InForm (execNormalCommandIssue s) := by
  unfold execNormalCommandIssue
  dsimp only
  rw [inForm_next]
  split
  · split
    · exact wf_lineCommand (by simpa using form)
    · exact form
  · simpa using form
  · exact form

theorem dram_after {s : State} {f : State → Out} {args : List Nat} (kept : ∀ t, DramIs t.dram (f t)) : (s.after f args).dram = s.dram := by
  have same := kept { s with args := args }
  unfold State.after
  split
  next t eq => rw [eq] at same; exact same
  · rfl

theorem wf_after {s : State} {f : State → Out} {args : List Nat} (kept : ∀ t : State, Memory.wf t.dram = true → InForm (f t))
    (form : Memory.wf s.dram = true) : Memory.wf (s.after f args).dram = true := by
  have keeps := kept { s with args := args } form
  unfold State.after
  split
  next t eq => rw [eq] at keeps; exact keeps
  · exact form

theorem wf_bankClock {s : State} {gb : Nat} (form : Memory.wf s.dram = true) : Memory.wf (s.bankClock gb).dram = true := by
  unfold State.bankClock
  extract_lets t
  have turned : Memory.wf t.dram = true := by
    rw [dram_after dramIs_execBankResumption, dram_after dramIs_execBankSuspension]
    exact form
  split
  · refine wf_after (fun u form => ?_) (by rw [dram_after dramIs_execMicroAct]; exact turned)
    split
    · exact inForm_of_dramIs (dramIs_execMicroAct u) form
    · split
      · exact inForm_of_dramIs (dramIs_execMicroMac u) form
      · split
        · exact inForm_execMicroWb form
        · split
          · exact inForm_of_dramIs (dramIs_execMicroPre u) form
          · exact inForm_of_dramIs (dramIs_execMicroClr u) form
  · exact turned

theorem wf_closeDram {s : State} (form : Memory.wf s.dram = true) : Memory.wf s.closeDram.dram = true := by
  refine foldl_keeps (fun t : State => Memory.wf t.dram = true) _ _ _ ?_ fun t b _ form => wf_bankClock form
  refine foldl_keeps (fun t : State => Memory.wf t.dram = true) _ _ _ form fun t c _ form => ?_
  exact wf_after (fun _ => inForm_execNormalRequestAdmission) (wf_after (fun _ => inForm_execNormalCommandIssue) form)

-- what launches share (15 R231 to R233; 16 R241 to R255) ----------------------------------------------------------------------------------

@[simp] theorem dram_pumpLine (s : State) (pc vf pa : Nat) : (s.pumpLine pc vf pa).1.dram = s.dram := by
  unfold State.pumpLine
  dsimp only
  split
  next t eq => exact dram_of_awaits eq
  next => split <;> simp

@[simp] theorem dram_pumpBytes (s : State) (pc vf va n : Nat) : (s.pumpBytes pc vf va n).1.dram = s.dram := by
  refine dram_foldl_fst _ _ _ fun r x => ?_
  split
  · rfl
  · split
    · rfl
    · split
      next eq => simp [dram_of_fst eq]
      next eq =>
        have walked := dram_of_fst eq
        split
        next eq => simp [dram_of_fst eq, walked]
        next eq => simp [dram_of_fst eq, walked]

@[simp] theorem dram_pumpWrite (s : State) (pc op : Nat) (l : PumpLaunch) (pa : Nat) (v : BitVec 64) (after : List Nat) :
    (s.pumpWrite pc op l pa v after).1.dram = s.dram := by rfl

@[simp] theorem dram_writeEnd (s : State) (pc : Nat) (l : PumpLaunch) (x : Section) (code bundle clks : Nat) :
    (s.writeEnd pc l x code bundle clks).dram = s.dram := by simp [State.writeEnd]

@[simp] theorem dram_settleQueue (s : State) (pc : Nat) : (s.settleQueue pc).dram = s.dram := by simp [State.settleQueue]
@[simp] theorem dram_arrive (s : State) (pc : Nat) (l : PumpLaunch) : (s.arrive pc l).dram = s.dram := by simp [State.arrive]

@[simp] theorem dram_launchTo (s : State) (pc : Nat) (l : PumpLaunch) (master : Nat) : (s.launchTo pc l master).dram = s.dram := by
  simp only [State.launchTo]; split <;> simp

@[simp] theorem dram_beginRun (s : State) (pc : Nat) (l : PumpLaunch) (r : Run) (x : Option Section) : (s.beginRun pc l r x).dram = s.dram := by
  simp [State.beginRun]

@[simp] theorem dram_zeroAccs (s : State) (pc : Nat) : (s.zeroAccs pc).dram = s.dram := by rfl
@[simp] theorem dram_computeRefused (s : State) (pc : Nat) (l : PumpLaunch) : (s.computeRefused pc l).dram = s.dram := by simp [State.computeRefused]

@[simp] theorem dram_loadProgram (s : State) (pc : Nat) (l : PumpLaunch) : (s.loadProgram pc l).1.dram = s.dram := by
  unfold State.loadProgram; dsimp only; (repeat' split) <;> simp

@[simp] theorem dram_modEntry (s : State) (sl pc : Nat) (f : SEntry → SEntry) : (s.modEntry sl pc f).dram = s.dram := by rfl

@[simp] theorem dram_resume (s : State) (id : Nat) : (s.resume id).dram = s.dram := by
  unfold State.resume
  (repeat' split) <;> simp

@[simp] theorem dram_releaseHeld (s : State) (sl : Nat) : (s.releaseHeld sl).dram = s.dram := by
  refine dram_foldl _ _ _ fun t i => ?_
  split
  · split <;> simp
  · rfl

@[simp] theorem dram_clearHold (s : State) (sl pc : Nat) : (s.clearHold sl pc).dram = s.dram := by simp [State.clearHold]
@[simp] theorem dram_freeEntries (s : State) (pc : Nat) : (s.freeEntries pc).dram = s.dram := by simp [State.freeEntries]
@[simp] theorem dram_modSect (s : State) (pc : Nat) (f : Section → Section) : (s.modSect pc f).dram = s.dram := by rfl
@[simp] theorem dram_modRun (s : State) (pc : Nat) (f : Run → Run) : (s.modRun pc f).dram = s.dram := by rfl
@[simp] theorem dram_endRun (s : State) (pc code : Nat) : (s.endRun pc code).dram = s.dram := by rfl

@[simp] theorem dram_endRead (s : State) (pc : Nat) (c : PumpEnd) : (s.endRead pc c).dram = s.dram := by
  simp only [State.endRead]; split <;> simp

@[simp] theorem dram_nextRun (s : State) (pc : Nat) (spill : Bool) : (s.nextRun pc spill).dram = s.dram := by rfl
@[simp] theorem dram_restoreSect (s : State) (pc : Nat) : (s.restoreSect pc).dram = s.dram := by rfl

@[simp] theorem dram_passBundle (s : State) (pc : Nat) : (s.passBundle pc).dram = s.dram := by
  simp only [State.passBundle]; split <;> simp

-- sections (16 R241 to R255) --------------------------------------------------------------------------------------------------------------

@[simp] theorem dram_windowRuns (s : State) (pc vf base len : Nat) : (s.windowRuns pc vf base len).1.dram = s.dram := by
  refine dram_foldl_fst _ _ _ fun r i => ?_
  dsimp only
  split
  · rfl
  · split
    · rfl
    · split
      next eq => simp [dram_of_fst eq]
      next eq => simp [dram_of_fst eq]

@[simp] theorem dramIs_execSectionStart (s : State) : DramIs s.dram (execSectionStart s) := by
  unfold execSectionStart
  dsimp only
  rw [dramIs_next]
  split
  · rfl
  · split
    · rfl
    · split
      · simp
      · split
        · simp
        · split
          · simp
          · split
            next eq => simp [dram_of_fst eq]
            next eq =>
              have ran := dram_of_fst eq
              split <;> simp [ran]

@[simp] theorem dramIs_execSliceClaim (s : State) : DramIs s.dram (execSliceClaim s) := by
  simp only [execSliceClaim]; split <;> simp

@[simp] theorem dram_beginSluice (s : State) (pc : Nat) (final : Bool) : (s.beginSluice pc final).dram = s.dram := by rfl

@[simp] theorem dramIs_execSliceSnapshot (s : State) : DramIs s.dram (execSliceSnapshot s) := by
  simp only [execSliceSnapshot]; split <;> simp

@[simp] theorem dramIs_execSluiceOutcome (s : State) : DramIs s.dram (execSluiceOutcome s) := by
  simp only [execSluiceOutcome]; split <;> simp

@[simp] theorem dram_releaseLine (s : State) (pc : Nat) (l : PumpLaunch) (pa : Nat) (ws : List WByte) : (s.releaseLine pc l pa ws).dram = s.dram := by
  simp only [State.releaseLine]; split <;> simp

@[simp] theorem dram_cleanOutcome (s : State) (pc sl : Nat) (x : Section) (l : PumpLaunch) : (s.cleanOutcome pc sl x l).dram = s.dram := by
  simp [State.cleanOutcome]

@[simp] theorem dram_breachOutcome (s : State) (pc sl : Nat) (x : Section) : (s.breachOutcome pc sl x).dram = s.dram := by simp [State.breachOutcome]

@[simp] theorem dramIs_execOutcomeAtWindowSlice (s : State) : DramIs s.dram (execOutcomeAtWindowSlice s) := by
  simp only [execOutcomeAtWindowSlice]; split <;> simp

@[simp] theorem dramIs_execSegmentCommit (s : State) : DramIs s.dram (execSegmentCommit s) := by
  simp only [execSegmentCommit]; split <;> simp

@[simp] theorem dramIs_execSegmentReplay (s : State) : DramIs s.dram (execSegmentReplay s) := by
  simp only [execSegmentReplay]; split <;> simp

@[simp] theorem dramIs_execSpillRequest (s : State) : DramIs s.dram (execSpillRequest s) := by
  simp only [execSpillRequest]; split <;> simp

-- graphs and their nodes (22 R327, R328) --------------------------------------------------------------------------------------------------

@[simp] theorem dram_modNode (s : State) (g n : Nat) (f : Node → Node) : (s.modNode g n f).dram = s.dram := by rfl
@[simp] theorem dram_cpWrite (s : State) (vf a : Nat) (bs : List Byte) : (s.cpWrite vf a bs).dram = s.dram := by simp [State.cpWrite]
@[simp] theorem dram_answered (s : State) (c : Cmd) (status : Nat) : (s.answered c status).dram = s.dram := by rfl
@[simp] theorem dram_finish (s : State) (c : Cmd) (status : Nat) : (s.finish c status).dram = s.dram := by simp [State.finish]
@[simp] theorem dram_closeCommands (s : State) : s.closeCommands.dram = s.dram := by simp [State.closeCommands]

@[simp] theorem dram_finishJ (s : State) (j status : Nat) : (s.finishJ j status).dram = s.dram := by
  simp only [State.finishJ]; split <;> simp

@[simp] theorem dram_enterPool (s : State) (g n : Nat) : (s.enterPool g n).dram = s.dram := by simp [State.enterPool]

@[simp] theorem dram_refill (w : List (Nat × Nat)) (s : State) : (refill w s).dram = s.dram := by
  induction w generalizing s with
  | nil => rfl
  | cons x xs ih =>
    unfold refill
    split
    · rw [ih, dram_enterPool]
    · rfl

@[simp] theorem dram_leavePool (s : State) (g n : Nat) : (s.leavePool g n).dram = s.dram := dram_refill ..
@[simp] theorem dram_dropReserve (s : State) (g n : Nat) : (s.dropReserve g n).dram = s.dram := by simp [State.dropReserve]

@[simp] theorem dram_nodeWord (s : State) (g n off : Nat) (v : BitVec 64) : (s.nodeWord g n off v).dram = s.dram := by
  unfold State.nodeWord
  dsimp only
  split
  next eq => simp [dram_of_fst eq]
  next eq => simp [dram_of_fst eq]

@[simp] theorem dram_noteEnd (s : State) (g n status : Nat) : (s.noteEnd g n status).dram = s.dram := by
  unfold State.noteEnd
  dsimp only
  rw [dram_dropReserve]
  split <;> simp

@[simp] theorem dram_decPred (s : State) (g n : Nat) : (s.decPred g n).dram = s.dram := by simp [State.decPred]

@[simp] theorem dram_endNodes (g fuel : Nat) (l : List (Nat × Nat)) (s : State) : (State.endNodes g fuel l s).dram = s.dram := by
  induction fuel generalizing l s with
  | zero => simp only [State.endNodes]
  | succ fuel ih =>
    cases l with
    | nil => simp only [State.endNodes]
    | cons e rest =>
      simp only [State.endNodes]
      split
      · exact ih ..
      · split <;> simp [ih]

@[simp] theorem dram_checkGraph (s : State) (g : Nat) : (s.checkGraph g).dram = s.dram := by simp [State.checkGraph]
@[simp] theorem dram_endNode (s : State) (g n status : Nat) : (s.endNode g n status).dram = s.dram := by simp [State.endNode]

-- pumphouse moves and launches (15 R229 to R233) ------------------------------------------------------------------------------------------

@[simp] theorem dram_moveDone (s : State) (pc : Nat) : (s.moveDone pc).dram = s.dram := by
  simp only [State.moveDone]; split <;> simp

theorem dramIs_move {s : State} {k : State → Nat → Run → BitVec 64 → State} (kept : ∀ pc r v, (k s pc r v).dram = s.dram) :
    DramIs s.dram (s.move k) := by
  unfold State.move
  dsimp only
  rw [dramIs_next]
  split
  · rfl
  · split
    · simp
    · exact kept ..

@[simp] theorem dramIs_portMove (s : State) (f : Ports → BitVec 64 → Ports) : DramIs s.dram (s.portMove f) :=
  dramIs_move fun _ _ _ => by simp

@[simp] theorem dramIs_runMove (s : State) (f : Run → BitVec 64 → Run) : DramIs s.dram (s.runMove f) :=
  dramIs_move fun _ _ _ => by simp

@[simp] theorem dramIs_sfuMove (s : State) (f : Ports → BitVec 64 → BitVec 64) : DramIs s.dram (s.sfuMove f) :=
  dramIs_move fun _ _ _ => by simp

@[simp] theorem dramIs_execLds (s : State) : DramIs s.dram (execLds s) := by
  refine dramIs_move fun pc r v => ?_
  dsimp only
  split
  · split <;> simp
  · simp

@[simp] theorem dramIs_execSts (s : State) : DramIs s.dram (execSts s) := by
  refine dramIs_move fun pc r v => ?_
  dsimp only
  split <;> simp

@[simp] theorem dram_pumpSend (s : State) (pc : Nat) (l : PumpLaunch) (pa kind : Nat) (k : ReqKind) :
    (s.pumpSend pc l pa kind k).1.dram = s.dram := by rfl

@[simp] theorem dram_memFold (s : State) (pc pa : Nat) : (s.memFold pc pa).dram = s.dram := by rfl
@[simp] theorem dram_windowBytes (s : State) (pc pa : Nat) (bs : List Byte) : (s.windowBytes pc pa bs).dram = s.dram := by simp [State.windowBytes]

@[simp] theorem dram_windowLoad (s : State) (pc : Nat) (l : PumpLaunch) (pa : Nat) : (s.windowLoad pc l pa).dram = s.dram := by
  unfold State.windowLoad; dsimp only; (repeat' split) <;> simp

@[simp] theorem dramIs_execLdg (s : State) : DramIs s.dram (execLdg s) := by
  refine dramIs_move fun pc r v => ?_
  split
  · simp
  · split
    next eq => simp [dram_of_fst eq]
    next eq => split <;> simp [dram_of_fst eq]

@[simp] theorem dram_spillStore (s : State) (pc : Nat) (l : PumpLaunch) (pa : Nat) (v : BitVec 64) : (s.spillStore pc l pa v).dram = s.dram := by
  simp [State.spillStore]

@[simp] theorem dram_boardStore (s : State) (pc pa : Nat) (v : BitVec 64) : (s.boardStore pc pa v).dram = s.dram := by simp [State.boardStore]

@[simp] theorem dramIs_execStg (s : State) : DramIs s.dram (execStg s) := by
  refine dramIs_move fun pc r v => ?_
  dsimp only
  split
  · simp
  · split
    next eq => simp [dram_of_fst eq]
    next eq =>
      have walked := dram_of_fst eq
      split
      · split
        · simpa using walked
        · split <;> simpa using walked
      · simpa using walked

@[simp] theorem dramIs_execBkc (s : State) : DramIs s.dram (execBkc s) := by
  refine dramIs_move fun pc r v => ?_
  dsimp only
  split
  · simp
  · split
    · simp
    · split <;> simp

@[simp] theorem dram_splitStep (s : State) (pc : Nat) (r : Run) : (s.splitStep pc r).dram = s.dram := by
  unfold State.splitStep
  dsimp only
  split
  · split <;> simp
  · split
    · split
      next eq => simp [dram_of_fst eq]
      next eq => simp [dram_of_fst eq]
    · split <;> simp

@[simp] theorem dram_drainedBundle (s : State) (pc : Nat) (r : Run) : (s.drainedBundle pc r).dram = s.dram := by simp [State.drainedBundle]

theorem dram_of_startBundle {s t : State} {pc : Nat} {r : Run} (eq : s.startBundle pc r = .ok t) : t.dram = s.dram := by
  unfold State.startBundle at eq
  dsimp only at eq
  split at eq <;> cases eq
  simp

theorem dram_of_badBundle {s t : State} {pc : Nat} {r : Run} (eq : s.startBundle pc r = .error t) : t.dram = s.dram := by
  unfold State.startBundle at eq
  dsimp only at eq
  split at eq <;> cases eq
  simp

@[simp] theorem dram_nextMove (s : State) (pc : Nat) : (s.nextMove pc).state.dram = s.dram := by
  unfold State.nextMove
  dsimp only
  split
  · rfl
  · split
    · rfl
    · split
      · simp [Pumped.state]
      · split
        · simp only [Pumped.state]
          split <;> simp
        · split
          · rfl
          · split
            · simp only [Pumped.state]
              split <;> simp
            · split
              · simp [Pumped.state]
              · split
                · simp [Pumped.state]
                · split
                  · rfl
                  · split
                    next t eq =>
                      split at eq
                      · exact dram_of_badBundle eq
                      · cases eq
                    next t eq =>
                      have begun : t.dram = s.dram := by
                        split at eq
                        · exact dram_of_startBundle eq
                        · cases eq; rfl
                      split <;> simpa [Pumped.state] using begun

@[simp] theorem dramIs_execPumpLaunchStart (s : State) : DramIs s.dram (execPumpLaunchStart s) := by
  unfold execPumpLaunchStart
  dsimp only
  rw [dramIs_next]
  split
  · rfl
  · split
    · rfl
    · split
      · simp
      · split
        · simp
        · split
          · simp
          · split
            · split <;> simp
            · split
              · simp
              · split
                next eq => simp [dram_of_fst eq]
                next eq => simp [dram_of_fst eq]
                next eq => simp [dram_of_fst eq]

@[simp] theorem dramIs_execPumpLimitTimeout (s : State) : DramIs s.dram (execPumpLimitTimeout s) := by
  simp only [execPumpLimitTimeout]; split <;> simp

@[simp] theorem dram_closeRows (s : State) (pc : Nat) : (s.closeRows pc).dram = s.dram := by simp [State.closeRows]
@[simp] theorem dram_nodeEnded (s : State) (g n code : Nat) : (s.nodeEnded g n code).dram = s.dram := by simp [State.nodeEnded]

@[simp] theorem dram_leavePump (s : State) (pc : Nat) (r : Run) (code : Nat) : (s.leavePump pc r code).dram = s.dram := by
  simp only [State.leavePump]; split <;> simp

@[simp] theorem dramIs_execPumpLaunchEnd (s : State) : DramIs s.dram (execPumpLaunchEnd s) := by
  unfold execPumpLaunchEnd; dsimp only; (repeat' split) <;> simp

@[simp] theorem dram_dropQueued (s : State) (pc : Nat) (l : PumpLaunch) : (s.dropQueued pc l).dram = s.dram := by simp [State.dropQueued]

@[simp] theorem dram_abortMeets (s : State) (pc : Nat) : (s.abortMeets pc).dram = s.dram := by
  simp only [State.abortMeets]; split <;> simp

@[simp] theorem dram_closePumps (s : State) : s.closePumps.dram = s.dram := by simp [State.closePumps]
@[simp] theorem dram_abortRun (s : State) (pc : Nat) : (s.abortRun pc).dram = s.dram := by simp [State.abortRun]

-- near-memory launches (15 R231) ----------------------------------------------------------------------------------------------------------

theorem dram_descAt {s : State} {va need : Nat} {rd : Bool} {k : State → Nat → State} (kept : ∀ t pa, t.dram = s.dram → (k t pa).dram = s.dram) :
    (s.descAt va need rd k).dram = s.dram := by
  refine dram_translated (fun t good same => ?_) fun good t eq => ?_
  · split
    · exact kept _ _ same
    · simpa using same
  · split at eq
    · obtain ⟨x, -, first⟩ := List.exists_of_findSome?_eq_some eq
      obtain ⟨q, -, waits⟩ := List.exists_of_findSome?_eq_some first
      exact dram_of_awaits waits
    · cases eq

theorem dram_descWord {s : State} {p : BitVec 64} {need : Nat} {rd : Bool} {k : State → Nat → State}
    (kept : ∀ t pa, t.dram = s.dram → (k t pa).dram = s.dram) : (s.descWord p need k rd).dram = s.dram := by
  unfold State.descWord
  split
  · simp
  · exact dram_descAt kept

theorem dram_descRead {s : State} {pa : Nat} {no : State → State} {k : State → List (BitVec 64) → State} (refused : ∀ t, (no t).dram = t.dram)
    (kept : ∀ t w, (k t w).dram = t.dram) : (s.descRead pa no k).dram = s.dram := by
  unfold State.descRead
  dsimp only
  split
  · simp
  · split <;> simp [refused, kept]

@[simp] theorem dram_sendLaunch (s : State) (pc : Nat) (l : PumpLaunch) : (s.sendLaunch pc l).dram = s.dram := by simp [State.sendLaunch]

@[simp] theorem dramIs_execPumpgo (a b : Nat) (s : State) : DramIs s.dram (execPumpgo a b s) := by
  refine dram_descWord fun t pa same => ?_
  split
  · rfl
  · rw [dram_descRead (by simp) (by simp), same]

@[simp] theorem dramIs_execPumpwait (d a : Nat) (s : State) : DramIs s.dram (execPumpwait d a s) := by
  refine dram_descWord fun t pa same => ?_
  dsimp only
  split
  next u eq =>
    have done := dram_of_pollDone eq
    split <;> simp [done, same]
  · simp [same]

@[simp] theorem dramIs_execMvsplit (d a b : Nat) (s : State) : DramIs s.dram (execMvsplit d a b s) := by
  unfold execMvsplit
  dsimp only
  rw [dramIs_next]
  split
  · simp
  · refine dram_descWord fun t pa same => ?_
    split
    · rfl
    · rw [dram_descRead (by simp) (by simp), same]

@[simp] theorem dramIs_execSecopen (a b : Nat) (s : State) : DramIs s.dram (execSecopen a b s) := by
  refine dram_descWord fun t pa same => ?_
  split
  · rfl
  · rw [dram_descRead (by simp), same]
    intro u sw
    refine dram_descAt fun v pp same => ?_
    rw [dram_descRead (by simp) (by simp), same]

@[simp] theorem dram_abortSect (s : State) (vf pa op : Nat) : (s.abortSect vf pa op).dram = s.dram := by
  unfold State.abortSect; dsimp only; (repeat' split) <;> simp

@[simp] theorem dramIs_execSecabort (a : Nat) (s : State) : DramIs s.dram (execSecabort a s) := by
  refine dram_descWord fun t pa same => ?_
  split
  · rfl
  · rw [dram_descRead (by simp) (by simp), same]

@[simp] theorem dram_sectCore (s : State) (w : List (BitVec 64)) : (s.sectCore w).1.dram = s.dram := by
  unfold State.sectCore
  dsimp only
  split
  next eq => simp [dram_of_fst eq]
  next eq => simp [dram_of_fst eq]

@[simp] theorem dram_resultAll (s : State) (d : Nat) (v : BitVec 128) : (s.resultAll d v).dram = s.dram := by rfl

@[simp] theorem dramIs_execSecstat (d a : Nat) (s : State) : DramIs s.dram (execSecstat d a s) := by
  refine dramIs_checked _ _ _ (dram_descWord fun t pa same => ?_)
  split
  · rfl
  · rw [dram_descRead (by simp) (by simp), same]

@[simp] theorem dram_board (s : State) (p : BitVec 64) (dest t base : Nat) : (s.board p dest t base).dram = s.dram := by
  unfold State.board; dsimp only; (repeat' split) <;> simp

@[simp] theorem dramIs_execBoardShadow (a : Nat) (s : State) : DramIs s.dram (execBoardShadow a s) := by simp [execBoardShadow]
@[simp] theorem dramIs_execBoardTile (a t : Nat) (s : State) : DramIs s.dram (execBoardTile a t s) := by simp [execBoardTile]
@[simp] theorem dramIs_execUnboard (a : Nat) (s : State) : DramIs s.dram (execUnboard a s) := by simp [execUnboard]
@[simp] theorem dramIs_execBoardstat (d a : Nat) (s : State) : DramIs s.dram (execBoardstat d a s) := by simp [execBoardstat]

-- dispatch and the ends of nodes and teams (19 R280 to R283) ------------------------------------------------------------------------------

@[simp] theorem dram_cpRead (s : State) (vf va n : Nat) : (s.cpRead vf va n).1.dram = s.dram := by
  refine dram_foldl_fst _ _ _ fun r x => ?_
  split
  · rfl
  · split
    · rfl
    · split
      next eq => simp [dram_of_fst eq]
      next eq => simp [dram_of_fst eq]

theorem dram_of_seat {s t : State} {g n core number : Nat} {l : Launch} (eq : s.seat g n core l number = some t) : t.dram = s.dram := by
  unfold State.seat at eq
  dsimp only at eq
  split at eq <;> cases eq
  simp

theorem dram_of_foldl_bind {β : Type} {s t : State} {f : β → State → Option State} (kept : ∀ i u v, f i u = some v → v.dram = u.dram) (l : List β)
    (placed : l.foldl (fun acc i => acc.bind (f i)) (some s) = some t) : t.dram = s.dram := by
  have all : ∀ v ∈ l.foldl (fun acc i => acc.bind (f i)) (some s), v.dram = s.dram := by
    refine foldl_keeps (fun acc : Option State => ∀ v ∈ acc, v.dram = s.dram) _ _ _ ?_ fun acc i _ same v next => ?_
    · rintro _ ⟨⟩
      rfl
    · obtain ⟨u, before, step⟩ := Option.bind_eq_some_iff.mp next
      exact (kept i u v step).trans (same u before)
  exact all t placed

theorem dram_of_placeUnit {seat : State → Nat → Nat → Option State} (kept : ∀ u c number v, seat u c number = some v → v.dram = u.dram)
    {bs : List (Nat × Nat)} {s t : State} {a n : Nat} {cores : List Nat} (placed : placeUnit seat bs s a n cores = some t) : t.dram = s.dram := by
  induction bs generalizing s t a n cores with
  | nil =>
    refine dram_of_foldl_bind (fun i u v found => ?_) _ placed
    obtain ⟨c, -, sits⟩ := List.exists_of_findSome?_eq_some found
    exact kept u c _ v sits
  | cons b bs ih =>
    refine dram_of_foldl_bind (fun j u v found => ?_) _ placed
    obtain ⟨c, -, sits⟩ := List.exists_of_findSome?_eq_some found
    exact ih sits

theorem dram_of_placeNew {s t : State} {g n : Nat} {l : Launch} {cores : List Nat} (eq : s.placeNew g n l cores = some t) : t.dram = s.dram :=
  dram_of_placeUnit (fun _ _ _ _ => dram_of_seat) eq

theorem dram_of_replace {s t : State} {tid core : Nat} (eq : s.replace tid core = some t) : t.dram = s.dram := by
  obtain ⟨p, -, rfl⟩ := Option.map_eq_some_iff.mp eq
  rfl

@[simp] theorem dram_afterPlace (s : State) (g n : Nat) : (s.afterPlace g n).dram = s.dram := by simp [State.afterPlace]

@[simp] theorem dram_pumpNode (s : State) (g n : Nat) : (s.pumpNode g n).1.dram = s.dram := by
  unfold State.pumpNode
  dsimp only
  split
  next eq => simp [dram_of_fst eq]
  next eq => simp [dram_of_fst eq]

@[simp] theorem dram_nodeLaunch (s : State) (pc : Nat) (l : PumpLaunch) (g n : Nat) : (s.nodeLaunch pc l g n).dram = s.dram := by
  simp only [State.nodeLaunch]; split <;> simp

@[simp] theorem dram_tryPump (s : State) (g n : Nat) (mine : Bool) : (s.tryPump g n mine).state.dram = s.dram := by
  unfold State.tryPump
  dsimp only
  split
  · simp [Tried.state]
  · split
    next eq => simp [Tried.state, dram_of_fst eq]
    next eq => split <;> simp [Tried.state, dram_of_fst eq]

@[simp] theorem dram_tryEntry (s : State) (g n : Nat) (cores : List Nat) (mine : Bool) : (s.tryEntry g n cores mine).state.dram = s.dram := by
  unfold State.tryEntry
  extract_lets x addr r w l u
  split
  · simp
  · split
    · split
      next t eq =>
        obtain ⟨c, -, fits⟩ := List.exists_of_findSome?_eq_some eq
        simp [Tried.state, dram_of_replace fits]
      · rfl
    · split
      · simp [Tried.state]
      · split
        · split
          · rfl
          · split
            next t eq => simp [Tried.state, dram_of_placeNew eq]
            · rfl
        · have read : r.1.dram = s.dram := by
            simp only [r]
            split <;> simp
          split
          · simpa [Tried.state] using read
          · have noted : u.dram = s.dram := by simpa [u] using read
            split
            · simpa [Tried.state] using noted
            · split
              · exact noted
              · split
                next t eq => simpa [Tried.state, dram_of_placeNew eq] using noted
                · exact noted

@[simp] theorem dram_takeReserve (s : State) (e : PoolEntry) : (s.takeReserve e).dram = s.dram := by
  unfold State.takeReserve
  dsimp only
  split
  · split
    next eq => simp [dram_of_fst eq]
    next eq => split <;> simp [dram_of_fst eq]
  · split <;> simp

@[simp] theorem dram_takeReserves (s : State) : s.takeReserves.dram = s.dram := by simp [State.takeReserves]
@[simp] theorem dram_askReserved (s : State) : s.askReserved.dram = s.dram := by simp [State.askReserved]

@[simp] theorem dram_tryReserved (rs : List Reserve) (s : State) : (tryReserved rs s).state.dram = s.dram := by
  induction rs generalizing s with
  | nil => rfl
  | cons r rs ih =>
    have tried := dram_tryEntry s r.graph r.node r.cores true
    unfold tryReserved
    split
    next t eq => rw [eq] at tried; exact tried
    next t eq => rw [eq] at tried; exact (ih t).trans tried

@[simp] theorem dram_tryPool (pref : Nat) (es past : List PoolEntry) (s : State) : (tryPool pref es past s).state.dram = s.dram := by
  induction es generalizing past s with
  | nil => rfl
  | cons e es ih =>
    have tried := dram_tryEntry s e.graph e.node (s.openCores (s.node e.graph e.node).polder pref) false
    unfold tryPool
    split
    next t eq => rw [eq] at tried; exact tried
    next t eq => rw [eq] at tried; exact (ih _ t).trans tried

@[simp] theorem dramIs_execDispatchDecision (s : State) : DramIs s.dram (execDispatchDecision s) := by
  unfold execDispatchDecision
  extract_lets u pumps
  have asked : u.dram = s.dram := by simp [u]
  rw [dramIs_next, ← asked]
  have first := dram_tryReserved ((tsome u.reserves).map (·.2) ++ pumps) u
  split
  next t eq => rw [eq] at first; exact first
  next t eq =>
    rw [eq] at first
    have second := dram_tryPool (u.arg 0) t.order [] t
    split
    next v eq => rw [eq] at second; simpa using (show v.dram = u.dram from second.trans first)
    next v eq => rw [eq] at second; exact second.trans first

@[simp] theorem dram_flushTeam (s : State) (tid : Nat) : (s.flushTeam tid).dram = s.dram := by simp [State.flushTeam]

@[simp] theorem dramIs_execTeamRelease (s : State) : DramIs s.dram (execTeamRelease s) := by
  unfold execTeamRelease
  extract_lets tid t u v w x
  rw [dramIs_next]
  split
  · rfl
  · split
    · simp
    · have told : u.dram = s.dram := dram_foldl _ _ _ fun t a => by split <;> simp
      split <;> simp [w, v, told]

-- stop, save and restore (25 R350) --------------------------------------------------------------------------------------------------------

@[simp] theorem dram_answer (s : State) (asks : List Asker) (status : Nat) : (s.answer asks status).dram = s.dram := by
  refine dram_foldl _ _ _ fun t a => ?_
  split <;> simp

@[simp] theorem dram_recordBoards (s : State) (tid : Nat) (f : Nat → Bool) : (s.recordBoards tid f).dram = s.dram := by simp [State.recordBoards]
@[simp] theorem dram_stopBoards (s : State) (tid : Nat) : (s.stopBoards tid).dram = s.dram := by simp [State.stopBoards]
@[simp] theorem dram_stopPlanes (s : State) (tid : Nat) : (s.stopPlanes tid).dram = s.dram := by simp [State.stopPlanes]
@[simp] theorem dram_stopCopies (s : State) (tid : Nat) : (s.stopCopies tid).dram = s.dram := by rfl
@[simp] theorem dram_dropPriv (s : State) (tid : Nat) : (s.dropPriv tid).dram = s.dram := by simp [State.dropPriv]

@[simp] theorem dram_saveBlocks (s : State) (tid : Nat) : (s.saveBlocks tid).dram = s.dram := by
  simp only [State.saveBlocks]
  generalize List.filter _ _ = l
  induction l generalizing s with
  | nil => rfl
  | cons e l ih => rw [List.foldl_cons, ih, dram_saveBlock]

@[simp] theorem dramIs_execTeamStop (s : State) : DramIs s.dram (execTeamStop s) := by
  unfold execTeamStop; dsimp only; (repeat' split) <;> simp

@[simp] theorem dram_spillDeque (s : State) (tid : Nat) : (s.spillDeque tid).dram = s.dram := by
  simp only [State.spillDeque]; split <;> simp

@[simp] theorem dram_requeue (s : State) (tid : Nat) : (s.requeue tid).dram = s.dram := by simp [State.requeue]

@[simp] theorem dram_senseClass (s : State) (tid k : Nat) : (s.senseClass tid k).dram = s.dram := by
  unfold State.senseClass; dsimp only; (repeat' split) <;> simp

@[simp] theorem dramIs_execTeamSave (s : State) : DramIs s.dram (execTeamSave s) := by
  simp only [execTeamSave]; split <;> simp

@[simp] theorem dram_unpark (s : State) (p : Park) (fseq : Nat) : (s.unpark p fseq).dram = s.dram := by
  simp only [State.unpark]; split <;> simp

@[simp] theorem dram_applyResume (s : State) (vf fseq : Nat) : (s.applyResume vf fseq).dram = s.dram := by
  simp only [State.applyResume]; split <;> simp

@[simp] theorem dram_loadV (s : State) (tid a : Nat) : (s.loadV tid a).dram = s.dram := by simp [State.loadV]
@[simp] theorem dram_loadRuns (s : State) (tid a : Nat) : (s.loadRuns tid a).dram = s.dram := by simp [State.loadRuns]

@[simp] theorem dram_loadDeque (s : State) (tid : Nat) : (s.loadDeque tid).dram = s.dram := by
  simp only [State.loadDeque]; split <;> simp

@[simp] theorem dram_loadPlanes (s : State) (tid : Nat) : (s.loadPlanes tid).dram = s.dram := by simp [State.loadPlanes]
@[simp] theorem dram_saveInvalid (s : State) (tid a : Nat) : (s.saveInvalid tid a).dram = s.dram := by simp [State.saveInvalid]

@[simp] theorem dramIs_execTeamRestore (s : State) : DramIs s.dram (execTeamRestore s) := by
  unfold execTeamRestore; dsimp only; (repeat' split) <;> simp

-- rings and slots (20 R296 to R305) -------------------------------------------------------------------------------------------------------

@[simp] theorem dram_modSched (s : State) (i : Nat) (f : Sched → Sched) : (s.modSched i f).dram = s.dram := by rfl
@[simp] theorem dram_clearCredits (s : State) : s.clearCredits.dram = s.dram := dram_foldl _ _ _ fun _ _ => dram_modSched ..

theorem dram_of_pick {s t : State} {i : Nat} (eq : s.pick = some (i, t)) : t.dram = s.dram := by
  obtain ⟨j, -, same⟩ := Option.map_eq_some_iff.mp eq
  cases same
  simp

@[simp] theorem dram_slotRec (s : State) (owner list idx : Nat) : (s.slotRec owner list idx).1.dram = s.dram := by simp [State.slotRec]
@[simp] theorem dram_removeKeys (s : State) (i : Nat) (keys : List Nat) : (s.removeKeys i keys).dram = s.dram := by simp [State.removeKeys]
@[simp] theorem dram_setSched (s : State) (i : Nat) (x : Nat × Nat × Nat × Nat) : (s.setSched i x).dram = s.dram := by simp [State.setSched]

@[simp] theorem dram_payload (s : State) (owner src : Nat) : (s.payload owner src).1.dram = s.dram := by
  unfold State.payload
  rw [dram_foldl_fst]
  exact fun _ _ => dram_readFor ..

theorem dram_of_putSlot {s t : State} {i : Nat} (eq : s.putSlot i = some t) : t.dram = s.dram := by
  unfold State.putSlot at eq
  dsimp only at eq
  split at eq <;> simp only [Option.some.injEq, reduceCtorEq] at eq
  subst eq
  simp only [dram_modSched, dram_payload, dram_slotRec]

@[simp] theorem dram_getD_putSlot (s u : State) (i : Nat) (same : u.dram = s.dram) : ((s.putSlot i).getD u).dram = s.dram := by
  cases eq : s.putSlot i with
  | none => exact same
  | some t => exact dram_of_putSlot eq

@[simp] theorem dramIs_execSlotIssue (s : State) : DramIs s.dram (execSlotIssue s) := by
  unfold execSlotIssue
  rw [dramIs_next]
  split
  · rfl
  next i t eq =>
    have picked := dram_of_pick eq
    have put (u : State) (same : u.dram = s.dram) : ((u.putSlot i).getD s).dram = s.dram := by
      rw [dram_getD_putSlot _ _ _ same.symm, same]
    dsimp only
    split
    · split
      · simp
      · exact put _ picked
    · exact put _ picked

@[simp] theorem dram_arm (s : State) (core i : Nat) : (s.arm core i).dram = s.dram := by simp [State.arm]
@[simp] theorem dram_stopWords (s : State) (core : Nat) : (s.stopWords core).dram = s.dram := by simp [State.stopWords]
@[simp] theorem dramIs_execBoardArm (s : State) : DramIs s.dram (execBoardArm s) := by simp [execBoardArm]

@[simp] theorem dram_dropSlot (s : State) (sn : Nat) : (s.dropSlot sn).dram = s.dram := by
  simp only [State.dropSlot]; split <;> simp

@[simp] theorem dram_passage (s : State) (core sn : Nat) : (s.passage core sn).dram = s.dram := by
  simp only [State.passage]; split <;> simp

@[simp] theorem dram_arrivals (s : State) (core : Nat) : (s.arrivals core).dram = s.dram := by simp [State.arrivals]
@[simp] theorem dramIs_execSlotPassage (s : State) : DramIs s.dram (execSlotPassage s) := by simp [execSlotPassage]

@[simp] theorem dram_landBeats (s : State) (core i : Nat) : (s.landBeats core i).dram = s.dram := by
  simp only [State.landBeats]; split <;> simp

@[simp] theorem dram_deliver (s : State) (core i : Nat) (b : BoardSlot) (r : RSlot) : (s.deliver core i b r).dram = s.dram := by simp [State.deliver]
@[simp] theorem dram_corruptTile (s : State) (core : Nat) (b : BoardSlot) : (s.corruptTile core b).dram = s.dram := by simp [State.corruptTile]
@[simp] theorem dram_corrupt (s : State) (core i : Nat) (b : BoardSlot) : (s.corrupt core i b).dram = s.dram := by simp [State.corrupt]

@[simp] theorem dram_crcCheck (s : State) (core i : Nat) : (s.crcCheck core i).dram = s.dram := by
  simp only [State.crcCheck]; split <;> simp

theorem dram_landings {s : State} {core : Nat} {f : State → Nat → State} (kept : ∀ t i, (f t i).dram = t.dram) : (s.landings core f).dram = s.dram :=
  dram_foldl _ _ _ fun _ _ => kept ..

@[simp] theorem dramIs_execDeliveryCrcCheck (s : State) : DramIs s.dram (execDeliveryCrcCheck s) := by simp [execDeliveryCrcCheck]

@[simp] theorem dram_closeRing (s : State) : s.closeRing.dram = s.dram := by
  unfold State.closeRing
  dsimp only
  rw [dram_foldl, dram_foldl, dram_foldl, dram_foldl]
  · simp
  · intro t sn
    exact dram_foldl _ _ _ fun _ _ => dram_passage ..
  · intro t c
    rw [dram_landings (by simp), dram_landings (by simp)]
  · simp

-- host commands and registers (25 R346 to R356) -------------------------------------------------------------------------------------------

theorem dram_takeCmd {s : State} {fn kind : Nat} {pfOnly : Bool} {k : State → Cmd → Did} (kept : ∀ t c, (k t c).state.dram = t.dram) :
    (s.takeCmd fn kind pfOnly k).dram = s.dram := by
  unfold State.takeCmd
  dsimp only
  split
  · rfl
  · split
    · simp
    · split
      · simp
      · split
        next t x eq => rw [dram_finish]; exact (congrArg (fun d : Did => d.state.dram) eq).symm.trans (kept ..)
        next t eq => exact (congrArg (fun d : Did => d.state.dram) eq).symm.trans (kept ..)

@[simp] theorem dram_badCommand (s : State) (fn : Nat) : (s.badCommand fn).dram = s.dram := dram_takeCmd fun _ _ => rfl

@[simp] theorem dram_readNode (s : State) (vf base n i : Nat) : (s.readNode vf base n i).1.dram = s.dram := by
  unfold State.readNode
  dsimp only
  split
  next eq => simp [dram_of_fst eq]
  next eq =>
    have read := dram_of_fst eq
    split
    next eq => simp [dram_of_fst eq, read]
    next eq => simp [dram_of_fst eq, read]

@[simp] theorem dram_readNodes (vf base n k : Nat) (s : State) (l : Option (List (Node × Bool))) :
    (State.readNodes vf base n k s l).1.dram = s.dram := by
  induction k generalizing s l with
  | zero => cases l <;> rfl
  | succ k ih =>
    cases l with
    | none => rfl
    | some l => simp only [State.readNodes, ih, dram_readNode]

@[simp] theorem dramIs_execSubmitGraph (s : State) : DramIs s.dram (execSubmitGraph s) := by
  refine dram_takeCmd fun t c => ?_
  dsimp only
  split
  · rfl
  · split
    next eq => simp [Did.state, dram_of_fst eq]
    next eq => simp [Did.state, dram_of_fst eq]

@[simp] theorem dramIs_execResume (s : State) : DramIs s.dram (execResume s) :=
  dram_takeCmd fun t c => by split <;> simp [Did.state]

@[simp] theorem dram_preempt (s : State) (c : Cmd) (hold : Bool) : (s.preempt c hold).state.dram = s.dram := by
  unfold State.preempt
  split
  · rfl
  · split <;> rfl

@[simp] theorem dramIs_execPreempt (s : State) : DramIs s.dram (execPreempt s) := dram_takeCmd fun _ _ => dram_preempt ..
@[simp] theorem dramIs_execPreemptHold (s : State) : DramIs s.dram (execPreemptHold s) := dram_takeCmd fun _ _ => dram_preempt ..

@[simp] theorem dramIs_execPreemptRelease (s : State) : DramIs s.dram (execPreemptRelease s) := by
  refine dram_takeCmd fun t c => ?_
  split
  · rfl
  · split <;> simp [Did.state]

@[simp] theorem dramIs_execPolderSetEntry (s : State) : DramIs s.dram (execPolderSetEntry s) := by
  refine dram_takeCmd fun t c => ?_
  dsimp only
  (repeat' split) <;> rfl

@[simp] theorem dram_setRow (s : State) (vf : Nat) (row : BitVec 512) (target : Nat) : (s.setRow vf row target).dram = s.dram := by rfl

@[simp] theorem dramIs_execPolderSetAccess (s : State) : DramIs s.dram (execPolderSetAccess s) := by
  refine dram_takeCmd fun t c => ?_
  dsimp only
  split
  · rfl
  · split
    · rfl
    · exact dram_foldl _ _ _ fun _ _ => dram_setRow ..

@[simp] theorem dramIs_execPolderSetTroot (s : State) : DramIs s.dram (execPolderSetTroot s) := by
  refine dram_takeCmd fun t c => ?_
  (repeat' split) <;> simp [Did.state]

@[simp] theorem dramIs_execPolderSetRows (s : State) : DramIs s.dram (execPolderSetRows s) := by
  refine dram_takeCmd fun t c => ?_
  dsimp only
  (repeat' split) <;> rfl

@[simp] theorem dramIs_execRingLoad (s : State) : DramIs s.dram (execRingLoad s) := by
  refine dram_takeCmd fun t c => ?_
  dsimp only
  split
  · rfl
  · split
    · rfl
    · split
      · simp [Did.state]
      · simp [Did.state]

@[simp] theorem dramIs_execKeyInstall (s : State) : DramIs s.dram (execKeyInstall s) := by
  refine dram_takeCmd fun t c => ?_
  dsimp only
  split <;> rfl

@[simp] theorem dram_dropWrites (s : State) (vf : Nat) : (s.dropWrites vf).dram = s.dram := by simp [State.dropWrites]
@[simp] theorem dram_destroyKey (s : State) (vf : Nat) : (s.destroyKey vf).dram = s.dram := by simp [State.destroyKey]

@[simp] theorem dramIs_execKeyDestroy (s : State) : DramIs s.dram (execKeyDestroy s) := by
  refine dram_takeCmd fun t c => ?_
  split <;> simp [Did.state]

@[simp] theorem dram_failGraphs (s : State) (vf : Nat) : (s.failGraphs vf).dram = s.dram := by simp [State.failGraphs]
@[simp] theorem dram_endWork (s : State) (vf : Nat) : (s.endWork vf).dram = s.dram := by simp [State.endWork]

@[simp] theorem dram_wipeVf (s : State) (vf : Nat) : (s.wipeVf vf).dram = s.dram := by
  unfold State.wipeVf
  dsimp only
  rw [dram_foldl, dram_destroyKey, dram_foldl]
  · intro t i
    split <;> simp
  · exact fun _ _ => rfl

@[simp] theorem dramIs_execResetVf (s : State) : DramIs s.dram (execResetVf s) := by
  unfold execResetVf
  rw [dramIs_next]
  split
  · split <;> simp
  · exact dram_takeCmd fun _ _ => dram_endWork ..

@[simp] theorem dramIs_barWrite (s : State) (f : Fn → Nat → Fn) : DramIs s.dram (s.barWrite f) := by simp [State.barWrite]
@[simp] theorem dramIs_execRegisterWrite (s : State) : DramIs s.dram (execRegisterWrite s) := by simp [execRegisterWrite]
@[simp] theorem dram_barRead (s : State) (fn off : Nat) : (s.barRead fn off).dram = s.dram := by simp [State.barRead]

@[simp] theorem dram_portRequest (s : State) (master vf : Nat) (kind : ReqKind) (line : Nat) : (s.portRequest master vf kind line).dram = s.dram := by
  simp [State.portRequest]

@[simp] theorem dram_input (s : State) (x : Input) : (s.input x).dram = s.dram := by
  simp only [State.input]; split <;> simp

@[simp] theorem dramIs_execPerfselWrite (s : State) : DramIs s.dram (execPerfselWrite s) := by simp [execPerfselWrite]
@[simp] theorem dramIs_execPlodorBreakpointArm (s : State) : DramIs s.dram (execPlodorBreakpointArm s) := by rfl
@[simp] theorem dram_loadFails (s : State) (err : Nat) : (s.loadFails err).dram = s.dram := by rfl
@[simp] theorem dram_startImage (s : State) : s.startImage.dram = s.dram := by simp [State.startImage]
@[simp] theorem dram_applyBlob (s : State) : s.applyBlob.dram = s.dram := by simp [State.applyBlob]
@[simp] theorem dram_loadChunk (s : State) (obj : Nat) : (s.loadChunk obj).dram = s.dram := by simp [State.loadChunk]
@[simp] theorem dram_closeLoad (s : State) : s.closeLoad.dram = s.dram := by simp [State.closeLoad]
@[simp] theorem dramIs_execLdctlFirmware (s : State) : DramIs s.dram (execLdctlFirmware s) := by simp [execLdctlFirmware]
@[simp] theorem dramIs_execLdctlBlob (s : State) : DramIs s.dram (execLdctlBlob s) := by simp [execLdctlBlob]
@[simp] theorem dramIs_execModuleReset (s : State) : DramIs s.dram (execModuleReset s) := by rfl
@[simp] theorem dramIs_execGovernorInterval (s : State) : DramIs s.dram (execGovernorInterval s) := by simp [execGovernorInterval]
@[simp] theorem dramIs_execThermalTrip (s : State) : DramIs s.dram (execThermalTrip s) := by simp [execThermalTrip]
@[simp] theorem dramIs_execLinkLevelReplay (s : State) : DramIs s.dram (execLinkLevelReplay s) := by rfl

-- the nominal clock (log entry 3) ---------------------------------------------------------------------------------------------------------

@[simp] theorem dram_clockCounts (s : State) (core : Nat) : (s.clockCounts core).dram = s.dram := by
  unfold State.clockCounts
  dsimp only
  rw [dram_foldl, dram_count]
  exact fun _ _ => rfl

@[simp] theorem dram_wordCounts (s : State) (core quad port : Nat) (header : Bool) : (s.wordCounts core quad port header).dram = s.dram := by
  simp [State.wordCounts]

@[simp] theorem dram_takenCounts (s : State) : s.takenCounts.dram = s.dram := by simp [State.takenCounts]
@[simp] theorem dram_formAll (s : State) : s.formAll.dram = s.dram := by simp [State.formAll]
@[simp] theorem dram_hangReports (s : State) : s.hangReports.dram = s.dram := by simp [State.hangReports]

@[simp] theorem dram_fillRelays (s : State) : s.fillRelays.dram = s.dram := by
  refine dram_foldl _ _ _ fun t e => ?_
  split
  · split
    · dsimp only
      split <;> rfl
    · rfl
  · rfl

@[simp] theorem dram_leaveCores (s : State) : s.leaveCores.dram = s.dram := by simp [State.leaveCores]

@[simp] theorem dram_closeEngines (s : State) : s.closeEngines.dram = s.dram := by
  refine (dram_foldl _ _ _ fun t e => dram_after dramIs_execLoadReturn).trans (dram_foldl _ _ _ fun t c => ?_)
  split
  · exact dram_after fun u => dramIs_mopStep ..
  · rfl

theorem wf_closeClock {s : State} (form : Memory.wf s.dram = true) : Memory.wf s.closeClock.dram = true := by
  unfold State.closeClock
  dsimp only
  rw [dram_foldl _ _ _ fun _ _ => dram_clockCounts .., dram_fillRelays]
  split
  · exact wf_closeDram (by simpa using form)
  · simpa using form

theorem wf_nextClock {s : State} (form : Memory.wf s.dram = true) : Memory.wf s.nextClock.dram = true := by
  unfold State.nextClock
  simpa using wf_closeClock form

-- every instruction and event -------------------------------------------------------------------------------------------------------------

/-- Every instruction and event but three leaves DRAM as it is: the others are a bank's write-back (15 R227) and the two by which a channel performs a
line's write (15 R238). -/
theorem dramIs_exec {s : State} {i : Instr} (column : i ≠ .microWb) (admission : i ≠ .normalRequestAdmission) (command : i ≠ .normalCommandIssue) :
    DramIs s.dram (exec i s) := by
  cases i
  case add | sub | mul | mulhiI | mulhiN | minI | minN | maxI | maxN | shl | shrN | shrI | addsI | addsN | subsI | subsN | and | or | xor | andn
      | bfxN32 | bfxI32 | lea | fmin | fmax => simp only [exec]; exact dramIs_opVV ..
  case popcW | clzW | brevW | mov | fabs | fneg => simp only [exec]; exact dramIs_opV ..
  case bfiW => simp only [exec]; exact dramIs_opVVV ..
  case sel | mvs | mfv | shflIdx | shflUp | shflDown | shflXor | redaddI32 | redaddF32 | redminI32 | redmaxI32 | redminF32 | redmaxF32 | bcast
      | moviI32 => simp only [exec]; exact dramIs_checked _ _ _ (by simp)
  case cmpI32 | cmpN32 | cmpI64 | cmpN64 | cmpF32 | cmpF16 | cmpBf16 => simp only [exec]; exact dramIs_cmpWith ..
  case pand | por | pxor | pandn | pmov | pnot => simp only [exec]; exact dramIs_predWith ..
  case fadd | fsub | fmul | fma => simp only [exec]; exact dramIs_opF ..
  case frcpF32 | frsqF32 | fex2F32 | flg2F32 => simp only [exec]; exact dramIs_opEst ..
  case cvtF32F16 | cvtF32Bf16 | cvtF32I32 | cvtF32N32 | cvtI32F32 | cvtN32F32 | cvtF32E2m3 | cvtF32E3m2 | cvtF32E2m1 | cvtF32S8pn | cvtF32N8pn =>
    simp only [exec]; exact dramIs_opCvtWide ..
  case cvtF16F32 | cvtBf16F32 | cvtE2m3F32 | cvtE3m2F32 | cvtE2m1F32 | cvtS8pnF32 | cvtN8pnF32 => simp only [exec]; exact dramIs_opCvtNarrow ..
  case voteBallot | voteAny | voteAll | voteUni => simp only [exec]; exact dram_uniform ..
  case extN8 | extN16 | extW | insN8 | insN16 | insW | addiI32 | andi | ori | xori | shliW | shriN32 | shriI32 =>
    simp only [exec]; exact dramIs_opI ..
  case sadd | ssub | smul | smulhiI | smulhiN | sand | sor | sxor | sshl | sshrN | sshrI | sminI | smaxI | sminN | smaxN | smov | ssltI | ssltN
      | sseq | saddi | slui => simp only [exec]; exact dramIs_opS ..
  case ldN8 | ldI8 | ldN16 | ldI16 | ldW | ldD | ldQ => simp only [exec]; exact dramIs_load ..
  case stN8 | stN16 | stW | stD | stQ | stnib | stsix => simp only [exec]; exact dramIs_store ..
  case ldacqW | ldacqD | ldacqQ => simp only [exec]; exact dramIs_loadAcq ..
  case strelW | strelD | strelQ => simp only [exec]; exact dramIs_storeRel ..
  case atomAddI32 | atomAddI64 | atomAddF32 | atomMinI32 | atomMinN32 | atomMaxI32 | atomMaxN32 | atomAndW | atomOrW | atomXorW | atomXchgW
      | atomXchgD | atomCasW | atomCasD => simp only [exec]; exact dramIs_atom ..
  case mredAddI32 | mredAddI64 | mredAddF32 | mredMinI32 | mredMinN32 | mredMaxI32 | mredMaxN32 | mredAndW | mredOrW | mredXorW =>
    simp only [exec]; exact dramIs_mred ..
  case cpin | cpout => simp only [exec]; exact dramIs_copy ..
  case donate | accept => simp only [exec]; exact dramIs_donation ..
  case lunlock | lunlockW | lunlockD | lunlockQ => simp only [exec]; exact dramIs_lunlock ..
  case pumpMove | aluadd | alusub | aluand | aluor | aluxor | alushl | alushr | alusra | alumul | cmpeq | cmplt | cmpltu =>
    simp only [exec]; exact dramIs_portMove ..
  case sfufma | sfucvt => simp only [exec]; exact dramIs_sfuMove ..
  case sluice | pumpDone | jump | jrel | drain => simp only [exec]; exact dramIs_runMove ..
  case cqtailDoorbell | cqlgdWrite | fqlgdWrite | rqlgdWrite | fqrdWrite => simp only [exec]; exact dramIs_barWrite ..
  case microWb => exact absurd rfl column
  case normalRequestAdmission => exact absurd rfl admission
  case normalCommandIssue => exact absurd rfl command
  case clauseHeader | lduD | stuD | fence | cclean | cflush | pfetch | cpwait | bankmode | tresv | tfree | tset | tsetRows | ksetArm | ksetSign
      | ksetOff | wload | wswap | mstream | mbatch | aread | astore | azero | br | bra | call | ret | jmpi | calli | join | leave | waitm | bar
      | exit | nop | yield | brk | qinit | qpush | qpop | sarr | swt | tspawn | ttake | tsteal | llock | ltry | lstat | lstatList | unfold
      | spawnf | fret | cres | secopen | secabort | secstat | pumpgo | pumpwait | mvsplit | boardShadow | boardTile | unboard | boardstat | mfsr
      | mtsr | trap | tret | fencei | ldg | lds | stg | sts | bkc | microAct | microMac | microPre | microClr | bankSuspension | bankResumption
      | pumpLaunchStart | pumpLimitTimeout | pumpLaunchEnd | sectionStart | sliceClaim | sliceSnapshot | sluiceOutcome | segmentCommit
      | segmentReplay | spillRequest | sliceRead | sliceWrite | sliceAtomic | invalidation | loadReturn | writeAcknowledgement | l1Eviction
      | walkCompletion | faultRecordDeferred | copyPieceDelivery | bankmodeDrainComplete | gateAccept | wloadFill | wswapExecute | mstreamExecute
      | mbatchExecute | areadExecute | astoreExecute | azeroExecute | donationComplete | waitmTimeout | barrierTimeout | hangReport
      | granuleReturn | teamRelease | dispatchDecision | teamStop | teamSave | teamRestore | slotIssue | boardArm | slotPassage
      | deliveryCrcCheck | corruptedTileFault | lockRequest | lockGrant | unlockStep | lockTimeout | routineDispatch | levelEnd | submitGraph
      | resume | preempt | preemptHold | preemptRelease | polderSetEntry | polderSetAccess | polderSetTroot | polderSetRows | ringLoad
      | keyInstall | keyDestroy | resetVf | registerWrite | ldctlFirmware | ldctlBlob | perfselWrite | moduleReset | governorInterval
      | thermalTrip | outcomeAtWindowSlice | meshOperationAtQueueArbiter | unfoldRelease | linkLevelReplay | plodorBreakpointArm => simp [exec]

theorem inForm_exec {s : State} {i : Instr} (form : Memory.wf s.dram = true) : InForm (exec i s) := by
  by_cases column : i = .microWb
  · subst column
    exact inForm_execMicroWb form
  · by_cases admission : i = .normalRequestAdmission
    · subst admission
      exact inForm_execNormalRequestAdmission form
    · by_cases command : i = .normalCommandIssue
      · subst command
        exact inForm_execNormalCommandIssue form
      · exact inForm_of_dramIs (dramIs_exec column admission command) form

-- the agenda's actions (log entry 1) ------------------------------------------------------------------------------------------------------

theorem wf_issued {s t : State} {port tid coh lane : Nat} (form : Memory.wf s.dram = true) (kept : Memory.wf t.dram = true) :
    Memory.wf (s.issued t port tid coh lane).dram = true := by
  unfold State.issued
  dsimp only
  split
  · exact form
  · split
    · simpa using kept
    · rw [dram_modCore, dram_wordCounts]
      split <;> simpa using kept

theorem inForm_waitOut {s : State} {o : Out} (form : Memory.wf s.dram = true) (kept : InForm o) : InForm (s.waitOut o) := by
  cases o with
  | next t =>
    simp only [State.waitOut, inForm_next, State.orWait]
    split
    · exact kept
    · rwa [dram_foldl _ _ _ fun _ _ => dram_wantFor ..]
  | fault f => trivial
  | refused r => trivial

theorem inForm_issuedOut {s : State} {o : Out} {port tid coh lane : Nat} (form : Memory.wf s.dram = true) (kept : InForm o) :
    InForm (s.issuedOut o port tid coh lane) := by
  cases o with
  | next t => exact wf_issued form kept
  | fault f => trivial
  | refused r => trivial

theorem inForm_issueWord {s : State} {port tid coh lane : Nat} (form : Memory.wf s.dram = true) : InForm (s.issueWord port tid coh lane) := by
  unfold State.issueWord
  split
  next i t eq =>
    have issued : Memory.wf t.dram = true := (congrArg Memory.wf (dram_of_run eq)).trans form
    have waited := inForm_waitOut issued (inForm_exec (i := i) issued)
    split
    next u eq =>
      rw [eq] at waited
      split
      · exact inForm_issuedOut form (inForm_exec waited)
      · exact wf_issued form waited
    next => exact waited
  next t eq =>
    have issued : Memory.wf t.dram = true := (congrArg Memory.wf (dram_of_done eq)).trans form
    exact wf_issued form (inForm_waitOut (o := .next t) form issued)

theorem inForm_takeNext {s : State} (form : Memory.wf s.dram = true) : InForm s.takeNext := by
  unfold State.takeNext
  split
  · exact form
  · split
    · exact inForm_exec form
    · simpa using form

theorem inForm_bundleStep {s : State} {pc : Nat} (form : Memory.wf s.dram = true) : InForm (s.bundleStep pc) := by
  have same := dram_nextMove s pc
  unfold State.bundleStep
  split
  next i t eq => rw [eq] at same; exact inForm_exec ((congrArg Memory.wf same).trans form)
  next t eq => rw [eq] at same; exact (congrArg Memory.wf same).trans form

theorem inForm_bankStep {s : State} {gb : Nat} (form : Memory.wf s.dram = true) : InForm (s.bankStep gb) := by
  unfold State.bankStep
  split
  · exact inForm_exec form
  · exact form

theorem inForm_act {s : State} {a : Action} (form : Memory.wf s.dram = true) : InForm (s.act a) := by
  unfold State.act
  split
  · split
    · trivial
    · refine inForm_issueWord ?_
      split
      · exact wf_nextClock form
      · exact form
  · simpa using form
  · split
    · trivial
    · exact inForm_bundleStep form
  · exact inForm_bankStep form
  · exact inForm_takeNext form
  · split
    · trivial
    · exact inForm_issuedOut form (inForm_exec form)
  · split
    · exact inForm_exec form
    · trivial
  · simpa using form
  · exact wf_nextClock form

theorem inForm_perform {s : State} {a : Action} (form : Memory.wf s.dram = true) : InForm (s.perform a) := by
  have waited := inForm_waitOut form (inForm_act (a := a) form)
  unfold State.perform
  split
  next t eq => rw [eq] at waited; simpa using waited
  next => exact waited

theorem inForm_firstMove {s : State} {as : List Action} (form : Memory.wf s.dram = true) : InForm (s.firstMove as) := by
  induction as with
  | nil => exact wf_nextClock form
  | cons a as ih =>
    have kept := inForm_perform (a := a) form
    unfold State.firstMove
    split
    next t eq =>
      split
      · exact ih
      · rw [eq] at kept; exact kept
    next => exact ih

-- the step --------------------------------------------------------------------------------------------------------------------------------

theorem inForm_step {s : State} (form : Memory.wf s.dram = true) : InForm (step s) := by
  unfold step
  split
  · split
    · exact inForm_perform form
    · exact inForm_perform form
  · exact inForm_firstMove form

end Sys2Proof.Machine

open Sys2Proof Sys2Proof.Machine Sys2Proof.Claims

/-- Settles O58: every step is a performed action or the next clock, and each keeps the form (`inForm_step`). -/
theorem dramKeepsItsForm : Obligations.DramKeepsItsForm := by
  unfold Obligations.DramKeepsItsForm
  intro s t form ran
  have kept := inForm_step form
  rwa [ran] at kept

/-- Settles O59: every memory of the reset state lists nothing. -/
theorem resetMemoryInForm : Obligations.ResetMemoryInForm := by
  unfold Obligations.ResetMemoryInForm
  decide
end

section
/-!
SUPPORT. What a slice and a core hold after bytes are written (10 R172, R173, R178; 11 R190), and the statement about it.
-/
namespace Sys2Proof.Machine

-- entries of a table by their key -----------------------------------------------------------------------------------------------------------

theorem find?_tdel_ne {α : Type} (t : Tab α) {i j : Nat} (ne : j ≠ i) :
    (tdel i t).find? (fun e => e.1 = j) = t.find? (fun e => e.1 = j) := by
  induction t with
  | nil => rfl
  | cons e t ih =>
    obtain ⟨k, v⟩ := e
    by_cases gone : k = i
    · have other : k ≠ j := fun same => ne (same ▸ gone)
      simp [tdel, gone, ih, Ne.symm ne]
    · by_cases here : k = j <;> simp [tdel, gone, here, ih, ne]

theorem find?_tins_ne {α : Type} (t : Tab α) {i j : Nat} (v : α) (ne : j ≠ i) :
    (tins i v t).find? (fun e => e.1 = j) = t.find? (fun e => e.1 = j) := by
  induction t with
  | nil => simp [tins, Ne.symm ne]
  | cons e t ih =>
    obtain ⟨k, w⟩ := e
    by_cases before : i < k
    · simp [tins, before, List.find?_cons, Ne.symm ne]
    · simp [tins, before, List.find?_cons, ih]

theorem find?_tins_self {α : Type} (t : Tab α) (i : Nat) (v : α) (absent : ∀ e ∈ t, e.1 ≠ i) :
    (tins i v t).find? (fun e => e.1 = i) = some (i, v) := by
  induction t with
  | nil => simp [tins]
  | cons e t ih =>
    obtain ⟨k, w⟩ := e
    have other : k ≠ i := absent _ (List.mem_cons_self ..)
    by_cases before : i < k
    · simp [tins, before]
    · simp [tins, before, other, ih fun e mem => absent e (List.mem_cons_of_mem _ mem)]

-- a slice's lines (10 R178) -----------------------------------------------------------------------------------------------------------------

theorem valid_of_sline {s : State} {pa : Nat} {l : SLine} (held : s.sline pa = some l) : l.valid = true := by
  unfold State.sline at held
  split at held
  · split at held
    next valid => cases held; exact valid
    next => cases held
  · cases held

theorem sline_setSline_self {s : State} {pa : Nat} {l : SLine} (valid : l.valid = true) : (s.setSline pa l).sline pa = some l := by
  have here : ((s.setSline pa l).slice (s.homeSlice pa)).lines = tins pa l (tdel pa (s.slice (s.homeSlice pa)).lines) := by
    simp [State.setSline]
  rw [State.sline, show (s.setSline pa l).homeSlice pa = s.homeSlice pa from rfl, here, find?_tins_self _ _ _ (ne_of_mem_tdel pa _)]
  exact if_pos valid

/-- Only the lines of a slice decide which lines it holds. -/
theorem sline_congr {s t : State} {q : Nat} (home : t.homeSlice q = s.homeSlice q)
    (lines : (t.slice (s.homeSlice q)).lines.find? (fun e => e.1 = q) = (s.slice (s.homeSlice q)).lines.find? (fun e => e.1 = q)) :
    t.sline q = s.sline q := by
  unfold State.sline
  rw [home, lines]

theorem sline_setSline_ne {s : State} {pa q : Nat} {l : SLine} (ne : q ≠ pa) : (s.setSline pa l).sline q = s.sline q := by
  refine sline_congr rfl ?_
  rw [State.setSline, State.slice_setSlice]
  split
  next same => rw [find?_tins_ne _ _ ne, find?_tdel_ne _ ne, same]
  next => rfl

/-- An update of a slice that keeps its lines keeps every line held. -/
theorem sline_setSlice {s : State} {n q : Nat} {x : Slice} (lines : x.lines = (s.slice n).lines) : (s.setSlice n x).sline q = s.sline q := by
  refine sline_congr rfl ?_
  rw [State.slice_setSlice]
  split
  next same => rw [lines, same]
  next => rfl

theorem sline_foldWrite (s : State) (pa but q : Nat) : (s.foldWrite pa but).sline q = s.sline q := sline_setSlice rfl

-- bytes of a line under their masks (11 R190) -----------------------------------------------------------------------------------------------

theorem lineBytes_one (d : BitVec 1024) (i : Nat) : lineBytes d i 1 = [d.extractLsb' (8 * i) 8] := by
  simp only [lineBytes, bytesOf, leBytes, BitVec.extractLsb', BitVec.toNat_ushiftRight]

theorem getLsbD_lineSet (d : BitVec 1024) (o : Nat) (data mask : Byte) (k : Nat) :
    (lineSet d o data mask).getLsbD k =
      if 8 * o ≤ k ∧ mask.getLsbD (k - 8 * o) ∧ k < 1024 then data.getLsbD (k - 8 * o) else d.getLsbD k := by
  unfold lineSet
  simp only [BitVec.getLsbD_or, BitVec.getLsbD_and, BitVec.getLsbD_not, BitVec.getLsbD_shiftLeft, BitVec.getLsbD_setWidth]
  by_cases below : k < 1024
  · by_cases before : k < 8 * o
    · simp [below, before, Nat.not_le.mpr before]
    · have inside : k - 8 * o < 1024 := by omega
      cases masked : mask.getLsbD (k - 8 * o) <;> simp [below, before, inside, Nat.not_lt.mp before]
  · simp [below, BitVec.getLsbD_of_ge d k (Nat.not_lt.mp below)]

/-- A masked byte leaves the line's other bytes. -/
theorem lineBytes_lineSet_ne {d : BitVec 1024} {o i : Nat} {data mask : Byte} (ne : o ≠ i) :
    lineBytes (lineSet d o data mask) i 1 = lineBytes d i 1 := by
  rw [lineBytes_one, lineBytes_one]
  congr 1
  refine BitVec.eq_of_getLsbD_eq fun k bit => ?_
  rw [BitVec.getLsbD_extractLsb', BitVec.getLsbD_extractLsb', getLsbD_lineSet]
  congr 1
  refine if_neg fun ⟨from_, masked, _⟩ => ?_
  have within := BitVec.lt_of_getLsbD masked
  omega

/-- A byte under a full mask stands in its line. -/
theorem lineBytes_lineSet_self {d : BitVec 1024} {o : Nat} {data : Byte} (inside : o < 128) :
    lineBytes (lineSet d o data 255) o 1 = [data] := by
  rw [lineBytes_one]
  congr 1
  refine BitVec.eq_of_getLsbD_eq fun k bit => ?_
  have all : (255 : Byte).getLsbD k = true := by
    interval_cases k <;> rfl
  rw [BitVec.getLsbD_extractLsb', getLsbD_lineSet, Nat.add_sub_cancel_left, if_pos ⟨Nat.le_add_right .., all, by omega⟩]
  simp [bit]

theorem lineBytes_applyBytes_out {i : Nat} (ws : List WByte) (d : BitVec 1024) (out : ∀ w ∈ ws, w.addr % 128 ≠ i) :
    lineBytes (applyBytes d ws) i 1 = lineBytes d i 1 :=
  foldl_keeps (fun e : BitVec 1024 => lineBytes e i 1 = lineBytes d i 1) _ ws d rfl fun _ w mem same =>
    (lineBytes_lineSet_ne (out w mem)).trans same

-- a write that a slice accepts into a line it holds (10 R178) -----------------------------------------------------------------------------

theorem fill_of_held {s : State} {pa cls vf master : Nat} {whole : Bool} {l : SLine} (held : s.sline pa = some l) :
    s.fill pa cls whole vf master = s := by
  unfold State.fill
  rw [held]

/-- The line's new entry; the rest of the state is the old one but for the slice's tag, its sections' signatures and the line's wrong bits. -/
theorem accept_of_held {s : State} {vf pa master keep but cls : Nat} {ws : List WByte} {l : SLine} (held : s.sline pa = some l) :
    ∃ (t : State) (use : Nat), (∀ q, t.sline q = s.sline q) ∧ t.dram = s.dram ∧ t.cores = s.cores ∧
      (s.accept vf pa master keep but cls ws).1 = t.setSline pa { l with data := applyBytes l.data ws, dirty := true, kid := vf, use := use } := by
  let n := s.homeSlice pa
  let u := (s.setSlice n { s.slice n with tag := (s.slice n).tag + 1 }).foldWrite pa but
  have lines (q : Nat) : u.sline q = s.sline q := (sline_foldWrite ..).trans (sline_setSlice rfl)
  let t := if wholeLine ws then u.setUpset 1 n pa 0 else u
  refine ⟨t, topUse (t.inSet pa) + 1, fun q => ?_, ?_, ?_, ?_⟩
  · rw [← lines q]; show State.sline (ite ..) q = _; split <;> rfl
  · show (ite .. : State).dram = _; split <;> rfl
  · show (ite .. : State).cores = _; split <;> rfl
  · unfold State.accept
    dsimp only
    rw [fill_of_held held]
    have here : u.sline pa = some l := (lines pa).trans held
    split
    next m eq =>
      cases here.symm.trans eq
      simp [held, t]
      rfl
    next eq => cases here.symm.trans eq

-- a write of a team's run (10 R173, R174) ---------------------------------------------------------------------------------------------------

/-- Where byte i of a run stands in its core's memory: the operand buffer (space 3), or the SRAM. -/
def Team.runKey (t : Team) (space i : Nat) : Nat := if space = 3 then t.opOff + i else t.scrKey i

/-- The memory of a core that holds the runs of a space. -/
def Core.runMem (c : Core) (space : Nat) : List Host.Cell := if space = 3 then c.opbuf else c.sram

theorem runRead_one (s : State) (t : Team) (space i : Nat) :
    s.runRead t space i 1 = [tget 0 ((s.core t.core).runMem space) (t.runKey space i)] := by
  by_cases operand : space = 3 <;> simp [State.runRead, Core.runMem, Team.runKey, operand, List.range_succ]

/-- The bytes of a run's write, one after another, in the memory that holds the run. -/
def Team.writeRun (t : Team) (space : Nat) (m : List Host.Cell) (ws : List WByte) : List Host.Cell :=
  ws.foldl (fun m w => tmod 0 m (t.runKey space w.addr) (fun b => mergeByte b w.data w.mask)) m

theorem runMem_runWrite (s : State) (t : Team) (space : Nat) (ws : List WByte) :
    ((s.runWrite t space ws).core t.core).runMem space = t.writeRun space ((s.core t.core).runMem space) ws := by
  rw [State.runWrite, State.modCore, State.core_setCore_self]
  show (ws.foldl _ (s.core t.core)).runMem space = _
  generalize s.core t.core = c
  unfold Team.writeRun
  induction ws generalizing c with
  | nil => rfl
  | cons w ws ih =>
    rw [List.foldl_cons, List.foldl_cons, ih]
    congr 1
    by_cases operand : space = 3 <;> simp [Core.runMem, Team.runKey, operand]

theorem tget_writeRun_out {t : Team} {space k : Nat} {m : List Host.Cell} {ws : List WByte} (out : ∀ w ∈ ws, t.runKey space w.addr ≠ k) :
    tget 0 (t.writeRun space m ws) k = tget 0 m k :=
  foldl_keeps (fun e : List Host.Cell => tget 0 e k = tget 0 m k) _ ws m rfl fun _ w mem same => by
    rw [tget_tmod, if_neg (out w mem).symm]; exact same

theorem mergeByte_full (old data : Byte) : mergeByte old data 255 = data := by
  unfold mergeByte
  rw [show (255 : Byte) = BitVec.allOnes 8 from rfl, BitVec.not_allOnes, BitVec.and_zero, BitVec.zero_or, BitVec.and_allOnes]

end Sys2Proof.Machine

open Sys2Proof Sys2Proof.Machine Sys2Proof.Claims

/-- Settles O37: the slice's entry is the old one with the bytes applied (`accept_of_held`), the run's memory is the old one with the bytes
merged at their keys (`runMem_runWrite`). -/
theorem storesChangeTheirBytesOnly : Obligations.StoresChangeTheirBytesOnly := by
  unfold Obligations.StoresChangeTheirBytesOnly
  constructor
  · intro s vf pa master keep but cls ws l held
    obtain ⟨t, use, lines, dram, cores, accepted⟩ :=
      accept_of_held (vf := vf) (master := master) (keep := keep) (but := but) (cls := cls) (ws := ws) held
    have valid := valid_of_sline held
    dsimp only
    rw [accepted]
    refine ⟨⟨_, sline_setSline_self valid, rfl, rfl, fun i _ out => lineBytes_applyBytes_out ws _ out, ?_⟩,
      fun q ne => (sline_setSline_ne ne).trans (lines q), dram, fun n => congrArg (fun m => tget ({} : Core) m n) cores⟩
    rintro w rfl full
    show lineBytes (lineSet l.data (w.addr % 128) w.data w.mask) (w.addr % 128) 1 = [w.data]
    rw [full]
    exact lineBytes_lineSet_self (Nat.mod_lt _ (by decide))
  · intro s t space a ws
    refine ⟨fun out => ?_, ?_, fun n other => ?_, rfl⟩
    · rw [runRead_one, runRead_one, runMem_runWrite, tget_writeRun_out (k := t.runKey space a) out]
    · rintro w rfl full
      rw [runRead_one, runMem_runWrite, Team.writeRun, List.foldl_cons, List.foldl_nil, tget_tmod, if_pos rfl, full, mergeByte_full]
    · rw [State.runWrite, State.modCore, State.core_setCore, if_neg other]
      rfl
end

section
/-!
SUPPORT. Requests at a home slice (10 R178; 11 R195, R196) and at a queue's arbiter (19 R294, R295), and the statement about them.
-/
namespace Sys2Proof.Machine
open Sys2Proof.Claims

-- reads at a slice (10 R178; 13 R208) -------------------------------------------------------------------------------------------------------

section Slice
variable {s t : State} {r : Req}

/-- A read or a prefetch that its slice may serve is served when its line is there, and waits while it is not. -/
theorem exec_sliceRead_of_arrives (arrives : Arrives s (s.arg 0) t r 0 false)
    (kind : (∃ p c, r.kind = .read p c) ∨ (∃ p c, r.kind = .fill p c)) : exec .sliceRead s = .next (
      if t.heldWindow r.line 128 then s.holdReq t (s.arg 0) r
      else if let some x := t.missRefusal r.vf r.line then (t.refuseAt r.vf r.master 0 x).refuseRead (s.arg 0) r
      else if (t.sline r.line).isSome then (t.touch r.line).serveRead (s.arg 0) r
      else if t.isHere r.line then (t.fill r.line r.cls).serveRead (s.arg 0) r
      else t.want r.vf r.line r.master (s.arg 0)) := by
  obtain ⟨comes, slice, allowed⟩ := arrives
  refine next_congr ((taking_of_comesIn _ comes).trans ?_)
  rcases kind with ⟨p, c, kind⟩ | ⟨p, c, kind⟩ <;>
    simp only [kind, slice, allowed, Bool.not_true, Bool.false_eq_true, if_false] <;> rfl

theorem exec_sliceRead_of_lstat {lanes : Lanes} (arrives : Arrives s (s.arg 0) t r 0 false) (kind : r.kind = .lstat lanes) :
    exec .sliceRead s = .next (t.serveStat (s.arg 0) r lanes) := by
  obtain ⟨comes, slice, allowed⟩ := arrives
  refine next_congr ((taking_of_comesIn _ comes).trans ?_)
  simp only [kind, slice, allowed, Bool.not_true, Bool.false_eq_true, if_false]

theorem exec_sliceRead_of_turnedAway {u : State} (comes : ComesIn s (s.arg 0) t r) (slice : r.slice = true) (away : t.turnedAway r 0 false = some u)
    (kind : (∃ p c, r.kind = .read p c) ∨ (∃ p c, r.kind = .fill p c) ∨ (∃ l, r.kind = .lstat l)) :
    exec .sliceRead s = .next ((u.pumpRefused r.op).refuseRead (s.arg 0) r) := by
  refine next_congr ((taking_of_comesIn _ comes).trans ?_)
  rcases kind with ⟨p, c, kind⟩ | ⟨p, c, kind⟩ | ⟨l, kind⟩ <;>
    simp only [kind, slice, away, Bool.not_true, Bool.false_eq_true, if_false]

theorem sline_of_away {pa : Nat} (away : t.isHere pa = false) : t.sline pa = none := by
  simpa using (Bool.or_eq_false_iff.mp away).1

-- writes and atomics at a slice (10 R178; 11 R195, R196) ------------------------------------------------------------------------------------

/-- What a slice makes of a write or an atomic that it takes up is what `takeWrite` says. -/
theorem takenAtSlice_of_takeWrite {i : Instr} {right : Nat} {k : State → State}
    (taken : ComesIn s (s.arg 0) t r → r.slice = true → exec i s = .next (s.takeWrite t (s.arg 0) r right k)) :
    TakenAtSlice i s (s.arg 0) t r right k := by
  refine ⟨fun arrives => ?_, fun u comes slice away => (taken comes slice).trans (next_congr ?_)⟩
  · obtain ⟨comes, slice, allowed⟩ := arrives
    have step := taken comes slice
    simp only [State.takeWrite, allowed] at step
    refine ⟨fun held => step.trans (next_congr (if_pos held)), fun window => ?_⟩
    replace step := step.trans (next_congr (if_neg (ne_true_of_eq_false window)))
    refine ⟨fun locked => step.trans (next_congr (if_pos locked)), fun unlocked => ?_⟩
    replace step := step.trans (next_congr (if_neg (ne_true_of_eq_false unlocked)))
    refine ⟨fun direct => step.trans (next_congr (if_pos (by simpa using direct))), fun plain way => ?_⟩
    replace step := step.trans (next_congr (if_neg (by simpa using ⟨plain, fun one => by simpa using fun none_ => way ⟨one, none_⟩⟩)))
    refine ⟨fun x miss => step.trans (next_congr (by rw [miss])), fun may => ?_⟩
    rw [may] at step
    exact ⟨fun here => step.trans (next_congr (if_pos here)), fun away => step.trans (next_congr (if_neg (ne_true_of_eq_false away)))⟩
  · simp only [State.takeWrite, away]

theorem exec_sliceWrite_of_comesIn {ws : List WByte} (kind : r.kind = .write ws) (comes : ComesIn s (s.arg 0) t r) (slice : r.slice = true) :
    exec .sliceWrite s = .next (s.takeWrite t (s.arg 0) r 1 (fun u => u.doWrite r ws)) := by
  refine next_congr ((taking_of_comesIn _ comes).trans ?_)
  simp only [kind, slice, if_true]

theorem exec_sliceAtomic_of_comesIn {op n addr : Nat} {ls : List ALane} (kind : r.kind = .atomic op n addr ls)
    (comes : ComesIn s (s.arg 0) t r) (slice : r.slice = true) :
    exec .sliceAtomic s = .next (s.takeWrite t (s.arg 0) r 2 (fun u => u.doAtomic r op n addr ls)) := by
  refine next_congr ((taking_of_comesIn _ comes).trans ?_)
  simp only [kind, slice, if_true]

end Slice

-- requests at a queue's arbiter (19 R294, R295; 10 R173) -----------------------------------------------------------------------------------

section Mesh
variable {s u : State} {id : Nat} {r : Req}

theorem exec_meshOperation_of_dropped {x : Nat} (comes : ComesIn s (s.arg 0) u r) (mesh : r.slice = false) (dropped : u.wayOf r = .drops x) :
    exec .meshOperationAtQueueArbiter s = .next (u.meshDropped (s.arg 0) r x) := by
  refine next_congr ((taking_of_comesIn _ comes).trans ?_)
  simp only [mesh, dropped, Bool.false_eq_true, if_false]

theorem exec_meshOperation_of_reached (comes : ComesIn s (s.arg 0) u r) (mesh : r.slice = false) (reached : ∀ x, u.wayOf r ≠ .drops x) :
    exec .meshOperationAtQueueArbiter s = .next (u.meshAccess (s.arg 0) r) := by
  refine next_congr ((taking_of_comesIn _ comes).trans ?_)
  simp only [mesh, Bool.false_eq_true, if_false]

/-- With no wrong bit anywhere a run's reader meets none. -/
theorem senseRun_of_clean {t : Team} {space i n : Nat} (clean : u.upsets = []) : u.senseRun t space i n = (u, none) := by
  simp [State.senseRun, clean]

theorem meshAccess_of_read {parts : List (Nat × Nat × Nat)} {c : Option Nat} (kind : r.kind = .read parts c)
    (here : (u.team r.page).placed r.line = true) (clean : u.upsets = []) :
    u.meshAccess id r =
      u.replyTo id r ((parts.map (fun p => place p.1 (u.runRead (u.team r.page) 2 p.2.1 p.2.2))).flatten) := by
  have sensed : parts.foldl (fun (s : State) p => (s.senseRun (u.team r.page) 2 p.2.1 p.2.2).1.spoil r.op (u.team r.page).vf
      (s.senseRun (u.team r.page) 2 p.2.1 p.2.2).2) u = u :=
    foldl_keeps (fun v => v = u) _ parts u rfl fun v p _ same => by
      subst same
      rw [senseRun_of_clean clean]; rfl
  simp only [State.meshAccess, kind, here, if_true, sensed]

theorem meshAccess_of_write {ws : List WByte} (kind : r.kind = .write ws) (here : (u.team r.page).placed r.line = true) :
    u.meshAccess id r = (u.runWrite (u.team r.page) 2 ws).replyTo id r [] := by
  simp only [State.meshAccess, kind, here, if_true]

theorem meshAccess_of_atomic {op n addr : Nat} {ls : List ALane} (kind : r.kind = .atomic op n addr ls)
    (here : (u.team r.page).placed r.line = true) (clean : u.upsets = []) :
    u.meshAccess id r =
      let x := atomRun op ls (BitVec.ofNat 64 (ofLeBytes (u.runRead (u.team r.page) 2 addr n))) none
      let w := match x.1 with
        | some y => u.runWrite (u.team r.page) 2 (wbytes addr (bytesOf n y))
        | none => u
      w.replyTo id r (if (w.op r.op).any (fun o => o.kind = 2) then atomPlaces n x.2 else []) := by
  simp only [State.meshAccess, kind, here, if_true, senseRun_of_clean clean, State.spoil] <;> rfl

theorem meshAccess_of_que {q : QueOp} {p : BitVec 64} (kind : r.kind = .que q p) (here : (u.team r.page).placed r.line = true)
    (live : (u.team r.tid).terminated = false) : u.meshAccess id r =
      let y := u.queStep r.tid r.lanes r.page p q
      y.1.sendBack id r (.answer q p y.2) := by
  simp only [State.meshAccess, State.queMesh, kind, here, live, Bool.and_self, Bool.false_eq_true, if_false, if_true]

theorem meshAccess_of_steal {lanes vs : List Nat} (kind : r.kind = .steal lanes vs) : u.meshAccess id r = u.stealStep id r lanes true vs := by
  simp only [State.meshAccess, kind]

theorem meshAccess_of_reply {res : List (Nat × Byte)} (kind : r.kind = .reply res) :
    u.meshAccess id r = (u.setReq id none).partDone r.op res r.lanes r.scope := by
  simp only [State.meshAccess, kind]

theorem meshAccess_of_answer {q : QueOp} {p : BitVec 64} {a : QueAns} (kind : r.kind = .answer q p a) (live : (u.team r.tid).terminated = false) :
    u.meshAccess id r = u.setReq id (some { r with held := true }) := by
  simp only [State.meshAccess, kind, live, Bool.false_eq_true, if_false]

end Mesh

end Sys2Proof.Machine

namespace Sys2Proof.Claims
open Sys2Proof.Machine

theorem slicesServeReads : SlicesServeReads := by
  intro s id t r
  dsimp only
  refine ⟨fun arrives kind => ?_, fun l arrives kind => exec_sliceRead_of_lstat (s := asked s [id]) arrives kind,
    fun u comes slice away kind => exec_sliceRead_of_turnedAway (s := asked s [id]) comes slice away kind⟩
  have step := exec_sliceRead_of_arrives (s := asked s [id]) arrives kind
  refine ⟨fun ⟨window, miss, there⟩ => ⟨fun held => step.trans (next_congr ?_), fun absent => step.trans (next_congr ?_)⟩,
    fun window => step.trans (next_congr (if_pos window)), fun window miss away => step.trans (next_congr ?_),
    fun x window miss => step.trans (next_congr ?_)⟩
  · simp only [window, miss, held, Bool.false_eq_true, if_false, if_true] <;> rfl
  · simp only [window, miss, absent, there, Option.isSome_none, Bool.false_eq_true, if_false, if_true] <;> rfl
  · simp only [window, miss, sline_of_away away, away, Option.isSome_none, Bool.false_eq_true, if_false] <;> rfl
  · simp only [window, miss, Bool.false_eq_true, if_false] <;> rfl

theorem slicesServeRequests : SlicesServeRequests := by
  intro s id op n addr t r ws ls
  exact ⟨fun kind => takenAtSlice_of_takeWrite (s := asked s [id]) (exec_sliceWrite_of_comesIn kind),
    fun kind => takenAtSlice_of_takeWrite (s := asked s [id]) (exec_sliceAtomic_of_comesIn kind)⟩

theorem meshOperationsArrive : MeshOperationsArrive := by
  intro s id op n addr u r
  dsimp only
  intro comes mesh
  refine ⟨fun x dropped => exec_meshOperation_of_dropped (s := asked s [id]) comes mesh dropped, fun reached => ?_⟩
  have step := exec_meshOperation_of_reached (s := asked s [id]) comes mesh reached
  refine ⟨fun here => ⟨fun parts c kind clean => ?_, fun ws kind => ?_, fun ls kind clean => ?_, fun q p kind live => ?_⟩,
    fun lanes vs kind => ?_, fun res kind => ?_, fun q p a kind live => ?_⟩
  · exact step.trans (next_congr (meshAccess_of_read kind here clean))
  · exact step.trans (next_congr (meshAccess_of_write kind here))
  · exact step.trans (next_congr (meshAccess_of_atomic kind here clean))
  · exact step.trans (next_congr (meshAccess_of_que kind here live))
  · exact step.trans (next_congr (meshAccess_of_steal kind))
  · exact step.trans (next_congr (meshAccess_of_reply kind))
  · exact step.trans (next_congr (meshAccess_of_answer kind live))

end Sys2Proof.Claims

open Sys2Proof Sys2Proof.Machine Sys2Proof.Claims

/-- Settles O36: a request is taken as it stands after its arrival (`taking_of_comesIn`), and each kind by its own branch. -/
theorem slicesAndArbitersServe : Obligations.SlicesAndArbitersServe := ⟨slicesServeReads, slicesServeRequests, meshOperationsArrive⟩
end

section
/-!
SUPPORT. Copies, acknowledgements and results (10 R175, R178, R179, R182, R184; 11 R186, R187), walks, records and copy pieces (09 R162; 11 R200 to
R205; 18 R266, R267), and the statement about them.
-/
namespace Sys2Proof.Machine
open Sys2Proof.Claims

section Packets
variable {s : State}

theorem exec_invalidation_of_free {i : Inv} (sent : tget none s.invs (s.arg 0) = some i) (next : s.isNext (s.arg 0) = true)
    (free : i.sharer < 128 ∨ s.usesLeaf (i.sharer - 128) i.line (s.arg 0) = false) :
    exec .invalidation s = .next ((s.dropCopy i.sharer i.line).unshare i.sharer i.line) := by
  have goes : ¬(128 ≤ i.sharer && s.usesLeaf (i.sharer - 128) i.line (s.arg 0)) = true := by
    rcases free with core | unused
    · simp [core]
    · simp [unused]
  refine next_congr ?_
  simp only [sent, next, Bool.not_true, Bool.false_eq_true, if_false]
  exact if_neg goes

theorem exec_writeAcknowledgement_of_acked {a : Ack} (sent : tget none s.acks (s.arg 0) = some a) (next : s.isNext (s.arg 0) = true)
    (acked : ∀ i ∈ a.invs, tget none s.invs i = none) (right : ∀ o, s.op a.op = some o → o.bad = none) :
    exec .writeAcknowledgement s = .next
      ((({ s with acks := tset none s.acks (s.arg 0) none } : State).unmail (s.arg 0)).partDone a.op a.res a.lanes a.scope) := by
  have all : a.invs.all (fun i => (tget none s.invs i).isNone) = true := by
    simpa using acked
  refine next_congr ?_
  simp only [sent, next, all, Bool.and_self, if_true]
  cases op : s.op a.op with
  | none => rfl
  | some o => simp only [right o op]

-- results (11 R186, R188; 10 R182, R184) ----------------------------------------------------------------------------------------------------

theorem landOp_of_right {u : State} {id : Nat} {o : Op} (core : o.pump = none) (right : o.bad = none)
    (live : (u.team o.tid).terminated = false) (lands : u.canLand o = true) : u.landOp id o = (u.land o).endOp id := by
  simp only [State.landOp, core, right, live, lands, Bool.not_false, Bool.and_self, if_true]

theorem landOp_of_bad {u : State} {id : Nat} {o : Op} {e : Nat × Nat × Nat} (core : o.pump = none) (bad : o.bad = some e)
    (live : (u.team o.tid).terminated = false) :
    u.landOp id o = (u.endOp id).machineCheck o.tid o.coh o.pc o.lanes (if o.kind = 2 then 2 else 0) e := by
  simp only [State.landOp, core, bad, live, Bool.false_eq_true, if_false]

/-- A result whose parts are in lands, where no lane of a `cas` is left (11 R196). -/
theorem exec_loadReturn_of_due {u : State} {o : Op} (taken : u = s.takeParts (s.arg 0)) (op : u.op (s.arg 0) = some o)
    (arrived : ∀ e ∈ u.inbox, e.2.2 ≠ s.arg 0) (due : o.due ≤ u.clk) (all : o.left = 0)
    (kind : o.kind = 0 ∨ o.kind = 2 ∨ (o.kind = 3 ∧ o.dest ≠ .none)) (last : o.rest = []) :
    exec .loadReturn s = .next (u.landOp (s.arg 0) o) := by
  subst taken
  have none_ : (s.takeParts (s.arg 0)).inbox.any (fun e => e.2.2 = s.arg 0) = false := by
    simpa using arrived
  have lands : (decide ((s.takeParts (s.arg 0)).clk < o.due) || o.left != 0 || decide (o.kind = 1) || decide (o.kind = 4) || decide (o.kind = 5) ||
      (decide (o.kind = 3) && decide (o.dest = .none))) = false := by
    rcases kind with kind | kind | ⟨kind, dest⟩
    · simp [kind, all, due]
    · simp [kind, all, due]
    · simp [kind, all, due, dest]
  refine next_congr ?_
  simp only [op, none_, last, List.isEmpty_nil, if_true]
  exact if_neg (by simpa using lands)

end Packets

-- walks, records and copy pieces (09 R162; 11 R200, R202; 18 R266, R267) --------------------------------------------------------------------

section Walks
variable {s : State}

theorem exec_walkCompletion_of_leaf {w : Walk} {l : Tlb} (walk : tget none s.walks (s.arg 0) = some w)
    (flies : (s.inFlight w.die).any (fun e => e.1 = s.arg 0) = true)
    (leaf : s.walk w.vf (w.page * 65536) (0x116 + w.die) = .leaf l) :
    exec .walkCompletion s =
      let served := (tsome s.walks).filter (fun e => e.2.die = w.die && e.2.vf = w.vf && e.2.page * 65536 / 2 ^ l.lg = l.va)
      let t : State := { s with walks := served.foldl (fun ws e => tset none ws e.1 none) s.walks }
      .next ((dedup ((served.map (·.2.cores)).flatten)).foldl
        (fun s c => (s.modCore c (fun k => k.keepLeaf l)).share l.line (128 + c)) (t.fill l.line 0)) := by
  refine next_congr ?_
  simp only [walk, flies, leaf, Bool.not_true, Bool.false_eq_true, if_false]

theorem exec_faultRecordDeferred_of_waiting {r : FRec} (waits : s.frecs.find? (fun r => r.vf = s.arg 0 && s.canRecord r) = some r) :
    exec .faultRecordDeferred s = .next (({ s with frecs := s.frecs.erase r } : State).record r) := by
  refine next_congr ?_
  simp only [waits]

variable {c : CopyCmd} {cs : List CopyCmd}

theorem exec_copyPieceDelivery_of_translated (head : ((s.core (s.arg 0)).chan (s.arg 1)).queue = c :: cs) (goes : c.wait = none)
    (ready : c.ok = true ∨ c.out ≠ 0) : exec .copyPieceDelivery s = .next (s.copyPiece (s.arg 0) c) := by
  have ready' : (c.ok || c.out != 0) = true := by simpa using ready
  refine next_congr ?_
  simp only [head, goes, ready', Option.isSome_none, Bool.false_eq_true, if_false, if_true]

theorem exec_copyPieceDelivery_of_bad {p : BitVec 64} {need e : Nat} {ps : List Nat} {rs : List Refused}
    (head : ((s.core (s.arg 0)).chan (s.arg 1)).queue = c :: cs) (goes : c.wait = none) (new : c.ok = false) (silent : c.out = 0)
    (side : c.global = some (p, need)) (bad : s.copyPages c.vf (s.arg 0) need (offOf p) c.len = .bad e ps rs) :
    exec .copyPieceDelivery s = .next (s.copyFault (s.arg 0) c e ps rs) := by
  refine next_congr ?_
  simp only [head, goes, new, silent, side, bad, Option.isSome_none, bne_self_eq_false, Bool.or_self, Bool.false_eq_true, if_false]

-- bank modes (11 R205) ----------------------------------------------------------------------------------------------------------------------

/-- What a drained bank does: with a dirty line under a mode that leaves the cache it drains the L1; else it takes its mode when that is over. -/
theorem exec_bankmodeDrainComplete_of_drained {d : Drain} (drain : (s.core (s.arg 0)).drains.find? (fun d => d.bank = s.arg 1) = some d)
    (drained : s.drained (s.arg 0) d = true) :
    exec .bankmodeDrainComplete s =
      let x := s.arg 0
      let old := tget 0 (s.core x).modes (s.arg 1)
      .next (
        if old = 0 && d.mode != 0 && (s.core x).l1.any (fun e => e.2.dirty) then s.drainL1 x d.op
        else if (s.op d.op).any (fun o => o.left != 0) then s
        else
          let t := if old = 0 && d.mode != 0 then (((s.core x).l1).map (·.1)).foldl (fun s l => s.l1Drop 0 x l) s else s
          let u := if old = 1 && d.mode != 1 then t.scramble x (s.arg 1) else t
          (u.modCore x (fun c => { c with
            drains := c.drains.filter (fun e => e.op != d.op), modes := tset 0 c.modes (s.arg 1) d.mode })).endOp d.op) := by
  refine next_congr ?_
  simp only [drain, drained, Bool.not_true, Bool.false_eq_true, if_false]

/-- The L1 is left with a dirty line. -/
theorem leavesDirty_iff {old new : Nat} {c : Core} :
    (old = 0 && new != 0 && c.l1.any (fun e => e.2.dirty)) = true ↔ (old = 0 ∧ new ≠ 0) ∧ ∃ e ∈ c.l1, e.2.dirty = true := by
  simp only [Bool.and_eq_true, decide_eq_true_iff, bne_iff_ne, List.any_eq_true]

end Walks

end Sys2Proof.Machine

namespace Sys2Proof.Claims
open Sys2Proof.Machine

theorem copiesAndResultsSettle : CopiesAndResultsSettle := by
  intro s x y
  dsimp only
  refine ⟨fun i sent next free => exec_invalidation_of_free (s := asked s [x, y]) sent next free,
    fun a sent next acked right => exec_writeAcknowledgement_of_acked (s := asked s [x, y]) sent next acked right,
    fun victim => next_congr (if_pos victim), fun o op arrived due all kind core last live => ?_⟩
  have step := exec_loadReturn_of_due (s := asked s [x, y]) rfl op arrived due all kind last
  exact ⟨fun right lands => step.trans (next_congr (landOp_of_right core right live lands)),
    fun e bad => step.trans (next_congr (landOp_of_bad core bad live))⟩

theorem walksRecordsAndPiecesArrive : WalksRecordsAndPiecesArrive := by
  intro s x y
  dsimp only
  refine ⟨fun w l walk flies leaf => exec_walkCompletion_of_leaf (s := asked s [x, y]) walk flies leaf,
    fun r waits => exec_faultRecordDeferred_of_waiting (s := asked s [x, y]) waits,
    fun c cs head goes ready => exec_copyPieceDelivery_of_translated (s := asked s [x, y]) head goes ready,
    fun c cs p need e ps rs head goes new silent side bad =>
      exec_copyPieceDelivery_of_bad (s := asked s [x, y]) head goes new silent side bad, fun d drain drained => ?_⟩
  have step := exec_bankmodeDrainComplete_of_drained (s := asked s [x, y]) drain drained
  refine ⟨fun dirty => step.trans (next_congr (if_pos (leavesDirty_iff.mpr dirty))),
    fun clean idle => step.trans (next_congr ((if_neg (mt leavesDirty_iff.mp clean)).trans (if_neg ?_)))⟩
  simpa [Option.any_eq_true] using idle

end Sys2Proof.Claims

open Sys2Proof Sys2Proof.Machine Sys2Proof.Claims

/-- Settles O35: each event by its branch of the model's definition. -/
theorem copiesResultsAndWalksSettle : Obligations.CopiesResultsAndWalksSettle := ⟨copiesAndResultsSettle, walksRecordsAndPiecesArrive⟩
end
